-- ==== Sys2Proof/Word.lean ====
section
/-! DEFINITION. The word types of the Umjor 7: scalars of 64 bits, vector lanes of 32 bits,
vectors of 1,024 bits, accumulators of FP32 words (R29), 32-bit instruction words (R16), and the
sparse table that every sparsely used collection of the state is held in. -/

namespace Sys2Proof

/-- One byte. -/
abbrev Byte := BitVec 8

/-- A scalar value, a g register, a system register (R29, R34). -/
abbrev Word := BitVec 64

/-- An instruction word, a vector lane, an FP32 pattern (R16, R29). -/
abbrev Word32 := BitVec 32

/-- A v register or a token payload: lanes 0..31 of 32 bits, lane 0 in bits [31:0] (R29, R224). -/
abbrev Vec := BitVec 1024

/-- A collection keyed by number: pairs of a key and a value, keys rising. -/
abbrev Tbl (α : Type) := List (Nat × α)

end Sys2Proof
end

