-- ==== Sys2Proof/Syntax.lean ====
section
/-! DEFINITION. Instructions and steps as data: the codes of R18 and R36 to R39, the fields of
the formats of R16, and Instr, one constructor per row of spec/opcode_table.json. The first rows
are instructions that words encode; the last 122 are steps of the device that no word encodes
(95_what_each_step_holds), whose arguments say where the step happens and what arrives with it. -/

namespace Sys2Proof

/-- The pred field of R18: 0b00, 0b11 and 0b10. The code 0b01 is illegal and has no name. -/
inductive Pred where
  | always | onTrue | onFalse
  deriving DecidableEq, Repr

/-- A target field T[6:0]: the input code in [6:5], the consumer's slot in [4:0] (R17). -/
abbrev Tgt := BitVec 7

/-- The type codes of R36. -/
inductive Ty where
  | n8 | n16 | n32 | n64 | s8 | s16 | s32 | s64
  | f32 | bf16 | f16 | e4m3 | e5m2 | e2m1 | e8m0
  deriving DecidableEq, Repr

/-- The scope codes of R37. -/
inductive Scope where
  | node | region | die | dev | dom | sys
  deriving DecidableEq, Repr

/-- The condition codes of R38. -/
inductive Cond where
  | eq | ne | lt | le | gt | ge | uo | or
  deriving DecidableEq, Repr

/-- The rounding modes of R39. -/
inductive Rnd where
  | rne | rz | ru | rd | sr
  deriving DecidableEq, Repr

/-- The floating-point modifier of R39: rounding mode and overflow bit. -/
structure FMod where
  rnd : Rnd
  sat : Bool
  deriving DecidableEq, Repr

/-- The operations of FSGN (R42). -/
inductive SgnOp where
  | cps | neg | xsg | abs
  deriving DecidableEq, Repr

/-- The operators of VRED and VSCAN (R42). -/
inductive RedOp where
  | add | min | max
  deriving DecidableEq, Repr

/-- The operations of VIOP (R42). -/
inductive VOp where
  | add | sub | mul | and | or | xor | andn | shl | shr | sar | min | max | popc | clz | mulh
  deriving DecidableEq, Repr

/-- The cache policies of R44. -/
inductive Policy where
  | normal | evictFirst | bypass | streaming
  deriving DecidableEq, Repr

/-- The order field of R44. -/
structure Order where
  acq : Bool
  rel : Bool
  deriving DecidableEq, Repr

/-- The operations of ATOM (07_ref_memory_access); ATOMO has add, min, max and or. -/
inductive AtomOp where
  | add | min | max | and | or | xor | exch | cas
  deriving DecidableEq, Repr

/-- The kinds of CINV (R194). -/
inductive InvKind where
  | data | code | const
  deriving DecidableEq, Repr

/-- The M word of R16 less its opcode and predicate: LSID and signed scaled offset. -/
structure MOff where
  lsid : BitVec 5
  off : BitVec 10
  deriving DecidableEq, Repr

/-- The attribute word of R44 less its spec field. -/
structure Attr where
  ty : Ty
  pol : Policy
  scope : Scope
  ord : Order
  deriving DecidableEq, Repr

/-- The lane-mask fields m and mask register of the vector memory forms (R181). -/
structure LaneMask where
  m : Bool
  p : BitVec 3
  deriving DecidableEq, Repr

/-- A master: context ID and engine class (R69). -/
structure Master where
  ctx : BitVec 12
  cls : BitVec 3
  deriving DecidableEq, Repr

/-- A register that a long-latency value fills (R31). -/
inductive DstReg where
  | g (n : BitVec 6)
  | v (n : BitVec 5)
  deriving DecidableEq, Repr

/-- Who waits for an answer: nobody, a register of a node's tile, or the held commit of a node. -/
inductive Reply where
  | none
  | reg (tile : Nat) (r : DstReg)
  | commit (tile : Nat)
  deriving DecidableEq, Repr

/-- Names of the value that a leader forwards (R380, R429): block count, slot, part. -/
structure FwdKey where
  block : Nat
  slot : Nat
  part : Nat
  deriving DecidableEq, Repr

/-- An atomic on its way to its home (R114, R186, R188). `pa` is a domain physical address. -/
structure AtomReq where
  m : Master
  tile : Nat
  va : Nat
  pa : Nat
  ty : Ty
  op : AtomOp
  right : Word
  third : Word
  ret : Option (BitVec 6 × FwdKey)
  held : Bool
  deriving DecidableEq, Repr

/-- An ordered atomic on its way to its home (R116, R188); `accepted` is one whose rights have been checked on arrival (R74, R177),
and `remote` one that a peer has sent: its `req.tile` then stands for the
die at which it enters (R63). -/
structure OrdReq where
  req : AtomReq
  stream : BitVec 16
  seqNo : Word32
  backoff : Nat
  remote : Bool
  accepted : Bool
  deriving DecidableEq, Repr

/-- A counter add on its way to its home (R157), with the release it stands for, if any. -/
structure CtrReq where
  m : Master
  tile : Nat
  va : Nat
  pa : Nat
  amount : Word
  held : Bool
  deriving DecidableEq, Repr

/-- What a request from outside the module asks of a local address: a read or a write of bytes,
an atomic, an ordered atomic or a counter add (R55, R59, R63, R116). -/
inductive ExtOp where
  | read (size : Nat)
  | write (bytes : List Byte)
  | atomic (ty : Ty) (op : AtomOp) (right third : Word)
  | ordered (ty : Ty) (op : AtomOp) (right third : Word) (stream : BitVec 16) (seqNo : Word32)
  | counterAdd (amount : Word)
  deriving DecidableEq, Repr

/-- A delta for the Scruple network (R312). -/
inductive Delta where
  | assert (img : Vec)
  | retract (id : Word32)
  | modify (img : Vec)
  deriving DecidableEq, Repr

/-- Where an error strikes, or what it strikes (R80, R125, R391): an element, a line of memory, an engine queue; a clean copy of a
line in an L1, an instruction cache or an RDC; an error of a die that its code has corrected, with the count of such errors. -/
inductive ErrSite where
  | cleanL1 (tile line : Nat)
  | cleanCode (tile line : Nat)
  | cleanRdc (die line : Nat)
  | corrected (die count : Nat)
  | tile (t : Nat)
  | memory (key : Nat)
  | engine (die eng queue : Nat)
  deriving DecidableEq, Repr

/-- The sources of the security alarm (R401): a debug unlock that fails, and one that succeeds, which ends a row of failures. -/
inductive AlarmSrc where
  | tamper | glitch | privRefusal | debugUnlock | debugUnlocked
  deriving DecidableEq, Repr

/-- What a page walk is for (R92): the kinds of access. -/
inductive AccKind where
  | read | write | fetch
  deriving DecidableEq, Repr

/-- Who waits on a translation (R91). -/
inductive Requester where
  | node (tile : Nat)
  | mt (tile : Nat)
  | engine (die eng queue : Nat)
  | launch (die queue : Nat)
  | network (die : Nat)
  | matrix (tile : Nat)
  | taskRing (die : Nat)
  | nobody
  deriving DecidableEq, Repr

/-- The instructions and steps of spec/opcode_table.json, one constructor per row. -/
inductive Instr where
  -- values and exits (R403, R409)
  | null (p : Pred) (t u : Tgt)
  | mov (p : Pred) (t u : Tgt)
  | movi (p : Pred) (t : Tgt) (imm : BitVec 15)
  | movi32 (p : Pred) (t u : Tgt) (zx : Bool) (imm : Word32)
  | moviHi (p : Pred) (t u : Tgt) (imm : Word32)
  | exit (p : Pred)
  | br (p : Pred) (disp : BitVec 22)
  | bri (p : Pred)
  | call (p : Pred) (disp : BitVec 22)
  | calli (p : Pred)
  | ret (p : Pred)
  | halt (p : Pred)
  -- registers (R410)
  | rd (p : Pred) (t u : Tgt) (n : BitVec 6)
  | rdT (p : Pred) (t u : Tgt) (n : BitVec 6)
  | rdv (p : Pred) (t u : Tgt) (n : BitVec 5)
  | rdvT (p : Pred) (t u : Tgt) (n : BitVec 5)
  | rdp (p : Pred) (t u : Tgt) (n : BitVec 3)
  | rdpT (p : Pred) (t u : Tgt) (n : BitVec 3)
  | wr (p : Pred) (n : BitVec 6)
  | wrv (p : Pred) (n : BitVec 5)
  | wrp (p : Pred) (n : BitVec 3)
  -- ports (R411)
  | recv (p : Pred) (t u : Tgt) (port : BitVec 2)
  | send (p : Pred) (port : BitVec 2)
  | sendt (p : Pred) (port : BitVec 2)
  | tagof (p : Pred) (t u : Tgt) (port : BitVec 2)
  | settag (p : Pred) (port : BitVec 2)
  | edgeset (p : Pred) (port : BitVec 2)
  -- integer and address (R272)
  | add (p : Pred) (t u : Tgt) (ty : Ty) (sat : Bool)
  | addX (p : Pred) (t u : Tgt) (ty : Ty) (sat : Bool) (imm : Word32)
  | addI (p : Pred) (t : Tgt) (imm : BitVec 15)
  | sub (p : Pred) (t u : Tgt) (ty : Ty) (sat : Bool)
  | subX (p : Pred) (t u : Tgt) (ty : Ty) (sat : Bool) (imm : Word32)
  | mul (p : Pred) (t u : Tgt) (ty : Ty) (sat : Bool)
  | mulX (p : Pred) (t u : Tgt) (ty : Ty) (sat : Bool) (imm : Word32)
  | mulI (p : Pred) (t : Tgt) (imm : BitVec 15)
  | mulh (p : Pred) (t u : Tgt) (ty : Ty)
  | mulhX (p : Pred) (t u : Tgt) (ty : Ty) (imm : Word32)
  | div (p : Pred) (t u : Tgt) (ty : Ty)
  | divX (p : Pred) (t u : Tgt) (ty : Ty) (imm : Word32)
  | rem (p : Pred) (t u : Tgt) (ty : Ty)
  | remX (p : Pred) (t u : Tgt) (ty : Ty) (imm : Word32)
  | and (p : Pred) (t u : Tgt) (ty : Ty)
  | andX (p : Pred) (t u : Tgt) (ty : Ty) (imm : Word32)
  | andI (p : Pred) (t : Tgt) (imm : BitVec 15)
  | or (p : Pred) (t u : Tgt) (ty : Ty)
  | orX (p : Pred) (t u : Tgt) (ty : Ty) (imm : Word32)
  | orI (p : Pred) (t : Tgt) (imm : BitVec 15)
  | xor (p : Pred) (t u : Tgt) (ty : Ty)
  | xorX (p : Pred) (t u : Tgt) (ty : Ty) (imm : Word32)
  | xorI (p : Pred) (t : Tgt) (imm : BitVec 15)
  | andn (p : Pred) (t u : Tgt) (ty : Ty)
  | andnX (p : Pred) (t u : Tgt) (ty : Ty) (imm : Word32)
  | shl (p : Pred) (t u : Tgt) (ty : Ty)
  | shlX (p : Pred) (t u : Tgt) (ty : Ty) (imm : Word32)
  | shlI (p : Pred) (t : Tgt) (imm : BitVec 15)
  | shr (p : Pred) (t u : Tgt) (ty : Ty)
  | shrX (p : Pred) (t u : Tgt) (ty : Ty) (imm : Word32)
  | shrI (p : Pred) (t : Tgt) (imm : BitVec 15)
  | sar (p : Pred) (t u : Tgt) (ty : Ty)
  | sarX (p : Pred) (t u : Tgt) (ty : Ty) (imm : Word32)
  | sarI (p : Pred) (t : Tgt) (imm : BitVec 15)
  | rot (p : Pred) (t u : Tgt) (ty : Ty)
  | rotX (p : Pred) (t u : Tgt) (ty : Ty) (imm : Word32)
  | clz (p : Pred) (t u : Tgt) (ty : Ty)
  | popc (p : Pred) (t u : Tgt) (ty : Ty)
  | min (p : Pred) (t u : Tgt) (ty : Ty)
  | minX (p : Pred) (t u : Tgt) (ty : Ty) (imm : Word32)
  | max (p : Pred) (t u : Tgt) (ty : Ty)
  | maxX (p : Pred) (t u : Tgt) (ty : Ty) (imm : Word32)
  | cmp (p : Pred) (t u : Tgt) (ty : Ty) (c : Cond)
  | cmpX (p : Pred) (t u : Tgt) (ty : Ty) (c : Cond) (imm : Word32)
  | sel (t u : Tgt) (ty : Ty)
  | selX (t u : Tgt) (ty : Ty) (imm : Word32)
  | ext (p : Pred) (t u : Tgt) (ty : Ty)
  | bfx (p : Pred) (t u : Tgt) (ty : Ty)
  | bfxX (p : Pred) (t u : Tgt) (ty : Ty) (imm : Word32)
  | bfi (t u : Tgt) (ty : Ty)
  | bfiX (t u : Tgt) (ty : Ty) (imm : Word32)
  | lea (p : Pred) (t u : Tgt) (ty : Ty) (sc : BitVec 4)
  | leaX (p : Pred) (t u : Tgt) (ty : Ty) (sc : BitVec 4) (imm : Word32)
  -- scalar floating point (R282)
  | fadd (p : Pred) (t u : Tgt) (ty : Ty) (md : FMod)
  | fsub (p : Pred) (t u : Tgt) (ty : Ty) (md : FMod)
  | fmul (p : Pred) (t u : Tgt) (ty : Ty) (md : FMod)
  | fma (t u : Tgt) (ty : Ty) (md : FMod)
  | fdiv (p : Pred) (t u : Tgt) (ty : Ty) (md : FMod)
  | fsqrt (p : Pred) (t u : Tgt) (ty : Ty) (md : FMod)
  | fmin (p : Pred) (t u : Tgt) (ty : Ty)
  | fmax (p : Pred) (t u : Tgt) (ty : Ty)
  | fcmp (p : Pred) (t u : Tgt) (ty : Ty) (c : Cond)
  | fcvt (p : Pred) (t u : Tgt) (dty sty : Ty) (md : FMod)
  | fclass (p : Pred) (t u : Tgt) (ty : Ty)
  | fsgn (p : Pred) (t u : Tgt) (ty : Ty) (op : SgnOp)
  | exp2 (p : Pred) (t u : Tgt) (ty : Ty) (md : FMod)
  | log2 (p : Pred) (t u : Tgt) (ty : Ty) (md : FMod)
  -- vector (R290)
  | vadd (p : Pred) (t u : Tgt) (ty : Ty) (md : FMod)
  | vsub (p : Pred) (t u : Tgt) (ty : Ty) (md : FMod)
  | vmul (p : Pred) (t u : Tgt) (ty : Ty) (md : FMod)
  | vfma (t u : Tgt) (ty : Ty) (md : FMod)
  | vmin (p : Pred) (t u : Tgt) (ty : Ty)
  | vmax (p : Pred) (t u : Tgt) (ty : Ty)
  | vcmp (p : Pred) (t u : Tgt) (ty : Ty) (c : Cond)
  | vsel (t u : Tgt) (ty : Ty)
  | vcvt (p : Pred) (t u : Tgt) (dty sty : Ty) (md : FMod)
  | vexp2 (p : Pred) (t u : Tgt) (ty : Ty) (md : FMod)
  | vlog2 (p : Pred) (t u : Tgt) (ty : Ty) (md : FMod)
  | vrcp (p : Pred) (t u : Tgt) (ty : Ty) (md : FMod)
  | vrsq (p : Pred) (t u : Tgt) (ty : Ty) (md : FMod)
  | vred (p : Pred) (t u : Tgt) (ty : Ty) (op : RedOp)
  | vscan (p : Pred) (t u : Tgt) (ty : Ty) (op : RedOp)
  | vshuf (p : Pred) (t u : Tgt)
  | vbcast (p : Pred) (t u : Tgt) (ty : Ty)
  | vscale (p : Pred) (t u : Tgt) (ty : Ty)
  | vlut (p : Pred) (t u : Tgt) (ty : Ty)
  | viop (p : Pred) (t u : Tgt) (ty : Ty) (op : VOp)
  -- matrix (R300)
  | mcfg (p : Pred)
  | mzero (p : Pred) (acc : BitVec 2)
  | mma (p : Pred) (acc : BitVec 2)
  | mlda (p : Pred) (acc : BitVec 2)
  | mdrain (p : Pred) (acc : BitVec 2) (oty : Ty) (toReg : Bool)
  | msteer (p : Pred)
  | mfence (p : Pred)
  -- memory class (R44, R174)
  | ld (p : Pred) (t : Tgt) (w : MOff) (a : Attr)
  | ldv (p : Pred) (t : Tgt) (w : MOff) (a : Attr) (k : LaneMask)
  | ldk (p : Pred) (t : Tgt) (w : MOff) (a : Attr) (vec : Bool) (k : LaneMask)
  | st (p : Pred) (w : MOff) (a : Attr)
  | stv (p : Pred) (w : MOff) (a : Attr) (k : LaneMask)
  | ldvg (p : Pred) (t : Tgt) (w : MOff) (a : Attr) (k : LaneMask) (sc : BitVec 2)
  | stvs (p : Pred) (w : MOff) (a : Attr) (k : LaneMask) (stride : BitVec 16)
  | lda (p : Pred) (w : MOff) (a : Attr) (toV : Bool) (n : BitVec 6)
  | ldb (p : Pred) (t : Tgt) (w : MOff) (a : Attr) (k : BitVec 6)
  | ldn (p : Pred) (t : Tgt) (w : MOff) (a : Attr) (k : BitVec 6)
  | atom (w : MOff) (a : Attr) (op : AtomOp) (re : Bool) (n : BitVec 6)
  | atomo (p : Pred) (w : MOff) (a : Attr) (op : AtomOp) (sel : BitVec 3) (stream : BitVec 16)
  | fence (p : Pred) (scope : Scope) (acq rel k e : Bool)
  | pref (p : Pred) (w : MOff) (a : Attr) (level : Bool)
  | tlbpf (p : Pred) (w : MOff) (a : Attr) (level : Bool)
  | ipf (p : Pred) (w : MOff) (a : Attr) (level : Bool)
  | ipin (p : Pred) (w : MOff) (a : Attr) (level : Bool)
  | iunpin (p : Pred) (w : MOff) (a : Attr) (level : Bool)
  | retain (p : Pred) (w : MOff) (a : Attr) (k : BitVec 3) (ways : BitVec 4)
  | unretain (p : Pred) (w : MOff) (a : Attr) (k : BitVec 3)
  | cwb (p : Pred) (w : MOff) (a : Attr) (deep : Bool)
  | cinv (p : Pred) (w : MOff) (a : Attr) (kind : InvKind)
  -- engine commands (R196)
  | cpy (p : Pred) (e : BitVec 4)
  | cpym (p : Pred) (e : BitVec 4)
  | carm (p : Pred) (e : BitVec 4)
  | cdisarm (p : Pred) (e : BitVec 4)
  | cfire (p : Pred) (e : BitVec 4)
  | gath (p : Pred) (e : BitVec 4)
  | scat (p : Pred) (e : BitVec 4)
  | collAr (p : Pred) (e : BitVec 4) (fp32 : Bool)
  | collRs (p : Pred) (e : BitVec 4) (fp32 : Bool)
  | collAg (p : Pred) (e : BitVec 4) (fp32 : Bool)
  -- counters, rings, rounds, barrier (R211)
  | cadd (p : Pred) (scope : Scope) (acq rel : Bool)
  | cwait (p : Pred) (scope : Scope) (acq : Bool)
  | cread (p : Pred) (scope : Scope) (acq : Bool) (n : BitVec 6)
  | cpoll (p : Pred) (t u : Tgt) (scope : Scope) (acq : Bool)
  | rngaw (p : Pred) (t u : Tgt) (scope : Scope)
  | rngrel (p : Pred) (scope : Scope)
  | radv (p : Pred) (scope : Scope)
  | rrecl (p : Pred) (scope : Scope)
  | rsetc (p : Pred)
  | barr (p : Pred) (scope : Scope)
  -- Scruple (R328)
  | wmasr (p : Pred)
  | wmret (p : Pred)
  | wmmod (p : Pred)
  | wmrd (p : Pred) (t u : Tgt)
  | cswave (p : Pred)
  | fdone (p : Pred)
  | scset (p : Pred)
  | scget (p : Pred) (t u : Tgt)
  | netld (p : Pred)
  | csrd (p : Pred) (t u : Tgt)
  -- traps, system registers, time (R415, R420, R421)
  | trap (p : Pred) (code : BitVec 15)
  | sysc (p : Pred) (code : BitVec 15)
  | bkpt (p : Pred) (code : BitVec 15)
  | mfs (p : Pred) (t : Tgt) (r : BitVec 12)
  | mts (p : Pred) (r : BitVec 12)
  | mark (p : Pred)
  | sigchk (p : Pred)
  | rndr (p : Pred) (t u : Tgt)
  | cycw (p : Pred)
  | cfgsw (p : Pred)
  -- steps of a node (R20, R24, R31)
  | blockFetch (t : Nat)
  | slotFire (t n : Nat)
  | blockCommit (t : Nat)
  | commitStepResume (t : Nat)
  | registerValueArrive (t : Nat) (r : DstReg) (x : Vec)
  -- steps of homes (R106, R110, R114, R116, R157, R212)
  | atomicAtHome (r : AtomReq)
  | counterAddAtHome (r : CtrReq)
  | orderedAtomicArrival (r : OrdReq)
  | atomoRetryResend (r : OrdReq)
  | counterWatchRepoll (t : Nat)
  | hostCounterPoll (key : Nat)
  -- translation and errors (R85, R93, R391)
  | faultRecordDeferred (die ring : Nat)
  -- memory tiles (R131, R132, R133, R135)
  | mtPortRequest (t port : Nat)
  | mtStartToken (t : Nat)
  | sequencerElement (t : Nat)
  | mtRandomRequest (t port : Nat)
  | mtOrderedUpdate (t port : Nat)
  -- engines (R137..R149)
  | engineChunk (die eng : Nat)
  | engineCompletionAdd (die eng queue : Nat)
  | cpymDeliver (die eng queue : Nat)
  | carmArm (die eng queue : Nat)
  | templateTrigger (die eng queue : Nat)
  | coalesceIndex (die eng queue : Nat)
  | collectiveExecute (die eng : Nat)
  -- fabric (R226..R236, R346)
  | tokenArrive (edge : Nat)
  | loopBoundEntry (b : Nat)
  | loopBoundExit (b : Nat)
  | tokenBarrierFire (t : Nat)
  | steerTokenPop (t port : Nat)
  | px8FrameDecode (t port : Nat)
  | counterAddPortToken (t port : Nat)
  | operandTokenEnter (t port : Nat)
  -- matrix array (R261..R267)
  | matrixWordStart (t : Nat)
  | mmaOccupancyEnd (t : Nat)
  | mmaComplete (t : Nat)
  | drainTokenSend (t : Nat)
  | fetchLineArrive (t : Nat)
  -- Scruple network (R312, R332..R335)
  | networkDeltaArrival (die : Nat)
  | networkScsetArrival (die : Nat)
  | networkCswaveArrival (die : Nat)
  | networkFdoneArrival (die : Nat)
  | netldLoad (die : Nat)
  -- launch (R357..R367)
  | queueSlotRotate (die : Nat)
  | packetChoose (die : Nat)
  | gangReserve (launch die : Nat)
  | gangAckDeadline (launch : Nat)
  | gangGo (launch die : Nat)
  | gangStartTick (launch die : Nat)
  | taskPacketEmit (launch : Nat)
  | taskDispatch (die : Nat)
  | waitPacketSatisfied (die queue : Nat)
  | packetComplete (launch : Nat)
  | elementSwitch (t : Nat)
  -- redundancy (R379, R429)
  | assizeCompare (die group : Nat)
  | assizeReportTimeout (die group : Nat)
  | replicaResync (t : Nat)
  | forwardedValueArrive (t : Nat) (key : FwdKey) (x : Vec)
  -- cuts, freezing, silence, failures (R385..R402)
  | elementSave (t : Nat)
  | regionClockGate (h : Nat)
  | regionSilence (h : Nat)
  | deadlockTrap (h : Nat)
  -- translation (R90)
  | pageWalk (die : Nat) (ctx : BitVec 12) (page : Nat) (kind : AccKind) (cls : BitVec 3) (r : Requester)
  -- steps that units take as part of other steps, and inputs from outside, down to the register writes
  | homeReadRequest (m : Master) (t line first count : Nat)
  | ownershipRequest (t line first count : Nat)
  | evictionWriteback (t line : Nat)
  | rdcFill (m : Master) (die line : Nat) (round : Option (Nat × Nat))
  | counterWatchNotify (key : Nat)
  | snpData (line : Nat)
  | snpCur (line : Nat)
  | snpInv (line : Nat)
  | hostBarRequest (link bar off : Nat) (pasid : Option (BitVec 12)) (op : ExtOp)
  | hostCxlMemRequest (link off : Nat) (pasid : Option (BitVec 12)) (op : ExtOp)
  | peerFlitReceive (port seq : Nat) (crcOk : Bool) (m : Master) (pa : Nat) (op : ExtOp)
  | peerRequestTimeout (r : Requester) (pa : Nat) (wasAtomic : Bool)
  | t2PortFailure (port : Nat)
  | chainSyncExchange (source : Word)
  | chainSyncLoss
  | tlbInvComplete (die : Nat)
  | uncorrectableError (site : ErrSite)
  | lqDoorbell (die queue : Nat)
  | gangRelease (launch die : Nat)
  | gangAbort (launch die : Nat)
  | droopStretch (die patch eighths : Nat)
  | powerCeilingAdjust (watts celsius : Nat)
  | thermalTrip
  | dieFailure (die : Nat)
  | securityAlarm (src : AlarmSrc)
  | reset
  | modReset
  | accPurge (die target : Nat)
  | accInval (die target : Nat)
  | atabPurge (die : Nat)
  | atabInval (die : Nat)
  | accBaseWrite (die target : Nat) (x : Word)
  | atabBaseWrite (die : Nat) (x : Word)
  | hbmMapWrite (x : Word)
  | trRootWrite (ctx : BitVec 12) (x : Word)
  | tlbInvAll (die : Nat) (x : Word)
  | tlbInvPage (die : Nat) (x : Word)
  | tfqResume (die : Nat) (x : Word)
  | tfqFail (die : Nat) (x : Word)
  | fltResume (die : Nat) (x : Word)
  | fltRollback (die : Nat) (x : Word)
  | fltAbort (die : Nat) (x : Word)
  | spillGrant (die : Nat) (x : Word)
  | spillRefuse (die : Nat) (x : Word)
  | preSave (die : Nat) (x : Word)
  | preRestore (die : Nat) (x : Word)
  | evThaw (die : Nat)
  | secAlarmSrcClear (x : Word)
  | secAlarmActWrite (x : Word)
  | healthTripClear (x : Word)
  | pwrLimWrite (x : Word)
  | ringEnableWrite (die ring : Nat) (x : Word)
  | ctxSatClear (ctx : BitVec 12) (x : Word)
  | mmioRegisterWrite (m : Master) (off size : Nat) (x : Word)
  | mgmtMmioRead (off : Nat)
  | mgmtMmioWrite (off : Nat) (x : Word)
  | mctpControlMessage (cmd : Byte)
  | lqSlotWrite (die slot : Nat) (x : Word)
  | peerPortDown (port : Nat)
  | hostLinkDown (link : Nat)
  deriving DecidableEq, Repr

end Sys2Proof
end

