-- ==== Sys2Proof/WellFormed.lean ====
section
/-! DEFINITION. Which terms of Instr stand for something: the type, modifier, condition, scope and
order columns of R41 to R45, R174, R175, R196, R211, R272, R282, R286, R290, R293, R300, and the
system register numbers of R34 and R35; for steps, the ranges of the places they name. -/

namespace Sys2Proof

/-- Codes 0x0..0x7 of R36. -/
def Ty.isInt : Ty → Bool
  | .n8 | .n16 | .n32 | .n64 | .s8 | .s16 | .s32 | .s64 => true
  | .f32 | .bf16 | .f16 | .e4m3 | .e5m2 | .e2m1 | .e8m0 => false

/-- Signed integer types. -/
def Ty.isSigned : Ty → Bool
  | .s8 | .s16 | .s32 | .s64 => true
  | _ => false

/-- Width in bits of a value of the type (R238, R239). -/
def Ty.width : Ty → Nat
  | .n8 | .s8 | .e4m3 | .e5m2 | .e8m0 => 8
  | .n16 | .s16 | .bf16 | .f16 => 16
  | .n32 | .s32 | .f32 => 32
  | .n64 | .s64 => 64
  | .e2m1 => 4

/-- Bytes of one element in memory (R174); .e2m1 has none of its own. -/
def Ty.bytes : Ty → Nat
  | .n8 | .s8 | .e4m3 | .e5m2 | .e8m0 | .e2m1 => 1
  | .n16 | .s16 | .bf16 | .f16 => 2
  | .n32 | .s32 | .f32 => 4
  | .n64 | .s64 => 8

/-- .f32, .bf16 and .f16: the arithmetic formats of R282 and R290. -/
def Ty.isArith : Ty → Bool
  | .f32 | .bf16 | .f16 => true
  | _ => false

/-- 8-, 16- and 32-bit integer codes (R42, R290). -/
def Ty.isLaneInt (t : Ty) : Bool := t.isInt && t.width ≤ 32

/-- Types that LD and its kin accept (R174). -/
def Ty.loads (t : Ty) : Bool := t ≠ .e2m1

/-- Types that LDV and its kin accept (R174). -/
def Ty.loadsV (t : Ty) : Bool := t.width ≤ 32 && t ≠ .e2m1

/-- Every 8-, 16- and 32-bit code, .e2m1 counted as an 8-bit code (R290). -/
def Ty.lane (t : Ty) : Bool := t.width ≤ 32

/-- Pairs that FCVT accepts (R286). -/
def cvtPair (d s : Ty) (md : FMod) : Bool :=
  if d.isInt then !s.isInt && s ≠ .e8m0 && !md.sat else true

/-- System register numbers that a chapter assigns (R34, R118, R158, R166, R227, R234, R245, R246,
R341, R349, R354, R376, R416). -/
def sysAssigned (r : BitVec 12) : Bool :=
  let n := r.toNat
  n ≤ 0x004 || (0x100 ≤ n && n ≤ 0x101) || (0x200 ≤ n && n ≤ 0x203) || n = 0x210
    || (0x300 ≤ n && n ≤ 0x308) || (0x400 ≤ n && n ≤ 0x427) || (0x500 ≤ n && n ≤ 0x515)
    || (0x600 ≤ n && n ≤ 0x603) || (0x700 ≤ n && n ≤ 0x780) || (0x790 ≤ n && n ≤ 0x794)

/-- The privileged range of R34. -/
def sysPrivRange (r : BitVec 12) : Bool := 0xF00 ≤ r.toNat

/-- System registers that MTS writes (R34, R118, R416). -/
def sysWritable (r : BitVec 12) : Bool :=
  let n := r.toNat
  n = 0x300 || (0x304 ≤ n && n ≤ 0x308) || (0x400 ≤ n && n ≤ 0x417)

/-- Order none goes with scope .node; any order bit frees the scope (R175). -/
def Attr.scopeOk (a : Attr) : Bool :=
  (a.ord.acq || a.ord.rel) || a.scope = .node

/-- A load's attribute word: order none or .acq (R175). -/
def Attr.loadOk (a : Attr) : Bool := !a.ord.rel && a.scopeOk

/-- A store's attribute word: order none or .rel (R175). -/
def Attr.storeOk (a : Attr) : Bool := !a.ord.acq && a.scopeOk

/-- No policy, order or scope, type .n8: the hints and placement forms (R174, R175). -/
def Attr.hintOk (a : Attr) (anyPolicy : Bool) : Bool :=
  a.ty = .n8 && !a.ord.acq && !a.ord.rel && a.scope = .node && (anyPolicy || a.pol = .normal)

/-- ATOM's types and the operations .f32 accepts (R174, 07_ref_memory_access). -/
def atomOk (ty : Ty) (op : AtomOp) : Bool :=
  match ty with
  | .n32 | .s32 | .n64 | .s64 => true
  | .f32 => op ≠ .and && op ≠ .or && op ≠ .xor
  | _ => false

/-- ATOMO's types and operations (R174, R188). -/
def atomoOk (ty : Ty) (op : AtomOp) : Bool :=
  (ty = .n32 || ty = .s32 || ty = .f32)
    && (op = .add || op = .min || op = .max || (op = .or && ty ≠ .f32))

/-- MDRAIN's output types (R43). -/
def drainTy (t : Ty) : Bool :=
  t = .f32 || t = .bf16 || t = .f16 || t = .e4m3 || t = .e5m2

/-- Tiles, dies and ports that exist (R2, R226). -/
def okTile (t : Nat) : Bool := t < 4096
def okDie (d : Nat) : Bool := d < 4
def okPort (p : Nat) : Bool := p < 4
def okEngine (d e q : Nat) : Bool := d < 4 && e < 16 && q < 8
def okTarget (d t : Nat) : Bool := d < 4 && (t ≤ 38 || (64 ≤ t && t < 576))

/-- The terms of Instr that stand for an instruction or a step of this device. -/
def Instr.wf : Instr → Bool
  | .null .. | .mov .. | .movi .. | .movi32 .. | .moviHi .. | .exit .. | .br .. | .bri .. | .call ..
  | .calli .. | .ret .. | .halt .. => true
  | .rd .. | .rdT .. | .rdv .. | .rdvT .. | .rdp .. | .rdpT .. | .wr .. | .wrv .. | .wrp .. => true
  | .recv .. | .send .. | .sendt .. | .tagof .. | .settag .. | .edgeset .. => true
  | .add _ _ _ ty _ | .addX _ _ _ ty _ _ | .sub _ _ _ ty _ | .subX _ _ _ ty _ _
  | .mul _ _ _ ty _ | .mulX _ _ _ ty _ _ => ty.isInt
  | .addI .. | .mulI .. | .andI .. | .orI .. | .xorI .. | .shlI .. | .shrI .. | .sarI .. => true
  | .mulh _ _ _ ty | .mulhX _ _ _ ty _ | .div _ _ _ ty | .divX _ _ _ ty _
  | .rem _ _ _ ty | .remX _ _ _ ty _ | .and _ _ _ ty | .andX _ _ _ ty _
  | .or _ _ _ ty | .orX _ _ _ ty _ | .xor _ _ _ ty | .xorX _ _ _ ty _
  | .andn _ _ _ ty | .andnX _ _ _ ty _ | .shl _ _ _ ty | .shlX _ _ _ ty _
  | .shr _ _ _ ty | .shrX _ _ _ ty _ | .sar _ _ _ ty | .sarX _ _ _ ty _
  | .rot _ _ _ ty | .rotX _ _ _ ty _ | .clz _ _ _ ty | .popc _ _ _ ty
  | .min _ _ _ ty | .minX _ _ _ ty _ | .max _ _ _ ty | .maxX _ _ _ ty _
  | .sel _ _ ty | .selX _ _ ty _ | .ext _ _ _ ty => ty.isInt
  | .cmp _ _ _ ty c | .cmpX _ _ _ ty c _ => ty.isInt && c ≠ .uo && c ≠ .or
  | .bfx _ _ _ ty | .bfxX _ _ _ ty _ | .bfi _ _ ty | .bfiX _ _ ty _ => ty = .n64 || ty = .s64
  | .lea _ _ _ ty sc | .leaX _ _ _ ty sc _ => ty.isInt && sc.toNat ≤ 4
  | .fadd _ _ _ ty _ | .fsub _ _ _ ty _ | .fmul _ _ _ ty _ | .fdiv _ _ _ ty _ | .fsqrt _ _ _ ty _
  | .exp2 _ _ _ ty _ | .log2 _ _ _ ty _ => ty.isArith
  | .fma _ _ ty _ => ty.isArith
  | .fmin _ _ _ ty | .fmax _ _ _ ty => ty.isArith
  | .fcmp _ _ _ ty _ => ty.isArith
  | .fcvt _ _ _ d s md => (!d.isInt || !s.isInt) && cvtPair d s md
  | .fclass _ _ _ ty => !ty.isInt
  | .fsgn _ _ _ ty _ => !ty.isInt && ty ≠ .e8m0
  | .vadd _ _ _ ty _ | .vsub _ _ _ ty _ | .vmul _ _ _ ty _ | .vexp2 _ _ _ ty _ | .vlog2 _ _ _ ty _
  | .vrcp _ _ _ ty _ | .vrsq _ _ _ ty _ => ty.isArith
  | .vfma _ _ ty _ => ty.isArith
  | .vmin _ _ _ ty | .vmax _ _ _ ty | .vscale _ _ _ ty => ty.isArith
  | .vcmp _ _ _ ty c => ty.isArith || (ty.isLaneInt && c ≠ .uo && c ≠ .or)
  | .vsel _ _ ty => ty.lane
  | .vcvt _ _ _ d s md => (!d.isInt || !s.isInt) && cvtPair d s md && d.width ≤ 32 && s.width ≤ 32
  | .vred _ _ _ ty _ | .vscan _ _ _ ty _ => ty.isArith || ty.isLaneInt
  | .vshuf .. => true
  | .vbcast _ _ _ ty => ty.lane
  | .vlut _ _ _ ty => ty.lane && ty ≠ .e2m1
  | .viop _ _ _ ty _ => ty.isLaneInt
  | .mcfg .. | .mzero .. | .mma .. | .mlda .. | .msteer .. | .mfence .. => true
  | .mdrain _ _ oty _ => drainTy oty
  | .ld _ _ _ a | .ldb _ _ _ a _ | .ldn _ _ _ a _ => a.ty.loads && a.loadOk
  | .ldv _ _ _ a _ | .ldvg _ _ _ a _ _ => a.ty.loadsV && a.loadOk
  | .ldk _ _ _ a vec k =>
    (if vec then a.ty.loadsV else a.ty.loads && !k.m && k.p = 0)
      && a.pol = .normal && !a.ord.acq && !a.ord.rel && a.scope = .node
  | .st _ _ a => a.ty.loads && a.storeOk
  | .stv _ _ a _ | .stvs _ _ a _ _ => a.ty.loadsV && a.storeOk
  | .lda _ _ a toV n =>
    (if toV then a.ty.loadsV && n.toNat < 32 else a.ty.loads)
      && !a.ord.acq && !a.ord.rel && a.scope = .node
  | .atom _ a op _ _ => atomOk a.ty op && a.pol = .normal && a.scopeOk
  | .atomo _ _ a op _ _ => atomoOk a.ty op && a.pol = .normal && a.scopeOk
  | .fence _ _ acq rel k e => acq || rel || k || e
  | .pref _ _ a _ => a.hintOk true
  | .tlbpf _ _ a _ | .ipf _ _ a _ | .ipin _ _ a _ | .iunpin _ _ a _ | .cwb _ _ a _ | .cinv _ _ a _ =>
    a.hintOk false
  | .retain _ _ a _ ways => a.hintOk false && 1 ≤ ways.toNat && ways.toNat ≤ 8
  | .unretain _ w a _ => a.hintOk false && w.off = 0
  | .cpy .. | .cpym .. | .carm .. | .cdisarm .. | .cfire .. | .gath .. | .scat .. => true
  | .collAr _ e _ | .collRs _ e _ | .collAg _ e _ => e.toNat < 4
  | .cadd _ sc acq rel => acq || rel || sc = .node
  | .cwait _ sc acq | .cread _ sc acq _ | .cpoll _ _ _ sc acq => acq || sc = .node
  | .rngaw .. | .rngrel .. | .radv .. | .rrecl .. | .rsetc .. => true
  | .barr _ sc => sc ≠ .node
  | .wmasr .. | .wmret .. | .wmmod .. | .wmrd .. | .cswave .. | .fdone .. | .scset .. | .scget ..
  | .netld .. | .csrd .. => true
  | .trap .. | .sysc .. | .bkpt .. => true
  | .mfs _ _ r => sysAssigned r || sysPrivRange r
  | .mts _ r => sysWritable r || sysPrivRange r
  | .mark .. | .sigchk .. | .rndr .. | .cycw .. | .cfgsw .. => true
  | .blockFetch t | .blockCommit t | .commitStepResume t | .registerValueArrive t _ _ => okTile t
  | .slotFire t n => okTile t && n < 32
  | .homeReadRequest _ t _ f c | .ownershipRequest t _ f c => okTile t && 1 ≤ c && f + c ≤ 32
  | .evictionWriteback t _ => okTile t
  | .rdcFill _ d _ _ => okDie d
  | .atomicAtHome .. | .counterAddAtHome .. | .orderedAtomicArrival .. | .atomoRetryResend ..
  | .counterWatchNotify .. => true
  | .counterWatchRepoll t => okTile t
  | .hostCounterPoll .. => true
  | .snpData .. | .snpCur .. | .snpInv .. => true
  | .hostBarRequest l b _ _ _ => l < 2 && (b = 0 || b = 2 || b = 4)
  | .hostCxlMemRequest l _ _ _ => l < 2
  | .peerFlitReceive p _ _ _ _ _ => p < 16
  | .peerRequestTimeout .. => true
  | .t2PortFailure p => p < 8
  | .chainSyncExchange .. | .chainSyncLoss => true
  | .pageWalk d _ _ _ _ _ => okDie d
  | .faultRecordDeferred d r => okDie d && r < 3
  | .uncorrectableError (.cleanL1 t _) | .uncorrectableError (.cleanCode t _) => okTile t
  | .uncorrectableError (.cleanRdc d _) | .uncorrectableError (.corrected d _) => okDie d
  | .uncorrectableError _ => true
  | .mtPortRequest t p | .mtRandomRequest t p | .mtOrderedUpdate t p => okTile t && okPort p
  | .mtStartToken t | .sequencerElement t => okTile t
  | .engineChunk d e => okDie d && e < 16
  | .engineCompletionAdd d e q | .cpymDeliver d e q | .carmArm d e q | .templateTrigger d e q
  | .coalesceIndex d e q => okEngine d e q
  | .collectiveExecute d e => okDie d && e < 4
  | .tokenArrive .. | .loopBoundEntry .. | .loopBoundExit .. => true
  | .tokenBarrierFire t => okTile t
  | .steerTokenPop t p | .px8FrameDecode t p | .counterAddPortToken t p | .operandTokenEnter t p =>
    okTile t && okPort p
  | .matrixWordStart t | .mmaOccupancyEnd t | .mmaComplete t | .drainTokenSend t | .fetchLineArrive t =>
    okTile t
  | .networkDeltaArrival d | .networkScsetArrival d | .networkCswaveArrival d | .networkFdoneArrival d
  | .netldLoad d => okDie d
  | .lqDoorbell d q => okDie d && q < 65536
  | .queueSlotRotate d | .packetChoose d => okDie d
  | .gangReserve _ d | .gangGo _ d | .gangRelease _ d | .gangStartTick _ d | .gangAbort _ d => okDie d
  | .gangAckDeadline .. | .taskPacketEmit .. | .packetComplete .. => true
  | .taskDispatch d => okDie d
  | .waitPacketSatisfied d q => okDie d && q < 65536
  | .elementSwitch t => okTile t
  | .droopStretch d p e => okDie d && p < 64 && 1 ≤ e && e ≤ 4
  | .powerCeilingAdjust .. | .thermalTrip => true
  | .assizeCompare d _ | .assizeReportTimeout d _ => okDie d
  | .replicaResync t | .forwardedValueArrive t _ _ | .elementSave t => okTile t
  | .regionClockGate .. | .regionSilence .. | .deadlockTrap .. => true
  | .dieFailure d => okDie d
  | .securityAlarm .. | .reset | .modReset => true
  | .accPurge d t | .accInval d t | .accBaseWrite d t _ => okTarget d t
  | .atabPurge d | .atabInval d | .atabBaseWrite d _ => okDie d
  | .hbmMapWrite .. | .trRootWrite .. => true
  | .tlbInvAll d _ | .tlbInvPage d _ | .tlbInvComplete d | .tfqResume d _ | .tfqFail d _ => okDie d
  | .fltResume d _ | .fltRollback d _ | .fltAbort d _ | .spillGrant d _ | .spillRefuse d _ => okDie d
  | .preSave d _ | .preRestore d _ | .evThaw d => okDie d
  | .secAlarmSrcClear .. | .secAlarmActWrite .. | .healthTripClear .. | .pwrLimWrite .. => true
  | .ringEnableWrite d r _ => okDie d && r < 3
  | .ctxSatClear .. | .mmioRegisterWrite .. | .mgmtMmioRead .. | .mgmtMmioWrite ..
  | .mctpControlMessage .. => true
  | .lqSlotWrite d s _ => okDie d && s < 256
  | .peerPortDown p => p < 16
  | .hostLinkDown l => l < 2

end Sys2Proof
end

