-- ==== Sys2Proof/Machine/Bits.lean ====
section
/-! DEFINITION. Bit fields, sign extension, byte order (R5), vector lanes (R29, R290) and the
helpers val, out and sat of R268. -/

namespace Sys2Proof

/-- Bits hi..lo of a number. -/
def field (x hi lo : Nat) : Nat := x / 2 ^ lo % 2 ^ (hi + 1 - lo)

/-- Bit i of a number. -/
def bitAt (x i : Nat) : Bool := x / 2 ^ i % 2 = 1

/-- A Boolean as a number. -/
def b2n (b : Bool) : Nat := if b then 1 else 0

/-- The little-endian bytes of a number (R5). -/
def toBytes (x : Nat) : Nat → List Byte
  | 0 => []
  | n + 1 => BitVec.ofNat 8 x :: toBytes (x / 256) n

/-- The number that little-endian bytes hold (R5). -/
def ofBytes : List Byte → Nat
  | [] => 0
  | b :: t => b.toNat + 256 * ofBytes t

/-- A 64-bit scalar as a number of its low w bits. -/
def lowBits (x : Word) (w : Nat) : Nat := x.toNat % 2 ^ w

/-- Lane i of a vector (R29). -/
def lane (v : Vec) (i : Nat) : Word32 := v.extractLsb' (32 * i) 32

/-- The vector whose lane i is f i. -/
def ofLanes (f : Nat → Word32) : Vec :=
  BitVec.ofNat 1024 ((List.range 32).foldr (fun i a => (f i).toNat + 2 ^ 32 * a) 0)

/-- Replaces lane i of a vector. -/
def setLane (v : Vec) (i : Nat) (x : Word32) : Vec := ofLanes fun j => if j = i then x else lane v j

/-- val of R268: the exact integer in the low w bits of a scalar. -/
def Ty.val (t : Ty) (x : Word) : Int :=
  if t.isSigned then (x.setWidth t.width).toInt else (x.setWidth t.width).toNat

/-- The w bits of v mod 2^w. -/
def Ty.wrap (t : Ty) (v : Int) : BitVec t.width := BitVec.ofInt t.width v

/-- out of R268 on w bits: the 64-bit value emitted. -/
def Ty.ext (t : Ty) (b : BitVec t.width) : Word := if t.isSigned then b.signExtend 64 else b.setWidth 64

/-- out of R268. -/
def Ty.out (t : Ty) (v : Int) : Word := t.ext (t.wrap v)

/-- The least value of an integer type (R268). -/
def Ty.lo (t : Ty) : Int := if t.isSigned then -(2 ^ (t.width - 1) : Nat) else 0

/-- The greatest value of an integer type (R268). -/
def Ty.hi (t : Ty) : Int := if t.isSigned then (2 ^ (t.width - 1) : Nat) - 1 else (2 ^ t.width : Nat) - 1

/-- sat of R268. -/
def Ty.clamp (t : Ty) (v : Int) : Int := if v < t.lo then t.lo else if t.hi < v then t.hi else v

/-- fmix of R245: the mixing function of draws and signatures (R377). -/
def fmix (z : Word) : Word :=
  let z := z ^^^ (z >>> 33)
  let z := z * 0xFF51AFD7ED558CCD#64
  let z := z ^^^ (z >>> 33)
  let z := z * 0xC4CEB9FE1A85EC53#64
  z ^^^ (z >>> 33)

/-- The draw u of R245 for a draw number. -/
def draw (seed stream index : Word) : Word32 :=
  (fmix (fmix (seed ^^^ stream) + index)).extractLsb' 32 32

end Sys2Proof
end

