-- ==== Sys2Proof/Machine/Float.lean ====
section
/-! DEFINITION. Number formats, exact values and rounding (R238 to R244, R247), and the exact
arithmetic of R283. A value is an exact dyadic number; a quotient or a root, which need not be one,
is taken to far more bits than any format holds, with its last bit set when it is inexact. -/

namespace Sys2Proof

/-- The exact value of an encoding (R238, R269). -/
inductive FVal where
  | nan
  | inf (neg : Bool)
  | fin (neg : Bool) (m : Nat) (e : Int)
  deriving DecidableEq, Repr

/-- Exponent width, mantissa width and bias of a format (R238). E8M0 has no mantissa and no sign. -/
structure Fmt where
  eb : Nat
  mb : Nat
  bias : Nat
  deriving DecidableEq, Repr

/-- The fields of R238. Integer types have none; the entry stands for FP32. -/
def Ty.fmt : Ty → Fmt
  | .bf16 => ⟨8, 7, 127⟩
  | .f16 => ⟨5, 10, 15⟩
  | .e4m3 => ⟨4, 3, 7⟩
  | .e5m2 => ⟨5, 2, 15⟩
  | .e2m1 => ⟨2, 1, 1⟩
  | .e8m0 => ⟨8, 0, 127⟩
  | _ => ⟨8, 23, 127⟩

/-- The largest finite encoding without its sign (R238). -/
def Ty.maxFin : Ty → Nat
  | .bf16 => 0x7F7F
  | .f16 => 0x7BFF
  | .e4m3 => 0x7E
  | .e5m2 => 0x7B
  | .e2m1 => 0x7
  | .e8m0 => 0xFE
  | _ => 0x7F7FFFFF

/-- The canonical NaN (R241). E2M1 has none; its place holds the +0 of R243. -/
def Ty.nanBits : Ty → Nat
  | .bf16 => 0x7FC0
  | .f16 => 0x7E00
  | .e4m3 => 0x7F
  | .e5m2 => 0x7E
  | .e2m1 => 0x0
  | .e8m0 => 0xFF
  | _ => 0x7FC00000

/-- The sign bit of a format as a number. -/
def Ty.signBit (t : Ty) : Nat := 2 ^ (t.fmt.eb + t.fmt.mb)

/-- dec of R269: the exact value of an encoding, taken from the low bits (R238). -/
def Ty.dec (t : Ty) (x : Nat) : FVal :=
  let f := t.fmt
  if t = .e8m0 then
    let c := x % 256
    if c = 0xFF then .nan else .fin false 1 ((c : Int) - 127)
  else
    let man := x % 2 ^ f.mb
    let ex := x / 2 ^ f.mb % 2 ^ f.eb
    let neg := bitAt x (f.eb + f.mb)
    let top := 2 ^ f.eb - 1
    if ex = top && t ≠ .e4m3 && t ≠ .e2m1 then
      if man = 0 then .inf neg else .nan
    else if t = .e4m3 && ex = top && man = 7 then .nan
    else if ex = 0 then .fin neg man (1 - (f.bias : Int) - f.mb)
    else .fin neg (man + 2 ^ f.mb) ((ex : Int) - f.bias - f.mb)

/-! ### Rounding -/

/-- Does a magnitude of whole steps lo and the fraction rem / 2^d of a step round up (R242, R247)? -/
def roundsUp (md : Rnd) (u : Word32) (neg : Bool) (lo rem d : Nat) : Bool :=
  match md with
  | .rz => false
  | .ru => !neg && rem ≠ 0
  | .rd => neg && rem ≠ 0
  | .rne => 2 ^ d < 2 * rem || (2 * rem = 2 ^ d && rem ≠ 0 && lo % 2 = 1)
  | .sr => rem ≠ 0 && u.toNat < rem * 2 ^ 32 / 2 ^ d

/-- m × 2^e in whole steps of 2^q with the fraction left over: steps, fraction, fraction bits. A
step far above the value leaves all of it in the fraction. -/
def steps (m : Nat) (e q : Int) : Nat × Nat × Nat :=
  if q ≤ e then (m * 2 ^ (e - q).toNat, 0, 0)
  else
    let d := min (q - e).toNat (m.log2 + 40)
    (m / 2 ^ d, m % 2 ^ d, d)

/-- What an overflow of the given sign delivers, without its sign bit (R243). -/
def Ty.overflow (t : Ty) (md : FMod) (neg : Bool) : Nat :=
  if md.sat || t = .e2m1 then t.maxFin
  else
    let toInf := match md.rnd with
      | .rne | .sr => true
      | .rz => false
      | .ru => !neg
      | .rd => neg
    if toInf then (if t = .e4m3 then t.nanBits else t.maxFin + 1) else t.maxFin

/-- An overflow with its sign; E4M3's NaN is canonical (R241, R243). -/
def Ty.overflowBits (t : Ty) (md : FMod) (neg : Bool) : Nat :=
  let r := t.overflow md neg
  if t = .e4m3 && r = t.nanBits then r else r + (if neg then t.signBit else 0)

/-- A conversion to E8M0 (R244). -/
def toE8m0 (md : FMod) (u : Word32) : FVal → Nat
  | .fin false (m + 1) e =>
    let l := (m + 1).log2
    let ex : Int := e + l
    let rem := (m + 1) - 2 ^ l
    let up := match md.rnd with
      | .rz | .rd => false
      | .ru => rem ≠ 0
      | .rne => 2 ^ l < 2 * rem || (2 * rem = 2 ^ l && rem ≠ 0 && (ex + 127) % 2 = 1)
      | .sr => rem ≠ 0 && u.toNat < rem * 2 ^ 32 / 2 ^ l
    let c : Int := ex + 127 + (if up then 1 else 0)
    if c < 0 then 0x00
    else if 0xFE < c then (if md.sat || md.rnd = .rz then 0xFE else 0xFF)
    else c.toNat
  | _ => 0xFF

/-- rnd of R269: rounds an exact value once into a format (R242 to R244, R247). `conv` says that the
instruction is a conversion, in which an infinite input overflows (R243). -/
def Ty.rnd (t : Ty) (md : FMod) (u : Word32) (conv : Bool) (v : FVal) : Nat :=
  if t = .e8m0 then toE8m0 md u v
  else match v with
    | .nan => t.nanBits
    | .inf neg =>
      if conv then t.overflowBits md neg else t.maxFin + 1 + (if neg then t.signBit else 0)
    | .fin neg m e =>
      let f := t.fmt
      let qmin : Int := 1 - (f.bias : Int) - f.mb
      let q : Int := max (e + m.log2 - f.mb) qmin
      let (lo, rem, d) := steps m e q
      let r := lo + b2n (roundsUp md.rnd u neg lo rem d)
      if m = 0 then (if neg then t.signBit else 0)
      else
        let bits := (q - qmin).toNat * 2 ^ f.mb + r
        if t.maxFin < bits then t.overflowBits md neg
        else bits + (if neg then t.signBit else 0)

/-- RNE with IEEE overflow. -/
def rne : FMod := ⟨.rne, false⟩

/-- Rounds a value to an integer under a mode (R286, R247 with q = 1). -/
def roundInt (md : Rnd) (u : Word32) (neg : Bool) (m : Nat) (e : Int) : Int :=
  let (lo, rem, d) := steps m e 0
  let r : Int := (lo + b2n (roundsUp md u neg lo rem d) : Nat)
  if neg then -r else r

/-! ### Exact arithmetic (R241, R283) -/

/-- A signed sum of two aligned magnitudes. -/
def FVal.ofSigned (v : Int) (e : Int) : FVal := .fin (v < 0) v.natAbs e

/-- The signed magnitude. -/
def signed (neg : Bool) (m : Nat) : Int := if neg then -(m : Int) else m

def FVal.neg : FVal → FVal
  | .nan => .nan
  | .inf s => .inf !s
  | .fin s m e => .fin (!s) m e

/-- The exact sum. An exact zero from operands of opposite sign is −0 under RD and +0 otherwise;
zeros of one sign keep it (R240, R283). -/
def FVal.add (rd : Bool) : FVal → FVal → FVal
  | .nan, _ => .nan
  | _, .nan => .nan
  | .inf s, .inf t => if s = t then .inf s else .nan
  | .inf s, _ => .inf s
  | _, .inf t => .inf t
  | .fin s m e, .fin t n f =>
    if m = 0 && n = 0 then .fin (if s = t then s else rd) 0 0
    else if m = 0 then .fin t n f
    else if n = 0 then .fin s m e
    else
      let g := min e f
      let v := signed s (m * 2 ^ (e - g).toNat) + signed t (n * 2 ^ (f - g).toNat)
      if v = 0 then .fin rd 0 0 else .ofSigned v g

def FVal.mul : FVal → FVal → FVal
  | .nan, _ => .nan
  | _, .nan => .nan
  | .inf s, .inf t => .inf (s != t)
  | .inf s, .fin t m _ => if m = 0 then .nan else .inf (s != t)
  | .fin t m _, .inf s => if m = 0 then .nan else .inf (s != t)
  | .fin s m e, .fin t n f => .fin (s != t) (m * n) (e + f)

/-- The quotient, to 160 bits past its operands, its last bit set when inexact. -/
def FVal.div : FVal → FVal → FVal
  | .nan, _ => .nan
  | _, .nan => .nan
  | .inf _, .inf _ => .nan
  | .inf s, .fin t _ _ => .inf (s != t)
  | .fin s _ _, .inf t => .fin (s != t) 0 0
  | .fin s m e, .fin t n f =>
    if n = 0 then (if m = 0 then .nan else .inf (s != t))
    else
      let x := m * 2 ^ 160
      .fin (s != t) (2 * (x / n) + b2n (x % n ≠ 0)) (e - f - 161)

/-- The integer square root, bit by bit from bit n - 1. -/
def isqrt (x : Nat) : Nat → Nat → Nat
  | 0, r => r
  | n + 1, r => isqrt x n (if (r + 2 ^ n) * (r + 2 ^ n) ≤ x then r + 2 ^ n else r)

/-- The square root, to more than 100 bits, its last bit set when inexact (R241, R283). -/
def FVal.sqrt : FVal → FVal
  | .nan => .nan
  | .inf neg => if neg then .nan else .inf false
  | .fin neg m e =>
    if m = 0 then .fin neg 0 0
    else if neg then .nan
    else
      let odd := e % 2 ≠ 0
      let x := m * 2 ^ (if odd then 201 else 200)
      let h : Int := if odd then (e - 201) / 2 else (e - 200) / 2
      let r := isqrt x 160 0
      .fin false (2 * r + b2n (r * r ≠ x)) (h - 1)

/-- v × 2^k. -/
def FVal.scale (k : Int) : FVal → FVal
  | .fin s m e => .fin s m (e + k)
  | v => v

def FVal.isNan (v : FVal) : Bool := v = .nan

/-- Order of values that are no NaN: is the first less? Zeros of either sign are equal. -/
def FVal.lt : FVal → FVal → Bool
  | .nan, _ => false
  | _, .nan => false
  | .inf s, .inf t => s && !t
  | .inf s, .fin .. => s
  | .fin .., .inf t => !t
  | .fin s m e, .fin t n f =>
    let g := min e f
    signed s (m * 2 ^ (e - g).toNat) < signed t (n * 2 ^ (f - g).toNat)

/-- Equality of values that are no NaN. -/
def FVal.eqv (a b : FVal) : Bool := !a.isNan && !b.isNan && !a.lt b && !b.lt a

/-- Is the value ±0? -/
def FVal.isZero : FVal → Bool
  | .fin _ m _ => m = 0
  | _ => false

/-- Its sign; a NaN has none. -/
def FVal.isNeg : FVal → Bool
  | .inf s => s
  | .fin s _ _ => s
  | .nan => false

end Sys2Proof
end

