-- ==== Sys2Proof/Machine/FloatFun.lean ====
section
/-! DEFINITION. EXP2, LOG2, VRCP and VRSQ: the procedures of R251 to R255, step by step in FP32, and
their tables, each entry the stated real value rounded once to FP32 with RNE. -/

namespace Sys2Proof

/-- T[j] = 2^(j/64) of R252. -/
def tabT : List Nat :=
  [0x3F800000, 0x3F8164D2, 0x3F82CD87, 0x3F843A29, 0x3F85AAC3, 0x3F871F62, 0x3F88980F, 0x3F8A14D5]
    ++ [0x3F8B95C2, 0x3F8D1ADF, 0x3F8EA43A, 0x3F9031DC, 0x3F91C3D3, 0x3F935A2B, 0x3F94F4F0, 0x3F96942D]
    ++ [0x3F9837F0, 0x3F99E046, 0x3F9B8D3A, 0x3F9D3EDA, 0x3F9EF532, 0x3FA0B051, 0x3FA27043, 0x3FA43516]
    ++ [0x3FA5FED7, 0x3FA7CD94, 0x3FA9A15B, 0x3FAB7A3A, 0x3FAD583F, 0x3FAF3B79, 0x3FB123F6, 0x3FB311C4]
    ++ [0x3FB504F3, 0x3FB6FD92, 0x3FB8FBAF, 0x3FBAFF5B, 0x3FBD08A4, 0x3FBF179A, 0x3FC12C4D, 0x3FC346CD]
    ++ [0x3FC5672A, 0x3FC78D75, 0x3FC9B9BE, 0x3FCBEC15, 0x3FCE248C, 0x3FD06334, 0x3FD2A81E, 0x3FD4F35B]
    ++ [0x3FD744FD, 0x3FD99D16, 0x3FDBFBB8, 0x3FDE60F5, 0x3FE0CCDF, 0x3FE33F89, 0x3FE5B907, 0x3FE8396A]
    ++ [0x3FEAC0C7, 0x3FED4F30, 0x3FEFE4BA, 0x3FF28177, 0x3FF5257D, 0x3FF7D0DF, 0x3FFA83B3, 0x3FFD3E0C]

/-- Rl[j] = 1 / (1 + j/64) of R253. -/
def tabRl : List Nat :=
  [0x3F800000, 0x3F7C0FC1, 0x3F783E10, 0x3F74898D, 0x3F70F0F1, 0x3F6D7304, 0x3F6A0EA1, 0x3F66C2B4]
    ++ [0x3F638E39, 0x3F607038, 0x3F5D67C9, 0x3F5A740E, 0x3F579436, 0x3F54C77B, 0x3F520D21, 0x3F4F6475]
    ++ [0x3F4CCCCD, 0x3F4A4588, 0x3F47CE0C, 0x3F4565C8, 0x3F430C31, 0x3F40C0C1, 0x3F3E82FA, 0x3F3C5264]
    ++ [0x3F3A2E8C, 0x3F381703, 0x3F360B61, 0x3F340B41, 0x3F321643, 0x3F302C0B, 0x3F2E4C41, 0x3F2C7692]
    ++ [0x3F2AAAAB, 0x3F28E83F, 0x3F272F05, 0x3F257EB5, 0x3F23D70A, 0x3F2237C3, 0x3F20A0A1, 0x3F1F1166]
    ++ [0x3F1D89D9, 0x3F1C09C1, 0x3F1A90E8, 0x3F191F1A, 0x3F17B426, 0x3F164FDA, 0x3F14F209, 0x3F139A86]
    ++ [0x3F124925, 0x3F10FDBC, 0x3F0FB824, 0x3F0E7835, 0x3F0D3DCB, 0x3F0C08C1, 0x3F0AD8F3, 0x3F09AE41]
    ++ [0x3F088889, 0x3F0767AB, 0x3F064B8A, 0x3F053408, 0x3F042108, 0x3F03126F, 0x3F020821, 0x3F010204]

/-- Ll[j] = log2(1 + j/64) of R253. -/
def tabLl : List Nat :=
  [0x00000000, 0x3CB73CB4, 0x3D35D69C, 0x3D8759C5, 0x3DB31FB8, 0x3DDE4212, 0x3E0462C4, 0x3E19574F]
    ++ [0x3E2E00D2, 0x3E42615F, 0x3E567AF1, 0x3E6A4F72, 0x3E7DE0B6, 0x3E88983F, 0x3E92203D, 0x3E9B8926]
    ++ [0x3EA4D3C2, 0x3EAE00D2, 0x3EB7110E, 0x3EC0052B, 0x3EC8DDD4, 0x3ED19BB0, 0x3EDA3F60, 0x3EE2C97D]
    ++ [0x3EEB3A9F, 0x3EF39355, 0x3EFBD42B, 0x3F01FED4, 0x3F060828, 0x3F0A0650, 0x3F0DF989, 0x3F11E20F]
    ++ [0x3F15C01A, 0x3F1993E3, 0x3F1D5DA0, 0x3F211D84, 0x3F24D3C2, 0x3F28808C, 0x3F2C2411, 0x3F2FBE80]
    ++ [0x3F335004, 0x3F36D8CB, 0x3F3A58FF, 0x3F3DD0C8, 0x3F41404F, 0x3F44A7BA, 0x3F480731, 0x3F4B5ED7]
    ++ [0x3F4EAED0, 0x3F51F740, 0x3F553848, 0x3F587209, 0x3F5BA4A4, 0x3F5ED039, 0x3F61F4E5, 0x3F6512C7]
    ++ [0x3F6829FB, 0x3F6B3A9F, 0x3F6E44CD, 0x3F7148A1, 0x3F744636, 0x3F773DA4, 0x3F7A2F04, 0x3F7D1A71]

/-- Rc[j] = 1 / (1 + (j + 0.5)/64) of R254. -/
def tabRc : List Nat :=
  [0x3F7E03F8, 0x3F7A232D, 0x3F76603E, 0x3F72B9D6, 0x3F6F2EB7, 0x3F6BBDB3, 0x3F6865AC, 0x3F652598]
    ++ [0x3F61FC78, 0x3F5EE95C, 0x3F5BEB62, 0x3F5901B2, 0x3F562B81, 0x3F53680D, 0x3F50B6A0, 0x3F4E168A]
    ++ [0x3F4B8728, 0x3F4907DA, 0x3F46980C, 0x3F443730, 0x3F41E4BC, 0x3F3FA030, 0x3F3D6910, 0x3F3B3EE7]
    ++ [0x3F392144, 0x3F370FBB, 0x3F3509E7, 0x3F330F63, 0x3F311FD4, 0x3F2F3ADE, 0x3F2D602B, 0x3F2B8F6A]
    ++ [0x3F29C84A, 0x3F280A81, 0x3F2655C4, 0x3F24A9CF, 0x3F23065E, 0x3F216B31, 0x3F1FD80A, 0x3F1E4CAD]
    ++ [0x3F1CC8E1, 0x3F1B4C70, 0x3F19D723, 0x3F1868C8, 0x3F17012E, 0x3F15A025, 0x3F144581, 0x3F12F114]
    ++ [0x3F11A2B4, 0x3F105A38, 0x3F0F177A, 0x3F0DDA52, 0x3F0CA29C, 0x3F0B7034, 0x3F0A42F8, 0x3F091AC7]
    ++ [0x3F07F781, 0x3F06D905, 0x3F05BF37, 0x3F04A9FA, 0x3F039930, 0x3F028CC0, 0x3F01848E, 0x3F008081]

/-- Rs[j] = 1 / sqrt(1 + (j + 0.5)/16) of R255. -/
def tabRs : List Nat :=
  [0x3F7C1764, 0x3F74C867, 0x3F6E133E, 0x3F67E3ED, 0x3F6229ED, 0x3F5CD76E, 0x3F57E0CF, 0x3F533C2E]
    ++ [0x3F4EE116, 0x3F4AC83F, 0x3F46EB5A, 0x3F4344E6, 0x3F3FD012, 0x3F3C889F, 0x3F396ACE, 0x3F36734A]
    ++ [0x3F339F19, 0x3F30EB96, 0x3F2E565C, 0x3F2BDD46, 0x3F297E62, 0x3F2737F0, 0x3F250855, 0x3F22EE1D]
    ++ [0x3F20E7F5, 0x3F1EF4A4, 0x3F1D130E, 0x3F1B422C, 0x3F19810C, 0x3F17CED0, 0x3F162AA9, 0x3F1493D9]
    ++ [0x3F1309AF, 0x3F118B87, 0x3F1018C6, 0x3F0EB0E0, 0x3F0D534F, 0x3F0BFF97, 0x3F0AB544, 0x3F0973E8]
    ++ [0x3F083B1E, 0x3F070A87, 0x3F05E1C7, 0x3F04C08B, 0x3F03A682, 0x3F029362, 0x3F0186E2, 0x3F0080C1]

/-- One FP32 operation rounded with RNE (R251). -/
def fp32 (v : FVal) : FVal := Ty.dec .f32 (Ty.rnd .f32 rne 0 false v)

/-- An FP32 constant. -/
def fpc (bits : Nat) : FVal := Ty.dec .f32 bits

/-- fma of R251. -/
def fma32 (a b c : FVal) : FVal := fp32 ((a.mul b).add false c)

def mul32 (a b : FVal) : FVal := fp32 (a.mul b)

def add32 (a b : FVal) : FVal := fp32 (a.add false b)

/-- A table entry. -/
def tab (t : List Nat) (j : Nat) : FVal := fpc (t.getD j 0)

/-- floor(m × 2^e) of a signed magnitude. -/
def floorOf (neg : Bool) (m : Nat) (e : Int) : Int := roundInt .rd 0 neg m e

/-- A positive value as 2^e × m with m in [1, 2): e, and m as a value (R253 to R255). -/
def normal (m : Nat) (e : Int) : Int × FVal := (e + m.log2, .fin false m (-(m.log2 : Int)))

/-- floor(k × (m − 1)) of a normalised value. -/
def indexOf (k : Nat) : FVal → Nat
  | .fin _ m e => ((roundInt .rd 0 false (k * m) e) - k).toNat
  | _ => 0

/-- R252. The last step is left exact, so that the final rounding sees its overflow (R251). -/
def exp2Val : FVal → FVal
  | .nan => .nan
  | .inf neg => if neg then .fin false 0 0 else .inf false
  | .fin s m e =>
    let n := floorOf s m e
    let f := (FVal.fin s m e).add false (.ofSigned (-n) 0)
    let j : Nat := match f with
      | .fin _ fm fe => (roundInt .rd 0 false (64 * fm) fe).toNat
      | _ => 0
    let r := f.add false (.ofSigned (-(j : Int)) (-6))
    let p := fma32 r (fma32 r (fma32 r (fpc 0x3D635847) (fpc 0x3E75FDF0)) (fpc 0x3F317218)) (fpc 0x3F800000)
    (mul32 (tab tabT j) p).scale n

/-- R253. -/
def log2Val : FVal → FVal
  | .nan => .nan
  | .inf neg => if neg then .nan else .inf false
  | .fin s m e =>
    if m = 0 then .inf true
    else if s then .nan
    else
      let (ex, mv) := normal m e
      let j := indexOf 64 mv
      let c := FVal.fin false (64 + j) (-6)
      let t := mul32 (fp32 (mv.add false c.neg)) (tab tabRl j)
      let q := mul32 t (fma32 t (fma32 t (fpc 0x3EF6385A) (fpc 0xBF38AA3B)) (fpc 0x3FB8AA3B))
      (FVal.ofSigned ex 0).add false (add32 (tab tabLl j) q)

/-- R254. The scaling by 2^−e is left exact for the final rounding (R251). -/
def rcpVal : FVal → FVal
  | .nan => .nan
  | .inf neg => .fin neg 0 0
  | .fin s m e =>
    if m = 0 then .inf s
    else
      let (ex, mv) := normal m e
      let y0 := tab tabRc (indexOf 64 mv)
      let one := fpc 0x3F800000
      let y1 := fma32 y0 (fma32 mv.neg y0 one) y0
      let y2 := fma32 y1 (fma32 mv.neg y1 one) y1
      let y := y2.scale (-ex)
      if s then y.neg else y

/-- R255. -/
def rsqVal : FVal → FVal
  | .nan => .nan
  | .inf neg => if neg then .nan else .fin false 0 0
  | .fin s m e =>
    if m = 0 then .inf s
    else if s then .nan
    else
      let (ex0, mv0) := normal m e
      let odd := ex0 % 2 ≠ 0
      let mv := if odd then mv0.scale 1 else mv0
      let ex := if odd then ex0 - 1 else ex0
      let half := fpc 0x3F000000
      let one := fpc 0x3F800000
      let step := fun y => fma32 y (mul32 (fma32 mv.neg (mul32 y y) one) half) y
      (step (step (tab tabRs (indexOf 16 mv)))).scale (-(ex / 2))

/-- The final rounding of R251: the procedure's last step is one FP32 operation rounded with RNE;
where that step overflows, the result is an overflow in the destination. -/
def finish (t : Ty) (md : FMod) (u : Word32) (v : FVal) : Nat :=
  match v with
  | .fin s _ _ =>
    match fp32 v with
    | .inf _ => t.overflowBits md s
    | w => t.rnd md u false w
  | v => t.rnd md u false v

end Sys2Proof
end

