-- ==== Sys2Proof/Machine/Flags.lean ====
section
/-! DEFINITION. Relations and the bits computed from values: the conditions of R38 on integers
(R278) and on floating-point values (R285), the predicate of R18, FCLASS (R287), the saturation of
R274 and of counters (R158). The device keeps no flag register (R240, R274). -/

namespace Sys2Proof

/-- The relation of R278; `.uo` and `.or` are not accepted there and hold of no integers. -/
def Cond.holdsInt (c : Cond) (a b : Int) : Bool :=
  match c with
  | .eq => a = b
  | .ne => a ≠ b
  | .lt => a < b
  | .le => a ≤ b
  | .gt => b < a
  | .ge => b ≤ a
  | .uo | .or => false

/-- The relation of R285. −0 equals +0. -/
def Cond.holdsFp (c : Cond) (a b : FVal) : Bool :=
  let uo := a.isNan || b.isNan
  match c with
  | .eq => !uo && a.eqv b
  | .ne => uo || !a.eqv b
  | .lt => !uo && a.lt b
  | .le => !uo && !b.lt a
  | .gt => !uo && b.lt a
  | .ge => !uo && !a.lt b
  | .uo => uo
  | .or => !uo

/-- Does a delivered predicate value match the pred field (R18)? -/
def Pred.matches (p : Pred) (x : Word) : Bool :=
  match p with
  | .always => true
  | .onTrue => x.getLsbD 0
  | .onFalse => !x.getLsbD 0

/-- A relation's result as a scalar (R278, R285). -/
def flag (b : Bool) : Word := if b then 1#64 else 0#64

/-- FCLASS: exactly one of bits 0..8 (R287). -/
def Ty.classOf (t : Ty) (x : Nat) : Word :=
  let sub := t ≠ .e8m0 && x / 2 ^ t.fmt.mb % 2 ^ t.fmt.eb = 0
  match t.dec x with
  | .nan => 0x100#64
  | .inf neg => if neg then 0x001#64 else 0x080#64
  | .fin neg m _ =>
    if m = 0 then (if neg then 0x008#64 else 0x010#64)
    else if sub then (if neg then 0x004#64 else 0x020#64)
    else if neg then 0x002#64 else 0x040#64

/-- A counter add: the new value and whether it saturated (R157, R158). -/
def counterAdd (old amount : Word) : Word × Bool :=
  if 2 ^ 64 ≤ old.toNat + amount.toNat then (BitVec.allOnes 64, true) else (old + amount, false)

end Sys2Proof
end

