-- ==== Sys2Proof/Machine/IntAlu.lean ====
section
/-! DEFINITION. The integer computations of R274 to R281 at width w: each gives the w result bits,
which a scalar instruction extends by out() (R268) and a lane writes as they are (R298). -/

namespace Sys2Proof

/-- ADD (R274). -/
def Ty.opAdd (t : Ty) (sat : Bool) (l r : Word) : BitVec t.width :=
  let v := t.val l + t.val r
  t.wrap (if sat then t.clamp v else v)

/-- SUB (R274). -/
def Ty.opSub (t : Ty) (sat : Bool) (l r : Word) : BitVec t.width :=
  let v := t.val l - t.val r
  t.wrap (if sat then t.clamp v else v)

/-- MUL (R274). -/
def Ty.opMul (t : Ty) (sat : Bool) (l r : Word) : BitVec t.width :=
  let v := t.val l * t.val r
  t.wrap (if sat then t.clamp v else v)

/-- MULH: the high w bits of the product (R274). -/
def Ty.opMulh (t : Ty) (l r : Word) : BitVec t.width :=
  t.wrap ((t.val l * t.val r) / (2 ^ t.width : Nat))

/-- The quotient of R275, −1 for a divisor of 0. -/
def quot (a b : Int) : Int := if b = 0 then -1 else Int.tdiv a b

/-- The remainder of R275, the dividend for a divisor of 0. -/
def remn (a b : Int) : Int := if b = 0 then a else a - Int.tdiv a b * b

/-- DIV (R275). -/
def Ty.opDiv (t : Ty) (l r : Word) : BitVec t.width := t.wrap (quot (t.val l) (t.val r))

/-- REM (R275). -/
def Ty.opRem (t : Ty) (l r : Word) : BitVec t.width := t.wrap (remn (t.val l) (t.val r))

/-- The w low bits of an operand (R276). -/
def Ty.low (t : Ty) (x : Word) : BitVec t.width := x.setWidth t.width

/-- The shift amount: right mod w (R276). -/
def Ty.amount (t : Ty) (r : Word) : Nat := r.toNat % t.width

def Ty.opAnd (t : Ty) (l r : Word) : BitVec t.width := t.low l &&& t.low r
def Ty.opOr (t : Ty) (l r : Word) : BitVec t.width := t.low l ||| t.low r
def Ty.opXor (t : Ty) (l r : Word) : BitVec t.width := t.low l ^^^ t.low r
def Ty.opAndn (t : Ty) (l r : Word) : BitVec t.width := t.low l &&& ~~~(t.low r)
def Ty.opShl (t : Ty) (l r : Word) : BitVec t.width := t.low l <<< t.amount r
def Ty.opShr (t : Ty) (l r : Word) : BitVec t.width := t.low l >>> t.amount r
def Ty.opSar (t : Ty) (l r : Word) : BitVec t.width := (t.low l).sshiftRight (t.amount r)
def Ty.opRot (t : Ty) (l r : Word) : BitVec t.width :=
  (t.low l <<< t.amount r) ||| (t.low l >>> (t.width - t.amount r))

/-- Leading zeros of the n low bits (R277). -/
def clzNat (x : Nat) : Nat → Nat
  | 0 => 0
  | n + 1 => if bitAt x n then 0 else clzNat x n + 1

/-- One bits among the n low bits (R277). -/
def popcNat (x : Nat) : Nat → Nat
  | 0 => 0
  | n + 1 => b2n (bitAt x n) + popcNat x n

/-- CLZ (R277). -/
def Ty.opClz (t : Ty) (l : Word) : Nat := clzNat (lowBits l t.width) t.width

/-- POPC (R277). -/
def Ty.opPopc (t : Ty) (l : Word) : Nat := popcNat (lowBits l t.width) t.width

/-- EXT (R277). -/
def Ty.opExt (t : Ty) (l : Word) : BitVec t.width := t.wrap (t.val l)

/-- MIN (R278). -/
def Ty.opMin (t : Ty) (l r : Word) : BitVec t.width :=
  t.wrap (if t.val l ≤ t.val r then t.val l else t.val r)

/-- MAX (R278). -/
def Ty.opMax (t : Ty) (l r : Word) : BitVec t.width :=
  t.wrap (if t.val r ≤ t.val l then t.val l else t.val r)

/-- CMP (R278). -/
def Ty.opCmp (t : Ty) (c : Cond) (l r : Word) : Word := flag (c.holdsInt (t.val l) (t.val r))

/-- SEL (R279). -/
def Ty.opSel (t : Ty) (l r c : Word) : BitVec t.width :=
  t.wrap (if c.getLsbD 0 then t.val l else t.val r)

/-- Position and length of the control word of R280, the length cut at bit 63. -/
def bfCtl (c : Word) : Nat × Nat :=
  let p := field c.toNat 5 0
  (p, min (field c.toNat 14 8) (64 - p))

/-- BFX (R280). -/
def Ty.opBfx (t : Ty) (l c : Word) : Word :=
  let (p, n) := bfCtl c
  let f : BitVec n := l.extractLsb' p n
  if n = 0 then 0#64 else if t.isSigned then f.signExtend 64 else f.setWidth 64

/-- BFI (R280). -/
def opBfi (l r c : Word) : Word :=
  let (p, n) := bfCtl c
  let m : Word := BitVec.ofNat 64 ((2 ^ n - 1) * 2 ^ p)
  (l &&& ~~~m) ||| ((r <<< p) &&& m)

/-- LEA (R281). -/
def Ty.opLea (t : Ty) (sc : Nat) (l r : Word) : Word :=
  l + BitVec.ofInt 64 (t.val r * (2 ^ sc : Nat))

/-- The right operand of an X form: its second word, sign-extended for .s types and zero-extended
for .n types (R19). -/
def Ty.imm (t : Ty) (i : Word32) : Word := if t.isSigned then i.signExtend 64 else i.setWidth 64

end Sys2Proof
end

