-- ==== Sys2Proof/Machine/FpAlu.lean ====
section
/-! DEFINITION. The floating-point computations of R283 to R289 and R297 on the low bits of an
operand. Each gives the result's bits in its format; the bits above are 0 (R269, R290). -/

namespace Sys2Proof

/-- FADD (R283). -/
def Ty.fpAdd (t : Ty) (md : FMod) (u : Word32) (l r : Nat) : Nat :=
  t.rnd md u false ((t.dec l).add (md.rnd = .rd) (t.dec r))

/-- FSUB (R283). -/
def Ty.fpSub (t : Ty) (md : FMod) (u : Word32) (l r : Nat) : Nat :=
  t.rnd md u false ((t.dec l).add (md.rnd = .rd) (t.dec r).neg)

/-- FMUL (R283). -/
def Ty.fpMul (t : Ty) (md : FMod) (u : Word32) (l r : Nat) : Nat :=
  t.rnd md u false ((t.dec l).mul (t.dec r))

/-- FMA: the product is not rounded (R242, R283). -/
def Ty.fpFma (t : Ty) (md : FMod) (u : Word32) (l r c : Nat) : Nat :=
  t.rnd md u false (((t.dec l).mul (t.dec r)).add (md.rnd = .rd) (t.dec c))

/-- FDIV (R283). -/
def Ty.fpDiv (t : Ty) (md : FMod) (u : Word32) (l r : Nat) : Nat :=
  t.rnd md u false ((t.dec l).div (t.dec r))

/-- FSQRT (R283). -/
def Ty.fpSqrt (t : Ty) (md : FMod) (u : Word32) (l : Nat) : Nat :=
  t.rnd md u false (t.dec l).sqrt

/-- Is the first operand the smaller, −0 below +0 (R284)? -/
def fpBelow (a b : FVal) : Bool := a.lt b || (a.isZero && b.isZero && a.isNeg && !b.isNeg)

/-- An operand's own bits (R269). -/
def Ty.own (t : Ty) (x : Nat) : Nat := x % 2 ^ t.width

/-- FMIN (R284). -/
def Ty.fpMin (t : Ty) (l r : Nat) : Nat :=
  if (t.dec l).isNan || (t.dec r).isNan then t.nanBits
  else if fpBelow (t.dec r) (t.dec l) then t.own r else t.own l

/-- FMAX (R284). -/
def Ty.fpMax (t : Ty) (l r : Nat) : Nat :=
  if (t.dec l).isNan || (t.dec r).isNan then t.nanBits
  else if fpBelow (t.dec l) (t.dec r) then t.own r else t.own l

/-- FCMP (R285). -/
def Ty.fpCmp (t : Ty) (c : Cond) (l r : Nat) : Bool := c.holdsFp (t.dec l) (t.dec r)

/-- The integer that a float converts to, held to the type's range (R286). -/
def Ty.cvtInt (d s : Ty) (md : FMod) (u : Word32) (x : Nat) : Int :=
  match s.dec x with
  | .nan => 0
  | .inf neg => if neg then d.lo else d.hi
  | .fin neg m e => d.clamp (roundInt md.rnd u neg m e)

/-- FCVT with a floating-point destination (R286). -/
def Ty.cvtFp (d s : Ty) (md : FMod) (u : Word32) (x : Word) : Nat :=
  if s.isInt then d.rnd md u true (.ofSigned (s.val x) 0)
  else if d = s && !(s.dec x.toNat).isNan then s.own x.toNat
  else d.rnd md u true (s.dec x.toNat)

/-- FCVT: the emitted scalar (R286). -/
def Ty.opCvt (d s : Ty) (md : FMod) (u : Word32) (x : Word) : Word :=
  if d.isInt then d.out (d.cvtInt s md u x.toNat) else BitVec.ofNat 64 (d.cvtFp s md u x)

/-- VCVT: the result at the destination width (R293). -/
def Ty.opCvtLane (d s : Ty) (md : FMod) (u : Word32) (x : Word) : Nat :=
  if d.isInt then (d.wrap (d.cvtInt s md u x.toNat)).toNat else d.cvtFp s md u x

/-- FSGN (R288). -/
def Ty.fpSgn (t : Ty) (op : SgnOp) (l r : Nat) : Nat :=
  if (t.dec l).isNan then t.nanBits
  else
    let sl := bitAt l (t.width - 1)
    let sr := bitAt r (t.width - 1)
    let s := match op with
      | .cps => sr
      | .neg => !sl
      | .xsg => sl != sr
      | .abs => false
    l % 2 ^ (t.width - 1) + (if s then 2 ^ (t.width - 1) else 0)

/-- EXP2, LOG2, VRCP and VRSQ (R289, R294). -/
def Ty.fpExp2 (t : Ty) (md : FMod) (u : Word32) (l : Nat) : Nat := finish t md u (exp2Val (t.dec l))
def Ty.fpLog2 (t : Ty) (md : FMod) (u : Word32) (l : Nat) : Nat := finish t md u (log2Val (t.dec l))
def Ty.fpRcp (t : Ty) (md : FMod) (u : Word32) (l : Nat) : Nat := finish t md u (rcpVal (t.dec l))
def Ty.fpRsq (t : Ty) (md : FMod) (u : Word32) (l : Nat) : Nat := finish t md u (rsqVal (t.dec l))

/-- VSCALE: times the E8M0 code in the low byte of the right lane, RNE and IEEE overflow (R297). -/
def Ty.fpScale (t : Ty) (l r : Nat) : Nat :=
  match Ty.dec .e8m0 r with
  | .fin _ _ k => t.rnd rne 0 false ((t.dec l).scale k)
  | _ => t.nanBits

end Sys2Proof
end

