-- ==== Sys2Proof/Config.lean ====
section
/-! DEFINITION. What the module fixes once (R2, R3) and the free values: constants without a body,
so that nothing can be proved of them but what holds for every value (log 1). -/

namespace Sys2Proof

/-- Free value (log 1): the n-th choice among alternatives that the spec leaves open, a count of
elapsed cycles or ticks, or a place whose selection the spec keeps private to the device. -/
opaque Config.freeNat : Nat → Nat

/-- Free value (log 1): the n-th 64-bit value that the spec leaves open, such as the bits of RNDR
(R424). -/
opaque Config.freeWord : Nat → BitVec 64

/-- Free value (log 1): the updates that an update token names, as word indices and operands, by its payload and its
count. The spec gives the token no layout. -/
opaque Config.updates : BitVec 1024 → Nat → List (Nat × BitVec 32)

/-- Free value (log 16): the domain device number of a system device, 512 or more for one outside the domain. The spec gives
no map between the two numbers. -/
opaque Config.domainOf : Nat → Nat

/-- Dies of the module (R1). -/
def Config.dies : Nat := 4

/-- Bytes of a cache line (R3). -/
def Config.line : Nat := 128

/-- Least latency in cycles of the instructions of R260, for those that a T block may hold. -/
def Config.latency : Instr → Nat
  | .mul .. | .mulX .. | .mulI .. | .mulh .. | .mulhX .. => 3
  | .div .. | .divX .. | .rem .. | .remX .. => 34
  | .fadd .. | .fsub .. | .fmul .. | .fma .. | .fmin .. | .fmax .. | .fcmp .. | .fcvt .. | .fclass ..
  | .fsgn .. => 4
  | .fdiv .. | .fsqrt .. => 14
  | .exp2 .. | .log2 .. | .vexp2 .. | .vlog2 .. | .vrcp .. | .vrsq .. => 12
  | .vadd .. | .vsub .. | .vmul .. | .vfma .. | .vmin .. | .vmax .. | .vcmp .. | .vsel .. | .vcvt ..
  | .vscale .. => 4
  | .viop _ _ _ _ op => if op = .mul || op = .mulh then 3 else 2
  | .vshuf .. | .vbcast .. | .vlut .. => 3
  | .vred .. => 10
  | .vscan .. => 12
  | .mfs _ _ r => if r = 0x100#12 then 1 else 2
  | .ld .. | .ldv .. | .ldvg .. | .ldk .. | .ldb .. | .ldn .. => 6
  | .cpoll .. | .rndr .. | .rngaw .. | .wmrd .. | .scget .. | .csrd .. => 2
  | _ => 1

end Sys2Proof
end

