-- ==== Sys2Proof/Decode.lean ====
section
/-! DEFINITION. Instruction words read and written (R16 to R19, R36 to R46, and the spec fields of
the memory entries, R174 to R194). A word or pair is read field by field; it decodes only when the
term read is well formed and encodes back to exactly these bits, so that no reserved bit is
dropped. Everything else is rejected by name. The encoder follows the same tables. -/

namespace Sys2Proof

/-- Why a word is no instruction. All but `target` raise the illegal-instruction trap (R15, R46);
`target` is the block fault of an instruction without a result whose T0 or T1 is nonzero. -/
inductive Reject where
  | opcode | pred | field | target
  deriving DecidableEq, Repr

/-! ### Codes -/

/-- R18. -/
def Pred.code : Pred → BitVec 2
  | .always => 0#2 | .onTrue => 3#2 | .onFalse => 2#2

/-- R18. -/
def Pred.ofCode (c : BitVec 2) : Option Pred :=
  match c.toNat with
  | 0 => some .always | 3 => some .onTrue | 2 => some .onFalse | _ => none

/-- R36. -/
def Ty.code : Ty → BitVec 4
  | .n8 => 0x0#4 | .n16 => 0x1#4 | .n32 => 0x2#4 | .n64 => 0x3#4
  | .s8 => 0x4#4 | .s16 => 0x5#4 | .s32 => 0x6#4 | .s64 => 0x7#4
  | .f32 => 0x8#4 | .bf16 => 0x9#4 | .f16 => 0xA#4 | .e4m3 => 0xB#4
  | .e5m2 => 0xC#4 | .e2m1 => 0xD#4 | .e8m0 => 0xE#4

/-- R36; code 0xF is reserved. -/
def Ty.ofCode (c : BitVec 4) : Option Ty :=
  match c.toNat with
  | 0x0 => some .n8 | 0x1 => some .n16 | 0x2 => some .n32 | 0x3 => some .n64
  | 0x4 => some .s8 | 0x5 => some .s16 | 0x6 => some .s32 | 0x7 => some .s64
  | 0x8 => some .f32 | 0x9 => some .bf16 | 0xA => some .f16 | 0xB => some .e4m3
  | 0xC => some .e5m2 | 0xD => some .e2m1 | 0xE => some .e8m0 | _ => none

/-- The integer types by the three low code bits (R41). -/
def Ty.ofCode3 (c : BitVec 3) : Ty :=
  match c.toNat with
  | 0 => .n8 | 1 => .n16 | 2 => .n32 | 3 => .n64
  | 4 => .s8 | 5 => .s16 | 6 => .s32 | _ => .s64

/-- R37. -/
def Scope.code : Scope → BitVec 3
  | .node => 0#3 | .region => 1#3 | .die => 2#3 | .dev => 3#3 | .dom => 4#3 | .sys => 5#3

/-- R37; 0b110 and 0b111 are reserved. -/
def Scope.ofCode (c : BitVec 3) : Option Scope :=
  match c.toNat with
  | 0 => some .node | 1 => some .region | 2 => some .die | 3 => some .dev
  | 4 => some .dom | 5 => some .sys | _ => none

/-- R38. -/
def Cond.code : Cond → BitVec 4
  | .eq => 0#4 | .ne => 1#4 | .lt => 2#4 | .le => 3#4 | .gt => 4#4 | .ge => 5#4
  | .uo => 6#4 | .or => 7#4

/-- R38; 0x8..0xF are reserved. -/
def Cond.ofCode (c : BitVec 4) : Option Cond :=
  match c.toNat with
  | 0 => some .eq | 1 => some .ne | 2 => some .lt | 3 => some .le | 4 => some .gt | 5 => some .ge
  | 6 => some .uo | 7 => some .or | _ => none

/-- R39. -/
def FMod.code (m : FMod) : BitVec 4 :=
  (match m.rnd with
    | .rne => 0#3 | .rz => 1#3 | .ru => 2#3 | .rd => 3#3 | .sr => 4#3) ++ (if m.sat then 1#1 else 0#1)

/-- R39; rounding codes 0b101..0b111 are reserved. -/
def FMod.ofCode (c : BitVec 4) : Option FMod :=
  let s := c.getLsbD 0
  match (c.extractLsb' 1 3).toNat with
  | 0 => some ⟨.rne, s⟩ | 1 => some ⟨.rz, s⟩ | 2 => some ⟨.ru, s⟩ | 3 => some ⟨.rd, s⟩
  | 4 => some ⟨.sr, s⟩ | _ => none

/-- R42. -/
def SgnOp.code : SgnOp → BitVec 4
  | .cps => 0#4 | .neg => 1#4 | .xsg => 2#4 | .abs => 3#4

def SgnOp.ofCode (c : BitVec 4) : Option SgnOp :=
  match c.toNat with
  | 0 => some .cps | 1 => some .neg | 2 => some .xsg | 3 => some .abs | _ => none

/-- R42. -/
def RedOp.code : RedOp → BitVec 4
  | .add => 0#4 | .min => 1#4 | .max => 2#4

def RedOp.ofCode (c : BitVec 4) : Option RedOp :=
  match c.toNat with
  | 0 => some .add | 1 => some .min | 2 => some .max | _ => none

/-- R42. -/
def VOp.code : VOp → BitVec 4
  | .add => 0x0#4 | .sub => 0x1#4 | .mul => 0x2#4 | .and => 0x3#4 | .or => 0x4#4 | .xor => 0x5#4
  | .andn => 0x6#4 | .shl => 0x7#4 | .shr => 0x8#4 | .sar => 0x9#4 | .min => 0xA#4 | .max => 0xB#4
  | .popc => 0xC#4 | .clz => 0xD#4 | .mulh => 0xE#4

def VOp.ofCode (c : BitVec 4) : Option VOp :=
  match c.toNat with
  | 0x0 => some .add | 0x1 => some .sub | 0x2 => some .mul | 0x3 => some .and | 0x4 => some .or
  | 0x5 => some .xor | 0x6 => some .andn | 0x7 => some .shl | 0x8 => some .shr | 0x9 => some .sar
  | 0xA => some .min | 0xB => some .max | 0xC => some .popc | 0xD => some .clz | 0xE => some .mulh
  | _ => none

/-- R44. -/
def Policy.code : Policy → BitVec 2
  | .normal => 0#2 | .evictFirst => 1#2 | .bypass => 2#2 | .streaming => 3#2

def Policy.ofCode (c : BitVec 2) : Policy :=
  match c.toNat with
  | 0 => .normal | 1 => .evictFirst | 2 => .bypass | _ => .streaming

/-- The op values of ATOM's spec field (07_ref_memory_access). -/
def AtomOp.code : AtomOp → BitVec 4
  | .add => 0#4 | .min => 1#4 | .max => 2#4 | .and => 3#4 | .or => 4#4 | .xor => 5#4
  | .exch => 6#4 | .cas => 7#4

def AtomOp.ofCode (c : BitVec 4) : Option AtomOp :=
  match c.toNat with
  | 0 => some .add | 1 => some .min | 2 => some .max | 3 => some .and | 4 => some .or
  | 5 => some .xor | 6 => some .exch | 7 => some .cas | _ => none

/-- The op values of ATOMO's spec field: 0b00 add, 0b01 min, 0b10 max, 0b11 or. -/
def AtomOp.code2 : AtomOp → BitVec 2
  | .min => 1#2 | .max => 2#2 | .or => 3#2 | _ => 0#2

def AtomOp.ofCode2 (c : BitVec 2) : AtomOp :=
  match c.toNat with
  | 0 => .add | 1 => .min | 2 => .max | _ => .or

/-- The kinds of CINV (07_ref_memory_access); 0b11 is reserved. -/
def InvKind.bits : InvKind → BitVec 2
  | .data => 0#2 | .code => 1#2 | .const => 2#2

def InvKind.ofCode (c : BitVec 2) : Option InvKind :=
  match c.toNat with
  | 0 => some .data | 1 => some .code | 2 => some .const | _ => none

/-! ### Words written (R16) -/

/-- One bit. -/
def b1 (b : Bool) : BitVec 1 := if b then 1#1 else 0#1

/-- Format G. -/
def wG (op : BitVec 8) (p : Pred) (t u : Tgt) (x : BitVec 8) : Word32 := op ++ p.code ++ t ++ u ++ x
/-- Format I. -/
def wI (op : BitVec 8) (p : Pred) (t : Tgt) (i : BitVec 15) : Word32 := op ++ p.code ++ t ++ i
/-- Format B. -/
def wB (op : BitVec 8) (p : Pred) (d : BitVec 22) : Word32 := op ++ p.code ++ d
/-- Format C: sel is kind[7:6], number[5:0]. -/
def wC (op : BitVec 8) (p : Pred) (t u : Tgt) (kind : BitVec 2) (n : BitVec 6) : Word32 :=
  op ++ p.code ++ t ++ u ++ kind ++ n
/-- Format M. -/
def wM (op : BitVec 8) (p : Pred) (t : Tgt) (m : MOff) : Word32 := op ++ p.code ++ t ++ m.lsid ++ m.off
/-- The attribute word of R44. -/
def wA (a : Attr) (spec : BitVec 21) : Word32 :=
  a.ty.code ++ a.pol.code ++ a.scope.code ++ b1 a.ord.rel ++ b1 a.ord.acq ++ spec
/-- The xop of the integer class: X bit, type, modifier (R41). -/
def xInt (x : Bool) (ty : Ty) (md : BitVec 4) : BitVec 8 := b1 x ++ ty.code.setWidth 3 ++ md

/-! ### Fields read -/

def opOf (w : Word32) : BitVec 8 := w.extractLsb' 24 8
def predOf (w : Word32) : BitVec 2 := w.extractLsb' 22 2
def t0 (w : Word32) : Tgt := w.extractLsb' 15 7
def t1 (w : Word32) : Tgt := w.extractLsb' 8 7
def xop (w : Word32) : BitVec 8 := w.extractLsb' 0 8
def sel (w : Word32) : BitVec 6 := w.extractLsb' 0 6
def imm15 (w : Word32) : BitVec 15 := w.extractLsb' 0 15
def disp22 (w : Word32) : BitVec 22 := w.extractLsb' 0 22
def ty4 (w : Word32) : BitVec 4 := w.extractLsb' 4 4
def mod4 (w : Word32) : BitVec 4 := w.extractLsb' 0 4
def acc (w : Word32) : BitVec 2 := w.extractLsb' 6 2
def sc3 (w : Word32) : BitVec 3 := w.extractLsb' 5 3
def isX (w : Word32) : Bool := w.getLsbD 7
def ity (w : Word32) : Ty := Ty.ofCode3 (w.extractLsb' 4 3)
def moff (w : Word32) : MOff := ⟨w.extractLsb' 10 5, w.extractLsb' 0 10⟩
def lmask (x : Word32) : LaneMask := ⟨x.getLsbD 19, x.extractLsb' 16 3⟩

/-- The attribute word of R44 less its spec field. -/
def attr (x : Word32) : Option Attr := do
  let ty ← Ty.ofCode (x.extractLsb' 28 4)
  let sc ← Scope.ofCode (x.extractLsb' 23 3)
  some ⟨ty, Policy.ofCode (x.extractLsb' 26 2), sc, ⟨x.getLsbD 21, x.getLsbD 22⟩⟩

/-- R19: does a second word follow? The opcode decides, in the integer class xop[7]. -/
def takesTwo (w : Word32) : Bool :=
  let op := (opOf w).toNat
  op = 0x09 || op = 0x49 || op = 0x68 || op = 0xC2
    || (0x90 ≤ op && op ≤ 0xA5 && op ≠ 0x9C)
    || (0x20 ≤ op && op ≤ 0x37 && op ≠ 0x2E && op ≠ 0x2F && op ≠ 0x34 && isX w)

/-- Opcodes that R46 does not reserve. -/
def opKnown (op : Nat) : Bool :=
  op ≤ 0x09 || (0x10 ≤ op && op ≤ 0x1D) || (0x20 ≤ op && op ≤ 0x4D) || (0x60 ≤ op && op ≤ 0x73)
    || (0x80 ≤ op && op ≤ 0x86) || (0x90 ≤ op && op ≤ 0xA5) || (0xB0 ≤ op && op ≤ 0xB7)
    || (0xC0 ≤ op && op ≤ 0xC9) || (0xD0 ≤ op && op ≤ 0xD9) || (0xE0 ≤ op && op ≤ 0xEB)

/-- Reads the fields of control, register and edge opcodes (R40). -/
def parseCtl (op : Nat) (p : Pred) (w x : Word32) : Option Instr :=
  match op with
  | 0x00 => some (.null p (t0 w) (t1 w))
  | 0x01 => some (.mov p (t0 w) (t1 w))
  | 0x02 => some (.movi p (t0 w) (imm15 w))
  | 0x03 => some (.exit p)
  | 0x04 => some (.br p (disp22 w))
  | 0x05 => some (.bri p)
  | 0x06 => some (.call p (disp22 w))
  | 0x07 => some (.calli p)
  | 0x08 => some (.ret p)
  | 0x09 => if (xop w).extractLsb' 1 1 = 1#1 then some (.moviHi p (t0 w) (t1 w) x) else some (.movi32 p (t0 w) (t1 w) ((xop w).getLsbD 0) x)
  | 0x10 => some (.rd p (t0 w) (t1 w) ((sel w).setWidth 6))
  | 0x11 => some (.rdT p (t0 w) (t1 w) ((sel w).setWidth 6))
  | 0x12 => some (.rdv p (t0 w) (t1 w) ((sel w).setWidth 5))
  | 0x13 => some (.rdvT p (t0 w) (t1 w) ((sel w).setWidth 5))
  | 0x14 => some (.rdp p (t0 w) (t1 w) ((sel w).setWidth 3))
  | 0x15 => some (.rdpT p (t0 w) (t1 w) ((sel w).setWidth 3))
  | 0x16 => some (.wr p ((sel w).setWidth 6))
  | 0x17 => some (.wrv p ((sel w).setWidth 5))
  | 0x18 => some (.wrp p ((sel w).setWidth 3))
  | 0x19 => some (.recv p (t0 w) (t1 w) ((sel w).setWidth 2))
  | 0x1A => some (.send p ((sel w).setWidth 2))
  | 0x1B => some (.sendt p ((sel w).setWidth 2))
  | 0x1C => some (.tagof p (t0 w) (t1 w) ((sel w).setWidth 2))
  | 0x1D => some (.settag p ((sel w).setWidth 2))
  | _ => none

/-- Reads the fields of the integer and address class (R41). -/
def parseInt (op : Nat) (p : Pred) (w x : Word32) : Option Instr :=
  match op with
  | 0x20 => do
      let m ← some ((xop w).getLsbD 0)
      if isX w then some (.addX p (t0 w) (t1 w) (ity w) m x) else some (.add p (t0 w) (t1 w) (ity w) m)
  | 0x21 => do
      let m ← some ((xop w).getLsbD 0)
      if isX w then some (.subX p (t0 w) (t1 w) (ity w) m x) else some (.sub p (t0 w) (t1 w) (ity w) m)
  | 0x22 => do
      let m ← some ((xop w).getLsbD 0)
      if isX w then some (.mulX p (t0 w) (t1 w) (ity w) m x) else some (.mul p (t0 w) (t1 w) (ity w) m)
  | 0x23 => if isX w then some (.mulhX p (t0 w) (t1 w) (ity w) x) else some (.mulh p (t0 w) (t1 w) (ity w))
  | 0x24 => if isX w then some (.divX p (t0 w) (t1 w) (ity w) x) else some (.div p (t0 w) (t1 w) (ity w))
  | 0x25 => if isX w then some (.remX p (t0 w) (t1 w) (ity w) x) else some (.rem p (t0 w) (t1 w) (ity w))
  | 0x26 => if isX w then some (.andX p (t0 w) (t1 w) (ity w) x) else some (.and p (t0 w) (t1 w) (ity w))
  | 0x27 => if isX w then some (.orX p (t0 w) (t1 w) (ity w) x) else some (.or p (t0 w) (t1 w) (ity w))
  | 0x28 => if isX w then some (.xorX p (t0 w) (t1 w) (ity w) x) else some (.xor p (t0 w) (t1 w) (ity w))
  | 0x29 => if isX w then some (.andnX p (t0 w) (t1 w) (ity w) x) else some (.andn p (t0 w) (t1 w) (ity w))
  | 0x2A => if isX w then some (.shlX p (t0 w) (t1 w) (ity w) x) else some (.shl p (t0 w) (t1 w) (ity w))
  | 0x2B => if isX w then some (.shrX p (t0 w) (t1 w) (ity w) x) else some (.shr p (t0 w) (t1 w) (ity w))
  | 0x2C => if isX w then some (.sarX p (t0 w) (t1 w) (ity w) x) else some (.sar p (t0 w) (t1 w) (ity w))
  | 0x2D => if isX w then some (.rotX p (t0 w) (t1 w) (ity w) x) else some (.rot p (t0 w) (t1 w) (ity w))
  | 0x2E => some (.clz p (t0 w) (t1 w) (ity w))
  | 0x2F => some (.popc p (t0 w) (t1 w) (ity w))
  | 0x30 => if isX w then some (.minX p (t0 w) (t1 w) (ity w) x) else some (.min p (t0 w) (t1 w) (ity w))
  | 0x31 => if isX w then some (.maxX p (t0 w) (t1 w) (ity w) x) else some (.max p (t0 w) (t1 w) (ity w))
  | 0x32 => do
      let m ← Cond.ofCode (mod4 w)
      if isX w then some (.cmpX p (t0 w) (t1 w) (ity w) m x) else some (.cmp p (t0 w) (t1 w) (ity w) m)
  | 0x33 => if isX w then some (.selX (t0 w) (t1 w) (ity w) x) else some (.sel (t0 w) (t1 w) (ity w))
  | 0x34 => some (.ext p (t0 w) (t1 w) (ity w))
  | 0x35 => if isX w then some (.bfxX p (t0 w) (t1 w) (ity w) x) else some (.bfx p (t0 w) (t1 w) (ity w))
  | 0x36 => if isX w then some (.bfiX (t0 w) (t1 w) (ity w) x) else some (.bfi (t0 w) (t1 w) (ity w))
  | 0x37 => do
      let m ← some (mod4 w)
      if isX w then some (.leaX p (t0 w) (t1 w) (ity w) m x) else some (.lea p (t0 w) (t1 w) (ity w) m)
  | 0x38 => some (.addI p (t0 w) (imm15 w))
  | 0x39 => some (.andI p (t0 w) (imm15 w))
  | 0x3A => some (.orI p (t0 w) (imm15 w))
  | 0x3B => some (.xorI p (t0 w) (imm15 w))
  | 0x3C => some (.shlI p (t0 w) (imm15 w))
  | 0x3D => some (.shrI p (t0 w) (imm15 w))
  | 0x3E => some (.sarI p (t0 w) (imm15 w))
  | 0x3F => some (.mulI p (t0 w) (imm15 w))
  | _ => none

/-- Reads the fields of scalar floating point (R42). -/
def parseFp (op : Nat) (p : Pred) (w x : Word32) : Option Instr :=
  match op with
  | 0x40 => do
      let ty ← Ty.ofCode (ty4 w)
      let md ← FMod.ofCode (mod4 w)
      some (.fadd p (t0 w) (t1 w) ty md)
  | 0x41 => do
      let ty ← Ty.ofCode (ty4 w)
      let md ← FMod.ofCode (mod4 w)
      some (.fsub p (t0 w) (t1 w) ty md)
  | 0x42 => do
      let ty ← Ty.ofCode (ty4 w)
      let md ← FMod.ofCode (mod4 w)
      some (.fmul p (t0 w) (t1 w) ty md)
  | 0x43 => do
      let ty ← Ty.ofCode (ty4 w)
      let md ← FMod.ofCode (mod4 w)
      some (.fma (t0 w) (t1 w) ty md)
  | 0x44 => do
      let ty ← Ty.ofCode (ty4 w)
      let md ← FMod.ofCode (mod4 w)
      some (.fdiv p (t0 w) (t1 w) ty md)
  | 0x45 => do
      let ty ← Ty.ofCode (ty4 w)
      let md ← FMod.ofCode (mod4 w)
      some (.fsqrt p (t0 w) (t1 w) ty md)
  | 0x46 => do
      let ty ← Ty.ofCode (ty4 w)
      some (.fmin p (t0 w) (t1 w) ty)
  | 0x47 => do
      let ty ← Ty.ofCode (ty4 w)
      some (.fmax p (t0 w) (t1 w) ty)
  | 0x48 => do
      let ty ← Ty.ofCode (ty4 w)
      let o ← Cond.ofCode (mod4 w)
      some (.fcmp p (t0 w) (t1 w) ty o)
  | 0x49 => do
      let d ← Ty.ofCode (ty4 w)
      let md ← FMod.ofCode (mod4 w)
      let s ← Ty.ofCode (x.setWidth 4)
      some (.fcvt p (t0 w) (t1 w) d s md)
  | 0x4A => do
      let ty ← Ty.ofCode (ty4 w)
      some (.fclass p (t0 w) (t1 w) ty)
  | 0x4B => do
      let ty ← Ty.ofCode (ty4 w)
      let o ← SgnOp.ofCode (mod4 w)
      some (.fsgn p (t0 w) (t1 w) ty o)
  | 0x4C => do
      let ty ← Ty.ofCode (ty4 w)
      let md ← FMod.ofCode (mod4 w)
      some (.exp2 p (t0 w) (t1 w) ty md)
  | 0x4D => do
      let ty ← Ty.ofCode (ty4 w)
      let md ← FMod.ofCode (mod4 w)
      some (.log2 p (t0 w) (t1 w) ty md)
  | _ => none

/-- Reads the fields of vector opcodes (R42). -/
def parseVec (op : Nat) (p : Pred) (w x : Word32) : Option Instr :=
  match op with
  | 0x60 => do
      let ty ← Ty.ofCode (ty4 w)
      let md ← FMod.ofCode (mod4 w)
      some (.vadd p (t0 w) (t1 w) ty md)
  | 0x61 => do
      let ty ← Ty.ofCode (ty4 w)
      let md ← FMod.ofCode (mod4 w)
      some (.vsub p (t0 w) (t1 w) ty md)
  | 0x62 => do
      let ty ← Ty.ofCode (ty4 w)
      let md ← FMod.ofCode (mod4 w)
      some (.vmul p (t0 w) (t1 w) ty md)
  | 0x63 => do
      let ty ← Ty.ofCode (ty4 w)
      let md ← FMod.ofCode (mod4 w)
      some (.vfma (t0 w) (t1 w) ty md)
  | 0x64 => do
      let ty ← Ty.ofCode (ty4 w)
      some (.vmin p (t0 w) (t1 w) ty)
  | 0x65 => do
      let ty ← Ty.ofCode (ty4 w)
      some (.vmax p (t0 w) (t1 w) ty)
  | 0x66 => do
      let ty ← Ty.ofCode (ty4 w)
      let o ← Cond.ofCode (mod4 w)
      some (.vcmp p (t0 w) (t1 w) ty o)
  | 0x67 => do
      let ty ← Ty.ofCode (ty4 w)
      some (.vsel (t0 w) (t1 w) ty)
  | 0x68 => do
      let d ← Ty.ofCode (ty4 w)
      let md ← FMod.ofCode (mod4 w)
      let s ← Ty.ofCode (x.setWidth 4)
      some (.vcvt p (t0 w) (t1 w) d s md)
  | 0x69 => do
      let ty ← Ty.ofCode (ty4 w)
      let md ← FMod.ofCode (mod4 w)
      some (.vexp2 p (t0 w) (t1 w) ty md)
  | 0x6A => do
      let ty ← Ty.ofCode (ty4 w)
      let md ← FMod.ofCode (mod4 w)
      some (.vlog2 p (t0 w) (t1 w) ty md)
  | 0x6B => do
      let ty ← Ty.ofCode (ty4 w)
      let md ← FMod.ofCode (mod4 w)
      some (.vrcp p (t0 w) (t1 w) ty md)
  | 0x6C => do
      let ty ← Ty.ofCode (ty4 w)
      let md ← FMod.ofCode (mod4 w)
      some (.vrsq p (t0 w) (t1 w) ty md)
  | 0x6D => do
      let ty ← Ty.ofCode (ty4 w)
      let o ← RedOp.ofCode (mod4 w)
      some (.vred p (t0 w) (t1 w) ty o)
  | 0x6E => do
      let ty ← Ty.ofCode (ty4 w)
      let o ← RedOp.ofCode (mod4 w)
      some (.vscan p (t0 w) (t1 w) ty o)
  | 0x6F => some (.vshuf p (t0 w) (t1 w))
  | 0x70 => do
      let ty ← Ty.ofCode (ty4 w)
      some (.vbcast p (t0 w) (t1 w) ty)
  | 0x71 => do
      let ty ← Ty.ofCode (ty4 w)
      some (.vscale p (t0 w) (t1 w) ty)
  | 0x72 => do
      let ty ← Ty.ofCode (ty4 w)
      some (.vlut p (t0 w) (t1 w) ty)
  | 0x73 => do
      let ty ← Ty.ofCode (ty4 w)
      let o ← VOp.ofCode (mod4 w)
      some (.viop p (t0 w) (t1 w) ty o)
  | _ => none

/-- Reads the fields of matrix opcodes (R43). -/
def parseMat (op : Nat) (p : Pred) (w x : Word32) : Option Instr :=
  match op with
  | 0x80 => some (.mcfg p)
  | 0x81 => some (.mzero p (acc w))
  | 0x82 => some (.mma p (acc w))
  | 0x83 => some (.mlda p (acc w))
  | 0x84 => do
      let o ← Ty.ofCode ((xop w).extractLsb' 2 4)
      some (.mdrain p (acc w) o ((xop w).getLsbD 0))
  | 0x85 => some (.msteer p)
  | 0x86 => some (.mfence p)
  | _ => none

/-- Reads the fields of the memory class (R44). -/
def parseMem (op : Nat) (p : Pred) (w x : Word32) : Option Instr :=
  match op with
  | 0x90 => do
      let a ← attr x
      some (.ld p (t0 w) (moff w) a)
  | 0x91 => do
      let a ← attr x
      some (.st p (moff w) a)
  | 0x92 => do
      let a ← attr x
      some (.ldv p (t0 w) (moff w) a (lmask x))
  | 0x93 => do
      let a ← attr x
      some (.stv p (moff w) a (lmask x))
  | 0x94 => do
      let a ← attr x
      some (.ldvg p (t0 w) (moff w) a (lmask x) (x.setWidth 2))
  | 0x95 => do
      let a ← attr x
      some (.stvs p (moff w) a (lmask x) (x.setWidth 16))
  | 0x96 => do
      let a ← attr x
      some (.lda p (moff w) a (x.getLsbD 6) (x.setWidth 6))
  | 0x97 => do
      let a ← attr x
      some (.ldb p (t0 w) (moff w) a (x.setWidth 6))
  | 0x98 => do
      let a ← attr x
      some (.ldn p (t0 w) (moff w) a (x.setWidth 6))
  | 0x99 => do
      let a ← attr x
      some (.ldk p (t0 w) (moff w) a (x.getLsbD 0) (lmask x))
  | 0x9A => do
      let a ← attr x
      do
      let o ← AtomOp.ofCode (x.setWidth 4)
      some (.atom (moff w) a o (x.getLsbD 10) (x.extractLsb' 4 6))
  | 0x9B => do
      let a ← attr x
      some (.atomo p (moff w) a (AtomOp.ofCode2 (x.extractLsb' 16 2)) (x.extractLsb' 18 3) (x.setWidth 16))
  | 0x9C => do
      let s ← Scope.ofCode (sc3 w)
      some (.fence p s ((xop w).getLsbD 4) ((xop w).getLsbD 3) ((xop w).getLsbD 2) ((xop w).getLsbD 1))
  | 0x9D => do
      let a ← attr x
      some (.pref p (moff w) a (x.getLsbD 0))
  | 0x9E => do
      let a ← attr x
      some (.ipf p (moff w) a (x.getLsbD 0))
  | 0x9F => do
      let a ← attr x
      some (.ipin p (moff w) a (x.getLsbD 0))
  | 0xA0 => do
      let a ← attr x
      some (.iunpin p (moff w) a (x.getLsbD 0))
  | 0xA1 => do
      let a ← attr x
      some (.retain p (moff w) a (x.setWidth 3) (x.extractLsb' 3 4))
  | 0xA2 => do
      let a ← attr x
      some (.unretain p (moff w) a (x.setWidth 3))
  | 0xA3 => do
      let a ← attr x
      some (.cwb p (moff w) a (x.getLsbD 0))
  | 0xA4 => do
      let a ← attr x
      do
      let k ← InvKind.ofCode (x.setWidth 2)
      some (.cinv p (moff w) a k)
  | 0xA5 => do
      let a ← attr x
      some (.tlbpf p (moff w) a (x.getLsbD 0))
  | _ => none

/-- Reads the fields of engine commands and counters (R45). -/
def parseEng (op : Nat) (p : Pred) (w x : Word32) : Option Instr :=
  match op with
  | 0xB0 => some (.cpy p ((xop w).extractLsb' 4 4))
  | 0xB1 => some (.cpym p ((xop w).extractLsb' 4 4))
  | 0xB2 => some (.carm p ((xop w).extractLsb' 4 4))
  | 0xB3 => some (.cdisarm p ((xop w).extractLsb' 4 4))
  | 0xB4 => some (.cfire p ((xop w).extractLsb' 4 4))
  | 0xB5 => some (.gath p ((xop w).extractLsb' 4 4))
  | 0xB6 => some (.scat p ((xop w).extractLsb' 4 4))
  | 0xB7 =>
      let e := (xop w).extractLsb' 4 4
      let f := (xop w).getLsbD 3
      match ((xop w).setWidth 3).toNat with
      | 0 => some (.collAr p e f)
      | 1 => some (.collRs p e f)
      | 2 => some (.collAg p e f)
      | _ => none
  | 0xC0 => do
      let s ← Scope.ofCode (sc3 w)
      some (.cadd p s ((xop w).getLsbD 4) ((xop w).getLsbD 3))
  | 0xC1 => do
      let s ← Scope.ofCode (sc3 w)
      some (.cwait p s ((xop w).getLsbD 4))
  | 0xC2 => do
      let s ← Scope.ofCode (sc3 w)
      some (.cread p s ((xop w).getLsbD 4) (x.setWidth 6))
  | 0xC3 => do
      let s ← Scope.ofCode (sc3 w)
      some (.cpoll p (t0 w) (t1 w) s ((xop w).getLsbD 4))
  | 0xC4 => do
      let s ← Scope.ofCode (sc3 w)
      some (.rngaw p (t0 w) (t1 w) s)
  | 0xC5 => do
      let s ← Scope.ofCode (sc3 w)
      some (.rngrel p s)
  | 0xC6 => do
      let s ← Scope.ofCode (sc3 w)
      some (.radv p s)
  | 0xC7 => do
      let s ← Scope.ofCode (sc3 w)
      some (.rrecl p s)
  | 0xC8 => some (.rsetc p)
  | 0xC9 => do
      let s ← Scope.ofCode (sc3 w)
      some (.barr p s)
  | _ => none

/-- Reads the fields of Scruple, system and traps (R45). -/
def parseSys (op : Nat) (p : Pred) (w x : Word32) : Option Instr :=
  match op with
  | 0xD0 => some (.wmasr p)
  | 0xD1 => some (.wmret p)
  | 0xD2 => some (.wmmod p)
  | 0xD3 => some (.wmrd p (t0 w) (t1 w))
  | 0xD4 => some (.cswave p)
  | 0xD5 => some (.fdone p)
  | 0xD6 => some (.scset p)
  | 0xD7 => some (.scget p (t0 w) (t1 w))
  | 0xD8 => some (.netld p)
  | 0xD9 => some (.csrd p (t0 w) (t1 w))
  | 0xE0 => some (.trap p (imm15 w))
  | 0xE1 => some (.sysc p (imm15 w))
  | 0xE2 => some (.mfs p (t0 w) ((imm15 w).setWidth 12))
  | 0xE3 => some (.mts p ((imm15 w).setWidth 12))
  | 0xE4 => some (.mark p)
  | 0xE5 => some (.sigchk p)
  | 0xE6 => some (.rndr p (t0 w) (t1 w))
  | 0xE7 => some (.cycw p)
  | 0xE8 => some (.cfgsw p)
  | 0xE9 => some (.edgeset p ((sel w).setWidth 2))
  | 0xEA => some (.bkpt p (imm15 w))
  | 0xEB => some (.halt p)
  | _ => none

/-- Reads a word and its second word by the opcode's group. -/
def parse (w x : Word32) : Option Instr :=
  match Pred.ofCode (predOf w) with
  | none => none
  | some p =>
    let op := (opOf w).toNat
    if op < 0x20 then parseCtl op p w x
    else if op < 0x40 then parseInt op p w x
    else if op < 0x60 then parseFp op p w x
    else if op < 0x80 then parseVec op p w x
    else if op < 0x90 then parseMat op p w x
    else if op < 0xB0 then parseMem op p w x
    else if op < 0xD0 then parseEng op p w x
    else parseSys op p w x

/-- The words of an instruction: the first, and the second of an X form. Steps have none. -/
def encode : Instr → Option (Word32 × Option Word32)
  | .null p t u => some ((wG 0x00 p t u (0#8), none))
  | .mov p t u => some ((wG 0x01 p t u (0#8), none))
  | .movi p t i => some ((wI 0x02 p t i, none))
  | .movi32 p t u zx i => some (wG 0x09 p t u (if zx then 1#8 else 0#8), some i)
  | .moviHi p t u i => some (wG 0x09 p t u 2#8, some i)
  | .exit p => some ((wG 0x03 p 0 0 (0#8), none))
  | .br p d => some ((wB 0x04 p d, none))
  | .bri p => some ((wG 0x05 p 0 0 (0#8), none))
  | .call p d => some ((wB 0x06 p d, none))
  | .calli p => some ((wG 0x07 p 0 0 (0#8), none))
  | .ret p => some ((wG 0x08 p 0 0 (0#8), none))
  | .halt p => some ((wG 0xEB p 0 0 (0#8), none))
  | .rd p t u n => some ((wC 0x10 p t u 0#2 (n.setWidth 6), none))
  | .rdT p t u n => some ((wC 0x11 p t u 0#2 (n.setWidth 6), none))
  | .rdv p t u n => some ((wC 0x12 p t u 1#2 (n.setWidth 6), none))
  | .rdvT p t u n => some ((wC 0x13 p t u 1#2 (n.setWidth 6), none))
  | .rdp p t u n => some ((wC 0x14 p t u 2#2 (n.setWidth 6), none))
  | .rdpT p t u n => some ((wC 0x15 p t u 2#2 (n.setWidth 6), none))
  | .wr p n => some ((wC 0x16 p 0 0 0#2 (n.setWidth 6), none))
  | .wrv p n => some ((wC 0x17 p 0 0 1#2 (n.setWidth 6), none))
  | .wrp p n => some ((wC 0x18 p 0 0 2#2 (n.setWidth 6), none))
  | .recv p t u n => some ((wC 0x19 p t u 3#2 (n.setWidth 6), none))
  | .send p n => some ((wC 0x1A p 0 0 3#2 (n.setWidth 6), none))
  | .sendt p n => some ((wC 0x1B p 0 0 3#2 (n.setWidth 6), none))
  | .tagof p t u n => some ((wC 0x1C p t u 3#2 (n.setWidth 6), none))
  | .settag p n => some ((wC 0x1D p 0 0 3#2 (n.setWidth 6), none))
  | .edgeset p n => some ((wC 0xE9 p 0 0 3#2 (n.setWidth 6), none))
  | .add p t u ty s => some (wG 0x20 p t u (xInt false ty (if s then 1#4 else 0#4)), none)
  | .addX p t u ty s i => some (wG 0x20 p t u (xInt true ty (if s then 1#4 else 0#4)), some i)
  | .addI p t i => some ((wI 0x38 p t i, none))
  | .sub p t u ty s => some (wG 0x21 p t u (xInt false ty (if s then 1#4 else 0#4)), none)
  | .subX p t u ty s i => some (wG 0x21 p t u (xInt true ty (if s then 1#4 else 0#4)), some i)
  | .mul p t u ty s => some (wG 0x22 p t u (xInt false ty (if s then 1#4 else 0#4)), none)
  | .mulX p t u ty s i => some (wG 0x22 p t u (xInt true ty (if s then 1#4 else 0#4)), some i)
  | .mulI p t i => some ((wI 0x3F p t i, none))
  | .mulh p t u ty => some (wG 0x23 p t u (xInt false ty 0), none)
  | .mulhX p t u ty i => some (wG 0x23 p t u (xInt true ty 0), some i)
  | .div p t u ty => some (wG 0x24 p t u (xInt false ty 0), none)
  | .divX p t u ty i => some (wG 0x24 p t u (xInt true ty 0), some i)
  | .rem p t u ty => some (wG 0x25 p t u (xInt false ty 0), none)
  | .remX p t u ty i => some (wG 0x25 p t u (xInt true ty 0), some i)
  | .and p t u ty => some (wG 0x26 p t u (xInt false ty 0), none)
  | .andX p t u ty i => some (wG 0x26 p t u (xInt true ty 0), some i)
  | .andI p t i => some ((wI 0x39 p t i, none))
  | .or p t u ty => some (wG 0x27 p t u (xInt false ty 0), none)
  | .orX p t u ty i => some (wG 0x27 p t u (xInt true ty 0), some i)
  | .orI p t i => some ((wI 0x3A p t i, none))
  | .xor p t u ty => some (wG 0x28 p t u (xInt false ty 0), none)
  | .xorX p t u ty i => some (wG 0x28 p t u (xInt true ty 0), some i)
  | .xorI p t i => some ((wI 0x3B p t i, none))
  | .andn p t u ty => some (wG 0x29 p t u (xInt false ty 0), none)
  | .andnX p t u ty i => some (wG 0x29 p t u (xInt true ty 0), some i)
  | .shl p t u ty => some (wG 0x2A p t u (xInt false ty 0), none)
  | .shlX p t u ty i => some (wG 0x2A p t u (xInt true ty 0), some i)
  | .shlI p t i => some ((wI 0x3C p t i, none))
  | .shr p t u ty => some (wG 0x2B p t u (xInt false ty 0), none)
  | .shrX p t u ty i => some (wG 0x2B p t u (xInt true ty 0), some i)
  | .shrI p t i => some ((wI 0x3D p t i, none))
  | .sar p t u ty => some (wG 0x2C p t u (xInt false ty 0), none)
  | .sarX p t u ty i => some (wG 0x2C p t u (xInt true ty 0), some i)
  | .sarI p t i => some ((wI 0x3E p t i, none))
  | .rot p t u ty => some (wG 0x2D p t u (xInt false ty 0), none)
  | .rotX p t u ty i => some (wG 0x2D p t u (xInt true ty 0), some i)
  | .clz p t u ty => some (wG 0x2E p t u (xInt false ty 0), none)
  | .popc p t u ty => some (wG 0x2F p t u (xInt false ty 0), none)
  | .min p t u ty => some (wG 0x30 p t u (xInt false ty 0), none)
  | .minX p t u ty i => some (wG 0x30 p t u (xInt true ty 0), some i)
  | .max p t u ty => some (wG 0x31 p t u (xInt false ty 0), none)
  | .maxX p t u ty i => some (wG 0x31 p t u (xInt true ty 0), some i)
  | .cmp p t u ty c => some (wG 0x32 p t u (xInt false ty (c.code)), none)
  | .cmpX p t u ty c i => some (wG 0x32 p t u (xInt true ty (c.code)), some i)
  | .sel t u ty => some (wG 0x33 .always t u (xInt false ty 0), none)
  | .selX t u ty i => some (wG 0x33 .always t u (xInt true ty 0), some i)
  | .ext p t u ty => some (wG 0x34 p t u (xInt false ty 0), none)
  | .bfx p t u ty => some (wG 0x35 p t u (xInt false ty 0), none)
  | .bfxX p t u ty i => some (wG 0x35 p t u (xInt true ty 0), some i)
  | .bfi t u ty => some (wG 0x36 .always t u (xInt false ty 0), none)
  | .bfiX t u ty i => some (wG 0x36 .always t u (xInt true ty 0), some i)
  | .lea p t u ty c => some (wG 0x37 p t u (xInt false ty (c)), none)
  | .leaX p t u ty c i => some (wG 0x37 p t u (xInt true ty (c)), some i)
  | .fadd p t u ty md => some (wG 0x40 p t u (ty.code ++ md.code), none)
  | .fsub p t u ty md => some (wG 0x41 p t u (ty.code ++ md.code), none)
  | .fmul p t u ty md => some (wG 0x42 p t u (ty.code ++ md.code), none)
  | .fma t u ty md => some (wG 0x43 .always t u (ty.code ++ md.code), none)
  | .fdiv p t u ty md => some (wG 0x44 p t u (ty.code ++ md.code), none)
  | .fsqrt p t u ty md => some (wG 0x45 p t u (ty.code ++ md.code), none)
  | .fmin p t u ty => some (wG 0x46 p t u (ty.code ++ 0#4), none)
  | .fmax p t u ty => some (wG 0x47 p t u (ty.code ++ 0#4), none)
  | .fcmp p t u ty o => some (wG 0x48 p t u (ty.code ++ o.code), none)
  | .fcvt p t u d s md => some (wG 0x49 p t u (d.code ++ md.code), some (s.code.setWidth 32))
  | .fclass p t u ty => some (wG 0x4A p t u (ty.code ++ 0#4), none)
  | .fsgn p t u ty o => some (wG 0x4B p t u (ty.code ++ o.code), none)
  | .exp2 p t u ty md => some (wG 0x4C p t u (ty.code ++ md.code), none)
  | .log2 p t u ty md => some (wG 0x4D p t u (ty.code ++ md.code), none)
  | .vadd p t u ty md => some (wG 0x60 p t u (ty.code ++ md.code), none)
  | .vsub p t u ty md => some (wG 0x61 p t u (ty.code ++ md.code), none)
  | .vmul p t u ty md => some (wG 0x62 p t u (ty.code ++ md.code), none)
  | .vfma t u ty md => some (wG 0x63 .always t u (ty.code ++ md.code), none)
  | .vmin p t u ty => some (wG 0x64 p t u (ty.code ++ 0#4), none)
  | .vmax p t u ty => some (wG 0x65 p t u (ty.code ++ 0#4), none)
  | .vcmp p t u ty o => some (wG 0x66 p t u (ty.code ++ o.code), none)
  | .vsel t u ty => some (wG 0x67 .always t u (ty.code ++ 0#4), none)
  | .vcvt p t u d s md => some (wG 0x68 p t u (d.code ++ md.code), some (s.code.setWidth 32))
  | .vexp2 p t u ty md => some (wG 0x69 p t u (ty.code ++ md.code), none)
  | .vlog2 p t u ty md => some (wG 0x6A p t u (ty.code ++ md.code), none)
  | .vrcp p t u ty md => some (wG 0x6B p t u (ty.code ++ md.code), none)
  | .vrsq p t u ty md => some (wG 0x6C p t u (ty.code ++ md.code), none)
  | .vred p t u ty o => some (wG 0x6D p t u (ty.code ++ o.code), none)
  | .vscan p t u ty o => some (wG 0x6E p t u (ty.code ++ o.code), none)
  | .vshuf p t u => some ((wG 0x6F p t u (0x20#8), none))
  | .vbcast p t u ty => some (wG 0x70 p t u (ty.code ++ 0#4), none)
  | .vscale p t u ty => some (wG 0x71 p t u (ty.code ++ 0#4), none)
  | .vlut p t u ty => some (wG 0x72 p t u (ty.code ++ 0#4), none)
  | .viop p t u ty o => some (wG 0x73 p t u (ty.code ++ o.code), none)
  | .mcfg p => some ((wG 0x80 p 0 0 (0#8), none))
  | .mzero p a => some ((wG 0x81 p 0 0 (a ++ 0#6), none))
  | .mma p a => some ((wG 0x82 p 0 0 (a ++ 0#6), none))
  | .mlda p a => some ((wG 0x83 p 0 0 (a ++ 0#6), none))
  | .mdrain p a o r => some (wG 0x84 p 0 0 (a ++ o.code ++ (if r then 1#2 else 0#2)), none)
  | .msteer p => some ((wG 0x85 p 0 0 (0#8), none))
  | .mfence p => some ((wG 0x86 p 0 0 (0#8), none))
  | .ld p t m a => some (wM 0x90 p t m, some (wA a (0#21)))
  | .ldv p t m a k => some (wM 0x92 p t m, some (wA a ((0#1 ++ (if k.m then 1#1 else 0#1) ++ k.p ++ 0#16 : BitVec 21))))
  | .ldk p t m a v k => some (wM 0x99 p t m, some (wA a ((0#1 ++ (if k.m then 1#1 else 0#1) ++ k.p ++ 0#15 ++ (if v then 1#1 else 0#1) : BitVec 21))))
  | .st p m a => some (wM 0x91 p 0 m, some (wA a (0#21)))
  | .stv p m a k => some (wM 0x93 p 0 m, some (wA a ((0#1 ++ (if k.m then 1#1 else 0#1) ++ k.p ++ 0#16 : BitVec 21))))
  | .ldvg p t m a k s => some (wM 0x94 p t m, some (wA a ((0#1 ++ (if k.m then 1#1 else 0#1) ++ k.p ++ 0#14 ++ s : BitVec 21))))
  | .stvs p m a k b => some (wM 0x95 p 0 m, some (wA a ((0#1 ++ (if k.m then 1#1 else 0#1) ++ k.p ++ b : BitVec 21))))
  | .lda p m a v n => some (wM 0x96 p 0 m, some (wA a ((0#14 ++ (if v then 1#1 else 0#1) ++ n : BitVec 21))))
  | .ldb p t m a k => some (wM 0x97 p t m, some (wA a ((0#15 ++ k : BitVec 21))))
  | .ldn p t m a k => some (wM 0x98 p t m, some (wA a ((0#15 ++ k : BitVec 21))))
  | .atom m a o r n => some (wM 0x9A .always 0 m, some (wA a ((0#10 ++ (if r then 1#1 else 0#1) ++ n ++ o.code : BitVec 21))))
  | .atomo p m a o r s => some (wM 0x9B p 0 m, some (wA a ((r ++ o.code2 ++ s : BitVec 21))))
  | .fence p s a r k e => some (wG 0x9C p 0 0 (s.code ++ b1 a ++ b1 r ++ b1 k ++ b1 e ++ 0#1), none)
  | .pref p m a l => some (wM 0x9D p 0 m, some (wA a ((0#20 ++ b1 l : BitVec 21))))
  | .tlbpf p m a l => some (wM 0xA5 p 0 m, some (wA a ((0#20 ++ b1 l : BitVec 21))))
  | .ipf p m a l => some (wM 0x9E p 0 m, some (wA a ((0#20 ++ b1 l : BitVec 21))))
  | .ipin p m a l => some (wM 0x9F p 0 m, some (wA a ((0#20 ++ b1 l : BitVec 21))))
  | .iunpin p m a l => some (wM 0xA0 p 0 m, some (wA a ((0#20 ++ b1 l : BitVec 21))))
  | .retain p m a k ws => some (wM 0xA1 p 0 m, some (wA a ((0#14 ++ ws ++ k : BitVec 21))))
  | .unretain p m a k => some (wM 0xA2 p 0 m, some (wA a ((0#18 ++ k : BitVec 21))))
  | .cwb p m a l => some (wM 0xA3 p 0 m, some (wA a ((0#20 ++ b1 l : BitVec 21))))
  | .cinv p m a k => some (wM 0xA4 p 0 m, some (wA a ((0#19 ++ k.bits : BitVec 21))))
  | .cpy p e => some ((wG 0xB0 p 0 0 (e ++ 0#4), none))
  | .cpym p e => some ((wG 0xB1 p 0 0 (e ++ 0#4), none))
  | .carm p e => some ((wG 0xB2 p 0 0 (e ++ 0#4), none))
  | .cdisarm p e => some ((wG 0xB3 p 0 0 (e ++ 0#4), none))
  | .cfire p e => some ((wG 0xB4 p 0 0 (e ++ 0#4), none))
  | .gath p e => some ((wG 0xB5 p 0 0 (e ++ 0#4), none))
  | .scat p e => some ((wG 0xB6 p 0 0 (e ++ 0#4), none))
  | .collAr p e f => some (wG 0xB7 p 0 0 (e ++ b1 f ++ 0#3), none)
  | .collRs p e f => some (wG 0xB7 p 0 0 (e ++ b1 f ++ 1#3), none)
  | .collAg p e f => some (wG 0xB7 p 0 0 (e ++ b1 f ++ 2#3), none)
  | .cadd p s a r => some (wG 0xC0 p 0 0 (s.code ++ b1 a ++ b1 r ++ 0#3), none)
  | .cwait p s a => some (wG 0xC1 p 0 0 (s.code ++ b1 a ++ 0#4), none)
  | .cread p s a n => some (wG 0xC2 p 0 0 (s.code ++ b1 a ++ 0#4), some (n.setWidth 32))
  | .cpoll p t u s a => some (wG 0xC3 p t u (s.code ++ b1 a ++ 0#4), none)
  | .rngaw p t u s => some (wG 0xC4 p t u (s.code ++ 0x10#5), none)
  | .rngrel p s => some (wG 0xC5 p 0 0 (s.code ++ 0x08#5), none)
  | .radv p s => some (wG 0xC6 p 0 0 (s.code ++ 0x08#5), none)
  | .rrecl p s => some (wG 0xC7 p 0 0 (s.code ++ 0x08#5), none)
  | .rsetc p => some ((wG 0xC8 p 0 0 (0#8), none))
  | .barr p s => some (wG 0xC9 p 0 0 (s.code ++ 0x18#5), none)
  | .wmasr p => some ((wG 0xD0 p 0 0 (0#8), none))
  | .wmret p => some ((wG 0xD1 p 0 0 (0#8), none))
  | .wmmod p => some ((wG 0xD2 p 0 0 (0#8), none))
  | .wmrd p t u => some ((wG 0xD3 p t u (0#8), none))
  | .cswave p => some ((wG 0xD4 p 0 0 (0#8), none))
  | .fdone p => some ((wG 0xD5 p 0 0 (0#8), none))
  | .scset p => some ((wG 0xD6 p 0 0 (0#8), none))
  | .scget p t u => some ((wG 0xD7 p t u (0#8), none))
  | .netld p => some ((wG 0xD8 p 0 0 (0#8), none))
  | .csrd p t u => some ((wG 0xD9 p t u (0#8), none))
  | .trap p i => some ((wI 0xE0 p 0 i, none))
  | .sysc p i => some ((wI 0xE1 p 0 i, none))
  | .bkpt p i => some ((wI 0xEA p 0 i, none))
  | .mfs p t r => some ((wI 0xE2 p t (r.setWidth 15), none))
  | .mts p r => some ((wI 0xE3 p 0 (r.setWidth 15), none))
  | .mark p => some ((wG 0xE4 p 0 0 (0#8), none))
  | .sigchk p => some ((wG 0xE5 p 0 0 (0#8), none))
  | .rndr p t u => some ((wG 0xE6 p t u (0#8), none))
  | .cycw p => some ((wG 0xE7 p 0 0 (0#8), none))
  | .cfgsw p => some ((wG 0xE8 p 0 0 (0#8), none))
  | .blockFetch .. | .slotFire .. | .blockCommit .. | .commitStepResume .. | .registerValueArrive ..
  | .homeReadRequest .. | .ownershipRequest .. | .evictionWriteback .. | .rdcFill .. | .atomicAtHome ..
  | .counterAddAtHome .. | .orderedAtomicArrival .. | .atomoRetryResend .. | .counterWatchNotify .. | .counterWatchRepoll ..
  | .hostCounterPoll .. | .snpData .. | .snpCur .. | .snpInv .. | .hostBarRequest ..
  | .hostCxlMemRequest .. | .peerFlitReceive .. | .peerRequestTimeout .. | .t2PortFailure .. | .chainSyncExchange ..
  | .chainSyncLoss | .pageWalk .. | .faultRecordDeferred .. | .uncorrectableError .. | .mtPortRequest ..
  | .mtStartToken .. | .sequencerElement .. | .mtRandomRequest .. | .mtOrderedUpdate .. | .engineChunk ..
  | .engineCompletionAdd .. | .cpymDeliver .. | .carmArm .. | .templateTrigger .. | .coalesceIndex ..
  | .collectiveExecute .. | .tokenArrive .. | .loopBoundEntry .. | .loopBoundExit .. | .tokenBarrierFire ..
  | .steerTokenPop .. | .px8FrameDecode .. | .counterAddPortToken .. | .operandTokenEnter .. | .matrixWordStart ..
  | .mmaOccupancyEnd .. | .mmaComplete .. | .drainTokenSend .. | .fetchLineArrive .. | .networkDeltaArrival ..
  | .networkScsetArrival .. | .networkCswaveArrival .. | .networkFdoneArrival .. | .netldLoad .. | .lqDoorbell ..
  | .queueSlotRotate .. | .packetChoose .. | .gangReserve .. | .gangAckDeadline .. | .gangGo ..
  | .gangRelease .. | .gangStartTick .. | .gangAbort .. | .taskPacketEmit .. | .taskDispatch ..
  | .waitPacketSatisfied .. | .packetComplete .. | .elementSwitch .. | .droopStretch .. | .powerCeilingAdjust ..
  | .thermalTrip | .assizeCompare .. | .assizeReportTimeout .. | .replicaResync .. | .forwardedValueArrive ..
  | .elementSave .. | .regionClockGate .. | .regionSilence .. | .deadlockTrap .. | .dieFailure ..
  | .securityAlarm .. | .reset | .modReset | .accPurge .. | .accInval ..
  | .atabPurge .. | .atabInval .. | .accBaseWrite .. | .atabBaseWrite .. | .hbmMapWrite ..
  | .trRootWrite .. | .tlbInvAll .. | .tlbInvPage .. | .tlbInvComplete .. | .tfqResume ..
  | .tfqFail .. | .fltResume .. | .fltRollback .. | .fltAbort .. | .spillGrant ..
  | .spillRefuse .. | .preSave .. | .preRestore .. | .evThaw .. | .secAlarmSrcClear ..
  | .secAlarmActWrite .. | .healthTripClear .. | .pwrLimWrite .. | .ringEnableWrite .. | .ctxSatClear ..
  | .mmioRegisterWrite .. | .mgmtMmioRead .. | .mgmtMmioWrite .. | .mctpControlMessage .. | .lqSlotWrite ..
  | .peerPortDown .. | .hostLinkDown .. => none

/-- Does the term encode to these words? A second word counts only where the form has one. -/
def encodesTo (i : Instr) (w x : Word32) : Bool :=
  match encode i with
  | some (a, none) => a = w
  | some (a, some b) => a = w && b = x
  | none => false

/-- Is a word in the I or M format, which has T0 alone (R16, R40 to R45)? -/
def hasOneTarget (w : Word32) : Bool :=
  let op := (opOf w).toNat
  op = 0x02 || (0x38 ≤ op && op ≤ 0x3F) || (0x90 ≤ op && op ≤ 0xA5 && op ≠ 0x9C)
    || (0xE0 ≤ op && op ≤ 0xE3) || op = 0xEA

/-- The word with its format's target fields cleared: what R15 compares an instruction without a result with. -/
def clearTargets (w : Word32) : Word32 := w &&& (if hasOneTarget w then 0xFFC07FFF#32 else 0xFFC000FF#32)

/-- Decodes a word and the word after it (used only where the form has a second word), or says why
it is no instruction. -/
def decode (w x : Word32) : Except Reject Instr :=
  if !opKnown (opOf w).toNat then .error .opcode
  else if (Pred.ofCode (predOf w)).isNone then .error .pred
  else match parse w x with
    | none => .error .field
    | some i =>
      if !i.wf then .error .field
      else if encodesTo i w x then .ok i
      else if encodesTo i (clearTargets w) x then .error .target
      else .error .field

/-- How many words an instruction takes in its block. -/
def Instr.words (i : Instr) : Nat :=
  match encode i with
  | some (_, some _) => 2
  | _ => 1

/-- The instruction that the decoder reads from a table row's bits: the first word in bits 31..0, a
second word in bits 63..32. Bits above nbits are 0. -/
def decodeTableWord (nbits w : Nat) : Option Instr :=
  let v := w % 2 ^ nbits
  match decode (BitVec.ofNat 32 v) (BitVec.ofNat 32 (v / 2 ^ 32)) with
  | .ok i => some i
  | .error _ => none

end Sys2Proof
end

