-- ==== Sys2Proof/Machine/Table.lean ====
section
/-! DEFINITION. Reading and writing the sparse tables of the state. Keys stay in rising order. -/

namespace Sys2Proof

/-- The entry at a key. -/
def Tbl.get? {α : Type} (k : Nat) : Tbl α → Option α
  | [] => none
  | (j, x) :: t => if j = k then some x else Tbl.get? k t

/-- The entry at a key, or a stated value where there is none. -/
def Tbl.getD {α : Type} (t : Tbl α) (k : Nat) (d : α) : α := (Tbl.get? k t).getD d

/-- Is there an entry at the key? -/
def Tbl.has {α : Type} (t : Tbl α) (k : Nat) : Bool := (Tbl.get? k t).isSome

/-- Removes the entry at a key. -/
def Tbl.erase {α : Type} (k : Nat) : Tbl α → Tbl α
  | [] => []
  | (j, x) :: t => if j = k then Tbl.erase k t else (j, x) :: Tbl.erase k t

/-- Puts an entry in the place its key has. -/
def Tbl.insert {α : Type} (k : Nat) (x : α) : Tbl α → Tbl α
  | [] => [(k, x)]
  | (j, y) :: t => if k < j then (k, x) :: (j, y) :: t else (j, y) :: Tbl.insert k x t

/-- Writes the entry at a key. -/
def Tbl.set {α : Type} (t : Tbl α) (k : Nat) (x : α) : Tbl α := Tbl.insert k x (Tbl.erase k t)

/-- Changes the entry at a key, where there is one. -/
def Tbl.modify {α : Type} (t : Tbl α) (k : Nat) (f : α → α) : Tbl α :=
  match Tbl.get? k t with
  | none => t
  | some x => Tbl.set t k (f x)

/-- Changes every entry. -/
def Tbl.mapAll {α : Type} (t : Tbl α) (f : Nat → α → α) : Tbl α := t.map fun p => (p.1, f p.1 p.2)

/-- Keeps the entries that satisfy a test. -/
def Tbl.keep {α : Type} (t : Tbl α) (f : Nat → α → Bool) : Tbl α := t.filter fun p => f p.1 p.2

/-- Changes the element at a position of a list. -/
def listSet {α : Type} (l : List α) (i : Nat) (x : α) : List α := l.set i x

/-- The first list position, from i on, whose element satisfies a test. -/
def listFind {α : Type} (f : α → Bool) : List α → Nat → Option (Nat × α)
  | [], _ => none
  | x :: t, i => if f x then some (i, x) else listFind f t (i + 1)

end Sys2Proof
end

