-- ==== Sys2Proof/Machine/State.lean ====
section
/-! DEFINITION. The state of the module as plain data: all that spec/ gives the machine, and the few
fields that are the model's own (marked so). Sparse collections are tables in key order. -/

namespace Sys2Proof.Machine

/-! ### Values, tokens, faults -/

/-- A value delivered inside a block: a scalar, a vector or a null (R12, R21). -/
inductive Val where
  | scalar (x : Word)
  | vector (x : Vec)
  | null
  deriving DecidableEq, Repr

/-- A token: payload and sideband (R224). -/
structure Token where
  payload : Vec
  side : Word32
  deriving DecidableEq, Repr

/-- The causes of R383. -/
inductive Cause where
  | illegal | block | exit | notReady | align | address | translation | access | accessLate
  | privilege | round | roundReclaimed | roundOverrun | command | ring | rule | config | timing
  | token | tag | steer | px8 | matrix | engine | orderedAtomic | linkTimeout | mtRange | mtSequence
  | network | taskRecord | configSwitch | translationAbort | uncorrectable | mismatch | vote | deadlock
  | configLoad | spill | trap | sysc | bkpt
  deriving DecidableEq, Repr

/-- A fault record of R382 before it is written: the fields of its four words. -/
structure FaultRec where
  cause : Cause
  prec : BitVec 2
  eng : Bool
  ctx : BitVec 12
  tile : Nat
  handle : Nat
  addr : Word
  detail : Word32
  seqNo : Nat
  unit : Nat
  tick : Word
  deriving DecidableEq, Repr

/-- An event record of R399: its four words. -/
structure EventRec where
  w0 : Word
  w1 : Word
  w2 : Word
  w3 : Word
  deriving DecidableEq, Repr

/-! ### Blocks at work (R13 to R28) -/

/-- A slot has not fired yet, has fired, has settled on a null, or was resolved without firing. -/
inductive SlotSt where
  | waiting | fired | settled | resolved
  deriving DecidableEq, Repr

/-- A slot: the values at its three inputs, its state, and the cycle at which its last input came
(R20, R374). -/
structure SlotRt where
  left : Option Val
  right : Option Val
  gate : Option Val
  st : SlotSt
  arr : Nat
  deriving DecidableEq, Repr

/-- What the exit that fired does at step 5 (R403). -/
inductive ExitKind where
  | goto (a : Word)
  | endNode
  | endRegion
  deriving DecidableEq, Repr

/-! ### Requests and effects of a block -/

/-- One lane of a store: virtual address, physical address, size in bytes and the bytes' value. -/
structure LaneStore where
  va : Nat
  pa : Nat
  size : Nat
  val : Nat
  deriving DecidableEq, Repr

/-- A store that a fired slot holds for commit (R182, R183). -/
structure StoreReq where
  lsid : Nat
  lanes : List LaneStore
  pol : Policy
  rel : Option Scope
  deriving DecidableEq, Repr

/-- A load that LDA starts (R184); `sv` says that its page is shared-volatile (R97). -/
structure LdaReq where
  va : Nat
  pa : Nat
  sv : Bool
  ty : Ty
  vec : Bool
  pol : Policy
  dst : DstReg
  deriving DecidableEq, Repr

/-- A range that a hint, a pin or a cache operation names (R190 to R194). -/
structure RangeReq where
  va : Word
  len : Word
  level : Bool
  pol : Policy
  deriving DecidableEq, Repr

/-- The range operations of commit step 3. -/
inductive RangeOp where
  | pref | tlbpf | ipf | ipin | iunpin | cwb
  | cinv (k : InvKind)
  deriving DecidableEq, Repr

/-- What an engine is asked to do (R196). -/
inductive EngOp where
  | cpy | cpym | carm | cdisarm | cfire | gath | scat
  | coll (op : Nat) (fp32 : Bool)
  deriving DecidableEq, Repr

/-- A command in an engine queue: descriptor words (R198), issuer, and how far it has come. For
CDISARM word 4 is the report counter; CFIRE and CDISARM keep their queue in word 2. -/
structure Cmd where
  op : EngOp
  words : List Word
  ctx : BitVec 12
  tile : Nat
  region : Nat
  assist : Word
  mark : Nat
  moved : Nat
  id : Nat
  launch : Nat
  away : List Nat
  deriving DecidableEq, Repr

/-- A write to a line of the module that a fetch may still read (R266): the local line, the words written, the line before and
after, and whether the fetching node made it. -/
structure SeenLine where
  line : Nat
  words : Word32
  before : Vec
  after : Vec
  own : Bool
  deriving DecidableEq, Repr

/-- A word of the matrix queue with its operands if it has any: whether the node issued it or an engine delivered it (R299), and
the writes since it entered the queue (R266). -/
structure MatWord where
  word : Word32
  left : Option Word
  right : Option Word
  own : Bool
  seen : List SeenLine
  deriving DecidableEq, Repr

/-- The kinds of the trap instructions (R420). -/
inductive TrapKind where
  | trap | sysc | bkpt
  deriving DecidableEq, Repr

/-- A counter reached by a commit: virtual and physical address. -/
structure CtrRef where
  va : Word
  pa : Nat
  deriving DecidableEq, Repr

/-- A message at a network's inbox (R312, R325, R332 to R335). -/
inductive NetMsg where
  | delta (tile : Nat) (firing : Option Nat) (d : Delta)
  | scset (h key : Word)
  | cswave (tile : Nat) (c : CtrRef) (ctx : BitVec 12) (limit : Nat)
  | fdone (slot : Nat)
  | netld (ctx : BitVec 12) (assist image block : Word)
  deriving DecidableEq, Repr

/-- One effect of a commit (R24). The parts of a release stand before its own write: the signature and cut
(R378, R387), the window's lines (R152 step 1), the wait of step 2. -/
inductive Act where
  -- step 1
  | setG (n : BitVec 6) (x : Word)
  | setV (n : BitVec 5) (x : Vec)
  | setP (n : BitVec 3) (x : Word32)
  | setCur (k : Nat) (x : Word)
  -- step 2
  | store (r : StoreReq)
  | lda (r : LdaReq)
  -- releases and acquires
  | sign (r : StoreReq)
  | relCheck (chunks : List (Word × Word))
  | roundWait
  | relPerform
  | relDrain
  | drainIf (pa n : Nat)
  | ownStore (r : StoreReq)
  | ownAtom (va pa : Nat) (ty : Ty) (op : AtomOp) (right third : Word) (ret : Option (BitVec 6))
      (stream : Option (BitVec 16)) (hold : Bool)
  | ownAdd (c : CtrRef) (amount : Word) (hold : Bool)
  | awaitReply (acq : Option (Scope × Nat))
  | floorReply (k : Nat)
  | acquire (sc : Scope) (seen : Option (Nat × Word))
  | saw (va : Nat) (x : Word)
  | fenceAcquire (sc : Scope)
  -- step 3
  | popPort (port slot : Nat)
  | send (port : Nat) (tok : Token) (ownTag : Bool)
  | setTag (port : Nat) (tag : BitVec 16)
  | mts (r : BitVec 12) (x : Word)
  | mark
  | cycw (x : Word)
  | cfgsw
  | matrix (w : MatWord) (drainTo : Option (BitVec 5))
  | mfence
  | fenceConst
  | fenceEngines
  | range (op : RangeOp) (r : RangeReq)
  | retain (k : Nat) (ways : Nat) (pa : Nat) (lines : Nat) (ok : Bool)
  | unretain (k : Nat)
  | command (eng : Nat) (c : Cmd)
  | cwait (c : CtrRef) (target : Word) (sc : Scope) (acq : Bool)
  | cread (c : CtrRef) (sc : Scope) (acq : Bool) (n : BitVec 6)
  | radvWait (slots : Nat) (words : List CtrRef)
  | netMsg (m : NetMsg)
  | netldWait
  -- steps 4 and 5
  | trap (k : TrapKind) (code : BitVec 15) (slot : Nat)
  | exit
  deriving DecidableEq, Repr

/-- The effects that a fired slot holds for commit: the step of R24, the place within the step (the
LSID in step 2, the slot in step 3), and the acts in order. -/
structure Eff where
  slot : Nat
  step : Nat
  key : Nat
  acts : List Act
  deriving DecidableEq, Repr

/-- A counter watch or a sleep (R159, R169, R212): the counter's physical address, the value waited for,
and whether a watch at its home is held. -/
structure Watch where
  pa : Nat
  target : Word
  held : Bool
  deriving DecidableEq, Repr

/-- The block at work: header and slot words as fetched (R13), schedule, slots, the slots that sleep on a
counter, held effects, and the exit that fired. `start` is the cycle 0 of R374. -/
structure Blk where
  header : Word
  words : List Word32
  sched : List (BitVec 16)
  slots : Vector SlotRt 32
  sleep : Tbl Watch
  effs : List Eff
  exit : Option ExitKind
  start : Nat
  timed : Bool
  stepStart : Nat
  deriving DecidableEq, Repr

/-- What a node does next: fetch a block, fire slots, work off a commit; or why it stands still. -/
inductive Phase where
  | fetch
  | fire
  | commit (q : List Act)
  | ended
  deriving DecidableEq, Repr

/-! ### Nodes (R29, R33, R34) -/

/-- General, vector and lane-mask registers with their full/empty bits (R29, R31). -/
structure Regs where
  g : Vector Word 64
  v : Vector Vec 32
  p : Vector Word32 8
  gFull : BitVec 64
  vFull : BitVec 32
  pFull : BitVec 8
  deriving DecidableEq, Repr

/-- The trap and debug group of R416. -/
structure TrapRegs where
  vec : Word
  epc : Word
  cause : Word
  addr : Word
  act : Bool
  scr : Vector Word 4
  deriving DecidableEq, Repr

/-- The manifest block of R354: registers 0x500..0x515. -/
structure Manifest where
  regs : List Word
  deriving DecidableEq, Repr

/-- The redundancy registers of R376. -/
structure RedRegs where
  sig : Word
  cnt : BitVec 32
  seqNo : Word
  mis : BitVec 32
  vote : BitVec 16
  lead : Bool
  deriving DecidableEq, Repr

/-- A line of the store window: its bytes by offset in the line, the policy of its latest store, the
VA[55:16] of the pages through which its stores were translated (R90, R101, R102), and the bytes stored since the node's latest
FENCE of kind K (R122). -/
structure WinLine where
  bytes : Tbl Byte
  pol : Policy
  pages : List Nat
  fresh : BitVec 128
  deriving DecidableEq, Repr

/-- A store to MMIO that waits in a window: address, size, value, VA[55:16] (R102). -/
structure WinReg where
  pa : Nat
  size : Nat
  val : Word
  page : Nat
  deriving DecidableEq, Repr

/-- A store window: lines by physical line number, MMIO entries in the order of entry (R101, R102). -/
structure Window where
  lines : Tbl WinLine
  mmio : List WinReg
  deriving DecidableEq, Repr

/-- A block of four elements in an operand buffer: element type, encoded elements, scale code, and whether a scale byte of copy
mode covers it (R263, R265). -/
structure OpBlock where
  ty : Ty
  elems : List Nat
  scale : Nat
  covered : Bool
  deriving DecidableEq, Repr

/-- An operand buffer: its blocks, pointers counting bytes mod 2^32, bytes of copy mode not yet made
into blocks, and pending scales (R263, R265). -/
structure OpBuf where
  blocks : List OpBlock
  prod : BitVec 32
  cons : BitVec 32
  raw : List Byte
  scales : List Nat
  deriving DecidableEq, Repr

/-- A matrix word at work (R261, R262, R266, R267): whether its occupancy has begun, the cycle of its next
step, virtual lines still to fetch and those fetched, its operands' blocks, lines pinned, the accumulator as a
drain found it, tokens sent and their port. -/
structure MatRun where
  w : MatWord
  occupied : Bool
  until_ : Nat
  lines : List Nat
  got : Tbl Vec
  a : List OpBlock
  b : List OpBlock
  pins : List Nat
  snap : Tbl Word32
  sent : Nat
  route : Option Nat
  deriving DecidableEq, Repr

/-- The matrix array of a CT (R261 to R267, R299). Accumulator a, element (i, j) is entry
a × 4096 + i × 64 + j; an entry that is absent holds +0.0. -/
structure Matrix where
  cfg : Word
  astride : BitVec 32
  bstride : BitVec 32
  bufA : OpBuf
  bufB : OpBuf
  acc : Tbl Word32
  queue : List MatWord
  mma : Option MatRun
  tail : List MatRun
  zeros : List MatRun
  loads : List MatRun
  drains : List MatRun
  faulted : Option FaultRec
  fetchWait : Bool
  deriving DecidableEq, Repr

/-- Why an element that has not ended does not run: a pending translation fault (R91), a fault of its
own (R385), a breakpoint (R397), or a vote trap (R379). -/
inductive Stop where
  | walk
  | fault (r : FaultRec)
  | breakpoint
  | vote
  deriving DecidableEq, Repr

/-- A declared round region as read at launch (R165). -/
structure RoundRegion where
  ver : Nat
  ovr : Bool
  base : Nat
  nr : Nat
  len : Nat
  rctr : Nat
  rcl : Nat
  deriving DecidableEq, Repr

/-- A CT that runs a node or a task. `seen` holds by region the greatest round that its loads have read since its last acquire
(R154, R171), `asked` is the step to which its newest CFGSW switches the region (R349), `steerOld` the cycle of its newest steer token
with the entry that stood before it in that cycle (R234, R306), `ready` cycle 0 of its next block, where the last one's commit has set it
(R442). -/
structure Node where
  regs : Regs
  tr : TrapRegs
  sysEntry : Bool
  ctx : BitVec 12
  mode : Word
  assist : Word
  seed : Word
  cyc : Word
  tile : Nat
  stream : Word
  srCount : Word
  cfgSeq : Nat
  asked : Nat
  steer : BitVec 3
  steerOld : Option (Word × BitVec 3)
  tags : Vector (BitVec 16) 4
  man : Manifest
  repMode : BitVec 2
  rep : BitVec 2
  red : RedRegs
  cur : Vector Word 64
  floor : Vector Word 64
  seen : Tbl Word
  rrTable : Word
  rounds : Tbl RoundRegion
  mat : Matrix
  route : List Nat
  pc : Word
  blk : Blk
  phase : Phase
  issued : Bool
  slot : Nat
  blocks : Nat
  win : Window
  outst : Nat
  mark : Nat
  reply : Option Word
  watch : Option Watch
  cmdsOut : List Nat
  verdict : Bool
  atMarker : Bool
  ready : Option Nat
  implicitReq : Bool
  late : Option (FaultRec × Option Instr)
  again : List (FwdKey × LdaReq)
  fwd : List (FwdKey × Vec)
  region : Nat
  task : Option Nat
  launch : Nat
  stop : Option Stop
  gated : Bool
  bornAt : Nat
  deriving DecidableEq, Repr

/-! ### Memory tiles (R127 to R136) -/

/-- The modes of an MT node (R132). -/
inductive MtMode where
  | streaming | random | ordered
  deriving DecidableEq, Repr

/-- A journal entry of R388, and its place of 8 bytes in the journal's range. -/
structure JEntry where
  old : Word32
  interval : Nat
  index : Nat
  slot : Nat
  deriving DecidableEq, Repr

/-- A scratchpad request that waits in a port queue (R131): the token it came with and its port. -/
structure MtReq where
  tok : Token
  at_ : Nat
  deriving DecidableEq, Repr

/-- A piece that a sequencer reads: its address, its bytes, and what was read (R131, R434). -/
structure SeqPiece where
  va : Nat
  n : Nat
  data : Option (List Byte)
  deriving DecidableEq, Repr

/-- An MT that runs a node. `fly` are the reorder buffers of its random streams: answers that have not left yet. `buf` is its
sequencer's, and `issued` says that the last element of the walk has entered it (R131). `lost` is the newest interval that its journal
lost, `passed` says that the release of its window has passed its cut and check, `verdict` that the check alone has. -/
structure Mt where
  tile : Nat
  ctx : BitVec 12
  assist : Word
  region : Nat
  launch : Nat
  mode : MtMode
  arrival : Bool
  updOp : BitVec 2
  fp32 : Bool
  seqr : List Word
  started : Bool
  done : Bool
  idx : List Nat
  pack : List Byte
  inBytes : List Byte
  inTag : BitVec 16
  desc : Tbl Word
  fifo : Tbl (Nat × Nat)
  rows : Tbl Nat
  portQ : Tbl (List MtReq)
  fly : Tbl (List MtReq)
  buf : List SeqPiece
  issued : Bool
  expected : Tbl Nat
  waiting : Tbl (List (Nat × Token))
  journal : List JEntry
  interval : Nat
  lost : Option Nat
  win : Window
  sig : Word
  cnt : BitVec 32
  redSeq : Word
  passed : Bool
  verdict : Bool
  outst : Nat
  mark : Nat
  implicitReq : Bool
  late : Option (FaultRec × Option Instr)
  fwd : List (FwdKey × Vec)
  cfgSeq : Nat
  stop : Option Stop
  gated : Bool
  ended : Bool
  deriving DecidableEq, Repr

/-! ### Edges (R226 to R237) -/

/-- A token on a link and the cycle at which a timed edge delivers it (R235). -/
structure LinkTok where
  tok : Token
  due : Nat
  deriving DecidableEq, Repr

/-- An edge: endpoints (tile × 4 + port), depth, credits at the sender, credits that a shrink withholds
the return of, tokens on the link, spilled tokens (R226 to R228, R235, R392). -/
structure Edge where
  src : Nat
  dst : Nat
  region : Nat
  depth : Nat
  credits : Nat
  timed : Option Nat
  back : Bool
  link : List LinkTok
  spill : List Token
  spilling : Bool
  held : Bool
  deriving DecidableEq, Repr

/-- A token in an input port's buffer and the edge that brought it. -/
structure PortTok where
  edge : Nat
  tok : Token
  deriving DecidableEq, Repr

/-- The attributes of a port in its current step (R346). -/
inductive PortAttr where
  | px8
  | global
  | cadd (addr amount : Word) (sc : BitVec 3)
  | trigger (eng queue : Nat)
  deriving DecidableEq, Repr

/-- An input port's buffer in arrival order, the pending scales of each edge's stream (R232), the carriers a PX8 port holds, how many
tokens have reached the port, and the carriers whose every bit the decoder has taken into a frame that is not complete; `bit` is the
position of that frame's first bit (R236). `adds` are the counter adds of popped tokens that wait for a cut, `due` those whose cut is
confirmed: address and amount (R346, R387). -/
structure InPort where
  toks : List PortTok
  scales : Tbl (List Nat)
  carriers : List PortTok
  bit : Nat
  pos : Nat
  taken : List PortTok
  adds : List (Word × Word)
  due : List (Word × Word)
  deriving DecidableEq, Repr

/-- A loop-bound element (R230). -/
structure Bound where
  entry : Nat
  exit : Nat
  k : Nat
  tags : List (BitVec 16)
  region : Nat
  deriving DecidableEq, Repr

/-- A token barrier (R231): its ports and phase. -/
structure TBar where
  mask : BitVec 4
  phase : BitVec 16
  region : Nat
  deriving DecidableEq, Repr

/-! ### Regions, cuts, launches (R338 to R368, R382 to R396) -/

/-- A record of a launch image (R345): its four words. -/
structure CfgRec where
  w0 : Word
  w1 : Word
  w2 : Word
  w3 : Word
  deriving DecidableEq, Repr

/-- The state saved at a cut (R389). `open_` lists the edges whose tokens still belong to it: those whose marker
has not reached a receiver that has saved. -/
structure Saved where
  num : Nat
  open_ : List Nat
  nodes : Tbl Node
  mts : Tbl Mt
  ports : Tbl InPort
  edges : Tbl Edge
  bounds : Tbl Bound
  tbars : Tbl TBar
  deriving DecidableEq, Repr

/-- Why a region stands frozen and whether its record is written (R385, R386). -/
structure Frozen where
  r : FaultRec
  recorded : Bool
  deriving DecidableEq, Repr

/-- A region, or a task as a unit of its own (R338, R349, R387). `still` counts cycles since a token of it
moved (R385), `quiet` those since a token moved or a request was outstanding (R392). `evicting` names the die and the
area of a save that waits for its answers (R395). -/
structure Region where
  launch : Nat
  ctx : BitVec 12
  rank : Nat
  replica : Nat
  die : Nat
  isTask : Bool
  fixed : Bool
  live : Bool
  shape : List (Nat × Nat)
  originX : Nat
  originY : Nat
  elems : List Nat
  recs : List CfgRec
  seqs : Tbl (List Word)
  step : Nat
  lastStep : Nat
  switching : Bool
  cutNum : Nat
  saving : Option Saved
  confirmed : Option Saved
  pendingAt : Option Nat
  cutAgain : Bool
  frozen : Option Frozen
  gated : Bool
  cyc : Nat
  still : Nat
  quiet : Nat
  spillEdge : Option Nat
  spillAsked : Bool
  spillPool : Bool
  spillAt : Nat
  errorAgain : List (Nat × Word)
  retried : List (Nat × Word)
  voteCut : Option Nat
  rolling : Bool
  rollDie : Nat
  evicting : Option (Nat × Nat)
  ending : Bool
  deriving DecidableEq, Repr

/-- One die's part in a gang's reservation (R364); `abort` says that an abort is on its way to it (R365). -/
structure GangMember where
  die : Nat
  reserved : Bool
  acked : Bool
  go : Bool
  started : Bool
  abort : Bool
  deriving DecidableEq, Repr

/-- A launch: its packet and what runs of it (R358 to R367). `foreign` says that another device's controller starts it, and that this
module holds its part on its own dies alone (R364). -/
structure Launch where
  queue : Nat
  pkt : Nat
  die : Nat
  words : List Word
  ctx : BitVec 12
  mode : Word
  assist : Word
  seed : Word
  rrTable : Word
  man : Manifest
  rounds : Tbl RoundRegion
  lateRun : Bool
  recs : List (List CfgRec)
  seqs : List (Tbl (List Word))
  map : List Nat
  gang : List GangMember
  tickT : Nat
  attempt : Nat
  emitted : Nat
  running : Nat
  status : Option (Nat × Nat)
  foreign : Bool
  deriving DecidableEq, Repr

/-- The registers of a context as its newest launch has taken them (R451). -/
structure CtxRun where
  mode : Word
  assist : Word
  seed : Word
  rrTable : Word
  rounds : Tbl RoundRegion
  deriving DecidableEq, Repr

/-- A task record with its context, and what it belongs to (R344, R367). -/
structure TaskRec where
  id : Nat
  w0 : Word
  w1 : Word
  ctx : BitVec 12
  launch : Option Nat
  replica : Nat
  firing : Option Nat
  fwd : List (FwdKey × Vec)
  cancelled : Bool
  voted : Option Nat
  deriving DecidableEq, Repr

/-- A software queue as the controller knows it (R356 to R361). `ending` is the launch whose completion waits for a translation, where it
is that which waits; `watch` the counter of host memory that its wait packet watches (R360, R428). -/
structure QueueSt where
  active : Bool
  slot : Option Nat
  mappedAt : Nat
  waiting : Bool
  last : Option Nat
  aborted : Option Nat
  ending : Option Nat
  watch : Option Nat
  deriving DecidableEq, Repr

/-- A resident template: node entries and time of last use (R343, R366). -/
structure Template where
  entries : List (List Word)
  image : List Byte
  used : Nat
  ctx : BitVec 12
  deriving DecidableEq, Repr

/-- A report at an assize unit (R378, R379): replica, signature, count, sequence number. -/
structure Report where
  replica : Nat
  sig : Word
  cnt : BitVec 32
  seqNo : Word
  tile : Nat
  tick : Word
  deriving DecidableEq, Repr

/-- A saved region in its save area: the handle it had, whether it has not been restored yet, its scratchpads by tile, what has
come for its elements since, by old tile, and the bytes of the area as the save left them, which its check word covers
(R394, R395). -/
structure SaveArea where
  handle : Nat
  region : Region
  saved : Saved
  out : Bool
  spads : Tbl (List Host.Cell)
  mail : List Instr
  cells : List Host.Cell
  deriving DecidableEq, Repr

/-! ### Caches and translation (R87 to R126) -/

/-- A directory entry of R105. -/
structure DirEntry where
  coarse : Bool
  ownV : Bool
  ownPtr : Nat
  ownMask : Word32
  shr : List (Nat × Word32)
  quads : BitVec 256
  deriving DecidableEq, Repr

/-- An L2 line's tag: the retention window that protects it, the code bytes that a code pin holds, fetch pins, dirty, recency
(R119, R123, R124). -/
structure L2Line where
  prot : Option Nat
  code : Option Vec
  fetchPins : Nat
  dirty : Bool
  use : Int
  deriving DecidableEq, Repr

/-- An RDC stamp (R110): round or time, the index of its base, offset. -/
structure Stamp where
  isRound : Bool
  base : Nat
  off : Nat
  deriving DecidableEq, Repr

/-- An RDC line; `code` are the code bytes that a code pin holds, `lost` that its copy has gone and the pin waits for a new one
(R123, R124, R125). -/
structure RdcLine where
  valid : Word32
  data : Vec
  stamp : Stamp
  code : Option Vec
  lost : Bool
  use : Int
  deriving DecidableEq, Repr

/-- A round base of an RDC slice (R110). -/
structure RoundBase where
  ctx : BitVec 12
  k : Nat
  base : Nat
  use : Nat
  deriving DecidableEq, Repr

/-- The stamp bases of an RDC slice (R110, R111). -/
structure RdcBases where
  time : Nat
  rounds : Tbl RoundBase
  deriving DecidableEq, Repr

/-- An L1 line: word states of R104, data of remote and constant lines, the constant mark, and the
round that an LDB or LDN fill established (R100, R113, R122). -/
structure L1Line where
  m : Word32
  o : Word32
  e : Word32
  s : Word32
  data : Vec
  const : Bool
  round : Option (Nat × Nat)
  use : Int
  deriving DecidableEq, Repr

/-- An instruction-cache line; `lost` says that its copy has gone and the pin waits for a new one (R123, R125). -/
structure IcLine where
  data : Vec
  pin : Bool
  lost : Bool
  use : Int
  deriving DecidableEq, Repr

/-- A translation-buffer entry (R84, R87). -/
structure TlbEnt where
  ctx : BitVec 12
  va : Nat
  size : Nat
  pa : Nat
  w : Bool
  x : Bool
  sv : Bool
  deriving DecidableEq, Repr

/-- A walk-cache entry: the table that a non-leaf entry names (R88). -/
structure WalkEnt where
  ctx : BitVec 12
  level : Nat
  va : Nat
  table : Nat
  deriving DecidableEq, Repr

/-- Who waits for a miss, and for which kind of access (R88). -/
structure MissWaiter where
  r : Requester
  kind : AccKind
  deriving DecidableEq, Repr

/-- A miss of the last-level buffer (R88): its key, how far its walk has come (the next table's level and address), whether its
result is to be discarded (R90), the fault it has ended in, and who waits. -/
structure Miss where
  ctx : BitVec 12
  page : Nat
  at_ : Option (Nat × Nat)
  stale : Bool
  why : Option (Nat × Nat × Word)
  waiters : List MissWaiter
  deriving DecidableEq, Repr

/-- A pending translation fault (R92, R94). -/
structure PendFault where
  ctx : BitVec 12
  page : Nat
  cause : Nat
  level : Nat
  kr : Bool
  kw : Bool
  kx : Bool
  count : Nat
  cls : Nat
  entry : Word
  tick : Word
  ring : Nat
  slot : Option Nat
  waiters : List Requester
  deriving DecidableEq, Repr

/-- The caches and buffers of one CT (R87, R100, R123). -/
structure TileCache where
  l1 : Tbl L1Line
  ic : Tbl IcLine
  tlb : List TlbEnt
  deriving DecidableEq, Repr

/-! ### Engines (R137 to R149) -/

/-- An armed template: its command, firings begun and completed, waiting triggers, and whether a firing is in
progress (R144, R204). -/
structure Armed where
  cmd : Cmd
  begun : Nat
  done : Nat
  waiting : Nat
  live : Bool
  deriving DecidableEq, Repr

/-- Bytes that an engine has sent to their home and that do not stand there yet (R141): their place in the work, their physical
address on this module or reached over it, their memory key, the address as a command names it, the bytes, whether the same write
covers all their 8-byte word, and whether the work that sent them goes on. -/
structure EngFly where
  off : Nat
  pa : Option Nat
  key : Nat
  name : Option (BitVec 12 × Nat)
  data : List Byte
  whole : Bool
  live : Bool
  deriving DecidableEq, Repr

/-- A hardware queue of an engine: copy engines are 0..15 and collective engines 16..19 of a die (log 14). `idx`
holds the indices that a GATH or SCAT has taken, `rows` how many rows it has moved (R146), `landed` whether the
head's bytes have landed, `left` the pieces of lines of its chunk that are still to move, `fly` what it has sent. -/
structure EngQueue where
  cmds : List Cmd
  armed : Option Armed
  frozen : Bool
  halted : Option FaultRec
  idx : List Int
  rows : Nat
  landed : Bool
  left : List (Nat × Nat)
  upTo : Nat
  got : Tbl (List Byte)
  fly : List EngFly
  deriving DecidableEq, Repr

/-! ### The Scruple network (R309 to R336) -/

/-- A node of the network as loaded (R315). -/
structure NetNode where
  kind : Nat
  depth : Nat
  cls : Nat
  left : Nat
  right : Nat
  tests : List Word
  w1 : Word
  w2 : Word
  w3 : Word
  deriving DecidableEq, Repr

/-- A token of the network: the node that made it, its parent, its newest WME, its positive WMEs with
generations, and, where it waits at a negation node, the WMEs that block it (R317, R319). -/
structure NTok where
  node : Nat
  parent : Option Nat
  wme : Option Nat
  pats : List (Nat × Nat)
  deriving DecidableEq, Repr

/-- An activation of the conflict set (R323): production node, token, recency stamp. -/
structure Activation where
  node : Nat
  pats : List (Nat × Nat)
  stamp : Word
  deriving DecidableEq, Repr

/-- A slot of a wave (R324 to R326): a name of its own, its activation and that one's ID, the firing's buffered deltas, and whether its
FDONE has been counted. -/
structure WaveSlot where
  id : Nat
  actId : Nat
  act : Activation
  deltas : List Delta
  done : Bool
  deriving DecidableEq, Repr

/-- A die's network. Tables are keyed by node index, WME ID, token number or score-table entry; `filling` is the entry of working
memory that a load asserts next (R335). -/
structure Net where
  owner : Option (BitVec 12)
  status : Nat
  assist : Word
  wm : Nat
  wmn : Nat
  heap : Nat
  heapsz : Word
  st : Nat
  stm : Nat
  image : List Byte
  nodes : List NetNode
  stamp : Word
  tokNum : Nat
  stamps : Tbl Word
  tokens : Tbl NTok
  blocks : Tbl (List (Nat × Nat))
  acts : Tbl Activation
  parked : Tbl (List (Nat × Nat))
  stalled : List (Nat × Nat)
  open_ : Bool
  wave : List WaveSlot
  waveCtr : Option (CtrRef × BitVec 12)
  closed : Nat
  withdrawn : Nat
  dropped : Nat
  inbox : List NetMsg
  held : List NetMsg
  filling : Option Nat
  halted : Option FaultRec
  frozen : Bool
  deriving DecidableEq, Repr

/-! ### A die and the module -/

/-- A patch's clock (R369, R371, R456): its ceiling in steps of 2.05 GHz / 32 below nominal, the stretches of its last 1,024 cycles
(the cycles since each, and its eighths), stretches counted, and the pin count. -/
structure Patch where
  below : Nat
  recent : List (Nat × Nat)
  count : Nat
  pinned : Nat
  deriving DecidableEq, Repr

/-- A die: what of it is not kept in the module's tables. -/
structure Die where
  dir : Tbl DirEntry
  l2 : Tbl L2Line
  rdc : Tbl RdcLine
  bases : Tbl RdcBases
  tlb : List TlbEnt
  walk : List WalkEnt
  misses : List Miss
  pend : List PendFault
  unrec : List Requester
  thawed : List Requester
  tlbBusy : Bool
  tlbReq : Word
  tlbHeld : List Word
  ret : Tbl Word
  switched : List Nat
  rights : Tbl Word
  tiles : Tbl TileCache
  watches : Tbl (List Nat)
  aoBuf : List OrdReq
  older : Tbl (List OrdReq)
  engines : Tbl EngQueue
  rot : Tbl Nat
  net : Net
  fltDefer : List FaultRec
  tasks : List TaskRec
  onDie : Nat
  ovf : Nat
  tmpls : Tbl Template
  queues : Tbl QueueSt
  slots : Tbl Nat
  rotQ : Nat
  reports : Tbl (List Report)
  events : Tbl EventRec
  evCount : Nat
  evFrozen : Bool
  patches : Tbl Patch
  stretches : Nat
  spillUsed : Nat
  ringBad : Bool
  preFail : Bool
  deriving DecidableEq, Repr

/-- The MESI states of a line in the host's caches (R57). -/
inductive Mesi where
  | m | e | s | i
  deriving DecidableEq, Repr

/-- A message handed to the outside: an answer to a request, a peer request, an interrupt (R54, R62, R457), or of a gang that another
device's controller starts: 0 acknowledged, 1 aborted, 2 stopped by a fault (R364, R365). -/
inductive OutMsg where
  | answer (value : Nat) (size : Nat)
  | refusedAnswer
  | retryAnswer
  | peer (port : Nat) (m : Master) (pa : Nat) (op : ExtOp)
  | msix (link vec : Nat)
  | host (link : Nat) (what : Nat) (line : Nat)
  | mctp (cmd : Byte)
  | gang (what launch die : Nat)
  deriving DecidableEq, Repr

/-- The machine. `mem` lists the bytes that are not 0 by key: the local address on this module, 2^54 plus
the domain physical address elsewhere. `mmio` holds the registers of R450 by die × 2^36 + offset, per-context
registers, `lq.table` and the module's own under die 0. `focus`, `agenda`, `nextId`, `useTick` and `free`
are the model's own: the tile whose instruction runs, messages in flight and inputs not yet taken, a
counter of names, a counter of uses, and the counter that picks free values (log 1, log 4). `peerOrder` is what the module knows of the
stream tables of peers: the least number that a stream of theirs expects, by device, context and stream (R63, R116). `bringUp` is the
step of R447 that comes next, 0 where the first has failed. -/
structure State where
  mem : List Host.Cell
  poison : List Nat
  mmio : Tbl Word
  now : Word
  locked : Bool
  sinceSync : Nat
  clocksStopped : Bool
  bringUp : Option Nat
  keysErased : Bool
  debugFails : Nat
  hostCxl : BitVec 2
  hostLines : Tbl Mesi
  peerSeq : Tbl Nat
  peerOrder : Tbl Word32
  satFlags : List Nat
  nodes : Tbl Node
  mts : Tbl Mt
  ports : Tbl InPort
  edges : Tbl Edge
  bounds : Tbl Bound
  tbars : Tbl TBar
  regions : Tbl Region
  launches : Tbl Launch
  ctxRun : Tbl CtxRun
  saves : Tbl SaveArea
  dies : Vector Die 4
  nextId : Nat
  useTick : Nat
  floorMs : Nat
  out : List OutMsg
  focus : Nat
  agenda : List Instr
  free : Nat
  deriving DecidableEq, Repr

/-- Reasons for which a step stops the machine for good. -/
inductive Fault where
  /-- Raised by every step while the clocks are stopped by the security alarm or a thermal trip and no
  reset or management access is due (R402, R456, R457). Safe: the spec lets nothing else run. -/
  | clocksStopped
  deriving DecidableEq, Repr

/-- Reasons for which the model gives no next state. -/
inductive Refusal where
  /-- Raised by exec's arm of an instruction that has no meaning yet. Safe. -/
  | notModelled (mnemonic : String)
  deriving DecidableEq, Repr

/-- A network as reset leaves it: unloaded (R309, R448). -/
def Net.reset : Net where
  owner := none
  status := 0
  assist := 0
  wm := 0
  wmn := 0
  heap := 0
  heapsz := 0
  st := 0
  stm := 0
  image := []
  nodes := []
  stamp := 0
  tokNum := 0
  stamps := []
  tokens := []
  blocks := []
  acts := []
  parked := []
  stalled := []
  open_ := false
  wave := []
  waveCtr := none
  closed := 0
  withdrawn := 0
  dropped := 0
  inbox := []
  held := []
  filling := none
  halted := none
  frozen := false

/-- A die as reset leaves it (R448). -/
def Die.reset : Die where
  dir := []
  l2 := []
  rdc := []
  bases := []
  tlb := []
  walk := []
  misses := []
  pend := []
  unrec := []
  thawed := []
  tlbBusy := false
  tlbReq := 0
  tlbHeld := []
  ret := []
  switched := []
  rights := []
  tiles := []
  watches := []
  aoBuf := []
  older := []
  engines := []
  rot := []
  net := Net.reset
  fltDefer := []
  tasks := []
  onDie := 0
  ovf := 0
  tmpls := []
  queues := []
  slots := []
  rotQ := 0
  reports := []
  events := []
  evCount := 0
  evFrozen := false
  patches := []
  stretches := 0
  spillUsed := 0
  ringBad := false
  preFail := false

/-- The registers of R6 maps whose reset value is not 0: `mod.health` with ready and both host links
trained (R447, R454; log 2), `pwr.lim` (R455), `t2.cap` and `t2.top` of eight trained ports (R459;
log 2), and `dl.wait` of each die (R393). -/
def resetMmio : Tbl Word :=
  [(0x08, 0xD000#64), (0x18, 4000#64)]
    ++ ((List.range 8).map fun p => (0x38 + 8 * p, 4096000000000#64))
    ++ [(0x78, 0x1E4D65000000#64)]
    ++ ((List.range 4).map fun d => (d * 2 ^ 36 + 0x10080, 26#64))

/-- The module right after reset, bring-up complete (R447, R448). -/
def State.reset : State where
  mem := []
  poison := []
  mmio := resetMmio
  now := 0
  locked := false
  sinceSync := 0
  clocksStopped := false
  bringUp := none
  keysErased := false
  debugFails := 0
  hostCxl := 1
  hostLines := []
  peerSeq := []
  peerOrder := []
  satFlags := []
  nodes := []
  mts := []
  ports := []
  edges := []
  bounds := []
  tbars := []
  regions := []
  launches := []
  ctxRun := []
  saves := []
  dies := Vector.replicate 4 Die.reset
  nextId := 0
  useTick := 0
  floorMs := 0
  out := []
  focus := 0
  agenda := []
  free := 0

end Sys2Proof.Machine
end

