-- ==== Sys2Proof/Machine/Mem.lean ====
section
/-! DEFINITION. The byte memory: cells in rising order of key, none of them 0, since an unlisted byte
reads 0 (R447, R448; log 3). Wider accesses are made of bytes, low byte first (R5). -/

namespace Sys2Proof.Machine

/-- The canonical form: keys strictly rising and no cell equal to what an unlisted byte reads as. -/
def Memory.wf : List Host.Cell → Bool
  | [] => true
  | [(_, x)] => x ≠ 0
  | (k, x) :: (j, y) :: t => x ≠ 0 && k < j && Memory.wf ((j, y) :: t)

/-- The byte at a key. -/
def Memory.get (k : Nat) : List Host.Cell → Byte
  | [] => 0
  | (j, x) :: t => if j = k then x else if k < j then 0 else Memory.get k t

/-- Writes the byte at a key; writing 0 removes the cell. -/
def Memory.put (k : Nat) (x : Byte) : List Host.Cell → List Host.Cell
  | [] => if x = 0 then [] else [(k, x)]
  | (j, y) :: t =>
    if k < j then (if x = 0 then (j, y) :: t else (k, x) :: (j, y) :: t)
    else if k = j then (if x = 0 then t else (k, x) :: t)
    else (j, y) :: Memory.put k x t

/-- Reads n bytes from a key on. -/
def Memory.read (m : List Host.Cell) (k : Nat) : Nat → List Byte
  | 0 => []
  | n + 1 => Memory.get k m :: Memory.read m (k + 1) n

/-- Writes bytes from a key on. -/
def Memory.write (m : List Host.Cell) (k : Nat) : List Byte → List Host.Cell
  | [] => m
  | b :: t => Memory.write (Memory.put k b m) (k + 1) t

/-- Reads n bytes from a key on as a number. -/
def State.peek (s : State) (k n : Nat) : Nat := ofBytes (Memory.read s.mem k n)

/-- Writes n bytes of a number from a key on. -/
def State.poke (s : State) (k n x : Nat) : State := { s with mem := Memory.write s.mem k (toBytes x n) }

/-- Is one of the n bytes from a key on in a poisoned 8-byte word (R80, R125)? -/
def State.poisoned (s : State) (k n : Nat) : Bool :=
  s.poison.any fun w => k < 8 * w + 8 && 8 * w < k + n

/-- A full write of an 8-byte word lifts its poison (R391). -/
def State.lift (s : State) (k n : Nat) : State :=
  { s with poison := s.poison.filter fun w => !(k ≤ 8 * w && 8 * w + 8 ≤ k + n) }

end Sys2Proof.Machine
end

