-- ==== Sys2Proof/Machine/Operands.lean ====
section
/-! DEFINITION. The operand forms: which positions an instruction accepts and of what kind, its
targets and the kind it delivers, its class (R14, R15, R17, R20, R25), from the tables of R272, R282,
R290, R300, R174, R196, R211, R328, R403, R409 to R411, R415, R421. -/

namespace Sys2Proof

/-- What a position takes, or what a result is: a scalar, a vector, or either kind (MOV, SEND). -/
inductive Kind where
  | scalar | vector | either
  deriving DecidableEq, Repr

/-- The positions that an instruction accepts: left, right and gate (R17). -/
structure Accept where
  left : Option Kind
  right : Option Kind
  gate : Option Kind
  deriving DecidableEq, Repr

/-- The pred field; an instruction with a third operand has none and always holds 0b00 (R17). -/
def Instr.pred : Instr → Pred
  | .null p .. | .mov p .. | .movi p .. | .movi32 p .. | .moviHi p .. | .exit p | .br p _ | .bri p | .call p _
  | .calli p | .ret p | .halt p | .rd p .. | .rdT p .. | .rdv p .. | .rdvT p .. | .rdp p .. | .rdpT p .. | .wr p _
  | .wrv p _ | .wrp p _ | .recv p .. | .send p _ | .sendt p _ | .tagof p .. | .settag p _ | .edgeset p _ => p
  | .add p .. | .addX p .. | .addI p .. | .sub p .. | .subX p .. | .mul p .. | .mulX p .. | .mulI p .. | .mulh p ..
  | .mulhX p .. | .div p .. | .divX p .. | .rem p .. | .remX p .. | .and p .. | .andX p .. | .andI p .. | .or p ..
  | .orX p .. | .orI p .. | .xor p .. | .xorX p .. | .xorI p .. | .andn p .. | .andnX p .. | .shl p .. | .shlX p ..
  | .shlI p .. | .shr p .. | .shrX p .. | .shrI p .. | .sar p .. | .sarX p .. | .sarI p .. | .rot p .. | .rotX p ..
  | .clz p .. | .popc p .. | .min p .. | .minX p .. | .max p .. | .maxX p .. | .cmp p .. | .cmpX p .. | .ext p ..
  | .bfx p .. | .bfxX p .. | .lea p .. | .leaX p .. => p
  | .fadd p .. | .fsub p .. | .fmul p .. | .fdiv p .. | .fsqrt p .. | .fmin p .. | .fmax p .. | .fcmp p .. | .fcvt p ..
  | .fclass p .. | .fsgn p .. | .exp2 p .. | .log2 p .. | .vadd p .. | .vsub p .. | .vmul p .. | .vmin p .. | .vmax p ..
  | .vcmp p .. | .vcvt p .. | .vexp2 p .. | .vlog2 p .. | .vrcp p .. | .vrsq p .. | .vred p .. | .vscan p .. | .vshuf p ..
  | .vbcast p .. | .vscale p .. | .vlut p .. | .viop p .. => p
  | .mcfg p | .mzero p _ | .mma p _ | .mlda p _ | .mdrain p .. | .msteer p | .mfence p => p
  | .ld p .. | .ldv p .. | .ldk p .. | .st p .. | .stv p .. | .ldvg p .. | .stvs p .. | .lda p .. | .ldb p .. | .ldn p ..
  | .atomo p .. | .fence p .. | .pref p .. | .tlbpf p .. | .ipf p .. | .ipin p .. | .iunpin p .. | .retain p ..
  | .unretain p .. | .cwb p .. | .cinv p .. => p
  | .cpy p _ | .cpym p _ | .carm p _ | .cdisarm p _ | .cfire p _ | .gath p _ | .scat p _ | .collAr p .. | .collRs p ..
  | .collAg p .. | .cadd p .. | .cwait p .. | .cread p .. | .cpoll p .. | .rngaw p .. | .rngrel p _ | .radv p _
  | .rrecl p _ | .rsetc p | .barr p _ => p
  | .wmasr p | .wmret p | .wmmod p | .wmrd p .. | .cswave p | .fdone p | .scset p | .scget p .. | .netld p | .csrd p ..
  | .trap p _ | .sysc p _ | .bkpt p _ | .mfs p .. | .mts p _ | .mark p | .sigchk p | .rndr p .. | .cycw p | .cfgsw p => p
  | _ => .always

/-- The left and right positions (R17). -/
def Instr.operands : Instr → Option Kind × Option Kind
  | .mov .. => (some .either, none)
  | .bri .. | .calli .. | .wr .. | .wrp .. | .settag .. | .edgeset .. => (some .scalar, none)
  | .wrv .. => (some .vector, none)
  | .send .. | .sendt .. => (some .either, some .scalar)
  | .add .. | .sub .. | .mul .. | .mulh .. | .div .. | .rem .. | .and .. | .or .. | .xor .. | .andn .. | .shl .. | .shr ..
  | .sar .. | .rot .. | .min .. | .max .. | .cmp .. | .sel .. | .bfx .. | .bfi .. | .lea .. => (some .scalar, some .scalar)
  | .addX .. | .addI .. | .subX .. | .mulX .. | .mulI .. | .mulhX .. | .divX .. | .remX .. | .andX .. | .andI .. | .orX ..
  | .orI .. | .xorX .. | .xorI .. | .andnX .. | .shlX .. | .shlI .. | .shrX .. | .shrI .. | .sarX .. | .sarI .. | .rotX ..
  | .clz .. | .popc .. | .minX .. | .maxX .. | .cmpX .. | .selX .. | .ext .. | .bfxX .. | .bfiX .. | .leaX .. =>
    (some .scalar, none)
  | .fadd .. | .fsub .. | .fmul .. | .fma .. | .fdiv .. | .fmin .. | .fmax .. | .fcmp .. => (some .scalar, some .scalar)
  | .fsqrt .. | .exp2 .. | .log2 .. | .fclass .. | .fcvt .. => (some .scalar, none)
  | .fsgn _ _ _ _ op => (some .scalar, if op = .cps || op = .xsg then some .scalar else none)
  | .vadd .. | .vsub .. | .vmul .. | .vfma .. | .vmin .. | .vmax .. | .vcmp .. | .vsel .. | .vshuf .. | .vscale ..
  | .vlut .. => (some .vector, some .vector)
  | .vcvt .. | .vexp2 .. | .vlog2 .. | .vrcp .. | .vrsq .. => (some .vector, none)
  | .vred .. | .vscan .. => (some .vector, some .scalar)
  | .vbcast .. => (some .scalar, none)
  | .viop _ _ _ _ op => (some .vector, if op = .popc || op = .clz then none else some .vector)
  | .mcfg .. | .mma .. | .mlda .. => (some .scalar, some .scalar)
  | .mdrain _ _ _ toReg => (if toReg then some .scalar else none, none)
  | .msteer .. => (some .scalar, none)
  | .ld .. | .ldv .. | .ldk .. | .lda .. | .pref .. | .tlbpf .. => (some .scalar, none)
  | .st .. | .ldb .. | .ldn .. | .atom .. | .atomo .. | .ipf .. | .ipin .. | .iunpin .. | .retain .. | .cwb .. | .cinv .. =>
    (some .scalar, some .scalar)
  | .stv .. | .ldvg .. | .stvs .. => (some .scalar, some .vector)
  | .cpy .. | .cpym .. | .carm .. | .cfire .. | .gath .. | .scat .. | .collAr .. | .collRs .. | .collAg .. =>
    (some .scalar, none)
  | .cdisarm .. | .cadd .. | .cwait .. | .cpoll .. | .rngaw .. | .rngrel .. | .rrecl .. | .rsetc .. | .barr .. =>
    (some .scalar, some .scalar)
  | .cread .. | .radv .. => (some .scalar, none)
  | .wmasr .. | .wmmod .. => (some .vector, none)
  | .wmret .. | .wmrd .. | .csrd .. => (some .scalar, none)
  | .cswave .. | .scset .. | .scget .. | .netld .. => (some .scalar, some .scalar)
  | .mts .. | .cycw .. => (some .scalar, none)
  | _ => (none, none)

/-- The third operand of the six instructions that take one (R17); ATOM's for cas alone (R186). -/
def Instr.third : Instr → Option Kind
  | .fma .. | .sel .. | .selX .. | .vsel .. | .bfi .. | .bfiX .. => some .scalar
  | .vfma .. => some .vector
  | .atom _ _ op _ _ => if op = .cas then some .scalar else none
  | _ => none

/-- The positions accepted, the predicate among them (R15, R17). -/
def Instr.accept (i : Instr) : Accept :=
  ⟨i.operands.1, i.operands.2, if i.pred = .always then i.third else some .scalar⟩

/-- The target fields of an instruction that delivers a result. -/
def Instr.targets : Instr → List Tgt
  | .null _ t u | .mov _ t u | .movi32 _ t u .. | .moviHi _ t u _ | .rd _ t u _ | .rdT _ t u _ | .rdv _ t u _ | .rdvT _ t u _
  | .rdp _ t u _ | .rdpT _ t u _ | .recv _ t u _ | .tagof _ t u _ => [t, u]
  | .movi _ t _ => [t]
  | .add _ t u .. | .addX _ t u .. | .sub _ t u .. | .subX _ t u .. | .mul _ t u .. | .mulX _ t u .. | .mulh _ t u ..
  | .mulhX _ t u .. | .div _ t u .. | .divX _ t u .. | .rem _ t u .. | .remX _ t u .. | .and _ t u .. | .andX _ t u ..
  | .or _ t u .. | .orX _ t u .. | .xor _ t u .. | .xorX _ t u .. | .andn _ t u .. | .andnX _ t u .. | .shl _ t u ..
  | .shlX _ t u .. | .shr _ t u .. | .shrX _ t u .. | .sar _ t u .. | .sarX _ t u .. | .rot _ t u .. | .rotX _ t u ..
  | .clz _ t u .. | .popc _ t u .. | .min _ t u .. | .minX _ t u .. | .max _ t u .. | .maxX _ t u .. | .cmp _ t u ..
  | .cmpX _ t u .. | .sel t u .. | .selX t u .. | .ext _ t u .. | .bfx _ t u .. | .bfxX _ t u .. | .bfi t u .. | .bfiX t u ..
  | .lea _ t u .. | .leaX _ t u .. => [t, u]
  | .addI _ t _ | .mulI _ t _ | .andI _ t _ | .orI _ t _ | .xorI _ t _ | .shlI _ t _ | .shrI _ t _ | .sarI _ t _ => [t]
  | .fadd _ t u .. | .fsub _ t u .. | .fmul _ t u .. | .fma t u .. | .fdiv _ t u .. | .fsqrt _ t u .. | .fmin _ t u ..
  | .fmax _ t u .. | .fcmp _ t u .. | .fcvt _ t u .. | .fclass _ t u .. | .fsgn _ t u .. | .exp2 _ t u .. | .log2 _ t u ..
  | .vadd _ t u .. | .vsub _ t u .. | .vmul _ t u .. | .vfma t u .. | .vmin _ t u .. | .vmax _ t u .. | .vcmp _ t u ..
  | .vsel t u .. | .vcvt _ t u .. | .vexp2 _ t u .. | .vlog2 _ t u .. | .vrcp _ t u .. | .vrsq _ t u .. | .vred _ t u ..
  | .vscan _ t u .. | .vshuf _ t u | .vbcast _ t u .. | .vscale _ t u .. | .vlut _ t u .. | .viop _ t u .. => [t, u]
  | .ld _ t .. | .ldv _ t .. | .ldk _ t .. | .ldvg _ t .. | .ldb _ t .. | .ldn _ t .. => [t]
  | .cpoll _ t u .. | .rngaw _ t u _ | .wmrd _ t u | .scget _ t u | .csrd _ t u | .rndr _ t u => [t, u]
  | .mfs _ t _ => [t]
  | _ => []

/-- The kind of the result; MOV's is that of its operand, and a null suits every position. -/
def Instr.resultKind : Instr → Kind
  | .null .. | .mov .. => .either
  | .rdv .. | .rdvT .. | .recv .. | .vadd .. | .vsub .. | .vmul .. | .vfma .. | .vmin .. | .vmax .. | .vsel .. | .vcvt ..
  | .vexp2 .. | .vlog2 .. | .vrcp .. | .vrsq .. | .vscan .. | .vshuf .. | .vbcast .. | .vscale .. | .vlut .. | .viop .. => .vector
  | .ldv .. | .ldvg .. | .wmrd .. => .vector
  | .ldk _ _ _ _ vec _ => if vec then .vector else .scalar
  | _ => .scalar

/-- Does the instruction deliver a result to targets? -/
def Instr.hasResult (i : Instr) : Bool := !i.targets.isEmpty

/-- The exit class (R14, R403). -/
def Instr.isExit : Instr → Bool
  | .br .. | .bri .. | .call .. | .calli .. | .ret .. | .exit .. | .halt .. => true
  | _ => false

/-- The store class (R14). -/
def Instr.isStore : Instr → Bool
  | .st .. | .stv .. | .stvs .. => true
  | _ => false

/-- WR, WRV and WRP (R23). -/
def Instr.isWrite : Instr → Bool
  | .wr .. | .wrv .. | .wrp .. => true
  | _ => false

/-- The LSID of a memory-class slot other than FENCE (R25). -/
def Instr.lsid : Instr → Option Nat
  | .ld _ _ w _ | .ldv _ _ w .. | .ldk _ _ w .. | .st _ w _ | .stv _ w .. | .ldvg _ _ w .. | .stvs _ w .. | .lda _ w ..
  | .ldb _ _ w .. | .ldn _ _ w .. | .atom w .. | .atomo _ w .. | .pref _ w .. | .tlbpf _ w .. | .ipf _ w .. | .ipin _ w ..
  | .iunpin _ w .. | .retain _ w .. | .unretain _ w .. | .cwb _ w .. | .cinv _ w .. => some w.lsid.toNat
  | _ => none

/-- The rounding modifier of the instructions that take R39 (R271). -/
def Instr.rounding : Instr → Option Rnd
  | .fadd _ _ _ _ md | .fsub _ _ _ _ md | .fmul _ _ _ _ md | .fma _ _ _ md | .fdiv _ _ _ _ md | .fsqrt _ _ _ _ md
  | .fcvt _ _ _ _ _ md | .exp2 _ _ _ _ md | .log2 _ _ _ _ md | .vadd _ _ _ _ md | .vsub _ _ _ _ md | .vmul _ _ _ _ md
  | .vfma _ _ _ md | .vcvt _ _ _ _ _ md | .vexp2 _ _ _ _ md | .vlog2 _ _ _ _ md | .vrcp _ _ _ _ md
  | .vrsq _ _ _ _ md => some md.rnd
  | _ => none

/-- Is it a vector instruction, which reserves 32 draws (R246)? -/
def Instr.isVec : Instr → Bool
  | .vadd .. | .vsub .. | .vmul .. | .vfma .. | .vcvt .. | .vexp2 .. | .vlog2 .. | .vrcp .. | .vrsq .. => true
  | _ => false

/-- The draw numbers that a slot reserves (R246, R271). -/
def Instr.draws (i : Instr) : Nat := if i.rounding = some .sr then (if i.isVec then 32 else 1) else 0

/-- Instructions that R372 leaves uncounted whatever the port: none may stand in a T block (R373). -/
def Instr.uncounted : Instr → Bool
  | .mfs _ _ r => r ≠ 0x100#12
  | .mts _ r => !(0x300 ≤ r.toNat && r.toNat ≤ 0x3FF)
  | .fence .. | .cpy .. | .cpym .. | .carm .. | .cdisarm .. | .cfire .. | .gath .. | .scat .. | .collAr .. | .collRs ..
  | .collAg .. | .cadd .. | .cwait .. | .cread .. | .cpoll .. | .rngaw .. | .rngrel .. | .radv .. | .rrecl .. | .rsetc ..
  | .barr .. | .wmasr .. | .wmret .. | .wmmod .. | .wmrd .. | .cswave .. | .fdone .. | .scset .. | .scget .. | .netld ..
  | .csrd .. | .rndr .. | .cycw .. | .mark .. | .sigchk .. | .cfgsw .. => true
  | i => i.lsid.isSome

/-- The port that a port instruction names and whether it is an input (R411). -/
def Instr.port : Instr → Option (Bool × Nat)
  | .recv _ _ _ n | .tagof _ _ _ n => some (true, n.toNat)
  | .send _ n | .sendt _ n | .settag _ n | .edgeset _ n => some (false, n.toNat)
  | _ => none

end Sys2Proof
end

