-- ==== Sys2Proof/Machine/Ops.lean ====
section
/-! DEFINITION. The node at work: its slots and values (R20 to R22), free values, firing, settling and
resolving a slot, and the trap that a node takes (R417 to R419): one operation for every precise trap. -/

namespace Sys2Proof.Machine

/-! ### Free values -/

/-- A free number below n, and the state with the free-value counter advanced (log 1). -/
def State.pick (s : State) (n : Nat) : Nat × State :=
  (Config.freeNat s.free % n, { s with free := s.free + 1 })

/-- A free 64-bit value (log 1). -/
def State.pickWord (s : State) : Word × State :=
  (Config.freeWord s.free, { s with free := s.free + 1 })

/-! ### Vectors and bits of the state -/

/-- Element i of a vector of the state, or a stated value beyond its end. -/
def vget {α : Type} {n : Nat} (v : Vector α n) (i : Nat) (d : α) : α := (v.toList[i]?).getD d

/-- Writes element i of a vector of the state; nothing beyond its end. -/
def vset {α : Type} {n : Nat} (v : Vector α n) (i : Nat) (x : α) : Vector α n := v.setIfInBounds i x

/-- Sets or clears bit i. -/
def bitSet {w : Nat} (x : BitVec w) (i : Nat) (b : Bool) : BitVec w :=
  if b then x ||| BitVec.ofNat w (2 ^ i) else x &&& ~~~(BitVec.ofNat w (2 ^ i))

/-! ### Values and slots -/

/-- A value taken as a scalar. -/
def Val.word : Val → Word
  | .scalar x => x
  | .vector v => v.setWidth 64
  | .null => 0

/-- A value taken as a vector; a scalar fills bits [63:0] (R413). -/
def Val.vec : Val → Vec
  | .scalar x => x.setWidth 1024
  | .vector v => v
  | .null => 0

/-- A slot at block start (R20). -/
def SlotRt.empty : SlotRt := ⟨none, none, none, .waiting, 0⟩

/-- The scalar at the left input. -/
def SlotRt.l (r : SlotRt) : Word := (r.left.getD .null).word
/-- The scalar at the right input. -/
def SlotRt.r (r : SlotRt) : Word := (r.right.getD .null).word
/-- The scalar at the gate input. -/
def SlotRt.g (r : SlotRt) : Word := (r.gate.getD .null).word
/-- The vector at the left input. -/
def SlotRt.lv (r : SlotRt) : Vec := (r.left.getD .null).vec
/-- The vector at the right input. -/
def SlotRt.rv (r : SlotRt) : Vec := (r.right.getD .null).vec
/-- The vector at the gate input. -/
def SlotRt.gv (r : SlotRt) : Vec := (r.gate.getD .null).vec

/-- The input that a target code names (R17). -/
def SlotRt.input (r : SlotRt) (c : BitVec 2) : Option Val :=
  if c = 1 then r.left else if c = 2 then r.right else r.gate

/-- A value arrives at an input at a cycle. -/
def SlotRt.fill (r : SlotRt) (c : BitVec 2) (v : Val) (cyc : Nat) : SlotRt :=
  let r := { r with arr := Nat.max r.arr cyc }
  if c = 1 then { r with left := some v } else if c = 2 then { r with right := some v }
  else { r with gate := some v }

/-- Does an input hold a null (R21)? -/
def SlotRt.hasNull (r : SlotRt) : Bool :=
  r.left = some .null || r.right = some .null || r.gate = some .null

/-- Has every position that the instruction accepts a value (R20)? -/
def SlotRt.full (r : SlotRt) (a : Accept) : Bool :=
  (a.left.isNone || r.left.isSome) && (a.right.isNone || r.right.isSome) && (a.gate.isNone || r.gate.isSome)

/-- The consumer slot of a target field (R17). -/
def tgtSlot (t : Tgt) : Nat := (t.extractLsb' 0 5).toNat

/-- The input code of a target field (R17). -/
def tgtCode (t : Tgt) : BitVec 2 := t.extractLsb' 5 2

/-! ### Blocks -/

/-- No block. -/
def Blk.empty : Blk where
  header := 0
  words := []
  sched := []
  slots := Vector.replicate 32 SlotRt.empty
  sleep := []
  effs := []
  exit := none
  start := 0
  timed := false
  stepStart := 0

/-- Slot n. -/
def Blk.slotAt (b : Blk) (n : Nat) : SlotRt := vget b.slots n SlotRt.empty

/-- Replaces slot n. -/
def Blk.setSlot (b : Blk) (n : Nat) (r : SlotRt) : Blk := { b with slots := vset b.slots n r }

/-- Slot count (R14). -/
def Blk.size (b : Blk) : Nat := field b.header.toNat 59 55 + 1

/-- Word n of the block. -/
def Blk.word (b : Blk) (n : Nat) : Word32 := (b.words[n]?).getD 0

/-- Is word n the second word of an X instruction (R19)? Scans the words from slot 0. -/
def secondAt : List Word32 → Nat → Bool
  | [], _ => false
  | w :: t, n =>
    if takesTwo w then
      match t, n with
      | _, 0 => false
      | _, 1 => true
      | [], _ + 2 => false
      | _ :: t', n + 2 => secondAt t' n
    else
      match n with
      | 0 => false
      | n + 1 => secondAt t n

/-- Does slot n hold an instruction: is it within the block and no second word? -/
def Blk.isSlot (b : Blk) (n : Nat) : Bool := n < b.size && !secondAt b.words n

/-- The instruction of slot n. -/
def Blk.instr (b : Blk) (n : Nat) : Option Instr :=
  if b.isSlot n then
    match decode (b.word n) (b.word (n + 1)) with
    | .ok i => some i
    | .error _ => none
  else none

/-- The instructions of a block with their slots. -/
def Blk.instrs (b : Blk) : List (Nat × Instr) :=
  (List.range b.size).filterMap fun n => (b.instr n).map fun i => (n, i)

/-- Is slot n in the owed map (R14)? -/
def Blk.owed (b : Blk) (n : Nat) : Bool := n < 32 && b.header.getLsbD n

/-- Sets a slot's state. -/
def Blk.mark (b : Blk) (n : Nat) (st : SlotSt) : Blk := b.setSlot n { b.slotAt n with st := st }

/-- Delivers a value to targets in order; a position that holds a value already is named (R20). -/
def Blk.deliver (b : Blk) (v : Val) (cyc : Nat) : List Tgt → Except Nat Blk
  | [] => .ok b
  | t :: ts =>
    if tgtCode t = 0 then Blk.deliver b v cyc ts
    else
      let r := b.slotAt (tgtSlot t)
      match r.input (tgtCode t) with
      | some _ => .error (tgtSlot t)
      | none => Blk.deliver (b.setSlot (tgtSlot t) (r.fill (tgtCode t) v cyc)) v cyc ts

/-- Has slot n not been decided? -/
def Blk.waiting (b : Blk) (n : Nat) : Bool := (b.slotAt n).st = .waiting

/-- Is every exit-class slot resolved or fired, with no exit (R22)? -/
def Blk.noExit (b : Blk) : Bool :=
  b.exit.isNone && b.instrs.all fun p => !p.2.isExit || !b.waiting p.1

/-- Can a value still come at the position of a slot that an input code names: is a producer of it not
resolved without firing (R20)? -/
def Blk.alive (b : Blk) (n : Nat) (c : BitVec 2) : Bool :=
  b.instrs.any fun p =>
    (b.slotAt p.1).st ≠ .resolved && p.2.targets.any fun t => tgtCode t = c && tgtSlot t = n

/-- Is slot n waiting at a position that can no longer receive a value (R20)? -/
def Blk.dead (b : Blk) (n : Nat) (a : Accept) : Bool :=
  let r := b.slotAt n
  (a.left.isSome && r.left.isNone && !b.alive n 1) || (a.right.isSome && r.right.isNone && !b.alive n 2)
    || (a.gate.isSome && r.gate.isNone && !b.alive n 3)

/-- Does slot n hold a predicate that does not match, and no null (R20, R21)? Such a slot is resolved at once. -/
def Blk.unmatched (b : Blk) (n : Nat) (i : Instr) : Bool :=
  let r := b.slotAt n
  i.pred ≠ .always && r.gate.isSome && !r.hasNull && !i.pred.matches r.g

/-- Is the block complete, with every slot decided (R23; log 6)? -/
def Blk.complete (b : Blk) : Bool :=
  b.exit.isSome && b.instrs.all fun p => !b.waiting p.1

/-! ### Places -/

/-- The die of a tile. -/
def dieOf (t : Nat) : Nat := t / 1024

/-- A die of the module. -/
def State.die (s : State) (d : Nat) : Die := vget s.dies d Die.reset

/-- Changes a die. -/
def State.setDie (s : State) (d : Nat) (x : Die) : State := { s with dies := vset s.dies d x }

/-- Changes a die by a function. -/
def State.modDie (s : State) (d : Nat) (f : Die → Die) : State := s.setDie d (f (s.die d))

/-- The node of a tile. -/
def State.node? (s : State) (t : Nat) : Option Node := Tbl.get? t s.nodes

/-- Writes the node of a tile. -/
def State.setNode (s : State) (t : Nat) (n : Node) : State := { s with nodes := s.nodes.set t n }

/-- Changes the node of a tile, where there is one. -/
def State.modNode (s : State) (t : Nat) (f : Node → Node) : State := { s with nodes := s.nodes.modify t f }

/-- The node whose instruction runs. -/
def State.here (s : State) : Option Node := s.node? s.focus

/-- Writes the node whose instruction runs. -/
def State.putHere (s : State) (n : Node) : State := s.setNode s.focus n

/-- Changes a region. -/
def State.modRegion (s : State) (h : Nat) (f : Region → Region) : State :=
  { s with regions := s.regions.modify h f }

/-- Adds a message in flight or an input to be taken. -/
def State.post (s : State) (i : Instr) : State := { s with agenda := s.agenda ++ [i] }

/-- Hands a message to the outside. -/
def State.hand (s : State) (m : OutMsg) : State := { s with out := s.out ++ [m] }

/-- A fresh number for a name inside the model. -/
def State.fresh (s : State) : Nat × State := (s.nextId, { s with nextId := s.nextId + 1 })

/-- A register of R450 by die and offset. -/
def State.mmioAt (s : State) (d off : Nat) : Word := s.mmio.getD (d * 2 ^ 36 + off) 0

/-- Writes a register of R450; the value 0 is not listed, so that equal registers are equal data. -/
def State.setMmio (s : State) (d off : Nat) (x : Word) : State :=
  { s with mmio := if x = 0 then s.mmio.erase (d * 2 ^ 36 + off) else s.mmio.set (d * 2 ^ 36 + off) x }

/-- Offset of a context's entry in the r-th array of the per-context group (R450): 0 `tr.root`,
1 `ctx.cfg`, 2 `ctx.assist.set`, 3 `ctx.sat.clr`, 4 `trap.dflt`, 5 `sys.vec`, 6 `dbg.en`,
7 `ctx.seed.set`, 8 `rr.base`. -/
def ctxOff (c : BitVec 12) (r : Nat) : Nat := 0x100000 + 0x8000 * r + 8 * c.toNat

/-! ### Nodes -/

/-- Does the node count as privileged (R352, R418)? -/
def Node.priv (n : Node) : Bool := n.mode.getLsbD 2 || (n.tr.act && n.sysEntry)

/-- Does the node stand in a region or task that keeps cuts (R387)? -/
def Node.keepsCuts (n : Node) : Bool := n.mode.getLsbD 1 || n.repMode ≠ 1

/-- Is the node a shadow (R375)? -/
def Node.shadow (n : Node) : Bool := n.repMode ≠ 1 && !n.red.lead

/-- May the node run at all? -/
def Node.runs (n : Node) : Bool := n.stop.isNone && !n.gated && n.phase ≠ .ended

/-- Issue cycle of a slot (R374); outside T blocks the current cycle. -/
def Node.issueCyc (n : Node) (k : Nat) : Nat :=
  if n.blk.timed then n.blk.start + ((n.blk.sched[k]?).getD 0).toNat % 4096 else n.cyc.toNat

/-- Abandons the block (R27): nothing of it stays, and the node is to fetch at an address. -/
def Node.abandon (n : Node) (pc : Word) : Node :=
  { n with blk := Blk.empty, issued := false, phase := .fetch, pc := pc, ready := none }

/-! ### Causes and records -/

/-- The cause codes of R383. -/
def Cause.code : Cause → Nat
  | .illegal => 0x01 | .block => 0x02 | .exit => 0x03 | .notReady => 0x04 | .align => 0x05 | .address => 0x06
  | .translation => 0x07 | .access => 0x08 | .accessLate => 0x09 | .privilege => 0x0A | .round => 0x0B
  | .roundReclaimed => 0x0C | .roundOverrun => 0x0D | .command => 0x0E | .ring => 0x0F | .rule => 0x10
  | .config => 0x11 | .timing => 0x12 | .token => 0x13 | .tag => 0x14 | .steer => 0x15 | .px8 => 0x16
  | .matrix => 0x17 | .engine => 0x18 | .orderedAtomic => 0x19 | .linkTimeout => 0x1A | .mtRange => 0x1B
  | .mtSequence => 0x1C | .network => 0x1D | .taskRecord => 0x1E | .configSwitch => 0x1F
  | .translationAbort => 0x20 | .uncorrectable => 0x21 | .mismatch => 0x22 | .vote => 0x23 | .deadlock => 0x24
  | .configLoad => 0x25 | .spill => 0x26 | .trap => 0x30 | .sysc => 0x31 | .bkpt => 0x32

/-- The record of a fault of a node (R382). -/
def Node.record (n : Node) (now : Word) (c : Cause) (prec : BitVec 2) (addr : Word) (detail : Word32)
    (unit : Nat) : FaultRec :=
  ⟨c, prec, false, n.ctx, n.tile, n.region, addr, detail, n.cfgSeq, unit, now⟩

/-- Does the cause put an address into `trap.addr` (R416)? -/
def Cause.hasAddr (c : Cause) : Bool := c = .align || c = .address || c = .access

/-- The value of `trap.cause` (R416). -/
def causeWord (c : Cause) (slot : Nat) (sys : Bool) (code : Nat) : Word :=
  BitVec.ofNat 64 (c.code + 2 ^ 8 * (slot % 256) + 2 ^ 16 * b2n sys + 2 ^ 32 * (code % 2 ^ 15))

/-- Trap entry at a node (R417): the frame, act, and the handler's block as the next. -/
def Node.enterTrap (n : Node) (c : Cause) (slot code : Nat) (addr epc vec : Word) : Node :=
  { n.abandon vec with
    tr := { n.tr with
      epc := epc
      cause := causeWord c slot (c = .sysc) code
      addr := if c.hasAddr then addr else 0
      act := true }
    sysEntry := c = .sysc }

/-- The element stops with a record of its own, which its region controller writes once the region has
come to rest (R385). Resumption continues at an address. -/
def Node.freeze (n : Node) (r : FaultRec) (pc : Word) : Node := { n.abandon pc with stop := some (.fault r) }

/-- `sys.vec[c]`, the block that SYSC enters (R417). -/
def State.sysVec (s : State) (ctx : BitVec 12) : Word := s.mmioAt 0 (ctxOff ctx 5)

/-- Taking a trap (R417 to R419), the one operation for all of them. A trap under act = 1 freezes the
node with prec 0b11; one without a handler freezes it with prec 0b00; every other enters the handler. A
SYSC goes to `sys.vec[c]`, and without one it is recorded as the privilege trap, act = 1 or not. -/
def State.takeTrap (s : State) (t : Nat) (c : Cause) (slot code : Nat) (addr epc : Word) : State :=
  match s.node? t with
  | none => s
  | some n =>
    let vec := if c = .sysc then s.sysVec n.ctx else n.tr.vec
    let own := if c = .sysc && vec = 0 then .privilege else c
    let recd := if c.hasAddr then addr else 0
    if n.tr.act then s.setNode t (n.freeze (n.record s.now own 3 recd 0 0) epc)
    else if vec = 0 then s.setNode t (n.freeze (n.record s.now own 0 recd 0 0) epc)
    else s.setNode t (n.enterTrap c slot code addr epc vec)

/-- A precise trap of a slot (R27): the block is abandoned, and the saved pc is its header. -/
def State.precise (s : State) (t : Nat) (c : Cause) (slot : Nat) (addr : Word) : State :=
  match s.node? t with
  | none => s
  | some n => s.takeTrap t c slot 0 addr n.pc

/-- A precise trap of the slot whose instruction runs. -/
def State.trapHere (s : State) (c : Cause) (addr : Word) : State :=
  match s.here with
  | none => s
  | some n => s.precise s.focus c n.slot addr

/-! ### Firing -/

/-- The running slot fires: its state is set and the instruction is done. -/
def Node.fired (n : Node) (b : Blk) (st : SlotSt) : Node :=
  { n with blk := b.mark n.slot st, issued := false }

/-- The instruction cannot act yet: its slot waits again. In a T block it misses its cycle (R374). -/
def State.retry (s : State) : State :=
  match s.here with
  | none => s
  | some n => if n.blk.timed then s.trapHere .timing 0 else s.putHere { n with issued := false }

/-- The running slot fires and delivers a value to its targets (R20). The block fault of a second value names the slot that it
arrives at (DESIGN CHOICE, log 58). -/
def State.emit (s : State) (i : Instr) (v : Val) : State :=
  match s.here with
  | none => s
  | some n =>
    match n.blk.deliver v (n.issueCyc n.slot + Config.latency i) i.targets with
    | .error k => s.precise s.focus .block k 0
    | .ok b => s.putHere (n.fired b .fired)

/-- The running slot fires and holds acts for a step of its block's commit (R24). -/
def State.hold (s : State) (step key : Nat) (acts : List Act) : State :=
  match s.here with
  | none => s
  | some n =>
    s.putHere (n.fired { n.blk with effs := n.blk.effs ++ [⟨n.slot, step, key, acts⟩] } .fired)

/-- Adds acts for a step of the commit that the running slot holds besides its result. -/
def State.withEff (s : State) (step key : Nat) (acts : List Act) : State :=
  match s.here with
  | none => s
  | some n => s.putHere { n with blk := { n.blk with effs := n.blk.effs ++ [⟨n.slot, step, key, acts⟩] } }

/-- Every exit-class slot is decided and none has exited: the exit fault (R22). -/
def State.checkExit (s : State) (i : Instr) (n : Node) : State :=
  if i.isExit && n.blk.noExit then s.precise s.focus .exit n.slot 0 else s.putHere n

/-- A slot that holds a null settles (R21). -/
def State.settle (s : State) (i : Instr) : State :=
  match s.here with
  | none => s
  | some n =>
    match n.blk.deliver .null (n.issueCyc n.slot + Config.latency i) i.targets with
    | .error k => s.precise s.focus .block k 0
    | .ok b => s.checkExit i (n.fired b .settled)

/-- A slot is resolved without firing (R20). An owed one that holds no null raises the block fault (R23); one that holds a null
and waits at a position that is dead counts as decided (DESIGN CHOICE, log 58). -/
def State.resolve (s : State) (i : Instr) : State :=
  match s.here with
  | none => s
  | some n =>
    if n.blk.owed n.slot && !(n.blk.slotAt n.slot).hasNull then s.precise s.focus .block n.slot 0
    else s.checkExit i (n.fired n.blk .resolved)

/-- An instruction at its slot (R20, R21): it settles on a null, is resolved where its predicate does
not match, and otherwise has its effect. A null that came before a predicate that does not match wins, once every input is
filled (DESIGN CHOICE, log 58). -/
def State.fire (s : State) (i : Instr) (eff : Node → SlotRt → State) : State :=
  match s.here with
  | none => s
  | some n =>
    let r := n.blk.slotAt n.slot
    if r.hasNull then s.settle i
    else if i.pred ≠ .always && !i.pred.matches r.g then s.resolve i
    else eff n r

/-- The common shape: the slot fires and emits a value computed from its operands. -/
def State.compute (s : State) (i : Instr) (f : SlotRt → Val) : State :=
  s.fire i fun _ r => s.emit i (f r)

/-! ### Values forwarded between replicas (R380) -/

/-- Does a node of another replica stand for the same logical node? -/
def Node.isTwin (n m : Node) : Bool :=
  m.launch = n.launch && m.stream = n.stream && m.rep ≠ n.rep && m.repMode ≠ 1 && m.phase ≠ .ended && m.bornAt = n.bornAt

/-- Nodes of the other replicas of a node's launch that stand for the same logical node. -/
def State.twins (s : State) (n : Node) : List (Nat × Node) := s.nodes.filter fun p => n.isTwin p.2

/-- Sends something to a node's twins by tile; for one whose region is pre-empted it waits with the saved region. -/
def State.toTwins (s : State) (n : Node) (f : Nat → Instr) : State :=
  let s := (s.twins n).foldl (fun s p => s.post (f p.1)) s
  { s with saves := s.saves.map fun a =>
    (a.1, { a.2 with mail := a.2.mail ++ (if a.2.out then (a.2.saved.nodes.filter fun p => n.isTwin p.2).map fun p => f p.1 else []) }) }

/-- Is a record that waits for a CT one of another replica of a node's task? -/
def Node.isQueuedTwin (n : Node) (r : TaskRec) : Bool :=
  n.repMode ≠ 1 && n.task.isSome && r.id = n.bornAt && r.launch = some n.launch && !r.cancelled

/-- Changes the records of the other replicas of a node's task that still wait for a CT. -/
def State.modQueued (s : State) (n : Node) (f : TaskRec → TaskRec) : State :=
  { s with dies := s.dies.map fun d => { d with tasks := d.tasks.map fun r => if n.isQueuedTwin r then f r else r } }

/-- Sends a value that the leader observed to its shadows; for a task's replica that waits for a CT it is kept. -/
def State.forward (s : State) (n : Node) (k : FwdKey) (x : Vec) : State :=
  if n.repMode ≠ 1 && n.red.lead then
    (s.toTwins n fun t => .forwardedValueArrive t k x).modQueued n fun r =>
      { r with fwd := (r.fwd.filter fun p => p.1 ≠ k) ++ [(k, x)] }
  else s

/-- The forwarded value of a name, where it has come. -/
def Node.forwarded (n : Node) (k : FwdKey) : Option Vec :=
  (n.fwd.find? fun p => p.1 = k).map (·.2)

/-- The name of a value observed by the running slot. -/
def Node.fwdKey (n : Node) (part : Nat) : FwdKey := ⟨n.blocks, n.slot, part⟩

end Sys2Proof.Machine
end

