-- ==== Sys2Proof/Machine/Map.lean ====
section
/-! DEFINITION. Physical addresses: the domain map, the local map and the homes of R51 to R53, R59, R60,
R76 to R79, and the routes of R460. -/

namespace Sys2Proof.Machine

/-- Where an address is homed: a slice of a die (own is false for the proxy slice of host memory), an
MT, a die's MMIO block, a peer; or a place that refuses it, by die and access target. -/
inductive Home where
  | slice (die slice : Nat)
  | proxy (link slice : Nat)
  | tile (t off : Nat)
  | mmio (die off : Nat)
  | peer (dev : Nat)
  | refuse (die target : Nat)
  deriving DecidableEq, Repr

/-- The module's domain device number (R460). -/
def State.dom (s : State) : Nat := (s.mmioAt 0 0x80).toNat % 512

/-- The key under which a domain physical address is held. -/
def State.key (s : State) (pa : Nat) : Nat := if pa / 2 ^ 45 = s.dom then pa % 2 ^ 45 else 2 ^ 54 + pa

/-- The key of a byte of a system device (R66, R199): of a device of the own domain the byte of its domain address. -/
def State.awayKey (s : State) (dev a : Nat) : Nat :=
  let g := Config.domainOf dev
  if g < 512 && g ≠ s.dom then s.key (g * 2 ^ 45 + a) else 2 ^ 60 + dev * 2 ^ 45 + a

/-- A local address of this module as a domain physical address (R51). -/
def State.global (s : State) (a : Nat) : Nat := s.dom * 2 ^ 45 + a

/-- The slice hash of R79. -/
def sliceOf (a : Nat) : Nat :=
  field a 11 7 ^^^ field a 19 15 ^^^ field a 27 23 ^^^ field a 35 31 ^^^ field a 43 39

/-- Is the HBM interleave die-banked (R77)? -/
def State.banked (s : State) : Bool := (s.mmioAt 0 0x10).getLsbD 0

/-- The HBM stack of a local address (R78). -/
def State.stackOf (s : State) (a : Nat) : Nat :=
  if s.banked then
    let d := a / 128000000000
    2 * d + (a - d * 128000000000) / 4096 % 2
  else a / 4096 % 8

/-- The address of an HBM local address within its stack (R78). -/
def State.stackAddr (s : State) (a : Nat) : Nat :=
  if s.banked then (a % 128000000000) / 8192 * 4096 + a % 128000000000 % 4096 else a / 32768 * 4096 + a % 4096

/-- The second-tier port of a local address (R53). -/
def portOf (a : Nat) : Nat := (a - 0x8000000000) / 4096 % 8

/-- Did the port of a second-tier address fail to train, so that it has no memory (R60, R459)? -/
def State.portAbsent (s : State) (a : Nat) : Bool := s.mmioAt 0 (0x38 + 8 * portOf a) = 0

/-- The home of a local address (R52, R53, R76, R459) for a requester on a die. -/
def State.homeOf (s : State) (d a : Nat) : Home :=
  if a < 512000000000 then .slice (s.stackOf a / 2) (sliceOf a)
  else if a < 0x8000000000 then .refuse (a / 4096 % 8 / 2) (sliceOf a)
  else if a < 0x1E8000000000 then
    if (s.mmioAt 0 0x78).toNat ≤ a || s.portAbsent a then .refuse (portOf a / 2) (sliceOf a)
    else .slice (portOf a / 2) (sliceOf a)
  else if a < 0x1F0000000000 then .proxy 0 (sliceOf a)
  else if a < 0x1F8000000000 then .proxy 1 (sliceOf a)
  else if a < 0x1F8100000000 then
    let o := a - 0x1F8000000000
    let x := field o 24 20
    let y := field o 29 25
    let t := o / 2 ^ 30 * 1024 + x * 32 + y
    if x % 2 = y % 2 then .refuse (o / 2 ^ 30) 38
    else if 0xC0000 ≤ o % 2 ^ 20 then .refuse (o / 2 ^ 30) (64 + y * 16 + x / 2)
    else .tile t (o % 2 ^ 20)
  else if a < 0x1FC000000000 then .refuse d 38
  else .mmio ((a - 0x1FC000000000) / 2 ^ 36) ((a - 0x1FC000000000) % 2 ^ 36)

/-- The home of a domain physical address for a requester on a die (R51). -/
def State.home (s : State) (d pa : Nat) : Home :=
  if pa / 2 ^ 45 = s.dom then s.homeOf d (pa % 2 ^ 45) else .peer (pa / 2 ^ 45)

/-- The peer port of a domain device, where a route is set (R460). -/
def State.route (s : State) (dev : Nat) : Option Nat :=
  let r := s.mmioAt 0 (0x2000000 + 8 * dev)
  if r.getLsbD 63 then some (r.toNat % 16) else none

/-- The peer port of a system device, where a route is set (R460). -/
def State.sroute (s : State) (dev : Nat) : Option Nat :=
  let r := s.mmioAt 0 (0x2001000 + 8 * dev)
  if r.getLsbD 63 then some (r.toNat % 16) else none

/-- Is the tile a CT (R432)? -/
def isCt (t : Nat) : Bool := t / 32 % 32 % 2 = t % 32 % 2

/-- Column and row of a tile on its die. -/
def tileX (t : Nat) : Nat := t / 32 % 32
def tileY (t : Nat) : Nat := t % 32

/-- The agent number of a CT (R105); an MT's access target less 64 has the same form (R75). -/
def agentOf (t : Nat) : Nat := tileY t * 16 + tileX t / 2

/-- The CT of an agent number on a die (R105). -/
def tileOfAgent (d p : Nat) : Nat := d * 1024 + (2 * (p % 16) + p / 16 % 2) * 32 + p / 16

/-- The local scratchpad address of an MT's offset (R52). -/
def spadAddr (t off : Nat) : Nat :=
  0x1F8000000000 + dieOf t * 2 ^ 30 + tileY t * 2 ^ 25 + tileX t * 2 ^ 20 + off

/-- Does a region keep cuts: snapshots are on, or its launch runs replicas (R387)? -/
def State.cutKeeping (s : State) (h : Nat) : Bool :=
  match Tbl.get? h s.regions with
  | none => false
  | some r =>
    (match Tbl.get? r.launch s.launches with
     | some l => l.mode.getLsbD 1 || 1 < field ((l.words[0]?).getD 0).toNat 59 58
     | none => false)
    || (s.nodes.any fun p => p.2.region = h && (p.2.mode.getLsbD 1 || 1 < p.2.repMode.toNat))
    || s.regions.any fun p => p.2.launch = r.launch && p.2.replica ≠ 0

/-- The quad of a tile on the module's grid (R340). -/
def quadAt (t : Nat) : Nat × Nat := (16 * (dieOf t % 2) + tileX t / 2, 16 * (dieOf t / 2) + tileY t / 2)

/-- Does a region stand on the quad of a tile? -/
def Region.covers (r : Region) (t : Nat) : Bool := r.shape.any fun o => (r.originX + o.1, r.originY + o.2) = quadAt t

/-- Is an offset of an MT in its undo journal, which no program, engine or aperture access may reach (R127)? -/
def State.journaled (s : State) (t off : Nat) : Bool :=
  0xB0000 ≤ off && off < 0xC0000 && s.regions.any fun p => p.2.live && !p.2.isTask && p.2.covers t && s.cutKeeping p.1

end Sys2Proof.Machine
end

