-- ==== Sys2Proof/Machine/Rights.lean ====
section
/-! DEFINITION. Access tables (R69 to R75, R449): windows, rights words and the rights cached at a
target. -/

namespace Sys2Proof.Machine

/-- Offset of the registers of an access target (R75, R450). -/
def accOff (t : Nat) : Nat := 0x40000 + 256 * t

/-- An HBM access sets the lock of `hbm.map` (R77). -/
def State.touch (s : State) (k : Nat) : State :=
  if k < 512000000000 && !(s.mmioAt 0 0x10).getLsbD 1 then s.setMmio 0 0x10 (s.mmioAt 0 0x10 ||| 2) else s

/-- Does a window register hold a valid window that contains a granule (R70)? -/
def windowHas (w : Word) (g : Nat) : Bool :=
  w.getLsbD 63 && field w.toNat 28 0 ≤ g && g ≤ field w.toNat 57 29

/-- The lowest-numbered valid window of a target that contains a granule (R71). -/
def State.windowOf (s : State) (d t g : Nat) : Option Nat :=
  (List.range 16).find? fun n => windowHas (s.mmioAt d (accOff t + 8 * n)) g

/-- The granule of an address at a target (R70): peer egresses number by 32 MiB of the domain address, the
others by 64 KiB of the local address. -/
def granule (t pa : Nat) : Nat := if 34 ≤ t && t ≤ 37 then field pa 53 25 else field pa 44 16

/-- The index of a master in a rights table (R71). -/
def masterIndex (m : Master) : Nat := m.ctx.toNat * 8 + m.cls.toNat

/-- The rights word of a master at a target, from the target's cache or its table, and the state with the
entry cached; a target caches 64 entries (R71). -/
def State.rightsWord (s : State) (d t : Nat) (m : Master) : Nat × State :=
  let k := t * 32768 + (masterIndex m)
  match Tbl.get? k (s.die d).rights with
  | some w => (w.toNat, s)
  | none =>
    let base := field (s.mmioAt d (accOff t + 128)).toNat 53 17 * 2 ^ 17
    let key := s.key (base + 4 * (masterIndex m))
    let w := s.peek key 4
    let old := (s.die d).rights
    let here := old.filter fun p => p.1 / 32768 = t
    let old := match here with
      | p :: _ => if 64 ≤ here.length then old.erase p.1 else old
      | [] => old
    (w, (s.modDie d fun x => { x with rights := old.set k (BitVec.ofNat 64 w) }).touch key)

/-- The 2-bit right of a master to an address at a target (R69 to R71, R449). -/
def State.right (s : State) (d t : Nat) (m : Master) (pa : Nat) : Nat × State :=
  if (s.die d).switched.contains t then
    match s.windowOf d t (granule t pa) with
    | none => (0, s)
    | some n =>
      let (w, s) := s.rightsWord d t m
      (field w (2 * n + 1) (2 * n), s)
  else (if m.cls = 7 || (m.cls = 5 && m.ctx = 0) then 3 else 0, s)

/-- Writes an event record into a die's ring, unless the ring is frozen (R399, R400). The spec gives words 2 and 3
of a fault record's, a saturation's and a vote trap's event; a corrected error's holds its count in word 2 (DESIGN CHOICE, log 25).
What the spec does not give is free (log 1). -/
def State.event (s : State) (d type : Nat) (ctx : BitVec 12) (tile : Nat) (w2 w3 : Word) : State :=
  let x := s.die d
  if x.evFrozen then s
  else
    let given := type = 0x01 || type = 0x03 || type = 0x11
    let counted := type = 0x02
    let detail := (Config.freeWord s.free).toNat % 2 ^ 28
    let w2 := if given || counted then w2 else Config.freeWord (s.free + 1)
    let w3 := if given then w3 else Config.freeWord (s.free + 2)
    let w0 := BitVec.ofNat 64 (2 ^ 56 * type + 2 ^ 54 * d + 2 ^ 40 * ctx.toNat + 2 ^ 28 * (tile % 4096) + detail)
    { s.setDie d { x with
        events := x.events.set (x.evCount % 8192) ⟨w0, s.now, w2, w3⟩
        evCount := (x.evCount + 1) % 2 ^ 32 } with free := s.free + 3 }

/-- A counter add of a master has saturated at an address: the flag of its context, and an event on a die (R157, R158). -/
def State.saturated (s : State) (d : Nat) (m : Master) (pa : Nat) : State :=
  ({ s with satFlags := if s.satFlags.contains m.ctx.toNat then s.satFlags else m.ctx.toNat :: s.satFlags }).event d 0x03 m.ctx 0
    (BitVec.ofNat 64 pa) (BitVec.ofNat 64 (masterIndex m))

/-- Freezes every event ring with a fatal event (R400). -/
def State.fatal (s : State) : State :=
  (List.range 4).foldl (fun s d =>
    (s.event d 0x10 0 0 0 0).modDie d fun x => { x with evFrozen := true }) s

/-- The action of an alarm (R401, R402): log it, freeze every clock, or erase the keys and freeze. -/
def State.alarmAct (s : State) : State :=
  let a := (s.mmioAt 0 0x30).toNat % 4
  if a = 0 then s
  else
    let s := if a = 2 then { s with keysErased := true } else s
    { (List.range 4).foldl (fun s d => s.modDie d fun x => { x with evFrozen := true }) s with
      clocksStopped := true }

/-- The security alarm (R401, R402): its source bit, an event on the recorder of a free die (log 5), the action. -/
def State.alarm (s : State) (bit : Nat) : State :=
  let s := s.setMmio 0 0x30 (s.mmioAt 0 0x30 ||| BitVec.ofNat 64 (2 ^ bit))
  let (d, s) := s.pick 4
  (s.event d 0x0E 0 0 0 0).alarmAct

/-- Checks a request at a target for the right it needs: 1 read, 2 write, 3 atomic (R71). A refusal of a
class 7 master raises the alarm (R72). -/
def State.check (s : State) (d t : Nat) (m : Master) (pa need : Nat) : Bool × State :=
  let (r, s) := s.right d t m pa
  if need ≤ r then (true, s) else (false, if m.cls = 7 then s.alarm 5 else s)

/-- Does the L2 of a die hold the line of a local address? -/
def State.inL2 (s : State) (d a : Nat) : Bool := Tbl.has (s.die d).l2 (a / 128)

/-- The targets on the path of a request of a die to an address (R69, R75, R460): the home slice, and the
second-tier port behind it when the slice misses; an MT; the MMIO target; the peer egress. -/
def State.pathOf (s : State) (d pa : Nat) : Option (List (Nat × Nat)) :=
  let a := pa % 2 ^ 45
  match s.home d pa with
  | .slice h sl =>
    if 0x8000000000 ≤ a && !s.inL2 h a then some [(h, sl), (h, 32 + portOf a % 2)] else some [(h, sl)]
  | .proxy l sl => some [(if l = 0 then 0 else 3, sl)]
  | .tile t off => if s.journaled t off then none else some [(dieOf t, 64 + agentOf t)]
  | .mmio h _ => if h < 4 then some [(h, 38)] else none
  | .peer dev =>
    match s.route dev with
    | none => none
    | some p => some [(p / 4, 34 + p % 4)]
  | .refuse _ _ => none

/-- Checks every target of a path. -/
def State.checkAll (s : State) (m : Master) (pa need : Nat) : List (Nat × Nat) → Bool × State
  | [] => (true, s)
  | (d, t) :: l =>
    let (ok, s) := s.check d t m pa need
    if ok then s.checkAll m pa need l else (false, s)

/-- Does a request of a master on a die reach its home with the right it needs (R69, R72)? -/
def State.permit (s : State) (d : Nat) (m : Master) (pa need : Nat) : Bool × State :=
  match s.pathOf d pa with
  | none => (false, s)
  | some l => s.checkAll m pa need l

end Sys2Proof.Machine
end

