-- ==== Sys2Proof/Machine/Cache.lean ====
section
/-! DEFINITION. The caches: L1 word states and the home directory (R100, R103 to R108), the L2's tags with
retention and pins (R119, R120, R123, R436), the RDC with its stamps (R109 to R112). The bytes of a line
are those of `mem` at its home; only copies of lines homed elsewhere, constant lines and code hold bytes
of their own (R98, R122, R124). -/

namespace Sys2Proof.Machine

/-! ### Words and lines -/

/-- Words first..first+count−1 as a mask (R103). -/
def spanMask (first count : Nat) : Word32 := BitVec.ofNat 32 ((2 ^ count - 1) * 2 ^ first)

/-- The words of a line that the bytes off..off+n−1 touch. -/
def bytesMask (off n : Nat) : Word32 := spanMask (off / 4) ((off + n - 1) / 4 + 1 - off / 4)

/-- Bytes off..off+n−1 of a line. -/
def lineBytes (v : Vec) (off n : Nat) : List Byte := toBytes (v.toNat / 2 ^ (8 * off)) n

/-- Replaces the bytes of a line from an offset on. -/
def linePatch (v : Vec) (off : Nat) (b : List Byte) : Vec :=
  let m := (2 ^ (8 * b.length) - 1) * 2 ^ (8 * off)
  (v &&& ~~~(BitVec.ofNat 1024 m)) ||| BitVec.ofNat 1024 (ofBytes b * 2 ^ (8 * off))

/-- A tick of the recency counter. -/
def State.tickUse (s : State) : Int × State := (s.useTick + 1, { s with useTick := s.useTick + 1 })

/-- The recency of an entry that enters at the LRU or the MRU position (R121). -/
def State.useAt (s : State) (lru : Bool) : Int × State :=
  let (u, s) := s.tickUse
  (if lru then -u else u, s)

/-- The entry of least recency that satisfies a test. -/
def lruOf {α : Type} (use : α → Int) (l : List (Nat × α)) : Option (Nat × α) :=
  match l with
  | [] => none
  | p :: t => some (t.foldl (fun a q => if use q.2 < use a.2 then q else a) p)

/-! ### L1 -/

/-- An L1 line that holds nothing. -/
def L1Line.empty : L1Line := ⟨0, 0, 0, 0, 0, false, none, 0⟩

/-- The valid words. -/
def L1Line.valid (l : L1Line) : Word32 := l.m ||| l.o ||| l.e ||| l.s

/-- Drops words. -/
def L1Line.drop (l : L1Line) (w : Word32) : L1Line :=
  { l with m := l.m &&& ~~~w, o := l.o &&& ~~~w, e := l.e &&& ~~~w, s := l.s &&& ~~~w }

/-- A tile without cached copies. -/
def TileCache.empty : TileCache := ⟨[], [], []⟩

/-- The caches of a CT. -/
def State.cache (s : State) (t : Nat) : TileCache := (s.die (dieOf t)).tiles.getD t TileCache.empty

/-- Writes the caches of a CT. -/
def State.setCache (s : State) (t : Nat) (c : TileCache) : State :=
  s.modDie (dieOf t) fun x => { x with tiles := x.tiles.set t c }

/-- Writes an L1 line; a line without a valid word is free (R100). -/
def State.setL1 (s : State) (t k : Nat) (l : L1Line) : State :=
  let c := s.cache t
  s.setCache t { c with l1 := if l.valid = 0 then c.l1.erase k else c.l1.set k l }

/-- The L1 line at a key. -/
def State.l1 (s : State) (t k : Nat) : L1Line := (s.cache t).l1.getD k L1Line.empty

/-- The key of a constant copy of a line: it is kept apart from a coherent one (R122). -/
def constKey (k : Nat) : Nat := k + 2 ^ 50

/-! ### The directory -/

/-- No holders. -/
def DirEntry.empty : DirEntry := ⟨false, false, 0, 0, [], 0⟩

/-- The quad of a CT by agent number: row y/2, column x/2 (R105). -/
def quadOf (p : Nat) : Nat := p / 16 / 2 * 16 + p % 16

/-- The entry of a local line. -/
def State.dirOf (s : State) (d ln : Nat) : DirEntry := (s.die d).dir.getD ln DirEntry.empty

/-- Writes an entry; one without holders is not kept. -/
def State.setDir (s : State) (d ln : Nat) (e : DirEntry) : State :=
  s.modDie d fun x => { x with dir := if e = DirEntry.empty then x.dir.erase ln else x.dir.set ln e }

/-- Marks an L2 line dirty. -/
def State.l2Dirty (s : State) (d ln : Nat) : State :=
  s.modDie d fun x => { x with l2 := x.l2.modify ln fun l => { l with dirty := true } }

/-- Changes the words that an agent's L1 holds of a local line; agent 0x200 is the host (R105). -/
def State.modHolder (s : State) (d p ln : Nat) (f : L1Line → L1Line) : State :=
  if p = 0x200 then s
  else
    let t := tileOfAgent d p
    let k := (s.dom * 2 ^ 45) / 128 + ln
    s.setL1 t k (f (s.l1 t k))

/-- Adds words to a holder of a directory entry, which turns coarse at a ninth (R107). The host has no quad: its pointer stays among the
sharers of a coarse entry (DESIGN CHOICE, log 64). -/
def DirEntry.add (e : DirEntry) (p : Nat) (w : Word32) : DirEntry :=
  if e.coarse && p ≠ 0x200 then { e with quads := bitSet e.quads (quadOf p) true }
  else
    match e.shr.find? fun h => h.1 = p with
    | some _ => { e with shr := e.shr.map fun h => if h.1 = p then (p, h.2 ||| w) else h }
    | none =>
      if e.shr.length < 8 then { e with shr := e.shr ++ [(p, w)] }
      else
        { e with
          coarse := true
          quads := ((p, w) :: e.shr).foldl (fun q h => if h.1 = 0x200 then q else bitSet q (quadOf h.1) true) 0
          shr := ((p, w) :: e.shr).filter fun h => h.1 = 0x200 }

/-- Takes the host out of an entry (R59). -/
def DirEntry.noHost (e : DirEntry) : DirEntry := { e with shr := e.shr.filter fun h => h.1 ≠ 0x200 }

/-- Takes words from every holder but one (R106, R107); all 32 words make a coarse entry precise again. -/
def DirEntry.cut (e : DirEntry) (keep : Option Nat) (w : Word32) : DirEntry :=
  let e := { e with
    shr := (e.shr.map fun h => if some h.1 = keep then h else (h.1, h.2 &&& ~~~w)).filter fun h => h.2 ≠ 0 }
  let e := if e.coarse && w = BitVec.allOnes 32 then { e with coarse := false, quads := 0 } else e
  if some e.ownPtr = keep then e
  else
    let m := e.ownMask &&& ~~~w
    if m = 0 then { e with ownV := false, ownPtr := 0, ownMask := 0 } else { e with ownMask := m }

/-- The agents that may hold words of a line: the owner, the listed holders, every CT of a marked quad. -/
def DirEntry.holders (e : DirEntry) : List Nat :=
  (if e.ownV then [e.ownPtr] else []) ++ e.shr.map (·.1)
    ++ (if e.coarse then (List.range 512).filter fun p => e.quads.getLsbD (quadOf p) else [])

/-- A read of a span of a line finds its owner and its E holders: M goes to O, E to S (R106). -/
def State.dirShare (s : State) (d ln : Nat) (w : Word32) : State :=
  (s.dirOf d ln).holders.foldl (fun s p =>
    s.modHolder d p ln fun l =>
      { l with m := l.m &&& ~~~w, o := l.o ||| (l.m &&& w), e := l.e &&& ~~~w, s := l.s ||| (l.e &&& w) }) s

/-- Recalls the host's copy of a device line with a back-invalidate snoop on each CXL link (R59): the host is a sharer where
the host's states list the line. -/
def State.recallHost (s : State) (ln : Nat) : State :=
  if Tbl.has s.hostLines ln then
    { s with
      hostLines := s.hostLines.erase ln
      out := s.out ++ ((List.range 2).filter fun l => s.hostCxl.getLsbD l).map fun l => .host l 8 ln }
  else s

/-- Invalidates a span at every holder but one (R106, R107); dirty words go to the L2. -/
def State.dirInval (s : State) (d ln : Nat) (keep : Option Nat) (w : Word32) : State :=
  let s := s.recallHost ln
  let e := (s.dirOf d ln).noHost
  let s := if e.ownV && some e.ownPtr ≠ keep && e.ownMask &&& w ≠ 0 then s.l2Dirty d ln else s
  let s := e.holders.foldl (fun s p => if some p = keep then s else s.modHolder d p ln fun l => l.drop w) s
  s.setDir d ln (e.cut keep w)

/-! ### L2 tags -/

/-- A register of a retention window (R118): 0 base, 1 len, 2 ways, 3 ovf, 4 hit. -/
def Die.retain (x : Die) (r k : Nat) : Word := x.ret.getD (8 * r + k) 0

/-- Writes a register of a retention window. -/
def State.setRetain (s : State) (d r k : Nat) (v : Word) : State :=
  s.modDie d fun x => { x with ret := if v = 0 then x.ret.erase (8 * r + k) else x.ret.set (8 * r + k) v }

/-- The lowest-numbered active window that covers a local line (R119). -/
def Die.windowOf (x : Die) (ln : Nat) : Option Nat :=
  (List.range 8).find? fun k =>
    x.retain 2 k ≠ 0 && (x.retain 0 k).toNat / 128 ≤ ln && ln < (x.retain 0 k).toNat / 128 + (x.retain 1 k).toNat

/-- The set of a local line in the L2 of its home: slice and local address bits [22:12] (R119). -/
def l2Set (ln : Nat) : Nat × Nat := (sliceOf (ln * 128), field (ln * 128) 22 12)

/-- Removes a line from the L2, first recalling every L1 span of it (R108). -/
def State.l2Evict (s : State) (d ln : Nat) : State :=
  (s.dirInval d ln none (BitVec.allOnes 32)).modDie d fun x => { x with l2 := x.l2.erase ln }

/-- Adds 1 to a count of a retention window. -/
def State.bumpRetain (s : State) (d r k : Nat) : State := s.setRetain d r k ((s.die d).retain r k + 1)

/-- Fills a line into the L2 (R119, R123, R436): protected while its window has ways left in the set, else
unprotected and counted. The line evicted from a full set is the least recently used one that is neither
protected nor pinned. -/
def State.l2Fill (s : State) (d ln : Nat) (lru : Bool) : State :=
  let x := s.die d
  let set := x.l2.filter fun p => l2Set p.1 = l2Set ln
  let s :=
    if set.length < 16 then s
    else
      match lruOf (·.use) (set.filter fun p => p.2.prot.isNone && p.2.code.isNone && p.2.fetchPins = 0) with
      | none => s
      | some v => s.l2Evict d v.1
  let w := x.windowOf ln
  let room : Bool := match w with
    | none => false
    | some k => decide ((set.filter fun p => p.2.prot = some k).length < (x.retain 2 k).toNat)
  let (u, s) := s.useAt lru
  let s := s.modDie d fun x =>
    { x with l2 := x.l2.set ln ⟨if room then w else none, none, 0, false, u⟩ }
  match w with
  | some k => if room then s else s.bumpRetain d 3 k
  | none => s

/-- A lookup of a line in the L2 of its home (R118, R121): a hit is used, a miss fills. -/
def State.l2Use (s : State) (d ln : Nat) (lru : Bool) : State :=
  match Tbl.get? ln (s.die d).l2 with
  | none => s.l2Fill d ln lru
  | some l =>
    let (u, s) := s.tickUse
    let s := s.modDie d fun x => { x with l2 := x.l2.set ln { l with use := u } }
    match l.prot with
    | some k => s.bumpRetain d 4 k
    | none => s

/-- Deactivates a retention window (R120). -/
def State.retainOff (s : State) (d k : Nat) : State :=
  (s.setRetain d 2 k 0).modDie d fun x =>
    { x with l2 := x.l2.mapAll fun _ l => if l.prot = some k then { l with prot := none } else l }

/-- Ways held by the active windows of a die. -/
def Die.retainWays (x : Die) : Nat := (List.range 8).foldl (fun a k => a + (x.retain 2 k).toNat) 0

/-- Activates an inactive window with a number of ways, where the die has room (R119). It protects no line that is present (R438);
one that a higher-numbered window protected is that window's no longer (R119). -/
def State.retainOn (s : State) (d k ways : Nat) : State :=
  if (s.die d).retainWays + ways ≤ 8 then
    (((s.setRetain d 2 k (BitVec.ofNat 64 ways)).setRetain d 3 k 0).setRetain d 4 k 0).modDie d fun x =>
      { x with l2 := x.l2.mapAll fun ln l =>
        if x.windowOf ln = some k && l.prot.any (fun j => j ≠ k) then { l with prot := none } else l }
  else s

/-! ### L1 fills and evictions -/

/-- Is a domain physical line homed on a die's own HBM or second tier (R98)? -/
def State.ownLine (s : State) (d pa : Nat) : Bool :=
  match s.home d pa with
  | .slice h _ => h = d
  | _ => false

/-- May a die keep copies of a line that is not homed on it: of another die or device, or of host memory over CXL (R56, R98)? -/
def State.farLine (s : State) (d pa : Nat) : Bool :=
  match s.home d pa with
  | .slice h _ => h ≠ d
  | .proxy l _ => s.hostCxl.getLsbD l
  | .peer _ => true
  | _ => false

/-- The window lines of a tile's node. -/
def State.winLines (s : State) (t : Nat) : Tbl WinLine := match s.node? t with
  | none => []
  | some n => n.win.lines

/-- The lines of a tile's L1 set that hold a way: cached lines and window lines (R100, R101). -/
def State.l1Ways (s : State) (t k : Nat) (win : Tbl WinLine) : List Nat :=
  let c := ((s.cache t).l1.filter fun p => p.1 % 128 = k % 128).map (·.1)
  c ++ (win.filter fun p => p.1 % 128 = k % 128 && !c.contains p.1).map (·.1)

/-- Evicts an L1 line: M and O words are written back and the owner is cleared for them (R106). -/
def State.l1Evict (s : State) (t k : Nat) : State :=
  let l := s.l1 t k
  let d := dieOf t
  let s := s.setL1 t k L1Line.empty
  if l.m ||| l.o = 0 then s
  else
    let ln := k % 2 ^ 38
    let e := s.dirOf d ln
    let s := s.l2Dirty d ln
    if e.ownV && e.ownPtr = agentOf t then
      let m := e.ownMask &&& ~~~(l.m ||| l.o)
      s.setDir d ln (if m = 0 then { e with ownV := false, ownPtr := 0, ownMask := 0 } else { e with ownMask := m })
    else s

/-- Keeps an L1 set within its ways: where more than `free` are held, the least recently used line that is no window line goes. -/
def State.l1Fit (s : State) (t k free : Nat) (win : Tbl WinLine) : State :=
  if (s.l1Ways t k win).length ≤ free then s
  else
    match lruOf (·.use) ((s.cache t).l1.filter fun p => p.1 % 128 = k % 128 && !Tbl.has win p.1) with
    | none => s
    | some v => s.l1Evict t v.1

/-- Makes room for a line in its L1 set, where it does not hold a way yet (R100). -/
def State.l1Room (s : State) (t k : Nat) : State :=
  if (s.cache t).l1.has k || Tbl.has (s.winLines t) k then s else s.l1Fit t k 3 (s.winLines t)

/-- A read of a span by an L1 through its home directory (R106): E where the line has no other holder. -/
def State.dirRead (s : State) (t ln : Nat) (w : Word32) (lru : Bool) : State :=
  let d := dieOf t
  let p := agentOf t
  let k := s.dom * 2 ^ 38 + ln
  let s := s.l1Room t k
  let e := s.dirOf d ln
  let excl := !e.holders.any fun q => q ≠ p
  let s := s.dirShare d ln (w &&& ~~~(s.l1 t k).valid)
  let e := s.dirOf d ln
  let mine := e.ownV && e.ownPtr = p
  let s := if mine && w &&& ~~~e.ownMask = 0 then s else s.setDir d ln (e.add p (if mine then w &&& ~~~e.ownMask else w))
  let l := s.l1 t k
  let new := w &&& ~~~l.valid
  let (u, s) := s.useAt lru
  s.setL1 t k { (if excl then { l with e := l.e ||| new } else { l with s := l.s ||| new }) with use := u }

/-- Ownership of a span for an L1 (R106): every other holder loses it, and a former owner's other dirty
words are written back, since an entry names one owner (log 9). -/
def State.dirOwn (s : State) (t ln : Nat) (w : Word32) (lru : Bool) : State :=
  let d := dieOf t
  let p := agentOf t
  let k := s.dom * 2 ^ 38 + ln
  let s := (s.l1Room t k).dirInval d ln (some p) w
  let e := s.dirOf d ln
  let s :=
    if e.ownV && e.ownPtr ≠ p then
      (s.l2Dirty d ln).modHolder d e.ownPtr ln fun l => { l with m := 0, o := 0, s := l.s ||| l.m ||| l.o }
    else s
  let e : DirEntry := if e.ownV && e.ownPtr ≠ p then ({ e with ownV := false, ownMask := 0 }).add e.ownPtr e.ownMask else e
  let e := { e with shr := (e.shr.map fun (h : Nat × Word32) => if h.1 = p then (p, h.2 &&& ~~~w) else h).filter fun (h : Nat × Word32) => h.2 ≠ 0 }
  let s := s.setDir d ln { e with ownV := true, ownPtr := p, ownMask := e.ownMask ||| w }
  let l := (s.l1 t k).drop w
  let (u, s) := s.useAt lru
  s.setL1 t k { l with m := l.m ||| w, use := u }

/-! ### The RDC -/

/-- The RDC slice of a line by its local address (R109). -/
def rdcSlice (k : Nat) : Nat := sliceOf (k % 2 ^ 38 * 128) % 16

/-- Takes the RDC lines that a test names from the loads: they leave, but for code-pinned lines, which keep the code alone
(R123, R124). -/
def codeOnly (l : Tbl RdcLine) (f : Nat → RdcLine → Bool) : Tbl RdcLine :=
  (l.keep fun k x => !f k x || x.code.isSome).mapAll fun k x => if f k x then { x with valid := 0 } else x

/-- Takes the copies of the RDC lines that a test names: a pin stays, and waits for a new copy (R74, R123, R126). -/
def copiesGone (l : Tbl RdcLine) (f : Nat → Bool) : Tbl RdcLine :=
  (l.keep fun k x => !f k || x.code.isSome).mapAll fun k x => if f k then { x with valid := 0, lost := true } else x

/-- Takes the copies of the instruction-cache lines that a test names; a pin stays. -/
def codeGone (l : Tbl IcLine) (f : Nat → Bool) : Tbl IcLine :=
  (l.keep fun k x => !f k || x.pin).mapAll fun k x => if f k then { x with lost := true } else x

/-- The bases of an RDC slice. -/
def Die.basesOf (x : Die) (sl : Nat) : RdcBases := x.bases.getD sl ⟨0, []⟩

/-- Moves a base up until an offset fits 16 bits (R111): steps of 32,768, each older line turning antique. -/
def State.rebase (s : State) (d sl : Nat) (isRound : Bool) (ix steps : Nat) : State :=
  s.modDie d fun x =>
    let b := x.basesOf sl
    let b := if isRound then { b with rounds := b.rounds.modify ix fun r => { r with base := r.base + 32768 * steps } }
      else { b with time := b.time + 32768 * steps }
    { x with
      bases := x.bases.set sl b
      rdc := x.rdc.mapAll fun k l =>
        if rdcSlice k = sl && l.stamp.isRound = isRound && (!isRound || l.stamp.base = ix) then
          { l with stamp := { l.stamp with off := l.stamp.off - 32768 * steps } }
        else l }

/-- Rebase steps that a value needs above a base. -/
def rebaseSteps (v base : Nat) : Nat := if v + 1 ≤ base + 65535 then 0 else (v + 1 - base - 65535 + 32767) / 32768

/-- The offset of a value above a base; one below it is antique (R111). -/
def stampOff (v base : Nat) : Nat := if v < base then 0 else v - base + 1

/-- A time stamp for now (R110). -/
def State.timeStamp (s : State) (d sl : Nat) : Stamp × State :=
  let unit := s.now.toNat / 1024
  let s := s.rebase d sl false 0 (rebaseSteps unit ((s.die d).basesOf sl).time)
  (⟨false, 0, stampOff unit ((s.die d).basesOf sl).time⟩, s)

/-- The base of a round region in an RDC slice, made where there is none; a 65th frees the least recently
used one with its lines (R110), of which a code-pinned one stays for the fetch of its code alone (R123, R124). Only fills use a
base (DESIGN CHOICE, log 59). A new base starts at the round it is made for (log 10). -/
def State.roundBase (s : State) (d sl : Nat) (ctx : BitVec 12) (k round : Nat) : Nat × State :=
  let b := (s.die d).basesOf sl
  let tick := s.useTick + 1
  let s := { s with useTick := tick }
  match b.rounds.find? fun p => p.2.ctx = ctx && p.2.k = k with
  | some p =>
    (p.1, s.modDie d fun x => { x with
      bases := x.bases.set sl { b with rounds := b.rounds.modify p.1 fun r => { r with use := tick } } })
  | none =>
    let (ix, gone) := match (List.range 64).find? fun i => !b.rounds.has i with
      | some i => (i, false)
      | none =>
        match lruOf (fun r : RoundBase => (r.use : Int)) b.rounds with
        | some p => (p.1, true)
        | none => (0, false)
    (ix, s.modDie d fun x => { x with
      bases := x.bases.set sl { b with rounds := b.rounds.set ix ⟨ctx, k, round, tick⟩ }
      rdc := if gone then codeOnly x.rdc fun q l => rdcSlice q = sl && l.stamp.isRound && l.stamp.base = ix else x.rdc })

/-- A round stamp (R110). -/
def State.roundStamp (s : State) (d sl : Nat) (ctx : BitVec 12) (k round : Nat) : Stamp × State :=
  let (ix, s) := s.roundBase d sl ctx k round
  let base (s : State) := ((((s.die d).basesOf sl).rounds).getD ix ⟨0, 0, 0, 0⟩).base
  let s := s.rebase d sl true ix (rebaseSteps round (base s))
  (⟨true, ix, stampOff round (base s)⟩, s)

/-- What a stamp stands for: nothing where it is antique. -/
def Die.stampVal (x : Die) (sl : Nat) (p : Stamp) : Option Nat :=
  if p.off = 0 then none
  else
    let b := x.basesOf sl
    some ((if p.isRound then (b.rounds.getD p.base ⟨0, 0, 0, 0⟩).base else b.time) + p.off - 1)

/-- Does an RDC line carry a round stamp of a region of a context? -/
def Die.roundOf (x : Die) (k : Nat) (l : RdcLine) (ctx : BitVec 12) (reg : Nat) : Bool :=
  l.stamp.isRound &&
    (match Tbl.get? l.stamp.base (x.basesOf (rdcSlice k)).rounds with
     | some b => b.ctx = ctx && b.k = reg
     | none => false)

/-- The die of a host link's proxy slices (R53). -/
def proxyDie (l : Nat) : Nat := if l = 0 then 0 else 3

/-- The counters on which slots of a node's block sleep (R169, R217). -/
def Node.sleeping (n : Node) : List Watch := match n.phase with
  | .fire => (n.blk.sleep.filter fun p => n.blk.waiting p.1 && p.2.target ≠ 0).map (·.2)
  | _ => []

/-- The counters that the wait packets of queues watch (R360). -/
def State.queueWatches (s : State) : List Nat := s.dies.toList.flatMap fun d => d.queues.filterMap fun p => p.2.watch

/-- Does a node, or a queue's wait packet, watch a counter of a line? -/
def State.watched (s : State) (pa : Nat) : Bool :=
  (s.nodes.any fun p => (p.2.watch.toList ++ p.2.sleeping).any fun w => w.held && pa ≤ w.pa && w.pa < pa + 128)
    || s.queueWatches.any fun a => pa ≤ a && a < pa + 128

/-- Does a line of a die's RDC stay when room is made: one with a code pin (R123), and one that the die's proxy watches (R428)? -/
def State.rdcStays (s : State) (d : Nat) (p : Nat × RdcLine) : Bool :=
  p.2.code.isSome || (s.watched (p.1 * 128) && (match s.home d (p.1 * 128) with
    | .proxy l _ => d = proxyDie l
    | _ => false))

/-- The other lines of a die's RDC in the set of a line: eight ways in a set of 2,048 by address bits [22:12] (log 11). -/
def State.rdcSet (s : State) (d k : Nat) : List (Nat × RdcLine) :=
  let setOf (k : Nat) := (rdcSlice k, field (k % 2 ^ 38 * 128) 22 12)
  (s.die d).rdc.filter fun p => setOf p.1 = setOf k && p.1 ≠ k

/-- Has a die's RDC a way for a line: its own, a free one, or one whose line may leave? -/
def State.rdcFits (s : State) (d k : Nat) : Bool :=
  (s.die d).rdc.has k || (s.rdcSet d k).length < 8 || (s.rdcSet d k).any fun p => !s.rdcStays d p

/-- Fills words of a line into the RDC with a stamp (R110), where its set has a way for it (DEDUCED, log 11); the least recently used
line that need not stay leaves. -/
def State.rdcPut (s : State) (d k : Nat) (w : Word32) (data : Vec) (st : Stamp) (lru : Bool) : State :=
  if !s.rdcFits d k then s
  else
    let x := s.die d
    let old := Tbl.get? k x.rdc
    let set := s.rdcSet d k
    let rdc := if set.length < 8 then x.rdc
      else
        match lruOf (·.use) (set.filter fun p => !s.rdcStays d p) with
        | none => x.rdc
        | some v => x.rdc.erase v.1
    let (u, s) := s.useAt lru
    let keep := match old with
      | some l => if l.stamp = st then l.valid else 0
      | none => 0
    let (code, lost) := match old with
      | some l => if l.lost && w = BitVec.allOnes 32 then (l.code.map fun _ => data, false) else (l.code, l.lost)
      | none => (none, false)
    s.modDie d fun x => { x with rdc := rdc.set k ⟨w ||| keep, data, st, code, lost, u⟩ }

/-- Drops words of a line from the RDC of a die. -/
def State.rdcDrop (s : State) (d k : Nat) (w : Word32) : State :=
  s.modDie d fun x =>
    match Tbl.get? k x.rdc with
    | none => x
    | some l =>
      let v := l.valid &&& ~~~w
      { x with rdc := if v = 0 && l.code.isNone then x.rdc.erase k else x.rdc.set k { l with valid := v } }

/-! ### Acquires and purges -/

/-- Clears every word of a tile's L1 of lines not homed on its die, constant ones too (R112). -/
def State.dropRemoteL1 (s : State) (t : Nat) : State :=
  let c := s.cache t
  s.setCache t { c with l1 := c.l1.keep fun k _ => s.ownLine (dieOf t) (k % 2 ^ 47 * 128) }

/-- Clears a tile's constant lines (R122, R156). -/
def State.dropConst (s : State) (t : Nat) : State :=
  let c := s.cache t
  s.setCache t { c with l1 := c.l1.keep fun _ l => !l.const }

/-- Drops words of a line from a tile's L1 and from the RDC of its die (R155). -/
def State.dropWords (s : State) (t k : Nat) (w : Word32) : State := (s.setL1 t k ((s.l1 t k).drop w)).rdcDrop (dieOf t) k w

/-- Drops a line from every L1 of a die, writing dirty words back (R58, R74). -/
def State.dropL1 (s : State) (d k : Nat) : State :=
  (s.die d).tiles.foldl (fun s p =>
    let s := s.l1Evict p.1 k
    s.setL1 p.1 (constKey k) L1Line.empty) s

end Sys2Proof.Machine
end

