-- ==== Sys2Proof/Machine/Registers.lean ====
section
/-! DEFINITION. The registers of the MMIO map (R6, R70, R73, R75, R77, R82, R89, R118, R400, R401,
R450 to R455, R459, R460): which bits of each are kept, and what a read gives. -/

namespace Sys2Proof.Machine

/-- Bits hi..lo as a mask. -/
def bits (hi lo : Nat) : Nat := 2 ^ (hi + 1) - 2 ^ lo

/-- Bits of a register of the die group that a write keeps, by offset in the group (R450, R452, R453). -/
def dieMask (o : Nat) : Nat :=
  if o = 0x00 then bits 53 17
  else if o = 0x10 then bits 61 60 + bits 51 0
  else if o = 0x18 || o = 0x20 || o = 0x58 || o = 0xB8 then bits 63 58 + bits 55 0
  else if (0x28 ≤ o && o ≤ 0x40) || o = 0x60 || o = 0x68 || o = 0xC8 || o = 0xD0 then bits 55 3
  else if o = 0x48 || o = 0x70 || o = 0xC0 then bits 11 0
  else if o = 0x80 then bits 5 0
  else if o = 0x88 then bits 53 20
  else if o = 0x90 then bits 39 20
  else if o = 0xA0 then bits 53 21
  else if o = 0xD8 then bits 53 21 + 1
  else if 0xE8 ≤ o && o < 0x8E8 then bits 63 63 + bits 15 0
  else if 0x8E8 ≤ o && o < 0x928 then bits 12 0
  else if 0x928 ≤ o && o < 0x8928 then bits 53 19 + 1
  else 0

/-- Bits of a per-context register that a write keeps, by the number of its array (R82, R451). -/
def ctxMask (r : Nat) : Nat :=
  match r with
  | 0 => bits 63 63 + bits 53 20
  | 1 => bits 2 0
  | 2 => bits 6 0
  | 4 => bits 55 4
  | 5 => bits 55 4
  | 6 => 1
  | 7 => bits 63 0
  | 8 => bits 55 11
  | _ => 0

/-- Does the access target exist (R75)? -/
def okAcc (t : Nat) : Bool := t ≤ 38 || (64 ≤ t && t < 576)

/-- Bits that a plain write keeps at an offset of a die's block. -/
def regMask (off : Nat) : Nat :=
  if off = 0x80 then bits 30 16 + bits 8 0
  else if off < 0x10000 then 0
  else if off < 0x40000 then dieMask (off - 0x10000)
  else if off < 0x40000 + 576 * 256 then
    let o := (off - 0x40000) % 256
    if okAcc ((off - 0x40000) / 256) then
      if o < 128 then bits 63 63 + bits 57 0 else if o = 128 then bits 53 17 else 0
    else 0
  else if 0x100000 ≤ off && off < 0x148000 then ctxMask ((off - 0x100000) / 0x8000)
  else if 0x2000000 ≤ off && off < 0x2041000 then bits 63 63 + bits 3 0
  else 0

/-- Is the register one for the module, held under die 0 (R82, R450, R451, R453)? -/
def isShared (off : Nat) : Bool := (0x100000 ≤ off && off < 0x148000) || off = 0x100D8

/-- Does an offset belong to a group that only die 0's block has (R450)? -/
def onlyDie0 (off : Nat) : Bool := off < 0x10000 || 0x2000000 ≤ off

/-- The die under which a register is held. -/
def regDie (d off : Nat) : Nat := if isShared off then 0 else d

/-- The words of an event ring (R399, R450). -/
def Die.eventWord (x : Die) (off : Nat) : Word :=
  let e := x.events.getD ((off - 0x1000000) / 32) ⟨0, 0, 0, 0⟩
  if off % 32 = 0 then e.w0 else if off % 32 = 8 then e.w1 else if off % 32 = 16 then e.w2 else e.w3

/-- Requests that a target has accepted and that are still outstanding: ordered atomics that wait in a buffer or for their turn at a
peer (R73, R117). -/
def State.accepted (s : State) : List OrdReq :=
  s.dies.toList.flatMap (fun x => x.aoBuf) ++ s.agenda.filterMap fun i => match i with
    | .orderedAtomicArrival r | .atomoRetryResend r => if r.accepted then some r else none
    | _ => none

/-- Is a request outstanding that a target of a die accepted before the last write to its windows, rights or table base (R73)? -/
def State.accBusy (s : State) (d t : Nat) : Bool :=
  ((s.die d).older.getD t []).any fun r => s.accepted.contains r

/-- A read of an MMIO register: write-only and reserved bits read 0 (R6). The busy bits of actions that
end within their own step read 0. -/
def State.mmioRead (s : State) (d off : Nat) : Word :=
  let x := s.die d
  if onlyDie0 off && d ≠ 0 then 0
  else if off = 0x10010 then
    s.mmioAt d off ||| (if x.tlbBusy then BitVec.ofNat 64 (2 ^ 62) else 0)
  else if off = 0x10008 then b2n (x.older.any fun p => s.accBusy d p.1)
  else if 0x40000 ≤ off && off < 0x64000 && (off - 0x40000) % 256 = 136 then b2n (s.accBusy d ((off - 0x40000) / 256))
  else if off = 0x10078 then if s.regions.any fun r => r.2.rolling && r.2.rollDie = d then BitVec.ofNat 64 (2 ^ 61) else 0
  else if off = 0x100A8 then
    BitVec.ofNat 64 (2 ^ 62 * b2n (s.regions.any fun r => r.2.evicting.any fun e => e.1 = d) + 2 ^ 61 * b2n x.preFail)
  else if off = 0x100B0 then BitVec.ofNat 64 (2 ^ 63 * b2n x.evFrozen + x.evCount)
  else if 0x1000000 ≤ off && off < 0x1040000 then x.eventWord off
  else s.mmioAt (regDie d off) off

/-- A plain write of an MMIO register: the kept bits, all others 0; one of a register that keeps no bit is ignored (R6). -/
def State.mmioKeep (s : State) (d off : Nat) (x : Word) : State :=
  if (onlyDie0 off && d ≠ 0) || regMask off = 0 then s
  else s.setMmio (regDie d off) off (x &&& BitVec.ofNat 64 (regMask off))

/-- A register of the die group. -/
def State.dieReg (s : State) (d o : Nat) : Word := s.mmioAt d (0x10000 + o)

/-- A per-context register. -/
def State.ctxReg (s : State) (c : BitVec 12) (r : Nat) : Word := s.mmioAt 0 (ctxOff c r)

end Sys2Proof.Machine
end

