-- ==== Sys2Proof/Machine/Home.lean ====
section
/-! DEFINITION. Accesses at their home: reads, writes, atomics and counter adds of any master (R56 to R60,
R63, R69, R106, R108, R114, R115, R157, R158, R186), and the watches that an add wakes (R212, R428). -/

namespace Sys2Proof.Machine

/-- Why an access is not served: refused, or a poisoned word. -/
inductive AccErr where
  | access | poison
  deriving DecidableEq, Repr

/-- Has the die of a home failed (R126, R454)? -/
def State.dieDead (s : State) (d : Nat) : Bool := (s.mmioAt 0 0x08).getLsbD d

/-- Is a local line of a die lost: has its die, or the second-tier port that it lies behind, failed (R61, R126, R454)? -/
def State.lost (s : State) (h ln : Nat) : Bool :=
  let a := 128 * ln
  s.dieDead h || (0x8000000000 ≤ a && a < 0x1E8000000000 && (s.mmioAt 0 0x08).getLsbD (32 + portOf a))

/-- Is a host link trained (R454)? -/
def State.hostUp (s : State) (l : Nat) : Bool := (s.mmioAt 0 0x08).getLsbD (14 + l)

/-- Is a host link trained as CXL (R54)? -/
def State.hostIsCxl (s : State) (l : Nat) : Bool := s.hostCxl.getLsbD l

/-- The host's state of a line (R57). -/
def State.hostLine (s : State) (ln : Nat) : Mesi := s.hostLines.getD ln .i

/-- Sets the host's state of a line; I is not listed. -/
def State.setHostLine (s : State) (ln : Nat) (x : Mesi) : State :=
  { s with hostLines := if x = .i then s.hostLines.erase ln else s.hostLines.set ln x }

/-- Drops a line from every RDC and L1 of the module (R57, R58); a code pin keeps its code alone (R124). -/
def State.dropLine (s : State) (k : Nat) : State :=
  (List.range 4).foldl (fun s d => (s.dropL1 d k).modDie d fun x => { x with rdc := codeOnly x.rdc fun q _ => q = k }) s

/-- A host becomes a sharer of the words of a line that it has read through CXL.mem, in the entry of the line's home too
(R59, R105). -/
def State.hostShares (s : State) (ln : Nat) : State :=
  let s := s.setHostLine ln .s
  match s.homeOf 0 (128 * ln) with
  | .slice h _ => s.setDir h ln ((s.dirOf h ln).add 0x200 (BitVec.allOnes 32))
  | _ => s

/-- A host gives its copy of a line up (R59, R105). -/
def State.hostDrops (s : State) (ln : Nat) : State :=
  let s := s.setHostLine ln .i
  match s.homeOf 0 (128 * ln) with
  | .slice h _ => s.setDir h ln (s.dirOf h ln).noHost
  | _ => s

/-- A request on a host link (R56, R57): 0 RdShared, 1 RdCurr, 2 WOWrInv, 3 WOWrInvF, 4 RdOwn with
DirtyEvict, 5 a memory read, 6 a posted write, 7 an AtomicOp; and what it leaves of the line. -/
def State.hostReq (s : State) (l what ln : Nat) : State :=
  let s := s.hand (.host l what ln)
  if what = 0 then (if s.hostLine ln = .i then s else s.setHostLine ln .s)
  else if what = 2 || what = 3 || what = 4 then (s.setHostLine ln .i).dropLine (s.dom * 2 ^ 38 + ln)
  else s

/-! ### Watches -/

/-- The watches of sleeping slots on a counter that has reached their targets are answered (R169, R212). -/
def Node.answered (n : Node) (pa : Nat) (v : Word) : Node :=
  if n.blk.sleep.any fun p => p.2.held && p.2.pa = pa && p.2.target ≤ v then
    { n with blk := { n.blk with sleep := n.blk.sleep.mapAll fun _ w =>
        if w.pa = pa && w.target ≤ v then { w with held := false } else w } }
  else n

/-- Wakes the waiters of a counter whose target its value has reached (R159, R212). -/
def State.notify (s : State) (pa : Nat) : State :=
  let v : Word := BitVec.ofNat 64 (s.peek (s.key pa) 8)
  let s := { s with nodes := s.nodes.mapAll fun _ n => n.answered pa v }
  let woken := s.nodes.filter fun p =>
    match p.2.watch with
    | some w => w.held && w.pa = pa && w.target ≤ v
    | none => false
  woken.foldl (fun s p =>
    let s := s.modNode p.1 fun n => { n with watch := none, reply := some v }
    (List.range 4).foldl (fun s d => s.modDie d fun x =>
      { x with watches := x.watches.mapAll fun _ l => l.filter fun t => t ≠ p.1 }) s) s

/-- Wakes the waiters of every 8-byte word that the bytes pa..pa+n−1 touch. -/
def State.notifyRange (s : State) (pa n : Nat) : State :=
  let ws := (s.nodes.flatMap fun p => (p.2.watch.toList ++ p.2.sleeping).map (·.pa)).filter fun a => a < pa + n && pa < a + 8
  ws.foldl (fun s a => s.notify a) s

/-- The list under which the watches of a counter's home are counted, and their greatest number: a slice of a die, or an MT
(R212). -/
def State.watchHome (s : State) (d pa : Nat) : Option (Nat × Nat × Nat) :=
  match s.home d pa with
  | .slice h sl => some (h, sl, 1024)
  | .proxy l sl => some (proxyDie l, 32 + sl, 1024)
  | .tile t _ => some (dieOf t, 64 + agentOf t, 16)
  | _ => none

/-- How many watches of a home are held: by commits that wait, and by slots that sleep. -/
def State.watchesHeld (s : State) (d k : Nat) : Nat :=
  ((s.die d).watches.getD k []).length + (s.nodes.flatMap fun p => (p.2.sleeping).filter fun w =>
    w.held && (match s.watchHome (dieOf p.1) w.pa with
      | some h => h.1 = d && h.2.1 = k
      | none => false)).length
  + (s.queueWatches.filter fun a => match s.watchHome 0 a with
      | some h => h.1 = d && h.2.1 = k
      | none => false).length

/-- Has the home of a counter a watch free for a die's node? -/
def State.watchFree (s : State) (d pa : Nat) : Bool := match s.watchHome d pa with
  | some h => s.watchesHeld h.1 h.2.1 < h.2.2
  | none => false

/-! ### What a matrix fetch may see (R266) -/

/-- Notes a write at a word that may still fetch. -/
def MatWord.note (x : SeenLine) (w : MatWord) : MatWord := { w with seen := w.seen ++ [x] }

/-- Applies a function to the words that wait in an array or are at work there. -/
def Matrix.mapWords (f : MatWord → MatWord) (m : Matrix) : Matrix :=
  { m with
    queue := m.queue.map f
    mma := m.mma.map fun r => { r with w := f r.w }
    loads := m.loads.map fun r => { r with w := f r.w } }

/-- Does an array hold a word that may still fetch? -/
def Matrix.fetches (m : Matrix) : Bool := !m.queue.isEmpty || m.mma.isSome || !m.loads.isEmpty

/-- The line of 128 bytes in which a memory key lies. -/
def State.keyLine (s : State) (k : Nat) : Vec := BitVec.ofNat 1024 (s.peek (k / 128 * 128) 128)

/-- n bytes at a key have been written, by the node of a tile where one is named; `before` is the line until then. -/
def State.noteWrite (s : State) (by_ : Option Nat) (k n : Nat) (before : Vec) : State :=
  if s.nodes.any fun p => p.2.mat.fetches then
    let after := s.keyLine k
    { s with nodes := s.nodes.mapAll fun t x =>
      { x with mat := x.mat.mapWords (MatWord.note ⟨k / 128, bytesMask (k % 128) n, before, after, by_ = some t⟩) } }
  else s

/-- What has been written since an earlier state was the own write of a tile's node. -/
def State.mine (s : State) (t : Nat) (old : State) : State :=
  match s.node? t, old.node? t with
  | some n, some o =>
    if n.mat.fetches then
      let known := (o.mat.queue ++ (o.mat.mma.toList ++ o.mat.loads).map (·.w)).flatMap (·.seen)
      s.setNode t { n with mat := n.mat.mapWords fun w =>
        { w with seen := w.seen.map fun x => if known.contains x then x else { x with own := true } } }
    else s
  | _, _ => s

/-! ### Access at a home -/

/-- Removes from an MT's journal the words that an agent outside the region writes (R388). -/
def State.unjournal (s : State) (t off n : Nat) : State :=
  { s with mts := s.mts.modify t fun m =>
      { m with journal := m.journal.filter fun j => !(4 * j.index < off + n && off < 4 * j.index + 4) } }

/-- The bytes of a line at its home. -/
def State.lineAt (s : State) (k : Nat) : Vec := BitVec.ofNat 1024 (s.peek (s.key (k * 128)) 128)

/-- Has a line a poisoned word among the words of a mask? -/
def State.linePoisoned (s : State) (k : Nat) (w : Word32) : Bool :=
  s.poison.any fun p =>
    let a := s.key (k * 128)
    a ≤ 8 * p && 8 * p < a + 128 && bytesMask (8 * p - a) 8 &&& w ≠ 0

/-- The proxy of a watched counter in host memory reads its line with RdShared into the RDC of its die, where it is watched (R428). -/
def State.proxyWatch (s : State) (pa : Nat) : State :=
  let k := pa / 128
  match s.home 0 pa with
  | .proxy l _ =>
    if !s.hostUp l || !s.hostIsCxl l then s
    else
      let s := s.hostReq l 0 (k % 2 ^ 38)
      if s.linePoisoned k (BitVec.allOnes 32) then s
      else
        let (st, s) := s.timeStamp (proxyDie l) (rdcSlice k)
        s.rdcPut (proxyDie l) k (BitVec.allOnes 32) (s.lineAt k) st false
  | _ => s

/-- Reads words of a line at their home for a master on a die: rights, errors, coherence. `share` is a
load that keeps a copy of a host line (R57). -/
def State.homeLine (s : State) (d : Nat) (m : Master) (k : Nat) (w : Word32) (lru share : Bool) :
    Except AccErr Vec × State :=
  let pa := k * 128
  let (ok, s) := s.permit d m pa 1
  if !ok then (.error .access, s)
  else
    let s := s.touch (s.key pa)
    let got (s : State) : Except AccErr Vec × State :=
      if s.linePoisoned k w then (.error .poison, s) else (.ok (s.lineAt k), s)
    match s.home d pa with
    | .slice h _ =>
      if s.lost h (k % 2 ^ 38) then (.error .poison, s)
      else got ((s.dirShare h (k % 2 ^ 38) w).l2Use h (k % 2 ^ 38) lru)
    | .proxy l _ =>
      if !s.hostUp l then (.error .access, s)
      else got (s.hostReq l (if s.hostIsCxl l then (if share then 0 else 1) else 5) (k % 2 ^ 38))
    | .tile _ _ => got s
    | .peer dev => got (s.hand (.peer ((s.route dev).getD 0) m pa (.read 128)))
    | .mmio _ _ | .refuse _ _ => (.error .access, s)

/-- Reads n bytes of one line at their home. MMIO is read as aligned words of 8 bytes alone (R450). -/
def State.homeRead (s : State) (d : Nat) (m : Master) (pa n : Nat) (lru : Bool) :
    Except AccErr (List Byte) × State :=
  match s.home d pa with
  | .mmio h off =>
    let (ok, s) := s.permit d m pa 1
    if ok && n = 8 && off % 8 = 0 then (.ok (toBytes (s.mmioRead h off).toNat 8), s) else (.error .access, s)
  | _ =>
    match s.homeLine d m (pa / 128) (bytesMask (pa % 128) n) lru false with
    | (.ok v, s) => (.ok (lineBytes v (pa % 128) n), s)
    | (.error e, s) => (.error e, s)

/-- Reads a counter at its home: none lies in the MMIO window (R114). -/
def State.readCounter (s : State) (d : Nat) (m : Master) (pa : Nat) : Except AccErr (List Byte) × State :=
  match s.home d pa with
  | .mmio _ _ => (.error .access, s)
  | _ => s.homeRead d m pa 8 false

/-- Bytes come to stand at their home: memory and poison, what a matrix fetch may see, and the watches (R266, R212, R391). -/
def State.putBytes (s : State) (pa : Nat) (b : List Byte) : State :=
  let k := s.key pa
  let n := b.length
  ((({ s with mem := Memory.write s.mem k b }).lift k n).noteWrite none k n (s.keyLine k)).notifyRange pa n

/-- The home of a line takes a write of n of its bytes for a master on a die: rights, errors, tags and requests. MMIO is written by
the operation that knows its registers, not here; a peer device is sent the write. -/
def State.homeTake (s : State) (d : Nat) (m : Master) (pa : Nat) (b : List Byte) : Except AccErr Unit × State :=
  let (ok, s) := s.permit d m pa 2
  if !ok then (.error .access, s)
  else
    let k := s.key pa
    let n := b.length
    let s := s.touch k
    match s.home d pa with
    | .slice h _ =>
      if s.lost h (k / 128) then (.error .poison, s)
      else (.ok (), ((s.dirInval h (k / 128) none (bytesMask (k % 128) n)).l2Use h (k / 128) false).l2Dirty h (k / 128))
    | .proxy l _ =>
      if !s.hostUp l then (.error .access, s)
      else (.ok (), s.hostReq l (if s.hostIsCxl l then (if n = 128 then 3 else 2) else 6) (k / 128))
    | .tile t off => (.ok (), (s.recallHost (k / 128)).unjournal t off n)
    | .mmio _ _ => (.error .access, s)
    | .peer dev => (.ok (), s.hand (.peer ((s.route dev).getD 0) m pa (.write b)))
    | .refuse _ _ => (.error .access, s)

/-- Writes bytes of one line at their home for a master on a die. In the range of a FIFO or a line buffer it writes the bytes at the
offset and leaves the descriptor's places alone: R130 speaks of an MT's own requests (DESIGN CHOICE, log 64). -/
def State.homeWrite (s : State) (d : Nat) (m : Master) (pa : Nat) (b : List Byte) : Except AccErr Unit × State :=
  match s.homeTake d m pa b with
  | (.error e, s) => (.error e, s)
  | (.ok _, s) => (.ok (), s.putBytes pa b)

/-- Bytes of a write that the home has taken come to stand there: copies made of them since are dropped. -/
def State.landBytes (s : State) (d pa : Nat) (b : List Byte) : State :=
  let k := s.key pa
  let s := match s.home d pa with
    | .slice h _ => (s.dirInval h (k / 128) none (bytesMask (k % 128) b.length)).l2Dirty h (k / 128)
    | .proxy l _ => if s.hostIsCxl l then (s.setHostLine (k / 128) .i).dropLine (pa / 128) else s
    | .tile t off => (s.recallHost (k / 128)).unjournal t off b.length
    | _ => s
  s.putBytes pa b

/-- Applies an atomic or counter operation that its home has accepted (R74, R114, R115): the line is recalled, then the
operation replaces the value. `pcie` says whether R56 lets it reach a PCI Express host, `spad` whether an MT
executes it. Gives the old and the new value. -/
def State.applyAt (s : State) (d : Nat) (m : Master) (pa es : Nat) (pcie spad : Bool) (op : ExtOp)
    (f : Nat → Nat × Bool) : Except AccErr (Nat × Nat) × State :=
  let k := s.key pa
  let s := s.touch k
  let put (s : State) : Except AccErr (Nat × Nat) × State :=
    if s.poisoned k es then (.error .poison, s)
    else
      let old := s.peek k es
      let (new, sat) := f old
      let s := (s.poke k es new).noteWrite none k es (s.keyLine k)
      let s := if sat then s.saturated d m pa else s
      (.ok (old, new), s.notify (pa / 8 * 8))
  match s.home d pa with
  | .slice h _ =>
    if s.lost h (k / 128) then (.error .poison, s)
    else put (((s.dirInval h (k / 128) none (bytesMask (k % 128) es)).l2Use h (k / 128) false).l2Dirty h
      (k / 128))
  | .proxy l _ =>
    if !s.hostUp l || (!s.hostIsCxl l && !pcie) then (.error .access, s)
    else put (s.hostReq l (if s.hostIsCxl l then 4 else 7) (k / 128))
  | .tile t off => if spad then put ((s.recallHost (k / 128)).unjournal t off es) else (.error .access, s)
  | .mmio _ _ => (.error .access, s)
  | .peer dev => put (s.hand (.peer ((s.route dev).getD 0) m pa op))
  | .refuse _ _ => (.error .access, s)

/-- Applies an atomic or counter operation at its home, where the master has the right to it. -/
def State.homeApply (s : State) (d : Nat) (m : Master) (pa es : Nat) (pcie spad : Bool) (op : ExtOp)
    (f : Nat → Nat × Bool) : Except AccErr (Nat × Nat) × State :=
  let (ok, s) := s.permit d m pa 3
  if !ok then (.error .access, s) else s.applyAt d m pa es pcie spad op f

/-- A counter add at its home (R157, R158). -/
def State.counterAt (s : State) (d : Nat) (m : Master) (pa : Nat) (amount : Word) :
    Except AccErr (Nat × Nat) × State :=
  s.homeApply d m pa 8 true true (.counterAdd amount) fun old =>
    let (v, sat) := counterAdd (BitVec.ofNat 64 old) amount
    (v.toNat, sat)

/-- The new value and saturation of an atomic (R186). -/
def AtomOp.apply (op : AtomOp) (ty : Ty) (right third old : Nat) : Nat × Bool :=
  let w := ty.width
  let r := right % 2 ^ w
  let sgn (x : Nat) : Int := ty.val (BitVec.ofNat 64 x)
  match op with
  | .add =>
    if ty.isInt then
      if ty.isSigned then ((old + r) % 2 ^ w, false)
      else if 2 ^ w ≤ old + r then (2 ^ w - 1, true) else (old + r, false)
    else (ty.fpAdd rne 0 old r, false)
  | .min => (if ty.isInt then (if sgn old ≤ sgn r then old else r) else ty.fpMin old r, false)
  | .max => (if ty.isInt then (if sgn r ≤ sgn old then old else r) else ty.fpMax old r, false)
  | .and => (old &&& r, false)
  | .or => (old ||| r, false)
  | .xor => (old ^^^ r, false)
  | .exch => (r, false)
  | .cas => (if old = third % 2 ^ w then r else old, false)

/-- An atomic at its home (R114, R186). -/
def State.atomicAt (s : State) (d : Nat) (m : Master) (pa : Nat) (ty : Ty) (op : AtomOp) (right third : Word)
    (ordered : Bool) : Except AccErr (Nat × Nat) × State :=
  s.homeApply d m pa ty.bytes (!ordered) (!ordered) (.atomic ty op right third)
    (AtomOp.apply op ty right.toNat third.toNat)

/-- Reads bytes that may cross lines, line by line, at their homes. -/
def State.homeReadAll (s : State) (d : Nat) (m : Master) (lru : Bool) :
    List (Nat × Nat) → Except AccErr (List Byte) × State
  | [] => (.ok [], s)
  | (pa, n) :: t =>
    match s.homeRead d m pa n lru with
    | (.error e, s) => (.error e, s)
    | (.ok b, s) =>
      match s.homeReadAll d m lru t with
      | (.error e, s) => (.error e, s)
      | (.ok c, s) => (.ok (b ++ c), s)

/-- Cuts n bytes from an address on into pieces within lines; fuel bounds the count. -/
def pieces (pa n : Nat) : Nat → List (Nat × Nat)
  | 0 => []
  | f + 1 =>
    if n = 0 then []
    else
      let k := Nat.min n (128 - pa % 128)
      (pa, k) :: pieces (pa + k) (n - k) f

end Sys2Proof.Machine
end

