-- ==== Sys2Proof/Machine/Faults.lean ====
section
/-! DEFINITION. Fault rings (R93, R382, R452): writing a record, its fill counter and its MSI-X vector; the
words of the records of R94 and R382; faults that wait because their ring is disabled or full. -/

namespace Sys2Proof.Machine

/-- A write (`add` false) or a counter add that the device makes on its own behalf reaches its home, unchecked (R69); none where no home
takes it. It acts there as that of any master (R57, R58, R63, R77, R106, R388). -/
def State.devHome (s : State) (pa n : Nat) (add : Bool) (op : ExtOp) : Option State :=
  let k := s.key pa
  let s := s.touch k
  match s.home 0 pa with
  | .slice h _ => some (((s.dirInval h (k / 128) none (bytesMask (k % 128) n)).l2Use h (k / 128) false).l2Dirty h (k / 128))
  | .proxy l _ =>
    if !s.hostUp l then none
    else some (s.hostReq l (if s.hostIsCxl l then (if add then 4 else 2) else (if add then 7 else 6)) (k / 128))
  | .tile t off => some ((s.recallHost (k / 128)).unjournal t off n)
  | .peer dev => some (s.hand (.peer ((s.route dev).getD 0) ⟨0, 7⟩ pa op))
  | .mmio _ _ | .refuse _ _ => none

/-- What n bytes hold from now on. -/
def State.devPut (s : State) (pa n x : Nat) : State :=
  let k := s.key pa
  (((s.poke k n x).lift k n).noteWrite none k n (s.keyLine k)).notify (pa / 8 * 8)

/-- A write that the device makes on its own behalf. -/
def State.devWrite (s : State) (pa n x : Nat) : State := match s.devHome pa n false (.write (toBytes x n)) with
  | none => s
  | some u => u.devPut pa n x

/-- Writes n words from an address on whose layout is private to the device: their values are free (log 21). -/
def State.scribble (s : State) (a : Nat) : Nat → State
  | 0 => s
  | n + 1 =>
    let s := s.scribble a n
    let (x, s) := s.pickWord
    s.devWrite (a + 8 * n) 8 x.toNat

/-- A read that the device makes on its own behalf. -/
def State.devRead (s : State) (pa n : Nat) : Nat := s.peek (s.key pa) n

/-- A counter add that a die makes on its own behalf, as a system master (R69, R157, R158). -/
def State.devAdd (s : State) (d pa : Nat) (amount : Word) : State :=
  match s.devHome pa 8 true (.counterAdd amount) with
  | none => s
  | some s =>
    let (v, sat) := counterAdd (BitVec.ofNat 64 (s.devRead pa 8)) amount
    let s := s.devPut pa 8 v.toNat
    if sat then s.saturated d ⟨0, 7⟩ pa else s

/-- Raises the vector of a vector register, where it is enabled (R452). -/
def State.msix (s : State) (v : Word) : State :=
  if v.getLsbD 11 then s.hand (.msix (if s.hostUp 0 then 0 else 1) (v.toNat % 2048)) else s

/-- The registers of a fault ring in the die group: base, fill, free, vector. Rings 0 and 1 are the
translation rings k (log 12), ring 2 is the fault ring. -/
def ringRegs (r : Nat) : Nat × Nat × Nat × Nat :=
  if r = 0 then (0x18, 0x28, 0x38, 0) else if r = 1 then (0x20, 0x30, 0x40, 0x48) else (0x58, 0x60, 0x68, 0x70)

/-- log2 of the record count of a fault ring that is enabled with a valid n (R452). -/
def ringN (b : Word) : Option Nat :=
  let n := field b.toNat 62 58
  if b.getLsbD 63 && 4 ≤ n && n ≤ 16 then some n else none

/-- Fill, free and record count of a ring that can take a record now. -/
def State.ringRoom (s : State) (d r : Nat) : Option (Nat × Nat) :=
  let (b, f, g, _) := ringRegs r
  match ringN (s.dieReg d b) with
  | none => none
  | some n =>
    let fill := s.devRead (s.dieReg d f).toNat 8
    let free := s.devRead (s.dieReg d g).toNat 8
    if (fill + 2 ^ 64 - free) % 2 ^ 64 < 2 ^ n then some (fill, n) else none

/-- The die has read the counters of an enabled ring (R77, R93). -/
def State.ringLook (s : State) (d r : Nat) : State :=
  let (b, f, g, _) := ringRegs r
  if (ringN (s.dieReg d b)).isNone then s
  else (s.touch (s.key (s.dieReg d f).toNat)).touch (s.key (s.dieReg d g).toNat)

/-- Address of the record of a fill number. -/
def State.ringAddr (s : State) (d r fill n : Nat) : Nat :=
  let (b, _, _, _) := ringRegs r
  field (s.dieReg d b).toNat 55 0 + fill % 2 ^ n * 32

/-- Writes a record: words 1 to 3, then word 0, then the fill counter and the vector (R93, R382). -/
def State.ringPut (s : State) (d r fill n : Nat) (w : Word × Word × Word × Word) : State :=
  let a := s.ringAddr d r fill n
  let (_, f, _, v) := ringRegs r
  let s := s.ringLook d r
  let s := ((s.devWrite (a + 8) 8 w.2.1.toNat).devWrite (a + 16) 8 w.2.2.1.toNat).devWrite (a + 24) 8 w.2.2.2.toNat
  let s := (s.devWrite a 8 w.1.toNat).devAdd d (s.dieReg d f).toNat 1
  if v = 0 then s else s.msix (s.dieReg d v)

/-- The words of a fault record (R382). -/
def FaultRec.words (r : FaultRec) : Word × Word × Word × Word :=
  (BitVec.ofNat 64 (r.cause.code * 2 ^ 56 + r.prec.toNat * 2 ^ 54 + b2n r.eng * 2 ^ 53 + r.ctx.toNat * 2 ^ 40
      + r.tile % 4096 * 2 ^ 28 + r.handle % 2 ^ 16),
    r.addr,
    BitVec.ofNat 64 (r.detail.toNat * 2 ^ 32 + r.seqNo % 2 ^ 16 * 2 ^ 16 + r.unit % 2 ^ 16),
    r.tick)

/-- Writes a fault record into a die's fault ring, or leaves it to wait there, and copies it to the event
recorder (R382, R399, R452). -/
def State.report (s : State) (d : Nat) (r : FaultRec) : State :=
  let w := r.words
  let s := s.event d 0x01 r.ctx r.tile w.1 w.2.1
  match s.ringRoom d 2, (s.die d).fltDefer with
  | some (fill, n), [] => s.ringPut d 2 fill n w
  | _, _ => (s.ringLook d 2).modDie d fun x => { x with fltDefer := x.fltDefer ++ [r] }

/-- The words of a translation fault record (R94). -/
def PendFault.words (p : PendFault) (d : Nat) : Word × Word × Word × Word :=
  (BitVec.ofNat 64 (p.ctx.toNat * 2 ^ 52 + p.cause * 2 ^ 48 + p.level * 2 ^ 45 + b2n p.kr * 2 ^ 44
      + b2n p.kw * 2 ^ 43 + b2n p.kx * 2 ^ 42 + p.page),
    BitVec.ofNat 64 (p.count * 2 ^ 32 + p.cls * 2 ^ 29 + d * 2 ^ 27),
    p.entry, p.tick)

/-- Writes the record of a pending fault, if its ring has room (R92, R93). -/
def State.pendPut (s : State) (d : Nat) (p : PendFault) : PendFault × State :=
  match s.ringRoom d p.ring with
  | none => (p, s.ringLook d p.ring)
  | some (fill, n) => ({ p with slot := some fill }, s.ringPut d p.ring fill n (p.words d))

/-- Rewrites word 0, when a kind is new, and word 1 of a record whose slot has not been freed (R92). -/
def State.pendUpdate (s : State) (d : Nat) (p : PendFault) (kindNew : Bool) : State :=
  let (b, _, g, _) := ringRegs p.ring
  match p.slot, ringN (s.dieReg d b) with
  | some fill, some n =>
    let free := s.devRead (s.dieReg d g).toNat 8
    let s := s.ringLook d p.ring
    if free ≤ fill then
      let a := s.ringAddr d p.ring fill n
      let w := p.words d
      let s := if kindNew then s.devWrite a 8 w.1.toNat else s
      s.devWrite (a + 8) 8 w.2.1.toNat
    else s
  | _, _ => s

/-- Writes the records that wait for a ring, oldest first, as far as it has room; fuel is their number
(R93, R452). -/
def State.drainFlt (s : State) (d : Nat) : Nat → State
  | 0 => s
  | k + 1 =>
    match (s.die d).fltDefer, s.ringRoom d 2 with
    | r :: t, some (fill, n) =>
      ((s.ringPut d 2 fill n r.words).modDie d fun x => { x with fltDefer := t }).drainFlt d k
    | _, _ => s

/-- Writes the first pending translation fault of a ring that has no record yet. -/
def State.drainPend (s : State) (d r : Nat) : Nat → State
  | 0 => s
  | k + 1 =>
    match (s.die d).pend.find? fun p => p.ring = r && p.slot.isNone, s.ringRoom d r with
    | some p, some _ =>
      let (q, s) := s.pendPut d p
      (s.modDie d fun x => { x with pend := x.pend.map fun p' =>
        if p'.ctx = p.ctx && p'.page = p.page then q else p' }).drainPend d r k
    | _, _ => s

/-- Writes whatever waits for a ring of a die (FAULT_RECORD_DEFERRED). -/
def State.drainRing (s : State) (d r : Nat) : State :=
  if r = 2 then s.drainFlt d (s.die d).fltDefer.length else s.drainPend d r (s.die d).pend.length

/-- Has a ring of a die something to write and room for it? -/
def State.ringDue (s : State) (d r : Nat) : Bool :=
  (s.ringRoom d r).isSome &&
    (if r = 2 then !(s.die d).fltDefer.isEmpty else (s.die d).pend.any fun p => p.ring = r && p.slot.isNone)

end Sys2Proof.Machine
end

