-- ==== Sys2Proof/Machine/Xlate.lean ====
section
/-! DEFINITION. Address translation: the walk of R83 to R86, the buffers of R87 and R88, pending faults
(R91, R92) and their end (R95, R96), invalidation (R89, R90). -/

namespace Sys2Proof.Machine

/-- Why a translation gives nothing now: an address beyond 56 bits (R81), a fault or a miss that now waits (R88, R92), an entry that
cannot be read (R80). -/
inductive XErr where
  | addr | fault | poison
  deriving DecidableEq, Repr

/-- Pages of the three sizes: 64 KiB, 2 MiB, 1 GiB (R83). -/
def pageSize (level : Nat) : Nat := if level = 3 then 2 ^ 30 else if level = 2 then 2 ^ 21 else 2 ^ 16

/-- The low bit of the index of a level (R83). -/
def levelBit (level : Nat) : Nat := if level = 4 then 39 else if level = 3 then 30 else if level = 2 then 21 else 16

/-- The index bits of a level (R83). -/
def levelIndex (level va : Nat) : Nat :=
  if level = 4 then field va 55 39 else if level = 3 then field va 38 30 else if level = 2 then field va 29 21
  else field va 20 16

/-- Does an entry let a kind of access through? Gives the cause of R85 otherwise. -/
def leafCause (e : Nat) (kind : AccKind) : Nat :=
  match kind with
  | .read => 0
  | .write => if bitAt e 59 then 0 else 2
  | .fetch => if bitAt e 60 then 0 else 3

/-- Is an entry malformed at a level (R85)? -/
def State.malformed (s : State) (level e : Nat) : Bool :=
  let a := field e 53 8 * 256
  let leaf := bitAt e 62
  field e 58 54 ≠ 0 || field e 7 0 ≠ 0 || (leaf && level = 4) || (!leaf && level = 1)
    || (leaf && a % pageSize level ≠ 0)
    || (!leaf && (bitAt e 61 || bitAt e 60 || bitAt e 59))
    || (!leaf && level ≠ 2 && a % 4096 ≠ 0)
    || (!leaf && !(a / 2 ^ 45 = s.dom
          && (a % 2 ^ 45 < 512000000000
              || (0x8000000000 ≤ a % 2 ^ 45 && a % 2 ^ 45 < (s.mmioAt 0 0x78).toNat))))

/-- What a walk finds in an entry: the next table, a page, a fault with its cause, level and entry, or a poisoned word. -/
inductive WalkGot where
  | next (table : Nat)
  | page (e : TlbEnt) (word : Word)
  | fault (why : Nat × Nat × Word)
  | poison
  deriving DecidableEq, Repr

/-- What the entry of a table of level l for an address says (R84, R85). -/
def State.entryAt (s : State) (ctx : BitVec 12) (va table l : Nat) : WalkGot :=
  let k := s.key (table + 8 * levelIndex l va)
  let e := s.peek k 8
  let lost : Bool := match s.home 0 (table + 8 * levelIndex l va) with
    | .slice h _ => s.lost h (k / 128)
    | _ => false
  if lost || s.poisoned k 8 then .poison
  else if !bitAt e 63 then .fault (1, l, BitVec.ofNat 64 e)
  else if s.malformed l e then .fault (4, l, BitVec.ofNat 64 e)
  else if bitAt e 62 then
    let sz := pageSize l
    .page ⟨ctx, va / sz * sz, sz, field e 53 8 * 256, bitAt e 59, bitAt e 60, bitAt e 61⟩ (BitVec.ofNat 64 e)
  else .next (field e 53 8 * 256)

/-- The walker reads an entry at its home slice (R86). -/
def State.readEntry (s : State) (d : Nat) (va table l : Nat) : State :=
  let a := table + 8 * levelIndex l va
  let s := s.touch (s.key a)
  match s.home d a with
  | .slice h _ => s.l2Use h (s.key a / 128) false
  | _ => s

/-- The walk cache takes a non-leaf entry of level l (R88). -/
def State.walkNote (s : State) (d : Nat) (ctx : BitVec 12) (va l next : Nat) : State :=
  let ent : WalkEnt := ⟨ctx, l - 1, va / 2 ^ levelBit l, next⟩
  s.modDie d fun x => { x with walk := (ent :: x.walk.filter fun w => w ≠ ent).take 256 }

/-- A whole walk from a level down with the table's address; fuel is the level (R85, R88). Gives the buffer entry, or the cause,
the level and the entry that stopped it; none where that entry is poisoned. A leaf that is both malformed and lacks the right that
the access needs is malformed (DESIGN CHOICE, log 59). -/
def State.walkFrom (s : State) (d : Nat) (ctx : BitVec 12) (va : Nat) (kind : AccKind) (table : Nat) :
    Nat → Except (Option (Nat × Nat × Word)) TlbEnt × State
  | 0 => (.error (some (5, 0, 0)), s)
  | level + 1 =>
    let l := level + 1
    let s := s.readEntry d va table l
    match s.entryAt ctx va table l with
    | .poison => (.error none, s)
    | .fault why => (.error (some why), s)
    | .page e w =>
      let c := leafCause w.toNat kind
      if c ≠ 0 then (.error (some (c, l, w)), s) else (.ok e, s)
    | .next n => (s.walkNote d ctx va l n).walkFrom d ctx va kind n level

/-- The lowest table that the walk cache knows for an address: its level and address (R88). -/
def Die.walkHit (x : Die) (ctx : BitVec 12) (va : Nat) : Option (Nat × Nat) :=
  let f (l : Nat) := (x.walk.find? fun w => w.ctx = ctx && w.level = l && w.va = va / 2 ^ levelBit (l + 1)).map
    fun w => (l, w.table)
  match f 1 with
  | some r => some r
  | none =>
    match f 2 with
    | some r => some r
    | none => f 3

/-- Where a walk for an address of a context begins: the lowest table known, or the root; none where the context's root is
disabled (R82, R85, R88). -/
def State.walkStart (s : State) (d : Nat) (ctx : BitVec 12) (va : Nat) : Option (Nat × Nat) :=
  let root := s.ctxReg ctx 0
  if !root.getLsbD 63 then none
  else some (((s.die d).walkHit ctx va).getD (4, field root.toNat 53 20 * 2 ^ 20))

/-- A walk for an address of a context in one piece (R82, R83, R85). -/
def State.walk (s : State) (d : Nat) (ctx : BitVec 12) (va : Nat) (kind : AccKind) :
    Except (Option (Nat × Nat × Word)) TlbEnt × State :=
  match s.walkStart d ctx va with
  | none => (.error (some (5, 0, 0)), s)
  | some (l, t) => s.walkFrom d ctx va kind t l

/-- Does a walk as memory stands meet a poisoned entry (R80)? -/
def State.walkPoisoned (s : State) (ctx : BitVec 12) (va : Nat) : Nat → Nat → Bool
  | 0, _ => false
  | l + 1, table => match s.entryAt ctx va table (l + 1) with
    | .poison => true
    | .next n => s.walkPoisoned ctx va l n
    | _ => false

/-- Does a buffer entry serve an access? -/
def TlbEnt.serves (e : TlbEnt) (ctx : BitVec 12) (va : Nat) (kind : AccKind) : Bool :=
  e.ctx = ctx && e.va ≤ va && va < e.va + e.size &&
    (match kind with
     | .read => true
     | .write => e.w
     | .fetch => e.x)

/-- The physical address that an entry gives. -/
def TlbEnt.phys (e : TlbEnt) (va : Nat) : Nat := e.pa + (va - e.va)

/-- Puts an entry in front of a buffer of a size; the oldest leaves (log 13). -/
def tlbPut (e : TlbEnt) (l : List TlbEnt) (n : Nat) : List TlbEnt := (e :: l.filter fun f => f ≠ e).take n

/-- The set of an entry in the last-level buffer of 2,048 sets (R87; which set is the model's choice, log 13). -/
def TlbEnt.set (e : TlbEnt) : Nat := e.va / e.size % 2048

/-- Keeps the first n entries of a set. -/
def keepSet (k : Nat) : Nat → List TlbEnt → List TlbEnt
  | _, [] => []
  | n, f :: l =>
    if f.set = k then (match n with
      | 0 => keepSet k 0 l
      | n + 1 => f :: keepSet k n l)
    else f :: keepSet k n l

/-- Puts an entry in front of the last-level buffer: eight to a set, of which the oldest leaves (R87; log 13). -/
def tlbPutLast (e : TlbEnt) (l : List TlbEnt) : List TlbEnt := e :: keepSet e.set 7 (l.filter fun f => f ≠ e)

/-- Fills the buffers that a requester uses (R87): 64 entries of a CT, 16 of an MT, the die's 2,048 sets of 8. -/
def State.tlbFill (s : State) (d : Nat) (tile : Option Nat) (e : TlbEnt) : State :=
  let s := s.modDie d fun x => { x with tlb := tlbPutLast e x.tlb }
  match tile with
  | none => s
  | some t =>
    let c := s.cache t
    s.setCache t { c with tlb := tlbPut e c.tlb (if isCt t then 64 else 16) }

/-- Looks an address up in the buffers of a requester (R87). An entry without the right that the access needs does not serve it:
the table is walked again (DESIGN CHOICE, log 59). -/
def State.tlbFind (s : State) (d : Nat) (tile : Option Nat) (ctx : BitVec 12) (va : Nat) (kind : AccKind) :
    Option TlbEnt :=
  let own := match tile with
    | none => none
    | some t => (s.cache t).tlb.find? fun e => e.serves ctx va kind
  match own with
  | some e => some e
  | none => (s.die d).tlb.find? fun e => e.serves ctx va kind

/-- The physical address of a write, where its translation is at hand on a die. -/
def State.physAt (s : State) (d : Nat) (ctx : BitVec 12) (va : Word) : Option Nat :=
  (s.tlbFind d none ctx va.toNat .write).map fun e => e.phys va.toNat

/-- Has a key a pending fault on a die (R92)? -/
def State.pendingAt (s : State) (d : Nat) (ctx : BitVec 12) (page : Nat) : Option PendFault :=
  (s.die d).pend.find? fun p => p.ctx = ctx && p.page = page

/-- Replaces the pending fault of a key. -/
def State.setPend (s : State) (d : Nat) (p : PendFault) : State :=
  s.modDie d fun x => { x with pend := x.pend.map fun q => if q.ctx = p.ctx && q.page = p.page then p else q }

/-- A request joins a pending fault (R92). -/
def State.pendJoin (s : State) (d : Nat) (p : PendFault) (kind : AccKind) (r : Requester) : State :=
  let new := match kind with
    | .read => !p.kr
    | .write => !p.kw
    | .fetch => !p.kx
  let q := { p with
    kr := p.kr || kind = .read, kw := p.kw || kind = .write, kx := p.kx || kind = .fetch
    count := p.count + 1
    waiters := if p.waiters.contains r then p.waiters else p.waiters ++ [r] }
  (s.setPend d q).pendUpdate d q new

/-- A request faults (R92): it joins the pending fault of its key, creates one and its record, or, with 256
pending, stays unrecorded. The ring is that of the requester's tfs bit (R93). -/
def State.pendFault (s : State) (d : Nat) (ctx : BitVec 12) (page : Nat) (kind : AccKind) (cls : BitVec 3)
    (assist : Word) (r : Requester) (why : Nat × Nat × Word) : State :=
  match s.pendingAt d ctx page with
  | some p => s.pendJoin d p kind r
  | none =>
    if 256 ≤ (s.die d).pend.length then s.modDie d fun x => { x with unrec := x.unrec ++ [r] }
    else
      let p : PendFault := ⟨ctx, page, why.1, why.2.1, kind = .read, kind = .write, kind = .fetch, 1, cls.toNat,
        why.2.2, s.now, b2n (assist.getLsbD 0), none, [r]⟩
      let s := s.modDie d fun x => { x with pend := x.pend ++ [p] }
      let (q, s) := s.pendPut d p
      s.setPend d q

/-! ### Misses (R88) -/

/-- A miss that a requester waits for. -/
def Miss.awaits (m : Miss) (ctx : BitVec 12) (page : Nat) (w : MissWaiter) : Bool :=
  m.ctx = ctx && m.page = page && m.waiters.contains w

/-- Changes the first miss that a test names. -/
def modMiss (f : Miss → Bool) (g : Miss → List Miss) : List Miss → List Miss
  | [] => []
  | m :: l => if f m then g m ++ l else m :: modMiss f g l

/-- A request misses (R88): it joins a walk of its key that is to be used, or begins one; what ended in a fault for others is
walked afresh. With 64 walkers at work and 4,096 misses waiting it stalls at issue. -/
def State.missJoin (s : State) (d : Nat) (ctx : BitVec 12) (page : Nat) (w : MissWaiter) : State :=
  let l := (s.die d).misses
  let open_ (m : Miss) : Bool := m.ctx = ctx && m.page = page && !m.stale && m.why.isNone
  if l.any fun m => open_ m && m.waiters.contains w then s
  else if l.any open_ then
    s.modDie d fun x => { x with misses := modMiss open_ (fun m => [{ m with waiters := m.waiters ++ [w] }]) x.misses }
  else if 64 + 4096 ≤ (l.filter fun m => m.why.isNone).length then s
  else
    s.modDie d fun x => { x with misses :=
      (x.misses.filter fun m => m.why.isNone || m.ctx ≠ ctx || m.page ≠ page) ++ [⟨ctx, page, none, false, none, [w]⟩] }

/-- A miss without a waiter; none where nobody else waits. -/
def Miss.without (m : Miss) (w : MissWaiter) : List Miss :=
  let l := m.waiters.filter fun y => y ≠ w
  if l.isEmpty then [] else [{ m with waiters := l }]

/-- A waiter takes the fault that its walk has ended in. -/
def State.missTake (s : State) (d : Nat) (ctx : BitVec 12) (page : Nat) (w : MissWaiter) : State :=
  s.modDie d fun x => { x with
    misses := modMiss (fun m => m.why.isSome && m.awaits ctx page w) (fun m => m.without w) x.misses }

/-- The miss that the walkers of a die work on for a key: one of the first 64 that have not ended (R88). -/
def Die.walking (x : Die) (ctx : BitVec 12) (page : Nat) : Option Miss :=
  ((x.misses.filter fun m => m.why.isNone).take 64).find? fun m => m.ctx = ctx && m.page = page

/-- A walk ends: its miss, and every miss of the context that its page covers, has its result, but that a waiter whose right the
leaf lacks faults (R85, R88). Where both a write and a fetch lack theirs, the fault is that of the fetch for both (DESIGN CHOICE,
log 59). -/
def State.missPage (s : State) (d : Nat) (e : TlbEnt) (l : Nat) (w : Word) : State :=
  let inPage (m : Miss) : Bool :=
    m.ctx = e.ctx && !m.stale && m.why.isNone && e.va ≤ m.page * 65536 && m.page * 65536 < e.va + e.size
  let left (m : Miss) : List Miss :=
    let cause := (m.waiters.map fun x => leafCause w.toNat x.kind).foldl Nat.max 0
    let ws := m.waiters.filter fun x => leafCause w.toNat x.kind ≠ 0
    if ws.isEmpty then [] else [{ m with why := some (cause, l, w), waiters := ws }]
  s.modDie d fun x => { x with misses := x.misses.flatMap fun m => if inPage m then left m else [m] }

/-- One read of a walker (R85, R86, R88, R90): the next entry of the walk of a key. A walk that an invalidation has overtaken is
discarded at its end, and so is one that meets a poisoned word, for its requesters to find. -/
def State.walkStep (s : State) (d : Nat) (ctx : BitVec 12) (page : Nat) : State :=
  match (s.die d).walking ctx page with
  | none => s
  | some m =>
    let va := page * 65536
    let put (s : State) (g : Miss → List Miss) : State :=
      s.modDie d fun x => { x with misses := modMiss (fun y => y = m) g x.misses }
    let fails (s : State) (why : Nat × Nat × Word) : State :=
      put s fun m => if m.stale then [] else [{ m with why := some why }]
    match (if m.at_.isSome then m.at_ else s.walkStart d ctx va) with
    | none => fails s (5, 0, 0)
    | some (l, table) =>
      let s := s.readEntry d va table l
      match s.entryAt ctx va table l with
      | .poison => put s fun _ => []
      | .fault why => fails s why
      | .page e w => if m.stale then put s fun _ => [] else (s.missPage d e l w).tlbFill d none e
      | .next n =>
        put (if m.stale then s else s.walkNote d ctx va l n) fun m => [{ m with at_ := some (l - 1, n) }]

/-- A requester whose request was to be retried has sent it again (R96, R433). -/
def State.reissued (s : State) (d : Nat) (r : Requester) : State :=
  if (s.die d).thawed.contains r then s.modDie d fun x => { x with thawed := x.thawed.filter fun w => w ≠ r } else s

/-- Translates an address of a requester (R81, R87, R88, R91): the entry that serves it, or why none does now. A fault is left
pending with the requester waiting; a miss is walked for, and the request comes again. -/
def State.xlate (s : State) (d : Nat) (tile : Option Nat) (ctx : BitVec 12) (va : Word) (kind : AccKind)
    (cls : BitVec 3) (assist : Word) (r : Requester) : Except XErr TlbEnt × State :=
  let a := va.toNat
  let page := a / 65536
  let w : MissWaiter := ⟨r, kind⟩
  let s := s.reissued d r
  if 2 ^ 56 ≤ a then (.error .addr, s)
  else
    match s.tlbFind d tile ctx a kind with
    | some e => (.ok e, s.tlbFill d tile e)
    | none =>
      match s.pendingAt d ctx page with
      | some p => (.error .fault, s.pendJoin d p kind r)
      | none =>
        match (s.die d).misses.find? fun m => m.why.isSome && m.awaits ctx page w with
        | some m => (.error .fault, (s.missTake d ctx page w).pendFault d ctx page kind cls assist r (m.why.getD (5, 0, 0)))
        | none =>
          match s.walkStart d ctx a with
          | some (l, t) => if s.walkPoisoned ctx a l t then (.error .poison, s) else (.error .fault, s.missJoin d ctx page w)
          | none => (.error .fault, s.missJoin d ctx page w)

/-- How a translation for a hint ends: with a page, without one, or not yet, while its walk runs (R88, R190). -/
inductive Hinted where
  | page (e : TlbEnt)
  | missing
  | walking
  deriving DecidableEq, Repr

/-- Translates for a hint of a requester (R88, R190): with a pending fault of its key it finds nothing, and leaves none itself; a
miss joins a walk or begins one. -/
def State.xlateHint (s : State) (d : Nat) (tile : Option Nat) (ctx : BitVec 12) (va : Nat) (kind : AccKind) (r : Requester) :
    Hinted × State :=
  let page := va / 65536
  let w : MissWaiter := ⟨r, kind⟩
  if 2 ^ 56 ≤ va || (s.pendingAt d ctx page).isSome then (.missing, s)
  else
    match s.tlbFind d tile ctx va kind with
    | some e => (.page e, s.tlbFill d tile e)
    | none =>
      if (s.die d).misses.any fun m => m.why.isSome && m.awaits ctx page w then (.missing, s.missTake d ctx page w)
      else
        match s.walkStart d ctx va with
        | none => (.missing, s)
        | some (l, t) => if s.walkPoisoned ctx va l t then (.missing, s) else (.walking, s.missJoin d ctx page w)

/-! ### Freezing on a fault and going on (R91, R96) -/

/-- Does a requester wait on a pending fault (R92)? One that only misses does not. -/
def State.faulting (s : State) (r : Requester) : Bool :=
  s.dies.toList.any fun x => x.unrec.contains r || x.pend.any fun p => p.waiters.contains r

/-- A request that misses comes again: nothing of its requester changes, but that a slot waits again (R88). -/
def State.missAgain (s : State) (r : Requester) : State :=
  match r with
  | .node t => match s.node? t with
    | some n => if n.issued && s.focus = t then s.retry else s
    | none => s
  | _ => s

/-- An element's translation has faulted: a node abandons its block, everything else keeps its place. One that only misses asks
again. -/
def State.freezeWalk (s : State) (r : Requester) : State :=
  if !s.faulting r then s.missAgain r
  else
  match r with
  | .node t => s.modNode t fun n => { n.abandon n.pc with stop := some .walk }
  | .mt t => { s with mts := s.mts.modify t fun m => { m with stop := some .walk } }
  | .engine d e q => s.modDie d fun x =>
      { x with engines := x.engines.modify (e * 8 + q) fun g => { g with frozen := true } }
  | .network d => s.modDie d fun x => { x with net := { x.net with frozen := true } }
  | .launch d q => s.modDie d fun x =>
      { x with queues := x.queues.modify q fun g => { g with waiting := true } }
  | .matrix t => s.modNode t fun n => { n with mat := { n.mat with fetchWait := true } }
  | .taskRing _ | .nobody => s

/-- Lets an element retry its request. -/
def State.thawWalk (s : State) (r : Requester) : State :=
  match r with
  | .node t => s.modNode t fun n => if n.stop = some .walk then { n with stop := none } else n
  | .mt t => { s with mts := s.mts.modify t fun m => if m.stop = some .walk then { m with stop := none } else m }
  | .engine d e q => s.modDie d fun x =>
      { x with engines := x.engines.modify (e * 8 + q) fun g => { g with frozen := false } }
  | .network d => s.modDie d fun x => { x with net := { x.net with frozen := false } }
  | .launch d q => s.modDie d fun x =>
      { x with queues := x.queues.modify q fun g => { g with waiting := false, ending := none } }
  | .matrix t => s.modNode t fun n => { n with mat := { n.mat with fetchWait := false } }
  | .taskRing _ | .nobody => s

/-- Requesters that have gone wait for no translation any more. -/
def Die.forget (x : Die) (gone : Requester → Bool) : Die := { x with
  pend := x.pend.map fun p => { p with waiters := p.waiters.filter fun w => !gone w }
  unrec := x.unrec.filter fun w => !gone w
  thawed := x.thawed.filter fun w => !gone w
  misses := x.misses.map fun m => { m with waiters := m.waiters.filter fun w => !gone w.r } }

/-- Is a requester an element of a list of tiles? -/
def elemOf (l : List Nat) (r : Requester) : Bool := match r with
  | .node t | .mt t | .matrix t => l.contains t
  | _ => false

/-- A resumption of R96 with fail = 0: the pending fault of the key ends, its requests and every unrecorded
one retry. -/
def State.tfqRetry (s : State) (d : Nat) (ctx : BitVec 12) (page : Nat) : State :=
  let ws := match s.pendingAt d ctx page with
    | some p => p.waiters
    | none => []
  let un := (s.die d).unrec
  let s := s.modDie d fun x =>
    { x with
      pend := x.pend.filter fun p => !(p.ctx = ctx && p.page = page)
      unrec := []
      thawed := x.thawed ++ (ws ++ un).filter fun r => !x.thawed.contains r }
  (ws ++ un).foldl (fun s r => s.thawWalk r) s

/-! ### Invalidation (R89, R90) -/

/-- Does an invalidation name a page: every page of the context, one size, or every size over an address? -/
def tlbMatch (x : Word) (ctx : BitVec 12) (va size : Nat) : Bool :=
  let sz := field x.toNat 61 60
  let p := field x.toNat 39 0 * 65536
  ctx = x.extractLsb' 40 12 &&
    (x.getLsbD 63
      || ((sz = 3 || size = (if sz = 0 then 2 ^ 16 else if sz = 1 then 2 ^ 21 else 2 ^ 30))
          && va ≤ p && p < va + size))

/-- Drops the matching entries of a die's buffers and its walk cache (R89). -/
def State.tlbDrop (s : State) (d : Nat) (x : Word) : State :=
  s.modDie d fun y =>
    { y with
      tlb := y.tlb.filter fun e => !tlbMatch x e.ctx e.va e.size
      walk := y.walk.filter fun w => w.ctx ≠ x.extractLsb' 40 12
      tiles := y.tiles.mapAll fun _ c => { c with tlb := c.tlb.filter fun e => !tlbMatch x e.ctx e.va e.size } }

/-- Does a window hold a store that was translated through a matching page (R90)? A page is matched by the
64 KiB of it that the store lay in. -/
def Window.hasPage (w : Window) (ctx : BitVec 12) (x : Word) : Bool :=
  let hit (p : Nat) := ctx = x.extractLsb' 40 12 &&
    (x.getLsbD 63 ||
      (let sz := field x.toNat 61 60
       let g := if sz = 0 then 1 else if sz = 1 then 32 else 16384
       p / g = field x.toNat 39 0 / g))
  (w.lines.any fun l => l.2.pages.any hit) || w.mmio.any fun r => hit r.page

/-- The windows of a die that a write of `tlb.inv` forces to an implicit release (R90). -/
def State.tlbWindows (s : State) (d : Nat) (x : Word) : List Nat × List Nat :=
  ((s.nodes.filter fun p => dieOf p.1 = d && p.2.win.hasPage p.2.ctx x).map (·.1),
    (s.mts.filter fun p => dieOf p.1 = d && p.2.win.hasPage p.2.ctx x).map (·.1))

/-- Is an address of a page that an invalidation names (R90)? -/
def tlbNames (x : Word) (ctx : BitVec 12) (va : Nat) : Bool :=
  ctx = x.extractLsb' 40 12 && (x.getLsbD 63 ||
    (let sz := field x.toNat 61 60
     let g := if sz = 0 then 1 else if sz = 1 then 32 else 16384
     va / 65536 / g = field x.toNat 39 0 / g))

/-- The virtual addresses through which an act that a block or a commit holds has been translated. -/
def Act.vas : Act → List Nat
  | .store r | .ownStore r => r.lanes.map (·.va)
  | .lda r => [r.va, r.va + r.ty.bytes * (if r.vec then 32 else 1) - 1]
  | .ownAtom va .. => [va]
  | .ownAdd c _ _ | .cwait c _ _ _ | .cread c _ _ _ => [c.va.toNat]
  | .radvWait _ l => l.map fun c => c.va.toNat
  | .netMsg (.cswave _ c _ _) => [c.va.toNat]
  | _ => []

/-- The acts of a node that have been translated already: those its block holds and those of its commit. -/
def Node.heldActs (n : Node) : List Act := n.blk.effs.flatMap (·.acts) ++ (match n.phase with
  | .commit q => q
  | _ => [])

/-- Does a node hold an access through a page that an invalidation names (R90)? -/
def Node.uses (n : Node) (x : Word) : Bool := n.heldActs.any fun a => a.vas.any fun v => tlbNames x n.ctx v

/-- Does a node's commit hold such an access? -/
def Node.commitUses (n : Node) (x : Word) : Bool := match n.phase with
  | .commit q => q.any fun a => a.vas.any fun v => tlbNames x n.ctx v
  | _ => false

/-- Starts an invalidation on a die that is idle (R89, R90). Blocks that hold accesses through the page, or sleep on counters, begin
again; the walks in flight are to be discarded. -/
def State.tlbStart (s : State) (d : Nat) (x : Word) : State :=
  let s := s.mmioKeep d 0x10010 x
  let s := s.tlbDrop d x
  let (ns, ms) := s.tlbWindows d x
  let s := ns.foldl (fun s t => s.modNode t fun n => { n with implicitReq := true }) s
  let s := { s with
    mts := ms.foldl (fun l t => Tbl.modify l t fun m => { m with implicitReq := true }) s.mts
    nodes := s.nodes.mapAll fun t n =>
      if dieOf t = d && (match n.phase with | .fire => true | _ => false) && (n.uses x || (n.ctx = x.extractLsb' 40 12 && !n.blk.sleep.isEmpty)) then
        n.abandon n.pc
      else n }
  s.modDie d fun y => { y with
    tlbBusy := true
    tlbReq := x
    misses := (y.misses.filter fun m => m.why.isNone).map fun m => { m with stale := true } }

/-- A write of `tlb.inv`: held while the last is incomplete (R89). -/
def State.tlbWrite (s : State) (d : Nat) (x : Word) : State :=
  if (s.die d).tlbBusy then s.modDie d fun y => { y with tlbHeld := y.tlbHeld ++ [x] } else s.tlbStart d x

/-- Is a message a request of a die's node that has been translated through a page? -/
def requestUses (x : Word) (d : Nat) (i : Instr) : Bool :=
  let hit (t : Nat) (m : Master) (va : Nat) : Bool := dieOf t = d && tlbNames x m.ctx va
  match i with
  | .atomicAtHome r => hit r.tile r.m r.va
  | .counterAddAtHome r => hit r.tile r.m r.va
  | .orderedAtomicArrival r | .atomoRetryResend r => !r.remote && hit r.req.tile r.req.m r.req.va
  | _ => false

/-- Is one of a node's requests that is made again on resumption translated through a page (R90, R384)? -/
def Node.lateUses (n : Node) (d : Nat) (x : Word) : Bool :=
  (n.again.any fun r =>
    let sz := r.2.ty.bytes * (if r.2.vec then 32 else 1)
    tlbNames x n.ctx r.2.va || tlbNames x n.ctx (r.2.va + sz - 1))
  || n.late.any fun p => p.2.any (requestUses x d)

/-- Is a request that has been translated through a page still on its way from a die's node (R90)? -/
def State.requestsUse (s : State) (d : Nat) (x : Word) : Bool :=
  (s.nodes.any fun p => dieOf p.1 = d && p.2.lateUses d x) || (s.agenda.any (requestUses x d))
    || s.dies.toList.any fun y => y.aoBuf.any fun r => requestUses x d (.orderedAtomicArrival r)

/-- May the invalidation under way on a die end (R90): the windows it forced have performed, the walks it overtook are over, and
no commit, no request and no engine holds an access through the page? -/
def State.tlbClear (s : State) (d : Nat) : Bool :=
  let x := (s.die d).tlbReq
  !s.requestsUse d x
    && !((s.die d).engines.any fun q => q.2.fly.any fun f => f.name.any fun a => tlbNames x a.1 a.2)
    && !(s.nodes.any fun p => dieOf p.1 = d && (p.2.implicitReq || p.2.commitUses x))
    && !(s.mts.any fun p => dieOf p.1 = d && p.2.implicitReq)
    && !(s.die d).misses.any (·.stale)

/-- The invalidation under way ends; the next one that is held begins. -/
def State.tlbEnd (s : State) (d : Nat) : State :=
  let s := s.modDie d fun y => { y with tlbBusy := false }
  match (s.die d).tlbHeld with
  | [] => s
  | x :: t => (s.modDie d fun y => { y with tlbHeld := t }).tlbStart d x

end Sys2Proof.Machine
end

