-- ==== Sys2Proof/Machine/Load.lean ====
section
/-! DEFINITION. Loads of a node (R98, R101, R112, R113, R121, R122, R155, R169 to R172, R178, R181): which
copy serves a line, what the window and the block's own stores lay over it, and rounds. -/

namespace Sys2Proof

/-- Does a policy fill the L1 (R121)? -/
def Policy.fillsL1 (p : Policy) : Bool := p = .normal || p = .evictFirst

/-- Do fills of a policy enter at the LRU position (R121)? -/
def Policy.lru (p : Policy) : Bool := p = .evictFirst || p = .streaming

end Sys2Proof

namespace Sys2Proof.Machine

/-- How an access of a slot ends: with a value, in a precise trap, frozen on a translation, on a poisoned
word, or asleep on a counter. -/
inductive Got (α : Type) where
  | ok (x : α) (s : State)
  | trap (c : Cause) (addr : Word) (s : State)
  | walk (s : State)
  | poison (s : State)
  | sleep (w : Watch) (s : State)

/-- An access of a slot whose translation gives nothing now. -/
def XErr.got {α : Type} (e : XErr) (va : Word) (s : State) : Got α := match e with
  | .addr => .trap .address va s
  | .poison => .poison s
  | .fault => .walk s

/-- A mask of words as a mask of bits. -/
def wordBits (w : Word32) : Vec := ofLanes fun i => if w.getLsbD i then BitVec.allOnes 32 else 0

/-- Takes the words of a mask from one line and the rest from another. -/
def mergeWords (old new : Vec) (w : Word32) : Vec := (old &&& ~~~(wordBits w)) ||| (new &&& wordBits w)

/-- Does a mask cover another? -/
def covers (have_ want : Word32) : Bool := want &&& ~~~have_ = 0

/-- The master that a node is (R69). -/
def Node.master (n : Node) : Master := ⟨n.ctx, 0⟩

/-- Notes a use of an L1 line. -/
def State.useL1 (s : State) (t k : Nat) : State :=
  let (u, s) := s.tickUse
  s.setL1 t k { s.l1 t k with use := u }

/-- Fills words of a remote line into an L1, in S (R98, R104). -/
def State.fillRemote (s : State) (t k : Nat) (w : Word32) (v : Vec) (round : Option (Nat × Nat)) (lru : Bool) :
    State :=
  let s := s.l1Room t k
  let l := s.l1 t k
  let l := if l.round = round then l else L1Line.empty
  let (u, s) := s.useAt lru
  s.setL1 t k { l with s := l.s ||| w, data := mergeWords l.data v w, round := round, use := u }

/-- Notes a use of an RDC line. -/
def State.useRdc (s : State) (d k : Nat) : State :=
  let (u, s) := s.tickUse
  s.modDie d fun x => { x with rdc := x.rdc.modify k fun l => { l with use := u } }

/-- The RDC copy that may serve an ordinary load: it covers the words, carries a time stamp, and was filled
after the unit of the acquire mark (R112). -/
def State.rdcTimed (s : State) (d k : Nat) (w : Word32) (mark : Nat) : Option Vec :=
  match Tbl.get? k (s.die d).rdc with
  | none => none
  | some l =>
    if covers l.valid w && !l.stamp.isRound then
      match (s.die d).stampVal (rdcSlice k) l.stamp with
      | some u => if mark < u then some l.data else none
      | none => none
    else none

/-- The first word of a mask, and the one past its last. -/
def firstWord (w : Word32) : Nat := ((List.range 32).find? fun i => w.getLsbD i).getD 0
def pastWord (w : Word32) : Nat := 32 - (((List.range 32).find? fun i => w.getLsbD (31 - i)).getD 0)

/-- The span that an L1 asks for on a miss (R103): it holds the words that the load needs, and as many words around them as
a free choice takes (log 5); a poisoned word is not taken in. -/
def State.spanFor (s : State) (k : Nat) (w : Word32) : Word32 × State :=
  let (a, s) := s.pick (firstWord w + 1)
  let (b, s) := s.pick (33 - pastWord w)
  let x := bytesMask (4 * a) (4 * (pastWord w + b - a))
  (if s.linePoisoned k x then w else x, s)

/-- A load of a line homed elsewhere (R112, R121). -/
def State.loadRemote (s : State) (t k : Nat) (m : Master) (mark : Nat) (w : Word32) (p : Policy) (host : Bool) :
    Except AccErr Vec × State :=
  let d := dieOf t
  let l := s.l1 t k
  if p.fillsL1 && covers l.valid w && l.round.isNone then (.ok l.data, s.useL1 t k)
  else
    match (if p = .streaming then none else s.rdcTimed d k w mark) with
    | some v =>
      let s := s.useRdc d k
      (.ok v, if p.fillsL1 then s.fillRemote t k w v none p.lru else s)
    | none =>
      let (w, s) := if p = .streaming then (w, s) else s.spanFor k w
      match s.homeLine d m k w p.lru p.fillsL1 with
      | (.error e, s) => (.error e, s)
      | (.ok v, s) =>
        if p = .streaming || (host && p = .bypass) then (.ok v, s)
        else
          let (st, s) := s.timeStamp d (rdcSlice k)
          let s := s.rdcPut d k w v st p.lru
          (.ok v, if p.fillsL1 then s.fillRemote t k w v none p.lru else s)

/-- A load of words of a line by a CT: what serves it depends on its home and its policy (R98, R121). A valid copy in the L1 serves
it even where its line has been poisoned at the home since (DESIGN CHOICE, log 59). -/
def State.loadLine (s : State) (t k : Nat) (m : Master) (mark : Nat) (w : Word32) (p : Policy) :
    Except AccErr Vec × State :=
  let d := dieOf t
  match s.home d (k * 128) with
  | .slice h _ =>
    if h = d then
      if p.fillsL1 && covers (s.l1 t k).valid w then (.ok (s.lineAt k), s.useL1 t k)
      else
        let (w, s) := if p.fillsL1 then s.spanFor k w else (w, s)
        match s.homeLine d m k w p.lru false with
        | (.error e, s) => (.error e, s)
        | (.ok v, s) => (.ok v, if p.fillsL1 then s.dirRead t (k % 2 ^ 38) w p.lru else s)
    else s.loadRemote t k m mark w p false
  | .proxy l _ => if s.hostIsCxl l then s.loadRemote t k m mark w p true else s.homeLine d m k w p.lru false
  | .peer _ => s.loadRemote t k m mark w p false
  | _ => s.homeLine d m k w p.lru false

/-- A load through the constant path: a constant line, or the home, which fills one where an L1 may hold the line (R98, R122,
R181). `lay` puts the node's own earlier bytes over what the home gives. -/
def State.loadConst (s : State) (t k : Nat) (m : Master) (w : Word32) (lay : Vec → Vec) : Except AccErr Vec × State :=
  let c := constKey k
  let l := s.l1 t c
  if covers l.valid w then (.ok (lay l.data), s.useL1 t c)
  else
    match s.homeLine (dieOf t) m k w false true with
    | (.error e, s) => (.error e, s)
    | (.ok v, s) =>
      let v := lay v
      if s.ownLine (dieOf t) (k * 128) || s.farLine (dieOf t) (k * 128) then
        let s := s.l1Room t c
        let l := s.l1 t c
        let (u, s) := s.tickUse
        (.ok v, s.setL1 t c { l with s := l.s ||| w, data := mergeWords l.data v w, const := true, use := u })
      else (.ok v, s)

/-! ### Rounds (R165 to R172) -/

/-- Number of slots V of a region. -/
def RoundRegion.slots (r : RoundRegion) : Nat := if r.ver = 0 then 1 else if r.ver = 1 then 2 else 4

/-- The declared region and slot in which an address lies (R172). -/
def Node.slotOf (n : Node) (va : Nat) : Option (Nat × RoundRegion × Nat) :=
  (n.rounds.find? fun p => p.2.base ≤ va && va < p.2.base + p.2.slots * p.2.len).map fun p =>
    (p.1, p.2, (va - p.2.base) / p.2.len)

/-- The needed round of LDB with a numeric bound (R169). -/
def Node.needed (n : Node) (k bound : Nat) : Nat :=
  Nat.max ((vget n.cur k 0).toNat - bound) (vget n.floor k 0).toNat

/-- The round that slot j holds when p is published: none when no round has been published in it (R172). -/
def roundIn (p j v : Nat) : Option Nat :=
  let back := (p + v - j % v) % v
  if back ≤ p then some (p - back) else none

/-- A round-stamped copy that a node may use: the virtual address read, its slot, physical line, whether its page is
shared-volatile, whether the L1 holds it, its round (none for an antique one) and the line (R110, R113, R169). -/
structure Copy where
  va : Nat
  slot : Nat
  line : Nat
  sv : Bool
  inL1 : Bool
  round : Option Nat
  data : Vec
  deriving DecidableEq, Repr

/-- The copies of a line for a region of a context, in the L1 and in the RDC. Only a copy that covers the words counts
(R111, R113). -/
def State.copyRound (s : State) (t : Nat) (ctx : BitVec 12) (reg va slot k : Nat) (sv : Bool) (w : Word32) : List Copy :=
  let l := s.l1 t k
  let a := match l.round with
    | some (g, r) => if g = reg && covers l.valid w then [⟨va, slot, k, sv, true, some r, l.data⟩] else []
    | none => []
  let x := s.die (dieOf t)
  let b := match Tbl.get? k x.rdc with
    | some q =>
      if covers q.valid w && x.roundOf k q ctx reg then [⟨va, slot, k, sv, false, x.stampVal (rdcSlice k) q.stamp, q.data⟩] else []
    | none => []
  a ++ b

/-- The copy with the highest round among those that satisfy a test; an antique one ranks below all (R169). -/
def bestCopy (ok : Option Nat → Bool) (l : List Copy) : Option Copy :=
  (l.filter fun c => ok c.round).foldl (fun (a : Option Copy) c =>
    match a with
    | none => some c
    | some b =>
      match b.round, c.round with
      | none, some _ => some c
      | some x, some y => if x < y then some c else a
      | _, none => a) none

/-- A copy serves a load: its use is noted, and one of the RDC fills the L1 where the policy lets it (R100, R121, R185). -/
def State.useCopy (s : State) (t reg : Nat) (c : Copy) (w : Word32) (p : Policy) : State :=
  if c.inL1 then s.useL1 t c.line
  else
    let s := s.useRdc (dieOf t) c.line
    match c.round with
    | some r => if p.fillsL1 then s.fillRemote t c.line w c.data (some (reg, r)) p.lru else s
    | none => s

/-- Reads words of a line of a region at its home and fills its copies with a round, or with an antique
stamp (R185). A line homed on the node's own die carries no stamp (R169), and one that R98 lets nothing copy fills nothing: an
ordinary load of a round region in host memory over PCI Express is served there uncached (DESIGN CHOICE, log 59). -/
def State.loadStamped (s : State) (t k : Nat) (n : Node) (reg : Nat) (w : Word32) (p : Policy)
    (round : Option Nat) : Except AccErr Vec × State :=
  let d := dieOf t
  if !s.farLine d (k * 128) then s.loadLine t k n.master n.mark w p
  else
    match s.homeLine d n.master k w p.lru true with
    | (.error e, s) => (.error e, s)
    | (.ok v, s) =>
      let sl := rdcSlice k
      let (st, s) := match round with
        | some r => s.roundStamp d sl n.ctx reg r
        | none =>
          let (ix, s) := s.roundBase d sl n.ctx reg 0
          (⟨true, ix, 0⟩, s)
      let s := s.rdcPut d k w v st p.lru
      match round with
      | some r => (.ok v, if p.fillsL1 then s.fillRemote t k w v (some (reg, r)) p.lru else s)
      | none => (.ok v, s)

/-- Translates an address for the element of a tile. -/
def State.xlateNode (s : State) (t : Nat) (n : Node) (va : Word) (kind : AccKind) : Except XErr TlbEnt × State :=
  s.xlate (dieOf t) (some t) n.ctx va kind 0 n.assist (if s.nodes.has t then .node t else .mt t)

/-- Reads the published round of a region at the home of its counter: the counter's physical address and
its value. -/
def State.readRound (s : State) (t : Nat) (n : Node) (r : RoundRegion) : Got (Nat × Nat) :=
  match s.xlateNode t n (BitVec.ofNat 64 r.rctr) .read with
  | (.error x, s) => x.got (BitVec.ofNat 64 r.rctr) s
  | (.ok e, s) =>
    match s.readCounter (dieOf t) n.master (e.phys r.rctr) with
    | (.error .access, s) => .trap .access (BitVec.ofNat 64 r.rctr) s
    | (.error .poison, s) => .poison s
    | (.ok b, s) => .ok (e.phys r.rctr, ofBytes b) s

/-- Reads the reclaim words of a region, smallest first found wins (R167): the effective reclaim m and the
physical address of the word that holds it. -/
def State.readReclaim (s : State) (t : Nat) (n : Node) (r : RoundRegion) : Nat → Got (Nat × Nat)
  | 0 => .ok (2 ^ 64, 0) s
  | i + 1 =>
    match s.readReclaim t n r i with
    | .ok (m, a) s =>
      let va := r.rcl + 8 * i
      match s.xlateNode t n (BitVec.ofNat 64 va) .read with
      | (.error x, s) => x.got (BitVec.ofNat 64 va) s
      | (.ok e, s) =>
        match s.readCounter (dieOf t) n.master (e.phys va) with
        | (.error .access, s) => .trap .access (BitVec.ofNat 64 va) s
        | (.error .poison, s) => .poison s
        | (.ok b, s) => if ofBytes b < m then .ok (ofBytes b, e.phys va) s else .ok (m, a) s
    | g => g

/-- Does a copy's round satisfy a bound? None is "any", which an antique copy satisfies too (R169). -/
def reaches (need : Option Nat) (x : Option Nat) : Bool := match need, x with
  | some n, some y => n ≤ y
  | some _, none => false
  | none, _ => true

/-- An ordinary load of words of a line that lies in slot j of a region (R172). -/
def State.loadSlot (s : State) (t k : Nat) (n : Node) (reg : Nat) (r : RoundRegion) (j : Nat) (w : Word32)
    (p : Policy) : Got Vec :=
  let need := n.needed reg 0
  match bestCopy (reaches (some need)) (s.copyRound t n.ctx reg 0 j k false w) with
  | some c => .ok c.data (s.useCopy t reg c w p)
  | none =>
    match s.readRound t n r with
    | .ok (ca, pr) s =>
      if pr < need then .sleep ⟨ca, BitVec.ofNat 64 need, false⟩ s
      else
        match s.loadStamped t k n reg w p (roundIn pr j r.slots) with
        | (.ok v, s) => .ok v s
        | (.error .access, s) => .trap .access (BitVec.ofNat 64 (r.base + j * r.len)) s
        | (.error .poison, s) => .poison s
    | .trap c a s => .trap c a s
    | .walk s => .walk s
    | .poison s => .poison s
    | .sleep x s => .sleep x s

/-! ### What a node lays over memory -/

/-- Lays a window line's bytes over a line (R101). -/
def Window.lay (w : Window) (k : Nat) (v : Vec) : Vec :=
  match Tbl.get? k w.lines with
  | none => v
  | some l => l.bytes.foldl (fun v b => linePatch v b.1 [b.2]) v

/-- The same for the bytes stored before the node's latest FENCE of kind K (R122). -/
def Window.layOld (w : Window) (k : Nat) (v : Vec) : Vec :=
  match Tbl.get? k w.lines with
  | none => v
  | some l => l.bytes.foldl (fun v b => if l.fresh.getLsbD b.1 then v else linePatch v b.1 [b.2]) v

/-- A FENCE of kind K: what the window holds is stored before it (R122). -/
def Window.aged (w : Window) : Window := { w with lines := w.lines.mapAll fun _ l => { l with fresh := 0 } }

/-- The stores that fired slots of the block hold with an LSID below a bound, in rising LSID (R25). -/
def Blk.storesBelow (b : Blk) (lsid : Nat) : List StoreReq :=
  let all := b.effs.flatMap fun e => e.acts.filterMap fun a =>
    match a with
    | .store r => some r
    | .ownStore r => some r
    | _ => none
  (all.filter fun r => r.lsid < lsid).mergeSort fun a b => a.lsid ≤ b.lsid

/-- Lays lanes of stores over the bytes of a line. -/
def layStores (k : Nat) (v : Vec) (l : List StoreReq) : Vec :=
  l.foldl (fun v r => r.lanes.foldl (fun v x =>
    if x.pa / 128 = k then linePatch v (x.pa % 128) (toBytes x.val x.size) else v) v) v

/-- A lane of a load: its index, address and size. -/
structure LaneAt where
  ix : Nat
  va : Nat
  size : Nat
  deriving DecidableEq, Repr

/-- The lines by virtual line number that lanes touch, with the words. -/
def lanesByLine (l : List LaneAt) : Tbl Word32 :=
  l.foldl (fun a x => a.set (x.va / 128) ((a.getD (x.va / 128) 0) ||| bytesMask (x.va % 128) x.size)) []

/-- Which way a load reads its lines. -/
inductive LoadWay where
  | ordinary (p : Policy)
  | const
  deriving DecidableEq, Repr

/-- The value that a waiting store to an MMIO register holds for a load of that register. -/
def Window.reg (w : Window) (pa : Nat) : Option Word :=
  ((w.mmio.filter fun r => r.pa = pa).getLast?).map (·.val)

/-- Has an atomic or a counter add of a tile that touches words of a line not been performed yet (R155, R187, R188)? -/
def State.atomicPending (s : State) (t k : Nat) (w : Word32) : Bool :=
  let at_ (u pa es : Nat) : Bool := u = t && pa / 128 = k && bytesMask (pa % 128) es &&& w ≠ 0
  let hit (r : AtomReq) : Bool := at_ r.tile r.pa r.ty.bytes
  (s.agenda.any fun i => match i with
    | .atomicAtHome r => hit r
    | .orderedAtomicArrival r => hit r.req
    | .atomoRetryResend r => hit r.req
    | .counterAddAtHome r => at_ r.tile r.pa 8
    | _ => false)
  || s.dies.toList.any fun x => x.aoBuf.any fun r => hit r.req

/-- Loads the words of one virtual line of a node: translates it, reads it, and lays the window and the
block's own earlier stores over it. Gives the line and whether its page is shared-volatile (R97). A line that
an atomic of the node is to change waits for the answer: a sleep that ends at once. -/
def State.loadVirt (s : State) (t : Nat) (n : Node) (lsid vk : Nat) (w : Word32) (way : LoadWay) :
    Got (Vec × Bool) :=
  let va : Word := BitVec.ofNat 64 (vk * 128)
  match s.xlateNode t n va .read with
  | (.error x, s) => x.got va s
  | (.ok e, s) =>
    let k := e.phys (vk * 128) / 128
    let lay (v : Vec) : Vec := layStores k (n.win.lay k v) (n.blk.storesBelow lsid)
    if s.atomicPending t k w then .sleep ⟨k * 128, 0, false⟩ s
    else
    match way with
    | .const =>
      match s.loadConst t k n.master w (n.win.layOld k) with
      | (.error .access, s) => .trap .access va s
      | (.error .poison, s) => .poison s
      | (.ok v, s) =>
        let u := lay v
        if u = v then .ok (v, e.sv) s
        else
          let (c, s) := s.pick 2
          .ok (if c = 0 then v else u, e.sv) s
    | .ordinary p =>
      match n.slotOf (vk * 128) with
      | some (reg, r, j) =>
        match s.loadSlot t k n reg r j w p with
        | .ok v s => .ok (lay v, e.sv) s
        | .trap c a s => .trap c a s
        | .walk s => .walk s
        | .poison s => .poison s
        | .sleep x s => .sleep x s
      | none =>
        match s.loadLine t k n.master n.mark w p with
        | (.error .access, s) => .trap .access va s
        | (.error .poison, s) => .poison s
        | (.ok v, s) => .ok (lay v, e.sv) s

/-- Loads every line that lanes touch; gives the lines and whether one of their pages is shared-volatile. -/
def State.loadLines (s : State) (t : Nat) (n : Node) (lsid : Nat) (way : LoadWay) :
    List (Nat × Word32) → Got (Tbl Vec × Bool)
  | [] => .ok ([], false) s
  | (vk, w) :: l =>
    match s.loadVirt t n lsid vk w way with
    | .ok (v, sv) s =>
      match s.loadLines t n lsid way l with
      | .ok (m, sv') s => .ok (m.set vk v, sv || sv') s
      | g => g
    | .trap c a s => .trap c a s
    | .walk s => .walk s
    | .poison s => .poison s
    | .sleep x s => .sleep x s

/-- The lines of a load-class access: a shadow makes none of its own to a shared-volatile page (R97). -/
def State.loadShared (s : State) (t : Nat) (n : Node) (lsid : Nat) (way : LoadWay) :
    List (Nat × Word32) → Got (Tbl Vec × Bool)
  | [] => .ok ([], false) s
  | (vk, w) :: l =>
    if !n.shadow then s.loadLines t n lsid way ((vk, w) :: l)
    else
      match s.xlateNode t n (BitVec.ofNat 64 (vk * 128)) .read with
      | (.error x, s) => x.got (BitVec.ofNat 64 (vk * 128)) s
      | (.ok e, s) =>
        match (if e.sv then .ok (0, true) s else s.loadVirt t n lsid vk w way) with
        | .ok (v, sv) s =>
          match s.loadShared t n lsid way l with
          | .ok (m, sv') s => .ok (m.set vk v, sv || sv') s
          | g => g
        | .trap c a s => .trap c a s
        | .walk s => .walk s
        | .poison s => .poison s
        | .sleep x s => .sleep x s

/-- The raw value of a lane from the lines loaded. -/
def laneRaw (m : Tbl Vec) (x : LaneAt) : Nat := ofBytes (lineBytes (m.getD (x.va / 128) 0) (x.va % 128) x.size)

/-- Is an address in the MMIO window (R52)? -/
def State.isMmio (s : State) (pa : Nat) : Bool := pa / 2 ^ 45 = s.dom && 0x1FC000000000 ≤ pa % 2 ^ 45

end Sys2Proof.Machine
end

