-- ==== Sys2Proof/Machine/Rounds.lean ====
section
/-! DEFINITION. Round loads and ring slots (R163, R164, R169, R170, R217), and the launch's reading of the
table of round regions (R165). -/

namespace Sys2Proof.Machine

/-- The copies of an address of slot 0 that a node holds in every slot of a region (R169): slots whose page has no translation have
none. None while a walk for one of the pages runs. -/
def State.copiesOf (s : State) (t : Nat) (n : Node) (reg : Nat) (r : RoundRegion) (va : Nat) (w : Word32) :
    Nat → Option (List Copy) × State
  | 0 => (some [], s)
  | j + 1 =>
    match s.copiesOf t n reg r va w j with
    | (none, s) => (none, s)
    | (some l, s) =>
      let a := va + j * r.len
      match s.xlateHint (dieOf t) (some t) n.ctx a .read (.node t) with
      | (.walking, s) => (none, s)
      | (.missing, s) => (some l, s)
      | (.page e, s) => (some (l ++ s.copyRound t n.ctx reg a j (e.phys a / 128) e.sv w), s)

/-- What a round load read: the virtual address, the line with the node's own bytes laid over it, and whether the page is
shared-volatile. -/
structure RoundGot where
  va : Nat
  line : Vec
  sv : Bool
  deriving DecidableEq, Repr

/-- A line as a node sees it: its window's bytes, then its block's stores of a lower LSID, over what memory gives (R25, R101). -/
def Node.overlay (n : Node) (lsid k : Nat) (v : Vec) : Vec := layStores k (n.win.lay k v) (n.blk.storesBelow lsid)

/-- A load that a copy serves; it waits while an atomic of the node is to change the words (R101, R187). -/
def State.takeCopy (s : State) (t : Nat) (n : Node) (lsid reg : Nat) (c : Copy) (w : Word32) (p : Policy) : Got RoundGot :=
  if s.atomicPending t c.line w then .sleep ⟨c.line * 128, 0, false⟩ s
  else .ok ⟨c.va, n.overlay lsid c.line c.data, c.sv⟩ (s.useCopy t reg c w p)

/-- Reads an address of slot j of a region at its home, stamped with a round: the line, with the node's own
bytes laid over it, and whether its page is shared-volatile. Host memory over PCI Express refuses it (R56). -/
def State.readSlot (s : State) (t : Nat) (n : Node) (lsid reg va : Nat) (w : Word32) (p : Policy)
    (round : Nat) : Got RoundGot :=
  match s.xlateNode t n (BitVec.ofNat 64 va) .read with
  | (.error x, s) => x.got (BitVec.ofNat 64 va) s
  | (.ok e, s) =>
    let k := e.phys va / 128
    let pcie := match s.home (dieOf t) (k * 128) with
      | .proxy l _ => !s.hostIsCxl l
      | _ => false
    if pcie then .trap .access (BitVec.ofNat 64 va) s
    else if s.atomicPending t k w then .sleep ⟨k * 128, 0, false⟩ s
    else
    match s.loadStamped t k n reg w p (some round) with
    | (.ok v, s) => .ok ⟨va, n.overlay lsid k v, e.sv⟩ s
    | (.error .access, s) => .trap .access (BitVec.ofNat 64 va) s
    | (.error .poison, s) => .poison s

/-- LDB (R169): an address of slot 0 and a bound, `none` for any. A shadow makes no access of its own (R380). -/
def State.loadBounded (s : State) (t : Nat) (n : Node) (lsid reg : Nat) (r : RoundRegion) (va es : Nat)
    (bound : Option Nat) (p : Policy) : Got RoundGot :=
  let w := bytesMask (va % 128) es
  let need := bound.map (n.needed reg)
  if n.shadow then .ok ⟨va, 0, true⟩ s
  else
    match s.copiesOf t n reg r va w r.slots with
    | (none, s) => .walk s
    | (some l, s) =>
      match bestCopy (reaches need) l with
      | some c => s.takeCopy t n lsid reg c w p
      | none =>
        match s.readRound t n r with
        | .ok (ca, pr) s =>
          if pr < need.getD 0 then .sleep ⟨ca, BitVec.ofNat 64 (need.getD 0), false⟩ s
          else s.readSlot t n lsid reg (va + pr % r.slots * r.len) w p pr
        | .trap c a s => .trap c a s
        | .walk s => .walk s
        | .poison s => .poison s
        | .sleep x s => .sleep x s

/-- LDN's access (R170): an address of slot 0 and an exact round. -/
def State.loadRound (s : State) (t : Nat) (n : Node) (lsid reg : Nat) (r : RoundRegion) (va es round : Nat)
    (p : Policy) : Got RoundGot :=
  let w := bytesMask (va % 128) es
  let j := round % r.slots
  match s.copiesOf t n reg r va w r.slots with
  | (none, s) => .walk s
  | (some l, s) =>
    match bestCopy (fun x => x = some round) l with
    | some c => s.takeCopy t n lsid reg c w p
    | none =>
      match s.readRound t n r with
      | .ok (ca, pr) s =>
        match s.readReclaim t n r (r.nr + 1) with
        | .ok (m, _) s =>
          let above := l.any fun c => c.slot = j && c.round.any fun x => round < x
          if round < m || above then .trap .roundReclaimed 0 s
          else if pr < round then .sleep ⟨ca, BitVec.ofNat 64 round, false⟩ s
          else s.readSlot t n lsid reg (va + j * r.len) w p round
        | .trap c a s => .trap c a s
        | .walk s => .walk s
        | .poison s => .poison s
        | .sleep x s => .sleep x s
      | .trap c a s => .trap c a s
      | .walk s => .walk s
      | .poison s => .poison s
      | .sleep x s => .sleep x s

/-- LDN (R170). On a shared-volatile page a shadow makes no access of its own (R97). -/
def State.loadExact (s : State) (t : Nat) (n : Node) (lsid reg : Nat) (r : RoundRegion) (va es round : Nat)
    (p : Policy) : Got RoundGot :=
  let a := va + round % r.slots * r.len
  if !n.shadow then s.loadRound t n lsid reg r va es round p
  else
    match s.xlateNode t n (BitVec.ofNat 64 a) .read with
    | (.error x, s) => x.got (BitVec.ofNat 64 a) s
    | (.ok e, s) => if e.sv then .ok ⟨a, 0, true⟩ s else s.loadRound t n lsid reg r va es round p

/-- Reads 8 bytes of a node's address space at their home. -/
def State.readWord (s : State) (t : Nat) (n : Node) (va : Word) : Got (Nat × Nat × Bool) :=
  match s.xlateNode t n va .read with
  | (.error x, s) => x.got va s
  | (.ok e, s) =>
    match s.readCounter (dieOf t) n.master (e.phys va.toNat) with
    | (.error .access, s) => .trap .access va s
    | (.error .poison, s) => .poison s
    | (.ok b, s) => .ok (e.phys va.toNat, ofBytes b, e.sv) s

/-- A ring descriptor's words 2 and 3 (R163): base, slot size, slot count; none where it is malformed
(R217). -/
def ringOf (w2 w3 : Nat) : Option (Nat × Nat × Nat) :=
  let size := field w3 63 32
  let lgn := field w3 4 0
  if field w2 63 56 ≠ 0 || field w3 31 5 ≠ 0 || 20 < lgn || size = 0 || size % 128 ≠ 0 || 2 ^ 31 < size then none
  else some (field w2 55 0, size, 2 ^ lgn)

/-- A descriptor of the table of round regions (R165); none where the region counts as undeclared, one whose length is no multiple of
128 bytes too (DESIGN CHOICE, log 59). -/
def roundOfWords (w0 w1 w2 w3 : Nat) : Option RoundRegion :=
  let base := field w0 55 0
  let len := field w1 39 0
  let rctr := field w2 55 0
  let rcl := field w3 55 0
  if !bitAt w0 63 || field w0 62 61 = 3 || field w0 59 56 ≠ 0 || field w1 63 46 ≠ 0 || field w2 63 56 ≠ 0
      || field w3 63 56 ≠ 0 || base % 128 ≠ 0 || rctr % 8 ≠ 0 || rcl % 8 ≠ 0 || len = 0 || len % 128 ≠ 0 then none
  else some ⟨field w0 62 61, bitAt w0 60, base, field w1 45 40, len, rctr, rcl⟩

end Sys2Proof.Machine
end

