-- ==== Sys2Proof/Machine/Block.lean ====
section
/-! DEFINITION. Fetching and decoding a block (R13 to R15, R25, R35, R123, R124, R373, R404, R405, R408,
R426, R441, R442), and what an access that does not end in a value does to its node. -/

namespace Sys2Proof

/-- The positions an instruction accepts, by input code. -/
def Accept.list (a : Accept) : List (BitVec 2 × Kind) :=
  (a.left.map (1#2, ·)).toList ++ (a.right.map (2#2, ·)).toList ++ (a.gate.map (3#2, ·)).toList

end Sys2Proof

namespace Sys2Proof.Machine

/-! ### How an access of a node ends -/

/-- A node meets an uncorrectable error: it stops with a region fault (R125, R391). A commit keeps its place. -/
def State.poisonNode (s : State) (t : Nat) (addr : Word) : State :=
  s.modNode t fun n =>
    let r := n.record s.now .uncorrectable 2 addr 0 0
    match n.phase with
    | .commit _ => { n with stop := some (.fault r) }
    | _ => n.freeze r n.pc

/-- The running slot sleeps on a counter: it waits again until the counter reaches the value, with a watch at the counter's home
where it has one or finds one free (R212). -/
def State.sleepHere (s : State) (w : Watch) : State :=
  match s.here with
  | none => s
  | some n =>
    let has := (Tbl.get? n.slot n.blk.sleep).any fun x => x.held && x.pa = w.pa
    let held := has || (w.target ≠ 0 && s.watchFree (dieOf n.tile) w.pa)
    let s := s.putHere { n with issued := false, blk := { n.blk with sleep := n.blk.sleep.set n.slot { w with held := held } } }
    if held && !has then s.proxyWatch w.pa else s

/-- What the running slot does with the end of its access. -/
def Got.on {α : Type} (g : Got α) (k : α → State → State) : State :=
  match g with
  | .ok x s => k x s
  | .trap c a s => s.trapHere c a
  | .walk s => s.freezeWalk (.node s.focus)
  | .poison s => s.poisonNode s.focus 0
  | .sleep w s => s.sleepHere w

/-! ### Code -/

/-- Set of a line in an instruction cache (R123). -/
def icSet (k : Nat) : Nat := k % 64

/-- Fills a line into a CT's instruction cache (R123): the least recently used line of a full set that holds
no code pin leaves (DESIGN CHOICE, log 59). -/
def State.icFill (s : State) (t k : Nat) (v : Vec) (pin : Bool) : State :=
  let c := s.cache t
  let set := c.ic.filter fun p => icSet p.1 = icSet k && p.1 ≠ k
  let ic := if set.length < 4 then c.ic
    else
      match lruOf (·.use) (set.filter fun p => !p.2.pin) with
      | none => c.ic
      | some v => c.ic.erase v.1
  let (u, s) := s.tickUse
  s.setCache t { s.cache t with ic := ic.set k ⟨v, pin || (Tbl.get? k c.ic).any fun l => l.pin, false, u⟩ }

/-- The code bytes that a pin of a level-1 cache holds (R123, R124). -/
def State.pinnedCode (s : State) (d k : Nat) : Option Vec :=
  if s.ownLine d (k * 128) then (Tbl.get? (k % 2 ^ 38) (s.die d).l2).bind (·.code)
  else (Tbl.get? k (s.die d).rdc).bind fun l => if l.lost then none else l.code

/-- The copy of a line that an instruction cache holds. -/
def TileCache.code? (c : TileCache) (k : Nat) : Option IcLine := (Tbl.get? k c.ic).filter fun l => !l.lost

/-- Reads a line of code homed elsewhere at its home, into the RDC where that may hold it. The instruction cache keeps it, one of PCI
Express host memory too, since R56 names L1 and the RDC alone (DESIGN CHOICE, log 64). -/
def State.codeMiss (s : State) (t k : Nat) (m : Master) (all : Word32) : Except AccErr Vec × State :=
  match s.home (dieOf t) (k * 128) with
  | .slice _ _ | .peer _ => s.loadRemote t k m 0 all .bypass false
  | _ => s.homeLine (dieOf t) m k all false false

/-- Reads a line of code that the instruction cache lacks: the bytes that a pin holds, an RDC copy of a line homed elsewhere, else
the home, which fills the RDC (R123, R124). -/
def State.codeLine (s : State) (t k : Nat) (m : Master) : Except AccErr Vec × State :=
  let d := dieOf t
  let all : Word32 := BitVec.allOnes 32
  if s.ownLine d (k * 128) then
    match s.homeLine d m k all false false, s.pinnedCode d k with
    | (.error .access, s), _ => (.error .access, s)
    | (_, s), some v => (.ok v, s)
    | r, none => r
  else
    match s.pinnedCode d k, Tbl.get? k (s.die d).rdc with
    | some v, _ => (.ok v, s.useRdc d k)
    | none, some l => if covers l.valid all then (.ok l.data, s.useRdc d k) else s.codeMiss t k m all
    | none, none => s.codeMiss t k m all

/-- Fetches a line of code of a node; says whether the instruction cache held it. -/
def State.fetchLine (s : State) (t : Nat) (n : Node) (va : Nat) : Got (Vec × Bool) :=
  match s.xlateNode t n (BitVec.ofNat 64 va) .fetch with
  | (.error x, s) => x.got (BitVec.ofNat 64 va) s
  | (.ok e, s) =>
    let k := e.phys va / 128
    match (s.cache t).code? k with
    | some l =>
      let (u, s) := s.tickUse
      .ok (l.data, true) (s.setCache t { s.cache t with ic := (s.cache t).ic.set k { l with use := u } })
    | none =>
      match s.codeLine t k n.master with
      | (.error .access, s) => .trap .access (BitVec.ofNat 64 va) s
      | (.error .poison, s) => .poison s
      | (.ok v, s) => .ok (v, false) (s.icFill t k v false)

/-- Fetches bytes of code that may cross lines; says whether the instruction cache held every line. -/
def State.fetchBytes (s : State) (t : Nat) (n : Node) : List (Nat × Nat) → Got (List Byte × Bool)
  | [] => .ok ([], true) s
  | (va, k) :: l =>
    match s.fetchLine t n va with
    | .ok (v, hit) s =>
      match s.fetchBytes t n l with
      | .ok (b, h) s => .ok (lineBytes v (va % 128) k ++ b, hit && h) s
      | g => g
    | .trap c a s => .trap c a s
    | .walk s => .walk s
    | .poison s => .poison s
    | .sleep w s => .sleep w s

/-- Fetches n bytes of code from an address on. -/
def State.fetchCode (s : State) (t : Nat) (n : Node) (va k : Nat) : Got (List Byte × Bool) :=
  s.fetchBytes t n (pieces va k (k / 128 + 2))

/-! ### The checks of R15 -/

/-- Do the magic and the reserved bits of a header fail (R14)? -/
def headerBad (h : Word) : Bool := field h.toNat 63 60 ≠ 10 || field h.toNat 49 32 ≠ 0

/-- Is slot n the first word of an X instruction that the block's end cuts? -/
def Blk.cut (b : Blk) (n : Nat) : Bool := b.isSlot n && n + 1 = b.size && takesTwo (b.word n)

/-- Second words with which a cut first word is tried: what it lacks is no fault of its own fields. -/
def trialWords : List Word32 :=
  (List.range 16).flatMap fun k =>
    [BitVec.ofNat 32 k, BitVec.ofNat 32 (k * 2 ^ 28), BitVec.ofNat 32 (k * 2 ^ 28 + 1),
      BitVec.ofNat 32 (k * 2 ^ 28 + 0x800000), BitVec.ofNat 32 (k * 2 ^ 28 + 0x20000)]

/-- The instruction of two words even where its T0 or T1 is wrongly nonzero. -/
def termOf (w x : Word32) : Option Instr := match decode w x with
  | .ok i => some i
  | .error .target => parse w x
  | .error _ => none

/-- The second word with which slot n is read: the word after it, or, for a first word that the block's end cuts, the first of
`trialWords` that makes an instruction of it (DESIGN CHOICE, log 58). -/
def Blk.second (b : Blk) (n : Nat) : Word32 :=
  if b.cut n then (trialWords.find? fun x => (termOf (b.word n) x).isSome).getD 0 else b.word (n + 1)

/-- The instruction of slot n, targets disregarded. -/
def Blk.term (b : Blk) (n : Nat) : Option Instr := if b.isSlot n then termOf (b.word n) (b.second n) else none

/-- Is the word of slot n no instruction (R15, second row)? -/
def Blk.illegalAt (b : Blk) (n : Nat) : Bool := b.isSlot n && (b.term n).isNone

/-- Does the instruction of slot n have a nonzero target field and no result (R15, seventh row)? -/
def Blk.targetless (b : Blk) (n : Nat) : Bool := b.isSlot n && (match decode (b.word n) (b.second n) with
  | .error .target => true
  | _ => false)

/-- The instructions of a block with their slots, targets disregarded; one that the block's end cuts is among them. -/
def Blk.terms (b : Blk) : List (Nat × Instr) :=
  (List.range b.size).filterMap fun n => (b.term n).map fun i => (n, i)

/-- Can slot n deliver a scalar, and can it deliver a vector? MOV delivers what it receives (R409); fuel
bounds the chain. -/
def kindsOf (ts : List (Nat × Instr)) : Nat → Nat → Bool × Bool
  | 0, _ => (false, false)
  | f + 1, n =>
    match (ts.find? fun p => p.1 = n).map (·.2) with
    | none => (false, false)
    | some i =>
      match i.resultKind with
      | .scalar => (true, false)
      | .vector => (false, true)
      | .either =>
        match i with
        | .mov .. =>
          (ts.filter fun p => p.2.targets.any fun t => tgtSlot t = n && tgtCode t = 1).foldl
            (fun a p => let k := kindsOf ts f p.1; (a.1 || k.1, a.2 || k.2)) (false, false)
        | _ => (false, false)

/-- Is a target at fault: a position that is not accepted, or a kind that it does not take (R15)? -/
def targetBad (ts : List (Nat × Instr)) (n : Nat) (t : Tgt) : Bool :=
  match (ts.find? fun p => p.1 = tgtSlot t).map (·.2) with
  | none => false
  | some i =>
    match (i.accept.list.find? fun p => p.1 = tgtCode t).map Prod.snd with
    | none => true
    | some Kind.either => false
    | some Kind.scalar => (kindsOf ts 33 n).2
    | some Kind.vector => (kindsOf ts 33 n).1

/-- The LSIDs of the block's slots that an earlier slot holds too (R25). -/
def lsidTwice : List (Nat × Nat) → List Nat
  | [] => []
  | (n, l) :: t => if t.any fun p => p.2 = l then n :: (t.filter fun p => p.2 = l).map (·.1) else lsidTwice t

/-- Slots of a T block that issue with too many others of their class in one cycle (R441): more than one vector
slot, two integer slots, or one scalar floating-point slot. -/
def Blk.crowded (b : Blk) (ts : List (Nat × Instr)) : List Nat :=
  let cls (n : Nat) : Nat :=
    let o := (opOf (b.word n)).toNat
    if 0x20 ≤ o && o < 0x40 then 1 else if 0x40 ≤ o && o < 0x60 then 2 else if 0x60 ≤ o && o < 0x80 then 3 else 0
  let cyc (n : Nat) : Nat := ((b.sched[n]?).getD 0).toNat % 4096
  (ts.map (·.1)).filter fun n =>
    cls n ≠ 0 && (if cls n = 1 then 2 else 1) < (ts.filter fun q => cls q.1 = cls n && cyc q.1 = cyc n).length

/-- Slots that break the rules of R25, R373, R404, R408 and R426 and those of R441; which of them a trap
names is free. -/
def Blk.crossBad (b : Blk) (fixed : Bool) (timedPort : Bool → Nat → Bool) (ts : List (Nat × Instr)) : List Nat :=
  let slots (f : Instr → Bool) : List Nat := (ts.filter fun p => f p.2).map (·.1)
  let calls := slots fun i => match i with
    | .call .. | .calli .. => true
    | _ => false
  let wr63 := slots fun i => match i with
    | .wr _ n => n = 63#6
    | _ => false
  let ends := slots fun i => match i with
    | .exit .. | .halt .. => true
    | _ => false
  let traps := slots fun i => match i with
    | .trap .. | .sysc .. | .bkpt .. => true
    | _ => false
  let cfgs := slots fun i => match i with
    | .cfgsw .. => true
    | _ => false
  let timed := fixed && b.header.getLsbD 51
  let untimed (i : Instr) : Bool := match i with
    | .settag .. => false
    | _ =>
      match i.port with
      | some (inp, p) => !timedPort inp p
      | none => false
  lsidTwice (ts.filterMap fun p => p.2.lsid.map fun l => (p.1, l))
    ++ (if calls ≠ [] && wr63 ≠ [] then calls ++ wr63 else [])
    ++ (if ends ≠ [] && traps ≠ [] then ends ++ traps else [])
    ++ (if 1 < cfgs.length then cfgs else [])
    ++ (if timed then (slots fun i => i.uncounted || untimed i) ++ b.crowded ts else [])

/-- The lowest number of a list, where it has one. -/
def least : List Nat → Option Nat
  | [] => none
  | a :: t => some (t.foldl Nat.min a)

/-- What a block fails in (R15 and the rules named at `crossBad`), with the slots that its trap may name:
one for the rows of R15, 0xFF for the header. -/
def Blk.check (b : Blk) (fixed : Bool) (timedPort : Bool → Nat → Bool) : Option (Cause × List Nat) :=
  let ns := List.range b.size
  let ts := b.terms
  let inBlock (n : Nat) : Bool := b.isSlot n
  let row (l : List Nat) : Option (Cause × List Nat) := (least l).map fun n => (Cause.block, [n])
  let owedBad := (List.range 32).filter fun n => b.owed n &&
    (!inBlock n || (ts.any fun p => p.1 = n && (p.2.isExit || p.2.hasResult)))
  let storeBad := (ts.filter fun p => p.2.isStore && !b.owed p.1).map (·.1)
  let exits := (ts.filter fun p => p.2.isExit).length
  let named := ts.flatMap fun p => (p.2.targets.filter fun t => tgtCode t ≠ 0).map fun t => (p.1, t)
  if headerBad b.header then some (.illegal, [255])
  else
    match least (ns.filter fun n => b.illegalAt n) with
    | some n => some (.illegal, [n])
    | none =>
      (row (owedBad ++ storeBad)).or <|
      (if exits = 0 || exits ≠ field b.header.toNat 54 52 then some (.block, [255]) else none).or <|
      (row ((named.filter fun p => !inBlock (tgtSlot p.2)).map (·.1))).or <|
      (row ((named.filter fun p => targetBad ts p.1 p.2).map (·.1))).or <|
      (row (ns.filter fun n => b.targetless n)).or <|
      (row ((ts.filter fun p => p.2.accept.list.any fun a =>
          !named.any fun q => tgtSlot q.2 = p.1 && tgtCode q.2 = a.1).map (·.1))).or <|
      (row (ns.filter fun n => b.cut n)).or <|
      (match b.crossBad fixed timedPort ts with
       | [] => none
       | l => some (.block, l))

/-- Slots that read or write the system software group, in which no register is assigned (R35). -/
def Blk.privBad (b : Blk) : List Nat :=
  (b.instrs.filter fun p => match p.2 with
    | .mfs _ _ r => sysPrivRange r
    | .mts _ r => sysPrivRange r
    | _ => false).map (·.1)

/-- The last scheduled cycle of a block (R372). -/
def Blk.lastCycle (b : Blk) : Nat := (b.sched.map fun e => e.toNat % 4096).foldl Nat.max 0

/-! ### BLOCK_FETCH -/

/-- Is the node in a fixed-timing region? -/
def State.fixedAt (s : State) (n : Node) : Bool :=
  match Tbl.get? n.region s.regions with
  | none => false
  | some r => r.fixed

/-- Is a port of a tile joined by a timed edge (R235)? -/
def State.timedPort (s : State) (t : Nat) (inp : Bool) (p : Nat) : Bool :=
  s.edges.any fun e => (if inp then e.2.dst else e.2.src) = 4 * t + p && e.2.timed.isSome

/-- A trap at the fetch or decode of a node's next block (R15, R417). -/
def State.fetchTrap (s : State) (t : Nat) (c : Cause) (slot : Nat) (addr : Word) : State :=
  s.precise t c slot addr

/-- Ends a fetch that gave no bytes. -/
def State.fetchFail {α : Type} (t : Nat) (g : Got α) (s0 : State) : State :=
  match g with
  | .ok _ s => s
  | .trap c a s => s.fetchTrap t c 255 a
  | .walk s => s.freezeWalk (.node t)
  | .poison s => s.poisonNode t 0
  | .sleep _ _ => s0

/-- 32-bit words of a list of bytes. -/
def words32 (b : List Byte) : Nat → List Word32
  | 0 => []
  | n + 1 => BitVec.ofNat 32 (ofBytes (b.take 4)) :: words32 (b.drop 4) n

/-- 16-bit entries of a list of bytes. -/
def words16 (b : List Byte) : Nat → List (BitVec 16)
  | 0 => []
  | n + 1 => BitVec.ofNat 16 (ofBytes (b.take 2)) :: words16 (b.drop 2) n

/-- The block of a header and the bytes after it, as a node of a fixed region or another takes it. -/
def Blk.ofBytes (h : Word) (rest : List Byte) (fixed : Bool) (start : Nat) : Blk :=
  let n := field h.toNat 59 55 + 1
  { Blk.empty with
    header := h
    words := words32 rest n
    sched := if h.getLsbD 51 then words16 (rest.drop (4 * n)) n else []
    timed := fixed && h.getLsbD 51
    start := start }

/-- Bytes of a block after its header (R13). -/
def restBytes (h : Word) : Nat :=
  let n := field h.toNat 59 55 + 1
  4 * n + (if h.getLsbD 51 then 2 * n else 0)

/-- Decodes a fetched block (R15, R35, R373): its checks, then the node may fire its slots. A number of the system software
group is judged after every row of R15 (DESIGN CHOICE, log 58). -/
def State.decodeBlock (s : State) (t : Nat) (b : Blk) (fixed hit : Bool) : State :=
  match s.node? t with
  | none => s
  | some n =>
    match b.check fixed (s.timedPort t) with
    | some (c, l) =>
      let (k, s) := s.pick l.length
      s.fetchTrap t c ((l[k]?).getD 255) 0
    | none =>
      match b.privBad with
      | k :: _ => s.fetchTrap t (if n.priv then .illegal else .privilege) k 0
      | [] =>
        if b.timed && !hit then s.fetchTrap t .timing 255 0
        else s.setNode t { n with blk := b, phase := .fire, issued := false }

/-- Does the node's region end (R407)? -/
def State.endingAt (s : State) (n : Node) : Bool :=
  match Tbl.get? n.region s.regions with
  | none => false
  | some r => r.ending

/-- The wave slot of a firing task (R325). `task` is 0 for another task and the slot's name plus 1 for a firing. -/
def Node.firing (n : Node) : Option Nat := match n.task with
  | some (k + 1) => some k
  | _ => none

/-- The acts that end a node: its release at `.sys` (R151), and the FDONE of a firing that has sent none (R333). -/
def Node.endActs (n : Node) : List Act :=
  [.relCheck [], .relPerform, .relDrain] ++ (n.firing.toList.map fun id => .netMsg (.fdone id)) ++ [.exit]

/-- A node ends without another block (R407). -/
def Node.finish (n : Node) : Node :=
  { n.abandon n.pc with phase := .commit n.endActs, blk := { Blk.empty with exit := some .endNode } }

/-- BLOCK_FETCH (R405, R442): fetches the node's next block and decodes it; in a region that ends there is none. Cycle 0 of a block that
follows no commit is the cycle after its fetch (DESIGN CHOICE, log 5). -/
def execBlockFetch (t : Nat) (s : State) : Host.Outcome State Fault Refusal :=
  .next <| match s.node? t with
  | none => s
  | some n =>
    if n.phase ≠ .fetch || !n.runs then s
    else if s.endingAt n then s.setNode t n.finish
    else if n.pc.toNat % 16 ≠ 0 then s.fetchTrap t .align 255 n.pc
    else
      match s.fetchCode t n n.pc.toNat 8 with
      | .ok (hb, hit) s =>
        let h : Word := BitVec.ofNat 64 (Sys2Proof.ofBytes hb)
        if headerBad h then s.fetchTrap t .illegal 255 0
        else
          match s.fetchCode t n (n.pc.toNat + 8) (restBytes h) with
          | .ok (rest, hit') s =>
            let fixed := s.fixedAt n
            let start := n.ready.getD (if n.blocks = 0 then n.cyc.toNat else n.cyc.toNat + 1)
            s.decodeBlock t (Blk.ofBytes h rest fixed start) fixed (hit && hit')
          | g => State.fetchFail t g s
      | g => State.fetchFail t g s

end Sys2Proof.Machine
end

