-- ==== Sys2Proof/Machine/Records.lean ====
section
/-! DEFINITION. The records of a launch image (R345, R346), and where a region's elements stand (R340, R432). -/

namespace Sys2Proof.Machine

/-- Kind of a record. -/
def CfgRec.kind (r : CfgRec) : Nat := field r.w0.toNat 63 56
/-- Configuration step of a record. -/
def CfgRec.step (r : CfgRec) : Nat := field r.w0.toNat 55 40
/-- Quad index of the element that a record names. -/
def CfgRec.quad (r : CfgRec) : Nat := field r.w0.toNat 39 32
/-- Tile of the quad that a record names (R432). -/
def CfgRec.tile (r : CfgRec) : Nat := field r.w0.toNat 31 30

/-- The die, and the tile's column and row on it, of tile t of the quad at grid column X and row Y (R340,
R432), as a tile number. -/
def tileOfQuad (X Y t : Nat) : Nat :=
  (X / 16 + 2 * (Y / 16)) * 1024 + (2 * (X % 16) + t % 2) * 32 + (2 * (Y % 16) + t / 2)

/-- The tile of an element of a region by quad index and the tile t of R432: at tile offset (2qx + t mod 2, 2qy + t / 2)
from the origin (R345, R432). -/
def Region.tileAt (r : Region) (q t : Nat) : Nat :=
  let o := (r.shape[q]?).getD (0, 0)
  tileOfQuad (r.originX + o.1) (r.originY + o.2) t

/-- The tile that a record of a region names: its quad, and the tile t of R432 in it (R345, R432). -/
def Region.recTile (r : Region) (c : CfgRec) : Nat := r.tileAt c.quad c.tile

/-- The port that an endpoint of 16 bits names (R345): tile × 4 + port. -/
def Region.endpoint (r : Region) (e : Nat) : Nat := 4 * r.tileAt (field e 15 8) (field e 7 6) + e % 4

/-- The records of one step. -/
def Region.at (r : Region) (step : Nat) : List CfgRec := r.recs.filter fun c => c.step = step

/-- The region or task of a tile. -/
def State.regionOf (s : State) (t : Nat) : Nat :=
  match s.node? t with
  | some n => n.region
  | none =>
    match Tbl.get? t s.mts with
    | some m => m.region
    | none => 0

/-- The configuration step of a tile (R349). -/
def State.seqOf (s : State) (t : Nat) : Nat :=
  match s.node? t with
  | some n => n.cfgSeq
  | none =>
    match Tbl.get? t s.mts with
    | some m => m.cfgSeq
    | none => 0

/-- The context of a tile. -/
def State.ctxOfTile (s : State) (t : Nat) : BitVec 12 :=
  match s.node? t with
  | some n => n.ctx
  | none =>
    match Tbl.get? t s.mts with
    | some m => m.ctx
    | none => 0

/-- The records of a tile's region at the tile's step. -/
def State.recsOf (s : State) (t : Nat) : List (Region × CfgRec) :=
  match Tbl.get? (s.regionOf t) s.regions with
  | none => []
  | some r => (r.at (s.seqOf t)).map fun c => (r, c)

/-- The attributes of a port of a tile in its step (R346). -/
def State.portAttrs (s : State) (t p : Nat) (out : Bool) : List PortAttr :=
  ((s.recsOf t).filter fun x => x.2.kind = 7 && x.1.recTile x.2 = t && x.2.w0.getLsbD 27 = out
      && x.2.w0.toNat % 4 = p).map fun x =>
    let k := field x.2.w0.toNat 29 28
    if k = 0 then .px8
    else if k = 1 then .cadd x.2.w1 x.2.w2 (x.2.w3.setWidth 3)
    else if k = 2 then .trigger (x.2.w1.toNat % 16) (field x.2.w1.toNat 6 4)
    else .global

/-- The elements of a region's replicas that stand for one tile of it (R375). -/
def State.twinTiles (s : State) (t : Nat) : List Nat :=
  match Tbl.get? (s.regionOf t) s.regions with
  | none => []
  | some r =>
    match listFind (fun x => x = t) r.elems 0 with
    | none => []
    | some (i, _) =>
      (s.regions.filter fun p => p.2.launch = r.launch && p.2.rank = r.rank && p.2.isTask = r.isTask
        && p.2.replica ≠ r.replica).filterMap fun p => p.2.elems[i]?

/-- Sends something to the elements that stand for a tile in the other replicas of its region, those of a pre-empted one too. -/
def State.toTwinTiles (s : State) (t : Nat) (f : Nat → Instr) : State :=
  let s := (s.twinTiles t).foldl (fun s u => s.post (f u)) s
  match Tbl.get? (s.regionOf t) s.regions with
  | none => s
  | some r =>
    match listFind (fun x => x = t) r.elems 0 with
    | none => s
    | some (i, _) => { s with saves := s.saves.map fun a =>
      let x := a.2.region
      let mine := a.2.out && x.launch = r.launch && x.rank = r.rank && x.isTask = r.isTask && x.replica ≠ r.replica
      (a.1, { a.2 with mail := a.2.mail ++ (if mine then (x.elems[i]?).toList.map f else []) }) }

/-- Is the replica of a region the leader (R375, R379)? A region without CTs follows its number. -/
def State.leads (s : State) (h : Nat) : Bool :=
  match s.nodes.find? fun p => p.2.region = h with
  | some p => p.2.red.lead
  | none =>
    match Tbl.get? h s.regions with
    | none => true
    | some r => r.replica = 0

/-- How many replicas a region's launch runs, as the mode bits of R376. -/
def State.repModeOf (s : State) (h : Nat) : BitVec 2 :=
  match s.nodes.find? fun p => p.2.region = h with
  | some p => p.2.repMode
  | none => 1

end Sys2Proof.Machine
end

