-- ==== Sys2Proof/Machine/Edges.lean ====
section
/-! DEFINITION. Tokens and edges (R224 to R232, R235, R237, R387, R392): sending, arrival, popping, credits
and depth, loop bounds and token barriers. Port p of tile t is 4 t + p. -/

namespace Sys2Proof

namespace Machine

/-! ### Tokens -/

/-- Kind of a token: 0 data, 1 control, 2 marker, 3 steer (R224). -/
def Token.kind (k : Token) : Nat := field k.side.toNat 31 30
/-- Format of a data token. -/
def Token.fmt (k : Token) : Nat := field k.side.toNat 29 27
/-- Count field: elements minus 1. -/
def Token.count (k : Token) : Nat := field k.side.toNat 26 19
/-- Iteration tag. -/
def Token.tag (k : Token) : BitVec 16 := k.side.setWidth 16
/-- Subtype of a control token (R225). -/
def Token.sub (k : Token) : Nat := k.payload.toNat % 256
/-- Is it a control token of a subtype? -/
def Token.isCtl (k : Token) (sub : Nat) : Bool := k.kind = 1 && k.sub = sub
/-- Is it a drain token? -/
def Token.isDrain (k : Token) : Bool := k.isCtl 2
/-- Is it a marker? -/
def Token.isMarker (k : Token) : Bool := k.kind = 2

/-- Elements of a full token by format (R224). -/
def fmtMax (f : Nat) : Nat := if f = 0 || f = 7 then 32 else if f = 1 || f = 2 then 64 else if f = 5 then 256 else 128

/-- A token that a receiver refuses: a count above its format's maximum, or a reserved subtype (R224,
R225). -/
def Token.bad (k : Token) : Bool :=
  (k.kind = 0 && fmtMax k.fmt ≤ k.count) || (k.kind = 1 && !(1 ≤ k.sub && k.sub ≤ 4))

/-- Bits of an element by format (R224). -/
def fmtBits (f : Nat) : Nat := 1024 / fmtMax f

/-- A data token as it is sent: its elements beyond the count are zero (R224). -/
def Token.trim (k : Token) : Token :=
  if k.kind = 0 then { k with payload := BitVec.ofNat 1024 (k.payload.toNat % 2 ^ (fmtBits k.fmt * (k.count + 1))) } else k

/-- A control token (R225). -/
def ctlToken (sub arg : Nat) (tag : BitVec 16) : Token :=
  ⟨BitVec.ofNat 1024 (sub + 256 * arg), BitVec.ofNat 32 (2 ^ 30 + tag.toNat)⟩

/-- A marker bearing a cut's number (R387). -/
def markerToken (n : Nat) : Token := ⟨BitVec.ofNat 1024 n, BitVec.ofNat 32 (2 ^ 31)⟩

/-- Does tag u lie ahead of tag t (R229)? -/
def tagAhead (u t : BitVec 16) : Bool := 1 ≤ (u - t).toNat && (u - t).toNat ≤ 32767

/-! ### Ports and edges -/

/-- Number of a marker's cut. -/
def Token.cut (k : Token) : Nat := k.payload.toNat

/-- An endpoint of an edge that its element does not know: one of the step it has left, or of the step it has not
yet switched to (R350). -/
def hiddenPort : Nat := 2 ^ 30

/-- Is it a forward edge (R351, R440)? One from a tile to itself is none. -/
def Edge.forward (x : Edge) : Bool := !x.back && x.src % hiddenPort / 4 ≠ x.dst % hiddenPort / 4

/-- An empty input port. -/
def InPort.empty : InPort := ⟨[], [], [], 0, 0, [], [], []⟩

/-- The input port of a key. -/
def State.port (s : State) (k : Nat) : InPort := s.ports.getD k InPort.empty

/-- Writes an input port. -/
def State.setPort (s : State) (k : Nat) (p : InPort) : State := { s with ports := s.ports.set k p }

/-- Changes an input port. -/
def State.modPort (s : State) (k : Nat) (f : InPort → InPort) : State := s.setPort k (f (s.port k))

/-- The edges that end at a port, in the order of their records. -/
def State.inEdges (s : State) (k : Nat) : List (Nat × Edge) := s.edges.filter fun e => e.2.dst = k

/-- The edge that leaves an output port. -/
def State.outEdge (s : State) (k : Nat) : Option (Nat × Edge) := s.edges.find? fun e => e.2.src = k

/-- Writes an edge. -/
def State.setEdge (s : State) (e : Nat) (x : Edge) : State := { s with edges := s.edges.set e x }

/-- Changes an edge. -/
def State.modEdge (s : State) (e : Nat) (f : Edge → Edge) : State := { s with edges := s.edges.modify e f }

/-- A token of a region moves (R385, R392). -/
def State.moved (s : State) (h : Nat) : State := s.modRegion h fun r => { r with still := 0, quiet := 0 }

/-- Tokens of an edge in its receiver's buffer, decoded ones included. -/
def State.buffered (s : State) (e : Nat) (x : Edge) : Nat :=
  (((s.port x.dst).toks).filter fun k => k.edge = e).length

/-- Occupancy of an edge: tokens sent and not popped, spilled ones included. -/
def State.occupancy (s : State) (e : Nat) (x : Edge) : Nat :=
  s.buffered e x + x.link.length + x.spill.length
    + (((s.port x.dst).carriers).filter fun k => k.edge = e).length

/-- Does a port decode PX8 (R236)? -/
def State.isPx8 (s : State) (k : Nat) : Bool := (s.portAttrs (k / 4) (k % 4) false).any fun a => a = .px8

/-- Entries that the sender may fill: the depth, the decoder's two staging entries, and the spill queue's
(R227, R236, R392). -/
def State.window (s : State) (x : Edge) : Nat :=
  (if s.isPx8 x.dst then 2 else x.depth) + (if x.spilling then 4096 else 0)

/-- Tokens of an edge that hold the sender's entries: of a PX8 port those the decoder has not decoded (R227, R236). -/
def State.entries (s : State) (e : Nat) (x : Edge) : Nat :=
  if s.isPx8 x.dst then (((s.port x.dst).carriers).filter fun k => k.edge = e).length + x.link.length else s.occupancy e x

/-- A token has been popped: its credit returns, unless a shrink withholds it (R227, R228). -/
def State.creditBack (s : State) (e : Nat) : State :=
  match Tbl.get? e s.edges with
  | none => s
  | some x =>
    let s := s.moved x.region
    if x.timed.isSome then s
    else
      if s.entries e x + x.credits < s.window x then s.setEdge e { x with credits := x.credits + 1 } else s

/-- Free token entries of a tile's pool (R227). -/
def State.poolFree (s : State) (t : Nat) : Nat :=
  128 - (s.edges.filter fun e => e.2.dst / 4 = t).foldl (fun a e => a + e.2.depth) 0

/-- An edge-set token acts as it is popped (R228). -/
def State.resize (s : State) (e d : Nat) : State :=
  match Tbl.get? e s.edges with
  | none => s
  | some x =>
    let t := x.dst / 4
    if d < 2 || 64 < d || s.poolFree t + x.depth < d then
      s.event (dieOf t) 0x04 (s.ctxOfTile t) t 0 0
    else
      let y := { x with depth := d }
      let grow := Nat.min (d - x.depth) (s.window y - (s.entries e x + x.credits))
      s.setEdge e { y with credits := x.credits + grow }

/-- Moves spilled tokens of an edge into its buffer while entries are free (R392). -/
def State.unspill (s : State) (e : Nat) : State :=
  match Tbl.get? e s.edges with
  | none => s
  | some x =>
    match x.spill with
    | [] => s
    | k :: l =>
      if s.buffered e x < x.depth then
        let p := s.port x.dst
        (s.setEdge e { x with spill := l }).setPort x.dst { p with toks := p.toks ++ [⟨e, k⟩] }
      else s

/-- Scales that a token consumes or brings in its edge's stream (R232): the codes for its groups of four
elements, and whether the list ran out. -/
def takeScales (k : Token) (list : List Nat) : List Nat × List Nat × Bool :=
  if k.kind ≠ 0 then ([], list, false)
  else if k.fmt = 6 then ([], (List.range (k.count + 1)).map fun i => k.payload.toNat / 2 ^ (8 * i) % 256, false)
  else if 3 ≤ k.fmt && k.fmt ≤ 5 then
    let need := (k.count + 4) / 4
    let got := list.take need
    (got ++ List.replicate (need - got.length) 127, list.drop need, got.length < need)
  else ([], list, false)

/-- Removes the i-th token of a port's buffer: its credit returns, its stream's scales are taken, an edge-set
token acts (R227, R228, R232). Gives the scales that it took. -/
def State.popAt (s : State) (k i : Nat) : List Nat × State :=
  let p := s.port k
  match p.toks[i]? with
  | none => ([], s)
  | some x =>
    let (got, list, out) := takeScales x.tok (p.scales.getD x.edge [])
    let p := { p with
      toks := p.toks.eraseIdx i
      scales := if list.isEmpty then p.scales.erase x.edge else p.scales.set x.edge list }
    let s := s.setPort k p
    let s := if out then s.event (dieOf (k / 4)) 0x05 (s.ctxOfTile (k / 4)) (k / 4) 0 0 else s
    let s := (s.creditBack x.edge).unspill x.edge
    (got, if x.tok.isCtl 4 then s.resize x.edge (field x.tok.payload.toNat 15 8) else s)

/-! ### Faults of a receiving element (R237) -/

/-- The record of a fault of an element. -/
def State.elemRecord (s : State) (t : Nat) (c : Cause) (prec : BitVec 2) (addr : Word) (detail : Word32) (unit : Nat) :
    FaultRec :=
  ⟨c, prec, false, s.ctxOfTile t, t, s.regionOf t, addr, detail, s.seqOf t, unit, s.now⟩

/-- An element stops with a fault of its own and keeps its place (R237, R384). -/
def State.elemStop (s : State) (t : Nat) (r : FaultRec) : State :=
  match s.node? t with
  | some n => s.setNode t { n with stop := some (.fault r) }
  | none => { s with mts := s.mts.modify t fun m => { m with stop := some (.fault r) } }

/-- A precise fault of a receiving element at an input port. -/
def State.elemFault (s : State) (t : Nat) (c : Cause) (unit : Nat) : State :=
  s.elemStop t (s.elemRecord t c 0 0 0 unit)

/-- May the element of a tile act at its ports? -/
def State.acts (s : State) (t : Nat) : Bool :=
  match s.node? t with
  | some n => n.stop.isNone && !n.gated
  | none =>
    match Tbl.get? t s.mts with
    | some m => m.stop.isNone && !m.gated
    | none => false

/-- Has the element of a tile ended, or is there none (R406)? -/
def State.ended (s : State) (t : Nat) : Bool :=
  match s.node? t with
  | some n => n.phase = .ended
  | none =>
    match Tbl.get? t s.mts with
    | some m => m.ended
    | none => true

/-! ### Sending -/

/-- Cycle of a region's clock: that of one of its nodes, or, where it has none, its own (R371). -/
def State.regionCyc (s : State) (h : Nat) : Nat :=
  match s.nodes.find? fun p => p.2.region = h with
  | some p => p.2.cyc.toNat
  | none => ((Tbl.get? h s.regions).map (·.cyc)).getD 0

/-- May an output port send now: an edge with a credit, or a timed one, whose receiver has switched (R227,
R235, R350)? An output that is a trigger always may. -/
def State.canSend (s : State) (k : Nat) : Bool :=
  match s.outEdge k with
  | none => true
  | some (_, x) => !x.held && (x.timed.isSome || 0 < x.credits)

/-- Sends a token on the edge of an output port (R227, R235). -/
def State.sendTok (s : State) (k : Nat) (tok : Token) : State :=
  match s.outEdge k with
  | none => s
  | some (e, x) =>
    let due := match x.timed with
      | some lat => s.regionCyc x.region + lat
      | none => 0
    (s.setEdge e { x with
      link := x.link ++ [⟨tok, due⟩]
      credits := if x.timed.isSome then x.credits else x.credits - 1 }).moved x.region

/-! ### Arrival -/

/-- The loop bounds whose entry or exit edge ends at a port (R230). -/
def State.boundsAt (s : State) (k : Nat) : List (Nat × Bound) :=
  s.bounds.filter fun b => b.2.entry = k || b.2.exit = k

/-- The name under which the order of arrival at a merge element is forwarded (R380). -/
def mergeKey (k count : Nat) : FwdKey := ⟨count, 64 + k % 4, 0⟩

/-- Forwarded values of an element. -/
def State.fwdOf (s : State) (t : Nat) : List (FwdKey × Vec) :=
  match s.node? t with
  | some n => n.fwd
  | none =>
    match Tbl.get? t s.mts with
    | some m => m.fwd
    | none => []

/-- Position of an edge among those that end at a port. -/
def State.edgeRank (s : State) (k e : Nat) : Nat :=
  match listFind (fun p => p.1 = e) (s.inEdges k) 0 with
  | some (i, _) => i
  | none => 0

/-- Has the drain token of an edge reached its merge element: does it stand there, or come next? -/
def State.drainHere (s : State) (e : Nat) (x : Edge) : Bool :=
  ((s.port x.dst).toks.any fun k => k.edge = e && k.tok.isDrain)
    || ((s.port x.dst).carriers.any fun k => k.edge = e && k.tok.isDrain)
    || (match x.link with
        | k :: _ => k.tok.isDrain
        | [] => false)

/-- Does a merge element hold a drain token back, because another of its forward edges may still bring tokens of the step
(R350)? -/
def State.drainWaits (s : State) (e : Nat) (x : Edge) : Bool :=
  (match x.link with
   | k :: _ => k.tok.isDrain
   | [] => false)
  && (s.inEdges x.dst).any fun p => p.1 ≠ e && p.2.forward && !s.drainHere p.1 p.2

/-- Does a token take part in a loop bound (R230)? Markers, steer tokens and drain tokens pass. -/
def Token.inLoop (k : Token) : Bool := k.kind = 0 || (k.kind = 1 && k.sub ≠ 2)

/-- Does a bound let a token pass at a port: is it not at its entry, is its tag inside, or is there room for it (R230)? -/
def Bound.admits (y : Bound) (k : Nat) (x : Token) : Bool :=
  y.entry ≠ k || !x.inLoop || y.tags.contains x.tag || y.tags.length < y.k

/-- Is a token at a port an iteration end whose tag is not inside (R230)? -/
def Bound.refuses (y : Bound) (k : Nat) (x : Token) : Bool := y.exit = k && x.isCtl 3 && !y.tags.contains x.tag

/-- May a token at a bounded port go on: does every bound there admit it, or one of them refuse it? -/
def State.boundsPass (s : State) (k : Nat) (x : Token) : Bool :=
  ((s.boundsAt k).any fun b => b.2.refuses k x) || (s.boundsAt k).all fun b => b.2.admits k x

/-- May the next token of an edge reach a merge element, which in a shadow takes tokens in the leader's order (R380)? Of timed edges
whose tokens come in one cycle the one that is listed first goes first (R346), where its token may go on at all. An ended element
discards what comes in any order (R406). -/
def State.mergeTurn (s : State) (e : Nat) (x : Edge) : Bool :=
  let t := x.dst / 4
  let firstOf (f : Nat × Edge) : Bool := f.1 < e && f.2.timed.isSome && !s.drainWaits f.1 f.2 && (match f.2.link with
    | k :: _ => k.due ≤ s.regionCyc x.region && s.boundsPass f.2.dst k.tok
    | [] => false)
  if (s.inEdges x.dst).length < 2 || s.ended t then true
  else if s.drainWaits e x || (x.timed.isSome && (s.inEdges x.dst).any firstOf) then false
  else if s.repModeOf x.region = 1 || s.leads x.region then true
  else
    match (s.fwdOf t).find? fun p => p.1 = mergeKey x.dst (s.port x.dst).pos with
    | some p => p.2.toNat = s.edgeRank x.dst e
    | none => false

/-- Is the next token of a link due (R235)? -/
def State.linkDue (s : State) (x : Edge) : Bool :=
  match x.link with
  | [] => false
  | k :: _ => x.timed.isNone || k.due ≤ s.regionCyc x.region

/-- A token takes one of the 4,096 places of 256 bytes in the region's spill queue in HBM, whose layout the spec does not give: which,
and what stands there, is free (R392; log 21). -/
def State.spillPut (s : State) (h : Nat) : State :=
  match Tbl.get? h s.regions with
  | none => s
  | some r =>
    let (j, s) := s.pick 4096
    s.scribble (r.spillAt + 256 * j) 32

/-- A token enters its port: a PX8 port's staging entries, behind the carriers ahead of it (R236), the buffer, or the
spill queue. -/
def State.enterPort (s : State) (e : Nat) (x : Edge) (tok : Token) : State :=
  let p := s.port x.dst
  let s := if 1 < (s.inEdges x.dst).length && s.repModeOf x.region ≠ 1 && s.leads x.region then
      s.toTwinTiles (x.dst / 4) fun t =>
        .forwardedValueArrive t (mergeKey x.dst p.pos) (BitVec.ofNat 1024 (s.edgeRank x.dst e))
    else s
  let p := { p with pos := p.pos + 1 }
  if s.isPx8 x.dst then s.setPort x.dst { p with carriers := p.carriers ++ [⟨e, tok⟩] }
  else if x.spilling && (x.depth ≤ s.buffered e x || !x.spill.isEmpty) then
    ((s.setPort x.dst p).setEdge e { x with spill := x.spill ++ [tok] }).spillPut x.region
  else s.setPort x.dst { p with toks := p.toks ++ [⟨e, tok⟩] }

/-- A token that arrives on an edge belongs to a cut's saved state until the edge's marker comes (R387). -/
def Saved.record (v : Saved) (e : Nat) (k : LinkTok) : Saved :=
  if !v.open_.contains e then v
  else if k.tok.isMarker && k.tok.cut = v.num then { v with open_ := v.open_.filter fun i => i ≠ e }
  else if k.tok.isMarker then v
  else { v with edges := v.edges.modify e fun x => { x with link := x.link ++ [k] } }

/-- Records a token in the cut in progress and in the last confirmed one. -/
def State.recordTok (s : State) (h e : Nat) (k : LinkTok) : State :=
  s.modRegion h fun r => { r with
    saving := r.saving.map fun v => v.record e k
    confirmed := r.confirmed.map fun v => v.record e k }

/-- Changes the tags of a loop bound, in a cut in progress too where the element behind has not saved (R230, R387). -/
def State.setBound (s : State) (b t : Nat) (f : List (BitVec 16) → List (BitVec 16)) : State :=
  match Tbl.get? b s.bounds with
  | none => s
  | some y =>
    let g (y : Bound) : Bound := { y with tags := f y.tags }
    ({ s with bounds := s.bounds.set b (g y) }).modRegion y.region fun r => { r with
      saving := r.saving.map fun (v : Saved) =>
        if v.nodes.has t || v.mts.has t then v else { v with bounds := v.bounds.modify b g } }

/-- The next token of a link arrives (R225 to R227, R235, R406): discarded at an ended element, but for a drain token, which waits
there for the switch (R350); a fault of the receiver where it is refused or finds a timed edge's buffer full; else in the port. -/
def State.arrive (s : State) (e : Nat) (x : Edge) : State :=
  match x.link with
  | [] => s
  | k :: l =>
    let t := x.dst / 4
    let y := { x with link := l }
    if s.ended t && !(k.tok.isDrain && s.node? t ≠ none) then (s.setEdge e y).creditBack e
    else if k.tok.bad then s.elemFault t .token (x.dst % 4)
    else if x.timed.isSome && x.depth ≤ s.buffered e x then s.elemFault t .timing (x.dst % 4)
    else (((s.setEdge e y).recordTok x.region e k).enterPort e y k.tok).moved x.region

/-- A token of a back edge of the step that its receiver has left (R351): a drain token goes, any other is a
configuration-switch fault. The edge goes with its last token. -/
def State.arriveLate (s : State) (e : Nat) (x : Edge) : State :=
  match x.link with
  | [] => s
  | k :: l =>
    if k.tok.isDrain || s.ended (x.dst % hiddenPort / 4) then
      if l.isEmpty && hiddenPort ≤ x.src then { s with edges := s.edges.erase e } else s.setEdge e { x with link := l }
    else s.elemFault (x.dst % hiddenPort / 4) .configSwitch (x.dst % 4)

/-- Does an element stand still for want of a translation alone? -/
def State.walksOnly (s : State) (t : Nat) : Bool :=
  (match s.node? t with
   | some n => n.stop = some .walk && !n.gated
   | none => (Tbl.get? t s.mts).any fun m => m.stop = some .walk && !m.gated)

/-- May a token come to its receiver now: does the receiver act or take everything, or is it a timed edge's, whose token comes in its
cycle even where the receiver stands still (R235)? A full buffer is then a timing fault, but for a receiver that stands with a fault
already, which meets it when it goes on. -/
def State.receives (s : State) (e : Nat) (x : Edge) : Bool :=
  s.acts (x.dst / 4) || s.ended (x.dst / 4) || (x.timed.isSome && (s.buffered e x < x.depth || s.walksOnly (x.dst / 4)))

/-- TOKEN_ARRIVE (R226): the next token of an edge that no loop bound watches reaches its receiver. -/
def execTokenArrive (e : Nat) (s : State) : Host.Outcome State Fault Refusal :=
  .next <| match Tbl.get? e s.edges with
  | none => s
  | some x =>
    if hiddenPort ≤ x.dst then (if x.held then s else s.arriveLate e x)
    else if s.linkDue x && s.mergeTurn e x && s.receives e x && s.boundsAt x.dst = [] then
      s.arrive e x
    else s

/-- The tags inside after a token has passed a port: an iteration end takes its tag out at the exit, a new tag enters at the entry. -/
def Bound.after (y : Bound) (k : Nat) (x : Token) (l : List (BitVec 16)) : List (BitVec 16) :=
  let l := if y.exit = k && x.isCtl 3 then l.filter fun t => t ≠ x.tag else l
  if y.entry = k && x.inLoop && !l.contains x.tag then l ++ [x.tag] else l

/-- The token at a bounded port that may go on: of an edge whose next token is due and that every bound there admits, or one of them
refuses. -/
def State.boundNext (s : State) (k : Nat) : Option (Nat × Edge × Token) :=
  (s.inEdges k).findSome? fun e =>
    match e.2.link with
    | [] => none
    | x :: _ =>
      if s.linkDue e.2 && s.mergeTurn e.1 e.2 && s.boundsPass k x.tok then
        some (e.1, e.2, x.tok)
      else none

/-- A token passes the bounds at its port: every one of them checks it and, where it is taken from its link, takes its tag in or out; an
iteration end whose tag is not inside is a tag fault. -/
def State.boundPass (s : State) (k : Nat) : State :=
  match s.boundNext k with
  | none => s
  | some (e, x, tok) =>
    let l := s.boundsAt k
    if !s.receives e x then s
    else if l.any fun b => b.2.refuses k tok then s.elemFault (k / 4) .tag (k % 4)
    else
      let u := s.arrive e x
      if (Tbl.get? e u.edges).any fun y => y.link.length < x.link.length then
        l.foldl (fun s b => s.setBound b.1 (k / 4) (b.2.after k tok)) u
      else u

/-- LOOP_BOUND_ENTRY (R230): the token at an entry edge passes, its tag entering where fewer than k are
inside. -/
def execLoopBoundEntry (b : Nat) (s : State) : Host.Outcome State Fault Refusal :=
  .next <| match Tbl.get? b s.bounds with
  | none => s
  | some y => s.boundPass y.entry

/-- LOOP_BOUND_EXIT (R230): the token at an exit edge passes; an iteration end takes its tag out, and is a tag
fault where the tag is not inside. -/
def execLoopBoundExit (b : Nat) (s : State) : Host.Outcome State Fault Refusal :=
  .next <| match Tbl.get? b s.bounds with
  | none => s
  | some y => s.boundPass y.exit

/-! ### Heads of ports -/

/-- The token at the head of a port. -/
def State.headTok (s : State) (k : Nat) : Option PortTok := (s.port k).toks.head?

/-- The n-th token of a port that is no steer token, with its place in the buffer (R28, R225). -/
def nthTok : List PortTok → Nat → Nat → Option (Nat × PortTok)
  | [], _, _ => none
  | x :: t, i, n =>
    if x.tok.kind = 3 then nthTok t (i + 1) n
    else
      match n with
      | 0 => some (i, x)
      | n + 1 => nthTok t (i + 1) n

/-- The edge number of a token that a token barrier has put at the head of its ports (R346). -/
def barrierEdge : Nat := 2 ^ 32

/-- The token barriers of a tile (R346), keyed by tile × 16 + mask. -/
def State.barsOf (s : State) (t : Nat) : List (Nat × TBar) := s.tbars.filter fun b => b.1 / 16 = t

/-- Is a port one of a token barrier's, and the token at it a control token that the barrier has not passed
(R346)? -/
def State.barred (s : State) (k : Nat) (x : PortTok) : Bool :=
  ((s.barsOf (k / 4)).any fun b => b.2.mask.getLsbD (k % 4)) && x.tok.kind = 1 && x.tok.sub ≠ 2
    && x.edge ≠ barrierEdge

/-- The control tokens at the heads of a barrier's ports, where each has one. -/
def State.barHeads (s : State) (t : Nat) (b : TBar) : Option (List (Nat × PortTok)) :=
  ((List.range 4).filter fun p => b.mask.getLsbD p).mapM fun p =>
    match s.headTok (4 * t + p) with
    | some x => if s.barred (4 * t + p) x then some (p, x) else none
    | none => none

/-- The first port of a barrier whose head is a control token out of phase (R231). -/
def State.barFault (s : State) (t : Nat) (b : TBar) : Option Nat :=
  (List.range 4).find? fun p =>
    b.mask.getLsbD p &&
      (match s.headTok (4 * t + p) with
       | some x => s.barred (4 * t + p) x && 16 < (x.tok.tag - b.phase).toNat
       | none => false)

/-- The tag at which a barrier fires: one control token of it heads every named port. -/
def State.barTag (s : State) (t : Nat) (b : TBar) : Option (BitVec 16) :=
  match s.barHeads t b with
  | some (x :: l) => if l.all fun y => y.2.tok.tag = x.2.tok.tag then some x.2.tok.tag else none
  | _ => none

/-- May a barrier act: is a control token out of phase, or is a phase complete? -/
def State.barDue (s : State) (t : Nat) (b : TBar) : Bool := (s.barFault t b).isSome || (s.barTag t b).isSome

/-- A barrier acts (R231): each control token is consumed and replaced by one of its tag, and the phase moves past
it; a token out of phase is a tag fault. -/
def State.barFire (s : State) (t key : Nat) (b : TBar) : State :=
  match s.barFault t b with
  | some p => s.elemFault t .tag p
  | none =>
    match s.barTag t b, s.barHeads t b with
    | some tag, some l =>
      let s := l.foldl (fun s y =>
        let k := 4 * t + y.1
        let s := (s.popAt k 0).2
        s.setPort k { s.port k with toks := ⟨barrierEdge, y.2.tok⟩ :: (s.port k).toks }) s
      { s with tbars := s.tbars.set key { b with phase := tag + 1 } }
    | _, _ => s

/-- TOKEN_BARRIER_FIRE (R231, R346): the first barrier of the tile that may act does. -/
def execTokenBarrierFire (t : Nat) (s : State) : Host.Outcome State Fault Refusal :=
  .next <| match (s.barsOf t).find? fun b => s.barDue t b.2 with
  | none => s
  | some b => if s.acts t then s.barFire t b.1 b.2 else s

end Machine

end Sys2Proof
end

