-- ==== Sys2Proof/Machine/Ports.lean ====
section
/-! DEFINITION. RECV, SEND, SENDT, TAGOF, SETTAG and EDGESET (R411 to R414). -/

namespace Sys2Proof.Machine

/-- Does the node's current step use an input port (R411)? A task uses none. -/
def State.usesIn (s : State) (n : Node) (p : Nat) : Bool :=
  n.task.isNone && !(s.inEdges (4 * n.tile + p)).isEmpty

/-- Does the node's current step use an output port: an edge leaves it, or it is a trigger port (R346, R411)? -/
def State.usesOut (s : State) (n : Node) (p : Nat) : Bool :=
  n.task.isNone && ((s.outEdge (4 * n.tile + p)).isSome || (s.portAttrs n.tile p true).any fun a => match a with
    | .trigger .. => true
    | _ => false)

/-- Is an input port a counter-add port (R346)? -/
def State.isCaddPort (s : State) (t p : Nat) : Bool := (s.portAttrs t p false).any fun a => match a with
  | .cadd .. => true
  | _ => false

/-- RECV slots of a port below a slot (R28). -/
def Blk.recvsBelow (b : Blk) (port k : Nat) : Nat :=
  (b.instrs.filter fun p => p.1 < k && (match p.2 with
    | .recv _ _ _ q => q.toNat = port
    | _ => false)).length

/-- The token at a position of a port for RECV or TAGOF (R225, R412): a marker abandons the block (R387); a
start or drain token, a control token that a barrier holds, or no token makes the slot wait. -/
def State.onToken (s : State) (n : Node) (port pos : Nat) (k : Token → State) : State :=
  let key := 4 * n.tile + port
  if !s.usesIn n port || s.isCaddPort n.tile port then s.trapHere .config 0
  else
    match nthTok (s.port key).toks 0 pos with
    | none => s.retry
    | some (_, x) =>
      if x.tok.isMarker then s.putHere { n.abandon n.pc with atMarker := true }
      else if (x.tok.kind = 1 && x.tok.sub < 3) || s.barred key x then s.retry
      else k x.tok

/-- RECV: the payload of the token at the position of R28, which is popped at step 3. -/
def execRecv (p : Pred) (t u : Tgt) (port : BitVec 2) (s : State) : Host.Outcome State Fault Refusal :=
  let i := Instr.recv p t u port
  .next (s.fire i fun n _ =>
    s.onToken n port.toNat (n.blk.recvsBelow port.toNat n.slot) fun k =>
      (s.withEff 3 n.slot [.popPort port.toNat n.slot]).emit i (.vector k.payload))

/-- TAGOF: the sideband of the token that the lowest RECV of its port reads. -/
def execTagof (p : Pred) (t u : Tgt) (port : BitVec 2) (s : State) : Host.Outcome State Fault Refusal :=
  let i := Instr.tagof p t u port
  .next (s.fire i fun n _ => s.onToken n port.toNat 0 fun k => s.emit i (.scalar (k.side.setWidth 64)))

/-- Payload of a send: a vector, or a scalar in bits [63:0] (R413). -/
def payloadOf (v : Option Val) : Vec := (v.getD .null).vec

/-- May a program send a token of this sideband and payload (R413)? -/
def sendable (side : Word32) (pay : Vec) : Bool :=
  let k : Token := ⟨pay, side⟩
  k.kind ≠ 2 && !(k.kind = 1 && k.sub ≠ 3) && !(k.kind = 0 && fmtMax k.fmt ≤ k.count)
    && !(k.kind ≠ 0 && (k.fmt ≠ 0 || k.count ≠ 0)) && field side.toNat 18 16 = 0

/-- A send of SEND or SENDT, held for step 3. -/
def State.sendSlot (s : State) (n : Node) (r : SlotRt) (port : Nat) (ownTag : Bool) : State :=
  let side : Word32 := r.r.setWidth 32
  if !s.usesOut n port then s.trapHere .config 0
  else if !sendable side (payloadOf r.left) then s.trapHere .block 0
  else s.hold 3 n.slot [.send port (Token.trim ⟨payloadOf r.left, side⟩) ownTag]

/-- SEND: a token with the port's tag. -/
def execSend (p : Pred) (port : BitVec 2) (s : State) : Host.Outcome State Fault Refusal :=
  .next (s.fire (.send p port) fun n r => s.sendSlot n r port.toNat false)

/-- SENDT: a token with the tag of right[15:0]. -/
def execSendt (p : Pred) (port : BitVec 2) (s : State) : Host.Outcome State Fault Refusal :=
  .next (s.fire (.sendt p port) fun n r => s.sendSlot n r port.toNat true)

/-- SETTAG: the port's tag, set at step 3. -/
def execSettag (p : Pred) (port : BitVec 2) (s : State) : Host.Outcome State Fault Refusal :=
  .next (s.fire (.settag p port) fun n r =>
    if s.usesOut n port.toNat then s.hold 3 n.slot [.setTag port.toNat (r.l.setWidth 16)] else s.trapHere .config 0)

/-- EDGESET: an edge-set control token with the port's tag, sent at step 3; not on a timed port. -/
def execEdgeset (p : Pred) (port : BitVec 2) (s : State) : Host.Outcome State Fault Refusal :=
  .next (s.fire (.edgeset p port) fun n r =>
    if s.usesOut n port.toNat && !s.timedPort n.tile false port.toNat then
      s.hold 3 n.slot [.send port.toNat (ctlToken 4 (r.l.toNat % 256) 0) false]
    else s.trapHere .config 0)

end Sys2Proof.Machine
end

