-- ==== Sys2Proof/Machine/Memory.lean ====
section
/-! DEFINITION. The memory class (R174 to R195): loads perform as they fire; stores, atomics, hints and fences
are held for the commit. -/

namespace Sys2Proof.Machine

/-! ### Addresses and lanes -/

/-- Effective address (R174). -/
def effAddr (base : Word) (off : BitVec 10) (scale : Nat) : Word := base + off.signExtend 64 * BitVec.ofNat 64 scale

/-- Is a lane of a vector form active (R181)? -/
def laneOn (n : Node) (k : LaneMask) (i : Nat) : Bool := !k.m || (vget n.regs.p k.p.toNat 0).getLsbD i

/-- Is the mask register that a vector form reads full (R181)? -/
def maskFull (n : Node) (k : LaneMask) : Bool := !k.m || n.regs.pFull.getLsbD k.p.toNat

/-- The first lane whose address is misaligned. -/
def misaligned (l : List LaneAt) : Option LaneAt := l.find? fun x => x.va % x.size ≠ 0

/-- The first lane whose address exceeds 56 bits. -/
def tooHigh (l : List LaneAt) : Option LaneAt := l.find? fun x => 2 ^ 56 ≤ x.va

/-- The address that a fault found on a line names: the effective address, or the lane's for a form whose
lanes have addresses of their own. -/
def faultVa (own : Bool) (ea : Word) (l : List LaneAt) (a : Word) : Word :=
  if own then
    match l.find? fun x => x.va / 128 = a.toNat / 128 with
    | some x => BitVec.ofNat 64 x.va
    | none => ea
  else ea

/-- Have all store-class slots with a lower LSID fired or been resolved (R178)? -/
def Blk.storesDone (b : Blk) (lsid : Nat) : Bool :=
  b.instrs.all fun p => !p.2.isStore || !b.waiting p.1 ||
    (match p.2.lsid with
     | some l => lsid ≤ l
     | none => true)

/-! ### Loads -/

/-- The extended lane value of a load (R181). -/
def extendTo (ty : Ty) (raw : Nat) : Word := ty.ext (BitVec.ofNat ty.width raw)

/-- The lane of a vector load (R181). -/
def extendLane (ty : Ty) (raw : Nat) : Word32 := (extendTo ty raw).setWidth 32

/-- The round counters of a node's regions whose eight bytes lanes cover, with the values that the lines give (R171). -/
def Node.countersIn (n : Node) (lanes : List LaneAt) (m : Tbl Vec) : List (Nat × Word) :=
  let here (a : Nat) : Bool := lanes.any fun x => x.va ≤ a && a < x.va + x.size
  ((n.rounds.map fun p => p.2.rctr).eraseDups.filter fun a => (List.range 8).all fun i => here (a + i)).map fun a =>
    (a, BitVec.ofNat 64 (laneRaw m ⟨0, a, 8⟩))

/-- The lines that give lanes a value, for the bytes of the lanes. -/
def laneLines (lanes : List LaneAt) (vec : Bool) (x : Vec) : Tbl Vec :=
  lanes.foldl (fun m y =>
    let raw := if vec then (lane x y.ix).toNat else x.toNat
    m.set (y.va / 128) (linePatch (m.getD (y.va / 128) 0) (y.va % 128) (toBytes raw y.size))) []

/-- What a load leaves for the commit: its acquire, with the round counters that it observed (R153, R171, R181); without one
they are kept for a later FENCE (R154). -/
def loadActs (a : Attr) (seen : List (Nat × Word)) : List Act :=
  if !a.ord.acq then seen.map fun x => .saw x.1 x.2
  else if seen.isEmpty then [.acquire a.scope none]
  else seen.map fun x => .acquire a.scope (some x)

/-- Ends a load of lanes with a value: on a shared-volatile page, or for an input-replicated form, a shadow takes the
leader's, and observes what it gives (R97, R171, R380). -/
def State.loadEnd (s0 s : State) (n : Node) (i : Instr) (a : Attr) (lsid : Nat) (lanes : List LaneAt) (m : Tbl Vec)
    (shared vec : Bool) (x : Vec) : State :=
  let done (s : State) (m : Tbl Vec) (x : Vec) : State :=
    let v : Val := if vec then .vector x else .scalar (x.setWidth 64)
    let acts := loadActs a (n.countersIn lanes m)
    (if acts.isEmpty then s else s.withEff 2 lsid acts).emit i v
  if shared && n.shadow then
    match n.forwarded (n.fwdKey 0) with
    | some y => done s0 (laneLines lanes vec y) y
    | none => s0.retry
  else done (if shared then s.forward n (n.fwdKey 0) x else s) m x

/-- Loads lanes of a node's slot (R176, R178, R181, R183): the checks, the lines, then the value. With every lane masked the
effective address is still judged for its alignment, and no address is (DESIGN CHOICE, log 59). -/
def State.loadSlots (s : State) (n : Node) (i : Instr) (a : Attr) (lsid : Nat) (ea : Word) (way : LoadWay) (own vec : Bool)
    (align : Nat) (lanes : List LaneAt) : State :=
  if !own && ea.toNat % align ≠ 0 then s.trapHere .align ea
  else if !n.blk.storesDone lsid then s.retry
  else
    match misaligned lanes with
    | some x => s.trapHere .align (BitVec.ofNat 64 x.va)
    | none =>
      match tooHigh lanes with
      | some x => s.trapHere .address (if own then BitVec.ofNat 64 x.va else ea)
      | none =>
        match s.loadShared s.focus n lsid way (lanesByLine lanes) with
        | .ok (m, sv) s' =>
          let x : Vec := if vec then
              ofLanes fun k => match lanes.find? fun y => y.ix = k with
                | some y => extendLane a.ty (laneRaw m y)
                | none => 0
            else match lanes with
              | y :: _ => (extendTo a.ty (laneRaw m y)).setWidth 1024
              | [] => 0
          s.loadEnd s' n i a lsid lanes m sv vec x
        | .trap c w s => s.trapHere c (faultVa own ea lanes w)
        | .walk s => s.freezeWalk (.node s.focus)
        | .poison s => s.poisonNode s.focus ea
        | .sleep w s => s.sleepHere w

/-- Lanes of a contiguous vector form that a mask leaves active. -/
def rowLanes (n : Node) (ea : Word) (es : Nat) (k : LaneMask) : List LaneAt :=
  ((List.range 32).filter fun i => laneOn n k i).map fun i => ⟨i, (ea + BitVec.ofNat 64 (i * es)).toNat, es⟩

/-- A load of 8 bytes from an MMIO register (R6, R450): a store of the node that waits in its window, else the
register; any other access to MMIO is refused. On a shared-volatile page a shadow makes none of its own (R97). -/
def State.loadMmio (s : State) (n : Node) (i : Instr) (a : Attr) (lsid : Nat) (ea : Word) (pa : Nat) (sv : Bool) : State :=
  let got := if sv && n.shadow then (.ok [], s) else s.homeRead (dieOf n.tile) n.master pa a.ty.bytes false
  match got with
  | (.error .access, s) => s.trapHere .access ea
  | (.error .poison, s) => s.poisonNode s.focus ea
  | (.ok b, s') =>
    let held := ((n.blk.storesBelow lsid).flatMap (·.lanes)).filter fun x => x.pa = pa && x.size = 8
    let x := match held.getLast? with
      | some x => x.val
      | none => ((n.win.reg pa).map (·.toNat)).getD (Sys2Proof.ofBytes b)
    s.loadEnd s' n i a lsid [] [] sv false (BitVec.ofNat 1024 x)

/-- LD (R181). -/
def execLd (p : Pred) (t : Tgt) (w : MOff) (a : Attr) (s : State) : Host.Outcome State Fault Refusal :=
  let i := Instr.ld p t w a
  .next (s.fire i fun n r =>
    let es := a.ty.bytes
    let ea := effAddr r.l w.off es
    let plain (s : State) : State :=
      s.loadSlots n i a w.lsid.toNat ea (.ordinary a.pol) false false es [⟨0, ea.toNat, es⟩]
    if ea.toNat % es ≠ 0 || !n.blk.storesDone w.lsid.toNat then plain s
    else
      match s.xlateNode s.focus n ea .read with
      | (.ok e, s') => if s'.isMmio (e.phys ea.toNat) then s'.loadMmio n i a w.lsid.toNat ea (e.phys ea.toNat) e.sv else plain s'
      | _ => plain s)

/-- LDV (R181). -/
def execLdv (p : Pred) (t : Tgt) (w : MOff) (a : Attr) (k : LaneMask) (s : State) : Host.Outcome State Fault Refusal :=
  let i := Instr.ldv p t w a k
  .next (s.fire i fun n r =>
    let es := a.ty.bytes
    let ea := effAddr r.l w.off (32 * es)
    if !maskFull n k then s.retry
    else s.loadSlots n i a w.lsid.toNat ea (.ordinary a.pol) false true (32 * es) (rowLanes n ea es k))

/-- LDK (R122, R181): a scalar or a vector through the constant path. -/
def execLdk (p : Pred) (t : Tgt) (w : MOff) (a : Attr) (vec : Bool) (k : LaneMask) (s : State) :
    Host.Outcome State Fault Refusal :=
  let i := Instr.ldk p t w a vec k
  .next (s.fire i fun n r =>
    let es := a.ty.bytes
    let ea := effAddr r.l w.off (if vec then 32 * es else es)
    if vec then
      if !maskFull n k then s.retry
      else s.loadSlots n i a w.lsid.toNat ea .const false true (32 * es) (rowLanes n ea es k)
    else s.loadSlots n i a w.lsid.toNat ea .const false false es [⟨0, ea.toNat, es⟩])

/-- LDVG (R183): 32 lanes at the base plus scaled signed offsets. -/
def execLdvg (p : Pred) (t : Tgt) (w : MOff) (a : Attr) (k : LaneMask) (sc : BitVec 2) (s : State) :
    Host.Outcome State Fault Refusal :=
  let i := Instr.ldvg p t w a k sc
  .next (s.fire i fun n r =>
    let es := a.ty.bytes
    let ea := effAddr r.l w.off es
    if !maskFull n k then s.retry
    else
      let lanes := ((List.range 32).filter fun j => laneOn n k j).map fun j =>
        (⟨j, (ea + (lane r.rv j).signExtend 64 <<< sc.toNat).toNat, es⟩ : LaneAt)
      s.loadSlots n i a w.lsid.toNat ea (.ordinary a.pol) true true es lanes)

/-- The region that a round load names, where ea lies in its slot 0 (R169). -/
def Node.roundSlot0 (n : Node) (k : Nat) (ea : Word) : Option RoundRegion :=
  match Tbl.get? k n.rounds with
  | some r => if r.base ≤ ea.toNat && ea.toNat < r.base + r.len then some r else none
  | none => none

/-- Ends a round load. -/
def State.roundEnd (s0 : State) (n : Node) (i : Instr) (a : Attr) (lsid : Nat) (always : Bool)
    (g : Got RoundGot) : State :=
  match g with
  | .ok y s =>
    let lane : LaneAt := ⟨0, y.va, a.ty.bytes⟩
    let m : Tbl Vec := [(y.va / 128, y.line)]
    s0.loadEnd s n i a lsid [lane] m (y.sv || (always && n.repMode ≠ 1)) false
      ((extendTo a.ty (laneRaw m lane)).setWidth 1024)
  | g => g.on fun _ s => s

/-- LDB (R169, R185). -/
def execLdb (p : Pred) (t : Tgt) (w : MOff) (a : Attr) (k : BitVec 6) (s : State) : Host.Outcome State Fault Refusal :=
  let i := Instr.ldb p t w a k
  .next (s.fire i fun n r =>
    let es := a.ty.bytes
    let ea := effAddr r.l w.off es
    if ea.toNat % es ≠ 0 then s.trapHere .align ea
    else if 2 ^ 56 ≤ ea.toNat then s.trapHere .address ea
    else if 65535 < r.r.toNat then s.trapHere .round 0
    else
      match n.roundSlot0 k.toNat ea with
      | none => s.trapHere .round 0
      | some g =>
        if !n.blk.storesDone w.lsid.toNat then s.retry
        else
          let bound := if r.r.toNat = 65535 then none else some r.r.toNat
          s.roundEnd n i a w.lsid.toNat true
            (s.loadBounded s.focus n w.lsid.toNat k.toNat g ea.toNat es bound a.pol))

/-- LDN (R170, R185). -/
def execLdn (p : Pred) (t : Tgt) (w : MOff) (a : Attr) (k : BitVec 6) (s : State) : Host.Outcome State Fault Refusal :=
  let i := Instr.ldn p t w a k
  .next (s.fire i fun n r =>
    let es := a.ty.bytes
    let ea := effAddr r.l w.off es
    if ea.toNat % es ≠ 0 then s.trapHere .align ea
    else if 2 ^ 56 ≤ ea.toNat then s.trapHere .address ea
    else
      match n.roundSlot0 k.toNat ea with
      | none => s.trapHere .round 0
      | some g =>
        if !n.blk.storesDone w.lsid.toNat then s.retry
        else
          s.roundEnd n i a w.lsid.toNat false
            (s.loadExact s.focus n w.lsid.toNat k.toNat g ea.toNat es r.r.toNat a.pol))

/-! ### Stores -/

/-- Translates the lanes of a store or atomic for writing (R177): their physical addresses. -/
def State.xlateLanes (s : State) (t : Nat) (n : Node) : List LaneAt → Got (List Nat)
  | [] => .ok [] s
  | x :: l =>
    match s.xlateNode t n (BitVec.ofNat 64 x.va) .write with
    | (.error y, s) => y.got (BitVec.ofNat 64 x.va) s
    | (.ok e, s) =>
      match s.xlateLanes t n l with
      | .ok m s => .ok (e.phys x.va :: m) s
      | g => g

/-- The commit acts of a store (R182): it enters the window, or is the own write of its release. -/
def storeActs (r : StoreReq) : List Act :=
  match r.rel with
  | none => [.store r]
  | some _ => [.sign r, .relCheck [], .relPerform, .relDrain, .ownStore r]

/-- A store of lanes (R176, R177, R182, R183), held for step 2. -/
def State.storeSlots (s : State) (n : Node) (a : Attr) (lsid : Nat) (ea : Word) (own : Bool) (align : Nat)
    (lanes : List LaneAt) (val : Nat → Nat) : State :=
  if !own && ea.toNat % align ≠ 0 then s.trapHere .align ea
  else
    match misaligned lanes with
    | some x => s.trapHere .align (BitVec.ofNat 64 x.va)
    | none =>
      match tooHigh lanes with
      | some x => s.trapHere .address (if own then BitVec.ofNat 64 x.va else ea)
      | none =>
        (s.xlateLanes s.focus n lanes).on fun pas s =>
          let ls := (lanes.zip pas).map fun x =>
            (⟨x.1.va, x.2, x.1.size, val x.1.ix % 2 ^ (8 * x.1.size)⟩ : LaneStore)
          s.hold 2 lsid (storeActs ⟨lsid, ls, a.pol, if a.ord.rel then some a.scope else none⟩)

/-- ST (R182). -/
def execSt (p : Pred) (w : MOff) (a : Attr) (s : State) : Host.Outcome State Fault Refusal :=
  .next (s.fire (.st p w a) fun n r =>
    let es := a.ty.bytes
    let ea := effAddr r.l w.off es
    s.storeSlots n a w.lsid.toNat ea false es [⟨0, ea.toNat, es⟩] fun _ => r.r.toNat)

/-- STV (R182). -/
def execStv (p : Pred) (w : MOff) (a : Attr) (k : LaneMask) (s : State) : Host.Outcome State Fault Refusal :=
  .next (s.fire (.stv p w a k) fun n r =>
    let es := a.ty.bytes
    let ea := effAddr r.l w.off (32 * es)
    if !maskFull n k then s.retry
    else s.storeSlots n a w.lsid.toNat ea false (32 * es) (rowLanes n ea es k) fun i => (lane r.rv i).toNat)

/-- STVS (R183): 32 lanes at a signed stride. -/
def execStvs (p : Pred) (w : MOff) (a : Attr) (k : LaneMask) (stride : BitVec 16) (s : State) :
    Host.Outcome State Fault Refusal :=
  .next (s.fire (.stvs p w a k stride) fun n r =>
    let es := a.ty.bytes
    let ea := effAddr r.l w.off es
    if !maskFull n k then s.retry
    else
      let lanes := ((List.range 32).filter fun j => laneOn n k j).map fun j =>
        (⟨j, (ea + stride.signExtend 64 * BitVec.ofNat 64 j).toNat, es⟩ : LaneAt)
      s.storeSlots n a w.lsid.toNat ea true es lanes fun i => (lane r.rv i).toNat)

/-! ### Asynchronous loads and atomics -/

/-- LDA (R184): translated as it fires; its request leaves at step 2. -/
def execLda (p : Pred) (w : MOff) (a : Attr) (toV : Bool) (k : BitVec 6) (s : State) : Host.Outcome State Fault Refusal :=
  .next (s.fire (.lda p w a toV k) fun n r =>
    let es := (if toV then 32 else 1) * a.ty.bytes
    let ea := effAddr r.l w.off es
    if ea.toNat % es ≠ 0 then s.trapHere .align ea
    else
      match s.xlateNode s.focus n ea .read with
      | (.error x, s) => (x.got ea s : Got Unit).on fun _ s => s
      | (.ok e, s) =>
        let dst : DstReg := if toV then .v (k.setWidth 5) else .g k
        s.hold 2 w.lsid.toNat [.lda ⟨ea.toNat, e.phys ea.toNat, e.sv, a.ty, toV, a.pol, dst⟩])

/-- The words of an instruction, for the action chunks of R378. -/
def wordsOf (i : Instr) : Word32 × Word32 :=
  match encode i with
  | some (w, x) => (w, x.getD 0)
  | none => (0, 0)

/-- The action chunks of an instruction at an address (R378): the right operand, then the words. -/
def actionChunks (i : Instr) (addr right : Word) : List (Word × Word) :=
  let w := wordsOf i
  [(addr, right), (addr, w.2.setWidth 64 <<< 32 ||| w.1.setWidth 64)]

/-- The parts of a release before its own write (R151, R152). An atomic or add without `.rel` is a release
point without a release; under redundant execution it drains the window still (R160, R387). -/
def relActs (n : Node) (rel : Bool) (chunks : List (Word × Word)) : List Act :=
  .relCheck chunks :: (if rel then [.relPerform, .relDrain] else if n.repMode ≠ 1 then [.relPerform] else [])

/-- An atomic of a slot (R176, R177, R186 to R188): translated for writing, held for step 2. -/
def State.atomSlot (s : State) (n : Node) (i : Instr) (w : MOff) (a : Attr) (op : AtomOp) (es : Nat) (left right third : Word)
    (ret : Option (BitVec 6)) (stream : Option (BitVec 16)) : State :=
  let ea := effAddr left w.off es
  if ea.toNat % es ≠ 0 then s.trapHere .align ea
  else
    match s.xlateNode s.focus n ea .write with
    | (.error x, s) => (x.got ea s : Got Unit).on fun _ s => s
    | (.ok e, s) =>
      let pa := e.phys ea.toNat
      let hold := a.ord.rel || a.ord.acq
      let chunks := actionChunks i ea right ++ (if op = .cas then [(ea, third)] else [])
      s.hold 2 w.lsid.toNat
        (relActs n a.ord.rel chunks ++ [.drainIf pa es, .ownAtom ea.toNat pa a.ty op right third ret stream hold]
          ++ (if hold then [.awaitReply (if a.ord.acq then some (a.scope, ea.toNat) else none)] else []))

/-- ATOM (R186). -/
def execAtom (w : MOff) (a : Attr) (op : AtomOp) (re : Bool) (k : BitVec 6) (s : State) :
    Host.Outcome State Fault Refusal :=
  let i := Instr.atom w a op re k
  .next (s.fire i fun n r =>
    s.atomSlot n i w a op a.ty.bytes r.l r.r r.g (if re then some k else none) none)

/-- ATOMO (R188): the sequence number stands in right[63:32], the operand in right[31:0]. -/
def execAtomo (p : Pred) (w : MOff) (a : Attr) (op : AtomOp) (sel : BitVec 3) (stream : BitVec 16) (s : State) :
    Host.Outcome State Fault Refusal :=
  let i := Instr.atomo p w a op sel stream
  .next (s.fire i fun n r =>
    s.atomSlot n i w a op 4 r.l r.r 0 (if sel = 0 then none else some (BitVec.ofNat 6 (55 + sel.toNat))) (some stream))

/-! ### Fences and hints -/

/-- FENCE (R156, R189): its kinds act in step 3, the release first, before the wait of kind E too (DESIGN CHOICE, log 59). -/
def execFence (p : Pred) (scope : Scope) (acq rel k e : Bool) (s : State) : Host.Outcome State Fault Refusal :=
  .next (s.fire (.fence p scope acq rel k e) fun n _ =>
    s.hold 3 n.slot ((if rel then relActs n true [] else []) ++ (if e then [.fenceEngines] else [])
      ++ (if acq then [.fenceAcquire scope] else []) ++ (if k then [.fenceConst] else [])))

/-- A range of at most 16 MiB for a hint, a pin or a cache operation (R191, R193, R194). -/
def rangeLen (x : Word) : Nat := Nat.min x.toNat (2 ^ 24)

/-- A hint, held for step 3 (R190, R191, R193). -/
def State.rangeSlot (s : State) (n : Node) (op : RangeOp) (w : MOff) (a : Attr) (left : Word) (len : Nat) (level : Bool) :
    State :=
  s.hold 3 n.slot [.range op ⟨effAddr left w.off 1, len, level, a.pol⟩]

/-- PREF (R190). -/
def execPref (p : Pred) (w : MOff) (a : Attr) (level : Bool) (s : State) : Host.Outcome State Fault Refusal :=
  .next (s.fire (.pref p w a level) fun n r => s.rangeSlot n .pref w a r.l 1 level)

/-- TLBPF (R190). -/
def execTlbpf (p : Pred) (w : MOff) (a : Attr) (level : Bool) (s : State) : Host.Outcome State Fault Refusal :=
  .next (s.fire (.tlbpf p w a level) fun n r => s.rangeSlot n .tlbpf w a r.l 1 level)

/-- IPF (R191). -/
def execIpf (p : Pred) (w : MOff) (a : Attr) (level : Bool) (s : State) : Host.Outcome State Fault Refusal :=
  .next (s.fire (.ipf p w a level) fun n r => s.rangeSlot n .ipf w a r.l (rangeLen r.r) level)

/-- IPIN (R191). -/
def execIpin (p : Pred) (w : MOff) (a : Attr) (level : Bool) (s : State) : Host.Outcome State Fault Refusal :=
  .next (s.fire (.ipin p w a level) fun n r => s.rangeSlot n .ipin w a r.l (rangeLen r.r) level)

/-- IUNPIN (R191). -/
def execIunpin (p : Pred) (w : MOff) (a : Attr) (level : Bool) (s : State) : Host.Outcome State Fault Refusal :=
  .next (s.fire (.iunpin p w a level) fun n r => s.rangeSlot n .iunpin w a r.l (rangeLen r.r) level)

/-- CWB (R193). -/
def execCwb (p : Pred) (w : MOff) (a : Attr) (deep : Bool) (s : State) : Host.Outcome State Fault Refusal :=
  .next (s.fire (.cwb p w a deep) fun n r => s.rangeSlot n .cwb w a r.l (rangeLen r.r) deep)

/-- CINV (R194): kind code asks for privilege. -/
def execCinv (p : Pred) (w : MOff) (a : Attr) (kind : InvKind) (s : State) : Host.Outcome State Fault Refusal :=
  .next (s.fire (.cinv p w a kind) fun n r =>
    if kind = .code && !n.priv then s.trapHere .privilege 0
    else s.rangeSlot n (.cinv kind) w a r.l (rangeLen r.r) false)

/-- Does a context own retention window k of a die (R118)? -/
def State.ownsWindow (s : State) (d k : Nat) (c : BitVec 12) : Bool :=
  let o := s.mmioAt d (0x108E8 + 8 * k)
  o.getLsbD 12 && o.setWidth 12 = c

/-- RETAIN (R192): translated as it fires; the window changes at step 3. -/
def execRetain (p : Pred) (w : MOff) (a : Attr) (k : BitVec 3) (ways : BitVec 4) (s : State) :
    Host.Outcome State Fault Refusal :=
  .next (s.fire (.retain p w a k ways) fun n r =>
    let ea := effAddr r.l w.off 1
    if !s.ownsWindow (dieOf n.tile) k.toNat n.ctx then s.trapHere .privilege 0
    else
      match s.xlateNode s.focus n ea .read with
      | (.error x, s) => (x.got ea s : Got Unit).on fun _ s => s
      | (.ok e, s) =>
        let pa := e.phys ea.toNat
        let len := Nat.min r.r.toNat (e.va + e.size - ea.toNat)
        let lines := if len = 0 then 0 else (pa + len - 1) / 128 + 1 - pa / 128
        let own := pa / 2 ^ 45 = s.dom
          && (pa % 2 ^ 45 < 512000000000 || (0x8000000000 ≤ pa % 2 ^ 45 && pa % 2 ^ 45 < 0x1E8000000000))
        s.hold 3 n.slot [.retain k.toNat ways.toNat pa lines (own && r.r ≠ 0)])

/-- UNRETAIN (R120, R192). -/
def execUnretain (p : Pred) (w : MOff) (a : Attr) (k : BitVec 3) (s : State) : Host.Outcome State Fault Refusal :=
  .next (s.fire (.unretain p w a k) fun n _ =>
    if !s.ownsWindow (dieOf n.tile) k.toNat n.ctx then s.trapHere .privilege 0
    else s.hold 3 n.slot [.unretain k.toNat])

end Sys2Proof.Machine
end

