-- ==== Sys2Proof/Machine/Counters.lean ====
section
/-! DEFINITION. Counters, rings, rounds and the barrier (R157 to R171, R211 to R223). Reads that fire act at
once; adds, waits and releases are held for step 3 of the commit. -/

namespace Sys2Proof.Machine

/-- The counter of a slot: aligned, translated (R211). -/
def State.counterRef (s : State) (n : Node) (va : Word) (kind : AccKind) : Got CtrRef :=
  if va.toNat % 8 ≠ 0 then .trap .align va s
  else
    match s.xlateNode s.focus n va kind with
    | (.error x, s) => x.got va s
    | (.ok e, s) => .ok ⟨va, e.phys va.toNat⟩ s

/-- May a counter that a commit reads be refused as the slot fires (R211)? A place that refuses every counter
operation refuses it late (R114). -/
def State.counterReadable (s : State) (n : Node) (c : CtrRef) : Bool × State :=
  match s.home (dieOf n.tile) c.pa with
  | .mmio _ _ | .refuse _ _ => (true, s)
  | _ => s.permit (dieOf n.tile) n.master c.pa 1

/-- A counter that the slot's commit reads or waits for, held with an act (R215, R216). -/
def State.counterReadSlot (s : State) (n : Node) (va : Word) (act : CtrRef → Act) : State :=
  (s.counterRef n va .read).on fun c s =>
    match s.counterReadable n c with
    | (true, s) => s.hold 3 n.slot [act c]
    | (false, s) => s.trapHere .access va

/-- The acts of an add: the parts of a release or of a release point, the add, and the wait for its answer
(R160, R214). -/
def addActs (n : Node) (i : Instr) (c : CtrRef) (right amount : Word) (scope : Scope) (acq rel : Bool) : List Act :=
  relActs n rel (actionChunks i c.va right) ++ [.ownAdd c amount (acq || rel)]
    ++ (if acq || rel then [.awaitReply (if acq then some (scope, c.va.toNat) else none)] else [])

/-- CADD (R214). -/
def execCadd (p : Pred) (scope : Scope) (acq rel : Bool) (s : State) : Host.Outcome State Fault Refusal :=
  let i := Instr.cadd p scope acq rel
  .next (s.fire i fun n r =>
    (s.counterRef n r.l .write).on fun c s =>
      s.hold 3 n.slot (addActs n i c r.r r.r scope acq rel))

/-- CWAIT (R215). -/
def execCwait (p : Pred) (scope : Scope) (acq : Bool) (s : State) : Host.Outcome State Fault Refusal :=
  .next (s.fire (.cwait p scope acq) fun n r => s.counterReadSlot n r.l fun c => .cwait c r.r scope acq)

/-- CREAD (R216). -/
def execCread (p : Pred) (scope : Scope) (acq : Bool) (k : BitVec 6) (s : State) : Host.Outcome State Fault Refusal :=
  .next (s.fire (.cread p scope acq k) fun n r => s.counterReadSlot n r.l fun c => .cread c scope acq k)

/-- An observed counter value (R213): the leader's is forwarded, and a shadow takes it or waits. -/
def State.observe (s0 s : State) (n : Node) (x : Word) (k : Word → State → State) : State :=
  if n.shadow then
    match n.forwarded (n.fwdKey 0) with
    | some y => k (y.setWidth 64) s0
    | none => s0.retry
  else k x (s.forward n (n.fwdKey 0) (x.setWidth 1024))

/-- Reads a counter that is input-replicated: a shadow makes no access of its own (R213, R429). -/
def State.readForAll (s : State) (n : Node) (va : Word) : Got (Nat × Nat × Bool) :=
  if n.shadow then .ok (0, 0, false) s else s.readWord s.focus n va

/-- What an observation of a counter without an acquire leaves for a later FENCE, where it is a round counter (R154). -/
def Node.sawActs (n : Node) (va : Nat) (x : Word) : List Act := if n.rounds.any fun p => p.2.rctr = va then [.saw va x] else []

/-- CPOLL (R216): 1 where the counter is at least right. -/
def execCpoll (p : Pred) (t u : Tgt) (scope : Scope) (acq : Bool) (s : State) : Host.Outcome State Fault Refusal :=
  let i := Instr.cpoll p t u scope acq
  .next (s.fire i fun n r =>
    if r.l.toNat % 8 ≠ 0 then s.trapHere .align r.l
    else
      (s.readForAll n r.l).on fun v s' =>
        State.observe s s' n (BitVec.ofNat 64 v.2.1) fun x s =>
          let acts := if acq then [.acquire scope (some (r.l.toNat, x))] else n.sawActs r.l.toNat x
          (if acts.isEmpty then s else s.withEff 3 n.slot acts).emit i
            (.scalar (flag (r.r ≤ x))))

/-- RNGAW (R164, R217): the address of slot n, once the other side's counter lets this side have it. -/
def execRngaw (p : Pred) (t u : Tgt) (scope : Scope) (s : State) : Host.Outcome State Fault Refusal :=
  let i := Instr.rngaw p t u scope
  .next (s.fire i fun n r =>
    if r.l.toNat % 32 ≠ 0 then s.trapHere .align r.l
    else
      let va := r.l.toNat + 16
      (s.loadLines s.focus n 0 (.ordinary .normal) (lanesByLine [⟨0, va, 8⟩, ⟨1, va + 8, 8⟩])).on fun m s =>
        match ringOf (laneRaw m.1 ⟨0, va, 8⟩) (laneRaw m.1 ⟨1, va + 8, 8⟩) with
        | none => s.trapHere .ring 0
        | some (base, size, count) =>
          let consumer := r.r.getLsbD 63
          let pos := r.r.toNat % 2 ^ 63
          let need := if consumer then pos + 1 else pos + 1 - count
          let ca : Word := if consumer then r.l else r.l + 8
          (s.readForAll n ca).on fun v s' =>
            if !n.shadow && v.2.1 < need then s'.sleepHere ⟨v.1, BitVec.ofNat 64 need, false⟩
            else
              State.observe s s' n (BitVec.ofNat 64 v.2.1) fun x s =>
                if x.toNat < need then s.retry
                else (s.withEff 3 n.slot [.acquire scope (some (ca.toNat, x))]).emit i
                  (.scalar (BitVec.ofNat 64 (base + pos % count * size))))

/-- RNGREL (R218): a release whose own write adds 1 to the side's counter. -/
def execRngrel (p : Pred) (scope : Scope) (s : State) : Host.Outcome State Fault Refusal :=
  let i := Instr.rngrel p scope
  .next (s.fire i fun n r =>
    if r.l.toNat % 32 ≠ 0 then s.trapHere .align r.l
    else
      (s.counterRef n (if r.r.getLsbD 63 then r.l + 8 else r.l) .write).on fun c s =>
        s.hold 3 n.slot (addActs n i c r.r 1 scope false true))

/-- The region that left names, where it is declared (R219). -/
def Node.regionOf (n : Node) (x : Word) : Option RoundRegion := if x.toNat < 64 then Tbl.get? x.toNat n.rounds else none

/-- Counters that a commit will read again, read as the slot fires, so that their faults are precise (R211, R223). -/
def State.readRefs (s : State) (n : Node) : List Nat → Got (List CtrRef)
  | [] => .ok [] s
  | va :: l =>
    match s.readWord s.focus n (BitVec.ofNat 64 va) with
    | .ok v s =>
      (match s.readRefs n l with
       | .ok m s => .ok (⟨BitVec.ofNat 64 va, v.1⟩ :: m) s
       | g => g)
    | .trap c a s => .trap c a s
    | .walk s => .walk s
    | .poison s => .poison s
    | .sleep x s => .sleep x s

/-- The round counter and the reclaim words of a region (R165). -/
def RoundRegion.words (g : RoundRegion) : List Nat := g.rctr :: (List.range (g.nr + 1)).map fun j => g.rcl + 8 * j

/-- RADV (R167, R220): the check of ovr = 1 is made here, the wait of ovr = 0 at the commit. -/
def execRadv (p : Pred) (scope : Scope) (s : State) : Host.Outcome State Fault Refusal :=
  let i := Instr.radv p scope
  .next (s.fire i fun n r =>
    match n.regionOf r.l with
    | none => s.trapHere .round 0
    | some g =>
      (s.counterRef n (BitVec.ofNat 64 g.rctr) .write).on fun c s =>
        let k := r.l.toNat
        let own := relActs n true (actionChunks i c.va 0) ++ [.ownAdd c 1 true, .floorReply k]
        if g.ovr then
          (s.readRound s.focus n g).on fun pr s =>
            (s.readReclaim s.focus n g (g.nr + 1)).on fun m s =>
              if m.1 + g.slots < pr.2 + 2 then s.trapHere .roundOverrun 0 else s.hold 3 n.slot own
        else (s.readRefs n g.words).on fun l s => s.hold 3 n.slot (.radvWait g.slots l :: own))

/-- RRECL (R168, R221): a release whose own write raises a reclaim word. -/
def execRrecl (p : Pred) (scope : Scope) (s : State) : Host.Outcome State Fault Refusal :=
  let i := Instr.rrecl p scope
  .next (s.fire i fun n r =>
    let k := r.l.toNat % 64
    let j := field r.l.toNat 13 8
    match (if field r.l.toNat 7 6 ≠ 0 || field r.l.toNat 63 14 ≠ 0 then none else Tbl.get? k n.rounds) with
    | none => s.trapHere .round 0
    | some g =>
      if g.nr < j then s.trapHere .round 0
      else
        (s.counterRef n (BitVec.ofNat 64 (g.rcl + 8 * j)) .write).on fun c s =>
          s.hold 3 n.slot (relActs n true (actionChunks i c.va r.r)
            ++ [.ownAtom c.va.toNat c.pa .n64 .max r.r 0 none none true, .awaitReply none]))

/-- RSETC (R221): `rr.cur[k]`, set at step 1. -/
def execRsetc (p : Pred) (s : State) : Host.Outcome State Fault Refusal :=
  .next (s.fire (.rsetc p) fun n r =>
    match n.regionOf r.l with
    | none => s.trapHere .round 0
    | some _ => s.hold 1 n.slot [.setCur r.l.toNat r.r])

/-- BARR (R222): a release whose own write adds 1, then a wait that acquires. -/
def execBarr (p : Pred) (scope : Scope) (s : State) : Host.Outcome State Fault Refusal :=
  let i := Instr.barr p scope
  .next (s.fire i fun n r =>
    (s.counterRef n r.l .write).on fun c s =>
      s.hold 3 n.slot (relActs n true (actionChunks i r.l r.r)
        ++ [.ownAdd c 1 true, .awaitReply none, .cwait c r.r scope true]))

end Sys2Proof.Machine
end

