-- ==== Sys2Proof/Machine/EngineOps.lean ====
section
/-! DEFINITION. The engine commands as slots (R196 to R210): the descriptor is read and checked as the slot
fires, and the command reaches its queue at step 3. -/

namespace Sys2Proof.Machine

/-! ### Descriptors -/

/-- Word k of a descriptor. -/
def dword (w : List Word) (k : Nat) : Nat := ((w[k]?).getD 0).toNat

/-- Spaces of source and destination. -/
def dSspace (w : List Word) : Nat := field (dword w 0) 63 62
def dDspace (w : List Word) : Nat := field (dword w 1) 63 62
/-- Addresses of source and destination. -/
def dSrc (w : List Word) : Nat := field (dword w 0) 55 0
def dDst (w : List Word) : Nat := field (dword w 1) 55 0
/-- Hardware queue. -/
def dQueue (w : List Word) : Nat := field (dword w 2) 42 40
/-- Length in bytes, or the index count of GATH and SCAT. -/
def dLen (w : List Word) : Nat := field (dword w 2) 39 0 + 1
/-- Amount of the completion add. -/
def dAmount (w : List Word) : Word := (w[3]?).getD 0
/-- Completion counter. -/
def dCctr (w : List Word) : Nat := field (dword w 4) 55 0
/-- System devices of source and destination. -/
def dSdev (w : List Word) : Nat := field (dword w 5) 63 49
def dDdev (w : List Word) : Nat := field (dword w 5) 48 34

/-- Does a scratchpad aperture offset name an MT's scratchpad (R52, R199)? -/
def spadOk (a : Nat) : Bool :=
  a < 2 ^ 32 && field a 24 20 % 2 ≠ field a 29 25 % 2 && a % 2 ^ 20 < 0xC0000

/-- May an address stand in a space that an instruction accepts (R199, R200)? -/
def spaceOk (space addr top : Nat) : Bool :=
  space ≤ top && (if space = 1 then spadOk addr else if space = 2 then field addr 55 45 = 0 else true)

/-- Are the reserved fields that every descriptor shares 0 (R198)? -/
def descRsv (w : List Word) : Bool :=
  field (dword w 0) 61 56 = 0 && field (dword w 1) 61 56 = 0 && field (dword w 2) 63 46 = 0
    && field (dword w 4) 63 56 = 0

/-- Is the completion counter aligned where it is used (R200)? -/
def cctrOk (w : List Word) (always : Bool) : Bool := (!always && dAmount w = 0) || dCctr w % 8 = 0

/-- The checks of CPY (R200, R202). -/
def cpyOk (w : List Word) : Bool :=
  descRsv w && spaceOk (dSspace w) (dSrc w) 2 && spaceOk (dDspace w) (dDst w) 2 && cctrOk w false
    && field (dword w 5) 33 0 = 0 && dword w 6 = 0 && dword w 7 = 0

/-- The checks of CARM (R200, R204). -/
def carmOk (w : List Word) : Bool :=
  descRsv w && spaceOk (dSspace w) (dSrc w) 2 && spaceOk (dDspace w) (dDst w) 2 && cctrOk w false
    && field (dword w 5) 33 0 = 0

/-- The tile of a field of 12 bits: die, column, row (R203, R341). -/
def tileField (x : Nat) : Nat := field x 11 10 * 1024 + field x 9 5 * 32 + field x 4 0

/-- The elements of the region of a node. -/
def State.elemsOf (s : State) (n : Node) : List Nat :=
  match Tbl.get? n.region s.regions with
  | some r => r.elems
  | none => []

/-- The checks of CPYM (R200, R203). -/
def State.cpymOk (s : State) (n : Node) (w : List Word) : Bool :=
  let t := tileField (dDst w)
  descRsv w && spaceOk (dSspace w) (dSrc w) 2 && dDspace w = 3 && field (dDst w) 55 13 = 0 && cctrOk w false
    && field (dword w 5) 33 0 = 0
    && isCt t && dieOf t = dieOf n.tile && (s.elemsOf n).contains t
    && 0x81 ≤ field (dword w 6) 31 24 && field (dword w 6) 31 24 ≤ 0x86 && field (dword w 6) 63 32 = 0 && dword w 7 = 0

/-- Row count and row size of GATH and SCAT (R207). -/
def dRows (w : List Word) : Nat := field (dword w 3) 63 32
def dRowSize (w : List Word) : Nat := field (dword w 3) 31 0
/-- The coalescing MT, the reorder MT and the coalescing MT's port. -/
def dCoalesce (w : List Word) : Nat := tileField (field (dword w 6) 11 0)
def dReorder (w : List Word) : Nat := tileField (field (dword w 6) 27 16)
def dPort (w : List Word) : Nat := field (dword w 6) 29 28

/-- The checks of GATH and SCAT (R200, R207). -/
def State.gathOk (s : State) (n : Node) (w : List Word) : Bool :=
  let mt (t : Nat) : Bool := !isCt t && (s.elemsOf n).contains t
  descRsv w && spaceOk (dSspace w) (dSrc w) 1 && spaceOk (dDspace w) (dDst w) 1 && cctrOk w true && field (dword w 5) 33 0 = 0
    && 1 ≤ dRows w && 4 ≤ dRowSize w && dRowSize w ≤ 4096 && dRowSize w % 4 = 0
    && mt (dCoalesce w) && mt (dReorder w)
    && field (dword w 6) 15 12 = 0 && field (dword w 6) 63 30 = 0 && dword w 7 = 0

/-- Rank count, own rank and tag of a collective (R209). -/
def dRanks (w : List Word) : Nat := field (dword w 5) 63 48 + 1
def dRank (w : List Word) : Nat := field (dword w 5) 47 32
def dTag (w : List Word) : Nat := field (dword w 5) 31 0
/-- Bytes of an input element: .f32 or .bf16. -/
def dElem (w : List Word) : Nat := if dword w 6 = 8 then 4 else 2

/-- The checks of COLL (R200, R209). -/
def collOk (w : List Word) (op : Nat) : Bool :=
  descRsv w && spaceOk (dSspace w) (dSrc w) 1 && spaceOk (dDspace w) (dDst w) 1 && cctrOk w false
    && dRank w < dRanks w && (dword w 6 = 8 || dword w 6 = 9) && dword w 7 = 0
    && dLen w % dElem w = 0 && (op ≠ 1 || dLen w % (dRanks w * dElem w) = 0)

/-! ### The slots -/

/-- The parts of an engine command before it reaches its queue: a release point, at which the window drains
under redundant execution (R201, R378). -/
def engineActs (n : Node) : List Act := relActs n false []

/-- The command of a slot. -/
def Node.cmd (n : Node) (op : EngOp) (w : List Word) : Cmd := ⟨op, w, n.ctx, n.tile, n.region, n.assist, n.mark, 0, 0, 0, []⟩

/-- The 64 bytes of a descriptor as one store to its address, for the signature (R201). -/
def descStore (va : Word) (w : List Word) : StoreReq :=
  ⟨0, (List.range 8).map fun k => ⟨va.toNat + 8 * k, 0, 8, dword w k⟩, .normal, none⟩

/-- A slot that names a descriptor (R197, R200): read, checked, and held as a command for an engine's queue. -/
def State.descSlot (s : State) (n : Node) (eng : Nat) (op : EngOp) (va : Word) (ok : State → List Word → Bool) : State :=
  if va.toNat % 64 ≠ 0 then s.trapHere .align va
  else if 2 ^ 56 ≤ va.toNat then s.trapHere .address va
  else
    let lanes := (List.range 8).map fun k => (⟨k, va.toNat + 8 * k, 8⟩ : LaneAt)
    (s.loadLines s.focus n 0 (.ordinary .normal) (lanesByLine lanes)).on fun m s =>
      let w := lanes.map fun x => BitVec.ofNat 64 (laneRaw m.1 x)
      if ok s w then s.hold 3 n.slot (.sign (descStore va w) :: engineActs n ++ [.command eng (n.cmd op w)])
      else s.trapHere .command va

/-- CPY (R202). -/
def execCpy (p : Pred) (e : BitVec 4) (s : State) : Host.Outcome State Fault Refusal :=
  .next (s.fire (.cpy p e) fun n r => s.descSlot n e.toNat .cpy r.l fun _ w => cpyOk w)

/-- CPYM (R203). -/
def execCpym (p : Pred) (e : BitVec 4) (s : State) : Host.Outcome State Fault Refusal :=
  .next (s.fire (.cpym p e) fun n r => s.descSlot n e.toNat .cpym r.l fun s w => s.cpymOk n w)

/-- CARM (R204). -/
def execCarm (p : Pred) (e : BitVec 4) (s : State) : Host.Outcome State Fault Refusal :=
  .next (s.fire (.carm p e) fun n r => s.descSlot n e.toNat .carm r.l fun _ w => carmOk w)

/-- GATH (R207). -/
def execGath (p : Pred) (e : BitVec 4) (s : State) : Host.Outcome State Fault Refusal :=
  .next (s.fire (.gath p e) fun n r => s.descSlot n e.toNat .gath r.l fun s w => s.gathOk n w)

/-- SCAT (R207). -/
def execScat (p : Pred) (e : BitVec 4) (s : State) : Host.Outcome State Fault Refusal :=
  .next (s.fire (.scat p e) fun n r => s.descSlot n e.toNat .scat r.l fun s w => s.gathOk n w)

/-- COLL (R209): collective engine e is engine 16 + e of the die (log 14). -/
def State.collSlot (s : State) (i : Instr) (e : BitVec 4) (op : Nat) (fp32 : Bool) : State :=
  s.fire i fun n r => s.descSlot n (16 + e.toNat % 4) (.coll op fp32) r.l fun _ w => collOk w op

/-- COLL.ar. -/
def execCollAr (p : Pred) (e : BitVec 4) (fp32 : Bool) (s : State) : Host.Outcome State Fault Refusal :=
  .next (s.collSlot (.collAr p e fp32) e 0 fp32)

/-- COLL.rs. -/
def execCollRs (p : Pred) (e : BitVec 4) (fp32 : Bool) (s : State) : Host.Outcome State Fault Refusal :=
  .next (s.collSlot (.collRs p e fp32) e 1 fp32)

/-- COLL.ag: a word with the output bit set raises the command trap (R209). -/
def execCollAg (p : Pred) (e : BitVec 4) (fp32 : Bool) (s : State) : Host.Outcome State Fault Refusal :=
  let i := Instr.collAg p e fp32
  .next (if fp32 then s.fire i fun _ r => s.trapHere .command r.l else s.collSlot i e 2 fp32)

/-- The words of a CFIRE or CDISARM command: its queue in word 2, its report counter in word 4. -/
def queueWords (q : Word) (report : Word) : List Word := [0, 0, q <<< 40, 0, report, 0, 0, 0]

/-- A CFIRE or CDISARM slot (R200): a queue above 7 raises the command trap. -/
def State.queueSlot (s : State) (n : Node) (eng : Nat) (op : EngOp) (q report : Word) : State :=
  if 7 < q.toNat then s.trapHere .command 0
  else s.hold 3 n.slot (engineActs n ++ [.command eng (n.cmd op (queueWords q report))])

/-- CFIRE (R205). -/
def execCfire (p : Pred) (e : BitVec 4) (s : State) : Host.Outcome State Fault Refusal :=
  .next (s.fire (.cfire p e) fun n r => s.queueSlot n e.toNat .cfire r.l 0)

/-- CDISARM (R206): a misaligned report counter raises the command trap, as a misaligned cctr does (log 15). -/
def execCdisarm (p : Pred) (e : BitVec 4) (s : State) : Host.Outcome State Fault Refusal :=
  .next (s.fire (.cdisarm p e) fun n r =>
    if r.r.toNat % 8 ≠ 0 then s.trapHere .command 0 else s.queueSlot n e.toNat .cdisarm r.l r.r)

end Sys2Proof.Machine
end

