-- ==== Sys2Proof/Machine/Start.lean ====
section
/-! DEFINITION. Start values of the elements that a launch creates (R33, R342, R264, R376). -/

namespace Sys2Proof.Machine

/-- Registers at node or task start: 0 and full (R33, R342). -/
def Regs.start : Regs where
  g := Vector.replicate 64 0
  v := Vector.replicate 32 0
  p := Vector.replicate 8 0
  gFull := BitVec.allOnes 64
  vFull := BitVec.allOnes 32
  pFull := BitVec.allOnes 8

/-- An empty operand buffer (R263). -/
def OpBuf.start : OpBuf := ⟨[], 0, 0, [], []⟩

/-- The matrix array at node start: configuration 0x264 and +0.0 everywhere (R264, R299, R342). -/
def Matrix.start : Matrix where
  cfg := 0x264
  astride := 0
  bstride := 0
  bufA := OpBuf.start
  bufB := OpBuf.start
  acc := []
  queue := []
  mma := none
  tail := []
  zeros := []
  loads := []
  drains := []
  faulted := none
  fetchWait := false

/-- Trap registers at node start: the vector of `trap.dflt` of the context (R416). -/
def TrapRegs.start (vec : Word) : TrapRegs := ⟨vec, 0, 0, 0, false, Vector.replicate 4 0⟩

/-- A manifest of zeros (R354). -/
def Manifest.zero : Manifest := ⟨List.replicate 22 0⟩

/-- An empty store window. -/
def Window.empty : Window := ⟨[], []⟩

/-- Redundancy registers at node start (R376). -/
def RedRegs.start (lead : Bool) : RedRegs := ⟨0, 0, 0, 0, 0, lead⟩

/-- A node at start on a tile, before what its launch sets (R342). -/
def Node.start (t : Nat) (ctx : BitVec 12) (pc vec : Word) : Node where
  regs := Regs.start
  tr := TrapRegs.start vec
  sysEntry := false
  ctx := ctx
  mode := 0
  assist := 0
  seed := 0
  cyc := 0
  tile := t
  stream := 0
  srCount := 0
  cfgSeq := 0
  seen := []
  asked := 0
  steer := 0
  steerOld := none
  tags := Vector.replicate 4 0
  man := Manifest.zero
  repMode := 1
  rep := 0
  red := RedRegs.start true
  cur := Vector.replicate 64 0
  floor := Vector.replicate 64 0
  rrTable := 0
  rounds := []
  mat := Matrix.start
  route := []
  pc := pc
  blk := Blk.empty
  phase := .fetch
  issued := false
  slot := 0
  blocks := 0
  win := Window.empty
  outst := 0
  mark := 0
  reply := none
  watch := none
  cmdsOut := []
  verdict := false
  atMarker := false
  ready := none
  implicitReq := false
  late := none
  again := []
  fwd := []
  region := 0
  task := none
  launch := 0
  stop := none
  gated := false
  bornAt := 0

/-- A memory tile's node at start, before its configuration is loaded (R132). -/
def Mt.start (t : Nat) (ctx : BitVec 12) : Mt where
  tile := t
  ctx := ctx
  assist := 0
  region := 0
  launch := 0
  mode := .streaming
  arrival := false
  updOp := 0
  fp32 := false
  seqr := []
  started := false
  done := false
  idx := []
  pack := []
  inBytes := []
  inTag := 0
  desc := []
  fifo := []
  rows := []
  portQ := []
  fly := []
  buf := []
  issued := false
  expected := []
  waiting := []
  journal := []
  interval := 0
  lost := none
  win := Window.empty
  sig := 0
  cnt := 0
  redSeq := 0
  passed := false
  verdict := false
  outst := 0
  mark := 0
  implicitReq := false
  late := none
  fwd := []
  cfgSeq := 0
  stop := none
  gated := false
  ended := false

end Sys2Proof.Machine
end

