-- ==== Sys2Proof/Machine/Matrix.lean ====
section
/-! DEFINITION. The matrix instructions as slots (R299 to R307), and the array's steps: the queue (R262),
operand buffers (R263 to R265), the fetch unit (R266), sums (R248, R249), drains (R267, R234). -/

namespace Sys2Proof.Machine

/-! ### The instructions -/

/-- A matrix slot: its word enters the queue with its operands at step 3 (R299). -/
def State.matSlot (s : State) (n : Node) (i : Instr) (l r : Option Word) (drainTo : Option (BitVec 5)) (more : List Act) :
    State :=
  let w := match encode i with
    | some (w, _) => w
    | none => 0
  s.hold 3 n.slot (.matrix ⟨w, l, r, true, []⟩ drainTo :: more)

/-- MCFG. -/
def execMcfg (p : Pred) (s : State) : Host.Outcome State Fault Refusal :=
  .next (s.fire (.mcfg p) fun n r => s.matSlot n (.mcfg p) (some r.l) (some r.r) none [])

/-- MZERO. -/
def execMzero (p : Pred) (acc : BitVec 2) (s : State) : Host.Outcome State Fault Refusal :=
  .next (s.fire (.mzero p acc) fun n _ => s.matSlot n (.mzero p acc) none none none [])

/-- MMA. -/
def execMma (p : Pred) (acc : BitVec 2) (s : State) : Host.Outcome State Fault Refusal :=
  .next (s.fire (.mma p acc) fun n r => s.matSlot n (.mma p acc) (some r.l) (some r.r) none [])

/-- MLDA. -/
def execMlda (p : Pred) (acc : BitVec 2) (s : State) : Host.Outcome State Fault Refusal :=
  .next (s.fire (.mlda p acc) fun n r => s.matSlot n (.mlda p acc) (some r.l) (some r.r) none [])

/-- MDRAIN: to the route table, or a segment to a vector register that the commit marks empty (R267). -/
def execMdrain (p : Pred) (acc : BitVec 2) (oty : Ty) (toReg : Bool) (s : State) : Host.Outcome State Fault Refusal :=
  .next (s.fire (.mdrain p acc oty toReg) fun n r =>
    if toReg then s.matSlot n (.mdrain p acc oty toReg) (some r.l) none (some (r.l.extractLsb' 8 5)) []
    else s.matSlot n (.mdrain p acc oty toReg) none none none [])

/-- MSTEER. -/
def execMsteer (p : Pred) (s : State) : Host.Outcome State Fault Refusal :=
  .next (s.fire (.msteer p) fun n r => s.matSlot n (.msteer p) (some r.l) none none [])

/-- MFENCE: enters the queue, and the commit holds until it has started (R307). -/
def execMfence (p : Pred) (s : State) : Host.Outcome State Fault Refusal :=
  .next (s.fire (.mfence p) fun n _ => s.matSlot n (.mfence p) none none none [.mfence])

/-! ### Configuration -/

/-- K of a configuration word (R264). -/
def matK (c : Word) : Nat := 4 * (field c.toNat 23 18 + 1)
/-- Source of A or B: 0 copy, 1 edge, 2 fetch. -/
def matSrc (c : Word) (b : Bool) : Nat := if b then field c.toNat 13 12 else field c.toNat 17 16
/-- Port of A or B. -/
def matPort (c : Word) (b : Bool) : Nat := if b then field c.toNat 11 10 else field c.toNat 15 14
/-- Type code of A or B. -/
def matTyCode (c : Word) (b : Bool) : Nat := if b then field c.toNat 5 2 else field c.toNat 9 6
/-- Does A or B carry scale bytes in copy mode? -/
def matScaled (c : Word) (b : Bool) : Bool := c.getLsbD (if b then 25 else 24)
/-- Type of A or B. -/
def matTy (c : Word) (b : Bool) : Ty := (Ty.ofCode (BitVec.ofNat 4 (matTyCode c b))).getD .bf16

/-- Is a type code one of an operand (R264)? -/
def operandTy (k : Nat) : Bool := 9 ≤ k && k ≤ 13

/-- Is a configuration word valid (R264, R265)? A scale bit of copy mode asks K to be a multiple of 8. -/
def matCfgOk (c : Word) : Bool :=
  field c.toNat 63 26 = 0 && field c.toNat 1 0 = 0 && matSrc c false ≠ 3 && matSrc c true ≠ 3
    && operandTy (matTyCode c false) && operandTy (matTyCode c true)
    && [false, true].all fun b => matSrc c b ≠ 0 || !matScaled c b || matK c % 8 = 0

/-- Empties an operand buffer (R264). -/
def OpBuf.clear (b : OpBuf) : OpBuf := ⟨[], b.prod, b.prod, [], []⟩

/-- A buffer of the array. -/
def Matrix.buf (m : Matrix) (b : Bool) : OpBuf := if b then m.bufB else m.bufA

/-- Writes a buffer of the array. -/
def Matrix.setBuf (m : Matrix) (b : Bool) (x : OpBuf) : Matrix := if b then { m with bufB := x } else { m with bufA := x }

/-- Does a new configuration change the source, port or type of a buffer? -/
def cfgChanges (old new : Word) (b : Bool) : Bool :=
  matSrc old b ≠ matSrc new b || matPort old b ≠ matPort new b || matTyCode old b ≠ matTyCode new b

/-- Bytes that n elements of a type take. -/
def tyBytes (t : Ty) (n : Nat) : Nat := n * t.width / 8

/-- Free bytes of a buffer (R263). -/
def OpBuf.free (b : OpBuf) : Nat := 32768 - (b.prod - b.cons).toNat

/-- Element i of a packed payload. -/
def packedAt (x i w : Nat) : Nat := x / 2 ^ (w * i) % 2 ^ w

/-- Blocks of four from packed elements, with a scale code for each, and whether scale bytes of copy mode cover them. BF16 and
FP16 elements count as code 127 (R248, R249). -/
def blocksOf (t : Ty) (x : Nat) (scales : List Nat) (covered : Bool) (n : Nat) : List OpBlock :=
  (List.range n).map fun k =>
    ⟨t, (List.range 4).map fun j => packedAt x (4 * k + j) t.width, if t.width ≤ 8 then (scales[k]?).getD 127 else 127, covered⟩

/-- Turns raw bytes of copy mode into blocks (R265): every four elements, or units of 128 scale bytes and the
512 elements that they cover. Fuel bounds the count. -/
def OpBuf.settle (b : OpBuf) (t : Ty) (scaled : Bool) : Nat → OpBuf
  | 0 => b
  | f + 1 =>
    let unit := if scaled then 128 + tyBytes t 512 else tyBytes t 4
    if b.raw.length < unit then b
    else
      let u := b.raw.take unit
      let new := if scaled then
          blocksOf t (ofBytes (u.drop 128)) ((u.take 128).map (·.toNat)) true 128
        else blocksOf t (ofBytes u) [] false 1
      OpBuf.settle { b with blocks := b.blocks ++ new, raw := b.raw.drop unit } t scaled f

/-- Bytes of a CPYM enter a buffer in copy mode (R143, R265). -/
def Matrix.copyIn (m : Matrix) (b : Bool) (bytes : List Byte) : Matrix :=
  let x := m.buf b
  let x := { x with prod := x.prod + BitVec.ofNat 32 bytes.length, raw := x.raw ++ bytes }
  m.setBuf b (x.settle (matTy m.cfg b) (matScaled m.cfg b) (x.raw.length + 1))

/-! ### Edge mode -/

/-- Elements' type of a token's format, where an operand buffer takes it (R265). -/
def fmtTy (f : Nat) : Option Ty :=
  match f with
  | 1 => some .bf16
  | 2 => some .f16
  | 3 => some .e4m3
  | 4 => some .e5m2
  | 5 => some .e2m1
  | _ => none

/-- Is a port the edge-mode source of a buffer? -/
def Matrix.takes (m : Matrix) (b : Bool) (port : Nat) : Bool := matSrc m.cfg b = 1 && matPort m.cfg b = port

/-- OPERAND_TOKEN_ENTER (R232, R263, R265): the token at the head of an edge-mode port enters its buffer, as
space allows; a scale token feeds the port's list; any other kind of token is a token fault. -/
def execOperandTokenEnter (t port : Nat) (s : State) : Host.Outcome State Fault Refusal :=
  .next <| match s.node? t, s.headTok (4 * t + port) with
  | some n, some x =>
    if !s.acts t || x.tok.isMarker || x.tok.isDrain || x.tok.kind = 3 then s
    else
      let both := n.mat.takes false port && n.mat.takes true port
      let (c, s) := if both then s.pick 2 else (b2n (n.mat.takes true port), s)
      let b : Bool := c = 1
      if !(n.mat.takes false port || n.mat.takes true port) then s
      else if x.tok.kind ≠ 0 then s.elemFault t .token port
      else if x.tok.fmt = 6 then (s.popAt (4 * t + port) 0).2
      else
        match fmtTy x.tok.fmt with
        | none => s.elemFault t .token port
        | some ty =>
          let k := x.tok.count + 1
          if k % 4 ≠ 0 then s.elemFault t .token port
          else if (n.mat.buf b).free < tyBytes ty k then s
          else
            let (sc, s) := s.popAt (4 * t + port) 0
            s.modNode t fun n =>
              let y := n.mat.buf b
              { n with mat := n.mat.setBuf b { y with
                  prod := y.prod + BitVec.ofNat 32 (tyBytes ty k)
                  blocks := y.blocks ++ blocksOf ty x.tok.payload.toNat sc false (k / 4) } }
  | _, _ => s

/-! ### Sums (R248, R249) -/

/-- The unscaled sum of four products. -/
def dot4 (a b : OpBlock) : FVal :=
  (List.range 4).foldl (fun acc j =>
    acc.add false ((a.ty.dec ((a.elems[j]?).getD 0)).mul (b.ty.dec ((b.elems[j]?).getD 0)))) (.fin false 0 0)

/-- A block's scale as a power of two, none where the code makes its elements NaN. -/
def scaleOf (c : Nat) : Option Int := if c = 255 then none else some ((c : Int) - 127)

/-- One k-block added into an accumulator element (R249). -/
def mmaStep (acc : Nat) (a b : OpBlock) : Nat :=
  let v := match scaleOf a.scale, scaleOf b.scale with
    | some x, some y => (dot4 a b).scale (x + y)
    | _, _ => .nan
  Ty.f32.fpAdd rne 0 acc (Ty.f32.rnd rne 0 false v)

/-- Adds the product of operands into an accumulator: row i of A holds the blocks i·q..i·q+q−1, column j of B
likewise (R249, R263). -/
def mmaAcc (acc : Tbl Word32) (n q : Nat) (a b : List OpBlock) : Tbl Word32 :=
  let z : OpBlock := ⟨.bf16, [0, 0, 0, 0], 127, false⟩
  (List.range 4096).foldl (fun t e =>
    let key := n * 4096 + e
    let v := (List.range q).foldl (fun x k =>
      mmaStep x ((a[e / 64 * q + k]?).getD z) ((b[e % 64 * q + k]?).getD z)) (t.getD key 0).toNat
    if v = 0 then t.erase key else t.set key (BitVec.ofNat 32 v)) acc

/-! ### The queue -/

/-- A word that has begun, before anything of it is done. -/
def MatRun.begin (w : MatWord) : MatRun := ⟨w, false, 0, [], [], [], [], [], [], 0, none⟩

/-- The instruction of a matrix word, where it is one (R300). -/
def MatWord.instr (w : MatWord) : Option Instr :=
  match decode w.word 0 with
  | .ok i =>
    match i with
    | .mcfg .. | .mzero .. | .mma .. | .mlda .. | .mdrain .. | .msteer .. | .mfence .. => some i
    | _ => none
  | .error _ => none

/-- The accumulator that a word names. -/
def MatWord.acc (w : MatWord) : Nat := field w.word.toNat 7 6

/-- The words at work in a cycle: an MZERO is one until its cycle is over (R262, R302). -/
def Matrix.working (m : Matrix) (cyc : Nat) : List MatRun :=
  m.mma.toList ++ m.tail ++ m.loads ++ m.drains ++ m.zeros.filter fun r => cyc < r.until_

/-- Is no word at work? -/
def Matrix.idle (m : Matrix) (cyc : Nat) : Bool := (m.working cyc).isEmpty

/-- Has an accumulator no word at work? -/
def Matrix.accIdle (m : Matrix) (cyc n : Nat) : Bool := (m.working cyc).all fun r => r.w.acc ≠ n

/-- Replaces a word at work, which its accumulator names, or takes it out. -/
def putRun (x : MatRun) (new : Option MatRun) : List MatRun → List MatRun
  | [] => []
  | r :: l => if r.w.acc = x.w.acc then new.toList ++ l else r :: putRun x new l

/-- Blocks that one operand of an MMA takes. -/
def Matrix.need (m : Matrix) : Nat := 64 * (matK m.cfg / 4)

/-- Does a buffer hold the elements of an MMA, or fetch them? -/
def Matrix.holds (m : Matrix) (b : Bool) : Bool := matSrc m.cfg b = 2 || m.need ≤ (m.buf b).blocks.length

/-- May the word at the head of the queue start (R262)? An MMA does not wait for a load of its accumulator (log 60). One that fetches
has not started until its operands are at hand, and no later word starts before it. -/
def Matrix.ready (m : Matrix) (cyc : Nat) (w : MatWord) (i : Instr) : Bool :=
  m.mma.all (·.occupied) &&
  match i with
  | .mcfg .. | .mfence .. => m.idle cyc
  | .mma .. => m.mma.isNone && m.holds false && m.holds true
  | .msteer .. => m.drains.all fun r => r.route.isSome || r.w.left.isSome
  | _ => m.accIdle cyc w.acc

/-- The virtual lines of 64 rows of a base and signed stride, each some bytes long; none where the base or the
stride is misaligned. -/
def rowLines (base : Word) (stride : BitVec 32) (bytes : Nat) : Option (List Nat) :=
  if base.toNat % 128 ≠ 0 || stride.toNat % 128 ≠ 0 then none
  else some ((List.range 64).flatMap fun i =>
    let a := (base + stride.signExtend 64 * BitVec.ofNat 64 i).toNat
    (List.range ((bytes + 127) / 128)).map fun k => a / 128 + k)

/-- Blocks of four of a row from fetched lines. -/
def rowBlocks (got : Tbl Vec) (base : Word) (stride : BitVec 32) (t : Ty) (q : Nat) : List OpBlock :=
  (List.range 64).flatMap fun i =>
    let a := (base + stride.signExtend 64 * BitVec.ofNat 64 i).toNat
    let bytes := tyBytes t (4 * q)
    let x := (List.range ((bytes + 127) / 128)).foldr (fun k v => (got.getD (a / 128 + k) 0).toNat + 2 ^ 1024 * v) 0
    blocksOf t x [] false q

/-- Occupancy cycles of an MMA (R261): a mixed pair at the rate of its slower operand. -/
def mmaCycles (k : Nat) (a b : List OpBlock) : Nat :=
  let wide (l : List OpBlock) : Bool := l.any fun x => x.ty = .bf16 || x.ty = .f16
  let narrow (l : List OpBlock) : Bool := l.all fun x => x.ty = .e2m1
  if wide a || wide b then 2 * k else if narrow a && narrow b then k / 2 else k

/-- Changes a node's array. -/
def State.modMat (s : State) (t : Nat) (f : Matrix → Matrix) : State := s.modNode t fun n => { n with mat := f n.mat }

/-- A matrix or steer fault at a tile (R300, R237): the queue freezes with the word at its head. Words that have started go on (R262);
the first fault stands. -/
def State.matFault (s : State) (t : Nat) (c : Cause) (addr : Word) : State :=
  let r := s.elemRecord t c 1 addr 0 0
  s.modMat t fun m => if m.faulted.isSome then m else { m with faulted := some r }

/-- The route table's entry that an index names (R233): its port, where it is valid. -/
def Node.routeOf (n : Node) (ix : Nat) : Option Nat :=
  let e := (n.route[ix]?).getD 0
  if bitAt e 15 then some (field e 14 13) else none

/-- Has a steer token been popped in the node's present cycle (R234)? -/
def Node.steered (n : Node) : Bool := n.steerOld.any fun x => x.1 = n.cyc

/-- `edge.steer` as it stands in the present cycle, before the pops of the cycle (R234). -/
def Node.steerNow (n : Node) : BitVec 3 := match n.steerOld with
  | some (c, x) => if c = n.cyc then x else n.steer
  | none => n.steer

/-- An MMA whose operands are at hand begins its occupancy. -/
def Node.occupy (n : Node) (r : MatRun) : Node :=
  let m := n.mat
  let k := matK m.cfg
  let l := r.w.left.getD 0
  let rt := r.w.right.getD 0
  let a := if matSrc m.cfg false = 2 then rowBlocks r.got l m.astride (matTy m.cfg false) (k / 4)
    else m.bufA.blocks.take m.need
  let b := if matSrc m.cfg true = 2 then rowBlocks r.got rt m.bstride (matTy m.cfg true) (k / 4)
    else m.bufB.blocks.take m.need
  { n with mat := { m with mma := some { r with
      occupied := true, a := a, b := b, until_ := n.cyc.toNat + mmaCycles k a b } } }

/-- Checks that the lines which a word will fetch are homed on the CT's die (R266, R300); then what follows. A translation that
faults holds the queue, and the word starts again after it (R91). -/
def State.homesThen (s : State) (t : Nat) (n : Node) : List Nat → (State → State) → State
  | [], f => f s
  | vk :: l, f =>
    let va : Word := BitVec.ofNat 64 (vk * 128)
    match s.xlate (dieOf t) (some t) n.ctx va .read 0 n.assist (.matrix t) with
    | (.error .addr, s) => s.matFault t .matrix va
    | (.error .poison, s) => s.poisonNode t va
    | (.error .fault, s) => s.freezeWalk (.matrix t)
    | (.ok e, s) => if s.ownLine (dieOf t) (e.phys (vk * 128)) then s.homesThen t n l f else s.matFault t .matrix va

/-- A word starts (R262, R301 to R307). -/
def State.matStart (s : State) (t : Nat) (n : Node) (w : MatWord) (i : Instr) (rest : List MatWord) : State :=
  let m := { n.mat with queue := rest }
  let put (m : Matrix) : State := s.setNode t { n with mat := m }
  match i with
  | .mcfg .. =>
    match w.left, w.right with
    | some l, some r =>
      if matCfgOk l then
        let ca := cfgChanges m.cfg l false
        let cb := cfgChanges m.cfg l true
        let clr (s : State) (b : Bool) : State :=
          let k := 4 * t + matPort m.cfg b
          if cfgChanges m.cfg l b && matSrc m.cfg b = 1 then s.setPort k { s.port k with scales := [] } else s
        let s := put { m with
          cfg := l, astride := r.setWidth 32, bstride := r.extractLsb' 32 32
          bufA := if ca then m.bufA.clear else m.bufA
          bufB := if cb then m.bufB.clear else m.bufB }
        clr (clr s false) true
      else s.matFault t .matrix 0
    | _, _ => s.matFault t .matrix 0
  | .mzero .. => put { m with
      acc := m.acc.keep fun k _ => k / 4096 ≠ w.acc
      zeros := (m.zeros.filter fun r => n.cyc.toNat < r.until_) ++ [{ MatRun.begin w with until_ := n.cyc.toNat + 1 }] }
  | .mma .. =>
    let fa := matSrc m.cfg false = 2
    let fb := matSrc m.cfg true = 2
    let bytes (b : Bool) := tyBytes (matTy m.cfg b) (matK m.cfg)
    let la := if fa then w.left.bind fun x => rowLines x m.astride (bytes false) else some []
    let lb := if fb then w.right.bind fun x => rowLines x m.bstride (bytes true) else some []
    match la, lb with
    | some la, some lb =>
      let r := { MatRun.begin w with lines := (la ++ lb).eraseDups }
      s.homesThen t n r.lines fun s =>
        if r.lines.isEmpty then s.setNode t (Node.occupy { n with mat := m } r) else s.setNode t { n with mat := { m with mma := some r } }
    | _, _ => s.matFault t .matrix 0
  | .mlda .. =>
    match w.left, w.right with
    | some l, some r =>
      if l.toNat % 128 ≠ 0 || r.toNat % 128 ≠ 0 then s.matFault t .matrix 0
      else
        let ls := (List.range 64).flatMap fun i =>
          let a := (l + r * BitVec.ofNat 64 i).toNat
          [a / 128, a / 128 + 1]
        s.homesThen t n ls.eraseDups fun s =>
          s.setNode t { n with mat := { m with loads := m.loads ++ [{ MatRun.begin w with lines := ls.eraseDups }] } }
    | _, _ => s.matFault t .matrix 0
  | .mdrain _ _ _ toReg =>
    if toReg && w.left.isNone then s.matFault t .matrix 0
    else if !toReg && (n.routeOf n.steer.toNat).isNone then s.matFault t .steer 0
    else put { m with drains := m.drains ++ [{ MatRun.begin w with
        until_ := n.cyc.toNat + 6, snap := m.acc.keep fun k _ => k / 4096 = w.acc }] }
  | .msteer .. =>
    match w.left with
    | some l => s.setNode t { n with mat := m, steer := if n.steered then n.steer else l.setWidth 3 }
    | none => s.matFault t .matrix 0
  | _ => put m

/-- Can the word at the head of a node's queue start now? -/
def Node.matReady (n : Node) : Bool :=
  n.mat.faulted.isNone && !n.mat.fetchWait &&
    (match n.mat.queue with
     | [] => false
     | w :: _ =>
       match w.instr with
       | none => n.mat.idle n.cyc.toNat
       | some i => n.mat.ready n.cyc.toNat w i)

/-- MATRIX_WORD_START (R262): the word at the head of the queue starts, or raises its fault. -/
def execMatrixWordStart (t : Nat) (s : State) : Host.Outcome State Fault Refusal :=
  .next <| match s.node? t with
  | none => s
  | some n =>
    if !n.matReady || n.gated then s
    else
      match n.mat.queue with
      | [] => s
      | w :: rest =>
        match w.instr with
        | none => s.matFault t .matrix 0
        | some i => s.matStart t n w i rest

/-- Bytes that an MMA's operand took from its buffer, with the scale bytes of copy mode that covered its blocks (R263). -/
def consumedBytes (l : List OpBlock) : Nat := l.foldl (fun a x => a + tyBytes x.ty 4 + b2n x.covered) 0

/-- MMA_OCCUPANCY_END (R261, R263): the consumer pointers advance, and the next MMA may start. -/
def execMmaOccupancyEnd (t : Nat) (s : State) : Host.Outcome State Fault Refusal :=
  .next <| match s.node? t with
  | none => s
  | some n =>
    match n.mat.mma with
    | none => s
    | some r =>
      if !r.occupied || n.gated || n.cyc.toNat < r.until_ then s
      else
        let m := n.mat
        let take (b : Bool) (m : Matrix) : Matrix :=
          if matSrc m.cfg b = 2 then m
          else
            let x := m.buf b
            let l := if b then r.b else r.a
            m.setBuf b { x with
              blocks := x.blocks.drop l.length
              cons := x.cons + BitVec.ofNat 32 (consumedBytes l) }
        let m := take true (take false m)
        s.setNode t { n with mat := { m with mma := none, tail := m.tail ++ [{ r with until_ := r.until_ + 10 }] } }

/-- Takes fetch pins off lines of a die (R266). -/
def State.unpinFetch (s : State) (d : Nat) (l : List Nat) : State :=
  l.foldl (fun s k => s.modDie d fun x =>
    { x with l2 := x.l2.modify k fun y => { y with fetchPins := y.fetchPins - 1 } }) s

/-- MMA_COMPLETE (R249, R261, R266): the oldest MMA past its occupancy adds its sums; its pins end. -/
def execMmaComplete (t : Nat) (s : State) : Host.Outcome State Fault Refusal :=
  .next <| match s.node? t with
  | none => s
  | some n =>
    match n.mat.tail with
    | [] => s
    | r :: l =>
      if n.gated || n.cyc.toNat < r.until_ then s
      else
        let q := r.a.length / 64
        let s := s.setNode t { n with mat := { n.mat with tail := l, acc := mmaAcc n.mat.acc r.w.acc q r.a r.b } }
        s.unpinFetch (dieOf t) r.pins

/-! ### The fetch unit -/

/-- Word i of a line as a fetch sees it (R266): where the line was written since the word entered the queue, one of the values
that its home held, the node's own later stores apart; a free choice. -/
def State.seenWord (s : State) (l : List SeenLine) (now : Vec) (i : Nat) : Word32 × State :=
  match l with
  | [] => (now.extractLsb' (32 * i) 32, s)
  | x :: _ =>
    let held := x.before.extractLsb' (32 * i) 32
      :: ((l.filter fun y => !y.own && y.words.getLsbD i).map fun y => y.after.extractLsb' (32 * i) 32)
    let (k, s) := s.pick held.length
    ((held[k]?).getD 0, s)

/-- A line as a fetch sees it: its first n words. -/
def State.seenWords (s : State) (l : List SeenLine) (now : Vec) : Nat → Nat × State
  | 0 => (0, s)
  | n + 1 =>
    let (a, s) := s.seenWords l now n
    let (x, s) := s.seenWord l now n
    (a + 2 ^ (32 * n) * x.toNat, s)

/-- Reads one line for the fetch unit at its home on the CT's die (R266): the line and, where it was pinned,
its local line; or nothing, with the queue faulted or waiting. `seen` are the writes since the word entered. -/
def State.matFetch (s : State) (t : Nat) (n : Node) (seen : List SeenLine) (vk : Nat) : Option (Vec × Option Nat) × State :=
  let d := dieOf t
  match s.xlate d (some t) n.ctx (BitVec.ofNat 64 (vk * 128)) .read 0 n.assist (.matrix t) with
  | (.error .addr, s) => (none, s.matFault t .matrix (BitVec.ofNat 64 (vk * 128)))
  | (.error .poison, s) => (none, s.poisonNode t (BitVec.ofNat 64 (vk * 128)))
  | (.error .fault, s) => (none, s.freezeWalk (.matrix t))
  | (.ok e, s) =>
    let k := e.phys (vk * 128) / 128
    if !s.ownLine d (k * 128) then (none, s.matFault t .matrix (BitVec.ofNat 64 (vk * 128)))
    else
      match s.homeLine d n.master k (BitVec.allOnes 32) false false with
      | (.error .access, s) => (none, s.matFault t .accessLate (BitVec.ofNat 64 (k * 128)))
      | (.error .poison, s) => (none, s.poisonNode t (BitVec.ofNat 64 (k * 128)))
      | (.ok v, s) =>
        let ln := k % 2 ^ 38
        let mine := seen.filter fun x => x.line = ln
        let (v, s) := if mine.isEmpty then (v, s) else
          let (x, s) := s.seenWords mine v 32
          (BitVec.ofNat 1024 x, s)
        let set := (s.die d).l2.filter fun p => l2Set p.1 = l2Set ln
        let pins := set.foldl (fun a p => a + p.2.fetchPins) 0
        if pins < 2 && ((s.die d).l2.has ln) then
          (some (v, some ln), s.modDie d fun x =>
            { x with l2 := x.l2.modify ln fun y => { y with fetchPins := y.fetchPins + 1 } })
        else (some (v, none), s)

/-- Notes a fetched line at a word at work. -/
def MatRun.take (r : MatRun) (vk : Nat) (v : Vec) (pin : Option Nat) (rest : List Nat) : MatRun :=
  { r with lines := rest, got := r.got.set vk v, pins := pin.toList ++ r.pins }

/-- The accumulator that the rows of an MLDA give (R304). -/
def loadAcc (acc : Tbl Word32) (w : MatWord) (got : Tbl Vec) : Tbl Word32 :=
  (List.range 4096).foldl (fun t e =>
    let a := (w.left.getD 0 + (w.right.getD 0) * BitVec.ofNat 64 (e / 64)).toNat + 4 * (e % 64)
    let v := BitVec.ofNat 32 ((got.getD (a / 128) 0).toNat / 2 ^ (8 * (a % 128)))
    if v = 0 then t.erase (w.acc * 4096 + e) else t.set (w.acc * 4096 + e) v) acc

/-- A fetch of a word at work has failed: one that faults goes back to the head of the queue, and is restarted from there (R384). -/
def State.fetchFails (s : State) (t : Nat) (n : Node) (r : MatRun) (gone : Matrix → Matrix) : State :=
  match s.node? t with
  | none => s
  | some x =>
    if x.mat.faulted.isNone || x.mat.fetchWait || x.stop ≠ n.stop then s
    else (s.modMat t fun m => { gone m with queue := r.w :: m.queue }).unpinFetch (dieOf t) r.pins

/-- The next line of an MLDA arrives. -/
def State.loadLineArrive (s : State) (t : Nat) (n : Node) (r : MatRun) : State :=
  match r.lines with
  | [] => s
  | vk :: rest =>
    match s.matFetch t n r.w.seen vk with
    | (none, s) => s.fetchFails t n r fun m => { m with loads := putRun r none m.loads }
    | (some (v, pin), s) =>
      let r := r.take vk v pin rest
      if rest.isEmpty then
        (s.modMat t fun m => { m with loads := putRun r none m.loads, acc := loadAcc m.acc r.w r.got }).unpinFetch (dieOf t) r.pins
      else s.modMat t fun m => { m with loads := putRun r (some r) m.loads }

/-- FETCH_LINE_ARRIVE (R266, R304): the next line of an MMA or MLDA at work arrives. The last one begins the
MMA's occupancy, or fills the accumulator. -/
def execFetchLineArrive (t : Nat) (s : State) : Host.Outcome State Fault Refusal :=
  .next <| match s.node? t with
  | none => s
  | some n =>
    if n.gated || n.mat.fetchWait then s
    else
      match n.mat.mma, n.mat.loads.head? with
      | some r, ld =>
        match r.lines, ld with
        | vk :: rest, _ =>
          match s.matFetch t n r.w.seen vk with
          | (none, s) => s.fetchFails t n r fun m => { m with mma := none }
          | (some (v, pin), s) =>
            s.modNode t fun n =>
              let r := r.take vk v pin rest
              if rest.isEmpty then n.occupy r else { n with mat := { n.mat with mma := some r } }
        | [], none => s
        | [], some r => s.loadLineArrive t n r
      | none, some r => s.loadLineArrive t n r
      | none, none => s

/-! ### Drains -/

/-- An element of the accumulator that a drain found. -/
def MatRun.at (r : MatRun) (e : Nat) : Nat := (r.snap.getD (r.w.acc * 4096 + e) 0).toNat

/-- An accumulator element converted to an output type (R267). -/
def drainElem (t : Ty) (x : Nat) : Nat := t.cvtFp .f32 ⟨.rne, t = .e4m3 || t = .e5m2⟩ 0 (BitVec.ofNat 64 x)

/-- Elements of one drain token. -/
def drainPer (t : Ty) : Nat := if t.width = 32 then 32 else if t.width = 16 then 64 else 128

/-- Format of a drain token (R224). -/
def drainFmt (t : Ty) : Nat := match t with
  | .bf16 => 1
  | .f16 => 2
  | .e4m3 => 3
  | .e5m2 => 4
  | _ => 0

/-- The k-th token of a drain, with a port's tag. -/
def MatRun.drainTok (r : MatRun) (t : Ty) (k : Nat) (tag : BitVec 16) : Token :=
  let per := drainPer t
  let x := (List.range per).foldr (fun i v => drainElem t (r.at (k * per + i)) + 2 ^ t.width * v) 0
  ⟨BitVec.ofNat 1024 x, BitVec.ofNat 32 (drainFmt t * 2 ^ 27 + (per - 1) * 2 ^ 19 + tag.toNat)⟩

/-- Output type of a drain word. -/
def MatWord.oty (w : MatWord) : Ty := (Ty.ofCode (w.word.extractLsb' 2 4)).getD .f32

/-- The register and value of a drain to a register. -/
def MatRun.segment (r : MatRun) : BitVec 5 × Vec :=
  let l := r.w.left.getD 0
  let seg := l.toNat % 128
  (l.extractLsb' 8 5, ofLanes fun i => BitVec.ofNat 32 (drainElem r.w.oty (r.at (seg / 2 * 64 + 32 * (seg % 2) + i))))

/-- The oldest register drain that is due. -/
def Matrix.regDrain (m : Matrix) (cyc : Nat) : Option MatRun := m.drains.find? fun r => r.w.left.isSome && r.until_ ≤ cyc

/-- The register and value of a register drain that is due (R267). -/
def Node.drainDue (n : Node) : Option (BitVec 5 × Vec) :=
  if n.gated then none else (n.mat.regDrain n.cyc.toNat).map MatRun.segment

/-- The array once the register drain that is due has written its register. -/
def Node.drained (n : Node) : Matrix := match n.mat.regDrain n.cyc.toNat with
  | some r => { n.mat with drains := putRun r none n.mat.drains }
  | none => n.mat

/-- The route drains whose next token is due, oldest first. -/
def Node.routeDrains (n : Node) : List MatRun :=
  if n.gated then [] else n.mat.drains.filter fun r => r.w.left.isNone && r.until_ ≤ n.cyc.toNat

end Sys2Proof.Machine
end

