-- ==== Sys2Proof/Machine/Engines.lean ====
section
/-! DEFINITION. The copy and collective engines (R137 to R149, R161, R162, R199 to R210, R435, R437): chunks,
completion adds, matrix commands, armed templates, gathers and scatters, collectives, and their faults. -/

namespace Sys2Proof.Machine

/-- Is an operation one of GATH and SCAT? -/
def EngOp.isRows (o : EngOp) : Bool := o = .gath || o = .scat

/-! ### Queues -/

/-- A queue that holds nothing. -/
def EngQueue.empty : EngQueue := ⟨[], none, false, none, [], 0, false, [], 0, [], []⟩

/-- Queue q of engine e of a die. -/
def State.engQ (s : State) (d e q : Nat) : EngQueue := (s.die d).engines.getD (8 * e + q) EngQueue.empty

/-- Writes a queue. -/
def State.setEngQ (s : State) (d e q : Nat) (x : EngQueue) : State :=
  s.modDie d fun y => { y with engines := y.engines.set (8 * e + q) x }

/-- The command that a queue works on: the firing in progress of its template, or its head. -/
def EngQueue.work (x : EngQueue) : Option Cmd :=
  match x.armed with
  | some a => if a.live then some a.cmd else x.cmds.head?
  | none => x.cmds.head?

/-- Is the work a firing of the template? -/
def EngQueue.firing (x : EngQueue) : Bool := match x.armed with
  | some a => a.live
  | none => false

/-- May the queue work? -/
def EngQueue.runs (x : EngQueue) : Bool := !x.frozen && x.halted.isNone

/-- Notes how far the work has come. -/
def EngQueue.progress (x : EngQueue) (moved : Nat) : EngQueue :=
  match x.armed, x.cmds with
  | some a, cs =>
    if a.live then { x with armed := some { a with cmd := { a.cmd with moved := moved } } }
    else match cs with
      | c :: l => { x with cmds := { c with moved := moved } :: l }
      | [] => x
  | none, c :: l => { x with cmds := { c with moved := moved } :: l }
  | none, [] => x

/-- The work that sent bytes has ended. -/
def EngFly.ended (f : EngFly) : EngFly := { f with live := false }

/-- A queue goes on without what it holds of its last work; what that has sent still comes to stand at its home. -/
def EngQueue.fresh (x : EngQueue) : EngQueue := { x with left := [], got := [], fly := x.fly.map EngFly.ended }

/-- A command leaves the head of its queue, and its node no longer waits for it (R156). -/
def State.engDrop (s : State) (d e q : Nat) : State :=
  let x := s.engQ d e q
  match x.cmds with
  | [] => s
  | c :: l =>
    (s.setEngQ d e q { x.fresh with cmds := l, idx := [], rows := 0, landed := false }).modNode c.tile fun n =>
      { n with cmdsOut := n.cmdsOut.filter fun i => i ≠ c.id }

/-- The record of a fault of an engine queue, with its detail, and the queue halts (R142, R382); what it had moved of a chunk moves
again. -/
def State.engHaltWith (s : State) (d e q : Nat) (c : Cmd) (cause : Cause) (prec : BitVec 2) (addr : Word) (detail : Word32) : State :=
  let r : FaultRec := ⟨cause, prec, true, c.ctx, c.tile, 8 * e + q, addr, detail, s.seqOf c.tile, q, s.now⟩
  let x := s.engQ d e q
  (s.setEngQ d e q { x with halted := some r, left := if x.landed then x.left else [] }).report d r

/-- The same with detail 0. -/
def State.engHalt (s : State) (d e q : Nat) (c : Cmd) (cause : Cause) (prec : BitVec 2) (addr : Word) : State :=
  s.engHaltWith d e q c cause prec addr 0

/-- The work of a queue ends without its completion add: the firing in progress, or the command at the head (R386). -/
def State.engDiscard (s : State) (d e q : Nat) : State :=
  let x := s.engQ d e q
  match x.armed with
  | some a =>
    if a.live then
      s.setEngQ d e q { x.fresh with armed := some { a with live := false, cmd := { a.cmd with moved := 0 } } }
    else s.engDrop d e q
  | none => s.engDrop d e q

/-- An engine fault that ends the command at the head (R142, R203 to R210). -/
def State.engEnd (s : State) (d e q : Nat) (c : Cmd) (addr : Word) : State :=
  (s.engDrop d e q).engHalt d e q c .engine 1 addr

/-! ### Places -/

/-- Why an engine's access fails: a fault that waits, a refusal, a poisoned word. -/
inductive EngErr where
  | walk | access | poison
  deriving DecidableEq, Repr

/-- Where an engine's address lies: on this module or reached over it, or on a system device. -/
inductive EngPlace where
  | here (pa : Nat)
  | away (dev a : Nat)
  deriving DecidableEq, Repr

/-- The master that an engine is (R69, R199). -/
def engMaster (e : Nat) (c : Cmd) : Master := ⟨c.ctx, if e < 16 then 1 else 2⟩

/-- Finds an address of a command in its space (R199). DESIGN CHOICE (log 59): an address beyond bit 55, for which no
block takes R81's trap here, is a late access fault. -/
def State.engPlace (s : State) (d e q : Nat) (c : Cmd) (space : Nat) (a : Word) (dev : Nat) (kind : AccKind) :
    Except EngErr EngPlace × State :=
  if space = 1 then (.ok (.here (s.global (0x1F8000000000 + a.toNat))), s)
  else if space = 2 then
    if dev = field (s.mmioAt 0 0x80).toNat 30 16 then (.ok (.here (s.global (a.toNat % 2 ^ 45))), s)
    else (.ok (.away dev a.toNat), s)
  else
    match s.xlate d none c.ctx a kind (engMaster e c).cls c.assist (.engine d e q) with
    | (.ok t, s) => (.ok (.here (t.phys a.toNat)), s)
    | (.error .addr, s) => (.error .access, s)
    | (.error .fault, s) => (.error .walk, s)
    | (.error .poison, s) => (.error .poison, s)

/-- Checks a request to a system device at the egress of its route (R69, R460; log 16). -/
def State.permitAway (s : State) (m : Master) (dev a need : Nat) : Option Nat × State :=
  match s.sroute dev with
  | none => (none, s)
  | some p =>
    let (ok, s) := s.check (p / 4) (34 + p % 4) m (dev % 512 * 2 ^ 45 + a) need
    (if ok then some p else none, s)

/-- A system device's address as a request on a peer link names it. -/
def systemAddr (dev a : Nat) : Nat := 2 ^ 60 + dev * 2 ^ 45 + a

/-- An access of a home as an engine's. -/
def engGot {α : Type} (r : Except AccErr α × State) : Except EngErr α × State :=
  match r with
  | (.ok x, s) => (.ok x, s)
  | (.error .access, s) => (.error .access, s)
  | (.error .poison, s) => (.error .poison, s)

/-- Reads n bytes of one line (R139, R162): an RDC copy filled after the issuing node's mark, or the home. -/
def State.engRead (s : State) (d : Nat) (m : Master) (mark : Nat) (p : EngPlace) (n : Nat) :
    Except EngErr (List Byte) × State :=
  match p with
  | .here pa =>
    let w := bytesMask (pa % 128) n
    match (if s.ownLine d pa then none else s.rdcTimed d (pa / 128) w mark) with
    | some v => (.ok (lineBytes v (pa % 128) n), s)
    | none => engGot (s.homeRead d m pa n false)
  | .away dev a =>
    match s.permitAway m dev a 1 with
    | (none, s) => (.error .access, s)
    | (some p, s) => (.ok (Memory.read s.mem (s.awayKey dev a) n), s.hand (.peer p m (systemAddr dev a) (.read n)))

/-- Sends bytes of one line to their home (R139, R437): one write, which the home takes or refuses. -/
def State.engSend (s : State) (d : Nat) (m : Master) (p : EngPlace) (b : List Byte) : Except EngErr Unit × State :=
  match p with
  | .here pa => engGot (s.homeTake d m pa b)
  | .away dev a =>
    match s.permitAway m dev a 2 with
    | (none, s) => (.error .access, s)
    | (some p, s) => (.ok (), s.hand (.peer p m (systemAddr dev a) (.write b)))

/-- The units in which n bytes from `off` on come to stand (R141, R202): aligned words, and the single bytes of a word that they cover
in part; fuel counts units. -/
def wordsFrom (base off n : Nat) : Nat → List (Nat × Nat)
  | 0 => []
  | f + 1 =>
    if n = 0 then []
    else
      let k := if (base + off) % 4 = 0 && 4 ≤ n then 4 else 1
      (off, k) :: wordsFrom base (off + k) (n - k) f

/-- The pieces of the bytes off..off+n−1 of data that lies at an address, none across a line (R436, R437); fuel counts pieces. -/
def linesFrom (base off n : Nat) : Nat → List (Nat × Nat)
  | 0 => []
  | f + 1 =>
    if n = 0 then []
    else
      let k := Nat.min n (128 - (base + off) % 128)
      (off, k) :: linesFrom base (off + k) (n - k) f

/-- The memory key of a place. -/
def State.engKey (s : State) (p : EngPlace) : Nat := match p with
  | .here pa => s.key pa
  | .away dev a => s.awayKey dev a

/-- What has been sent of bytes of one line at byte `off` of the work, each unit on its own. -/
def State.flights (s : State) (p : EngPlace) (c : Cmd) (off va : Nat) (b : List Byte) : List EngFly :=
  let k := s.engKey p
  (wordsFrom k 0 b.length (b.length + 1)).map fun w =>
    { off := off + w.1
      pa := match p with
        | .here pa => some (pa + w.1)
        | .away _ _ => none
      key := k + w.1
      name := if dDspace c.words = 0 then some (c.ctx, va + w.1) else none
      data := (b.drop w.1).take w.2
      whole := k ≤ (k + w.1) / 8 * 8 && (k + w.1) / 8 * 8 + 8 ≤ k + b.length
      live := true }

/-- Reads bytes of a command's address, line by line. -/
def State.engReads (s : State) (d e q : Nat) (c : Cmd) (space dev : Nat) : List (Nat × Nat) →
    Except EngErr (List Byte) × State
  | [] => (.ok [], s)
  | (a, n) :: l =>
    match s.engPlace d e q c space (BitVec.ofNat 64 a) dev .read with
    | (.error x, s) => (.error x, s)
    | (.ok p, s) =>
      match s.engRead d (engMaster e c) c.mark p n with
      | (.error x, s) => (.error x, s)
      | (.ok b, s) =>
        match s.engReads d e q c space dev l with
        | (.error x, s) => (.error x, s)
        | (.ok b', s) => (.ok (b ++ b'), s)

/-- The system devices of source and destination, which GATH, SCAT and COLL do not name (R207, R209). -/
def Cmd.sdev (c : Cmd) : Nat := match c.op with
  | .gath | .scat | .coll _ _ => 0
  | _ => dSdev c.words
def Cmd.ddev (c : Cmd) : Nat := match c.op with
  | .gath | .scat | .coll _ _ => 0
  | _ => dDdev c.words

/-- Sends bytes of one line at byte `off` of the work to an address of the destination; those of them that `keep` names come to stand
there in later steps. -/
def State.engPut (s : State) (d e q : Nat) (c : Cmd) (off va : Nat) (b : List Byte) (keep : EngFly → Bool) :
    Except EngErr Unit × State :=
  match s.engPlace d e q c (dDspace c.words) (BitVec.ofNat 64 va) c.ddev .write with
  | (.error x, s) => (.error x, s)
  | (.ok p, s) =>
    match s.engSend d (engMaster e c) p b with
    | (.error x, s) => (.error x, s)
    | (.ok _, s) =>
      let x := s.engQ d e q
      (.ok (), s.setEngQ d e q { x with fly := x.fly ++ (s.flights p c off va b).filter keep })

/-- n bytes from an address on in pieces within lines. -/
def linesOf (a n : Nat) : List (Nat × Nat) := pieces a n (n / 128 + 2)

/-- An access of a queue failed (R91, R142): it freezes on a translation fault, else it halts. -/
def State.engFail (s : State) (d e q : Nat) (c : Cmd) (addr : Word) (x : EngErr) : State :=
  match x with
  | .walk => s.freezeWalk (.engine d e q)
  | .access => s.engHalt d e q c .accessLate 1 addr
  | .poison => s.engHalt d e q c .uncorrectable 1 addr

/-! ### Copies -/

/-- Firing number of the work of a queue (R144). -/
def EngQueue.index (x : EngQueue) : Nat := match x.armed with
  | some a => if a.live then a.begun - 1 else 0
  | none => 0

/-- Source and destination address of the work, moved on by the strides of a template (R204). -/
def Cmd.srcAt (c : Cmd) (n : Nat) : Word := BitVec.ofNat 64 (dSrc c.words) + BitVec.ofNat 64 n * (c.words[6]?).getD 0
def Cmd.dstAt (c : Cmd) (n : Nat) : Word := BitVec.ofNat 64 (dDst c.words) + BitVec.ofNat 64 n * (c.words[7]?).getD 0

/-- The row that the byte off of the rows of a gather or scatter belongs to (R208). -/
def EngQueue.rowAt (x : EngQueue) (c : Cmd) (off : Nat) : Nat :=
  ((x.idx[off / dRowSize c.words - x.rows]?).getD 0).toNat * dRowSize c.words + off % dRowSize c.words

/-- Where byte off of the work is read, and where it is written (R202 to R204, R208, R210). -/
def EngQueue.srcOf (x : EngQueue) (c : Cmd) (off : Nat) : Nat := match c.op with
  | .gath => dSrc c.words + x.rowAt c off
  | .scat => dSrc c.words + off
  | .carm => (c.srcAt x.index).toNat + off
  | _ => dSrc c.words + off
def EngQueue.dstOf (x : EngQueue) (c : Cmd) (off : Nat) : Nat := match c.op with
  | .gath => dDst c.words + off
  | .scat => dDst c.words + x.rowAt c off
  | .carm => (c.dstAt x.index).toNat + off
  | _ => dDst c.words + off

/-- The next chunk of the work: its pieces of lines, and how far the work has come at its end (R137). Of rows it takes those whose indices have
come, up to one outside the table. -/
def EngQueue.nextChunk (x : EngQueue) (c : Cmd) : List (Nat × Nat) × Nat :=
  match c.op with
  | .gath | .scat =>
    let rsz := dRowSize c.words
    let good := (x.idx.take (4096 / rsz)).takeWhile fun i => 0 ≤ i && i < (dRows c.words : Int)
    ((List.range good.length).flatMap fun k =>
      let off := (x.rows + k) * rsz
      (linesFrom (x.dstOf c off) 0 rsz 34).map fun p => (off + p.1, p.2), x.rows + good.length)
  | _ =>
    let upTo := Nat.min (c.moved / 4096 * 4096 + 4096) (dLen c.words)
    (linesFrom (if c.op = .cpym then x.srcOf c 0 else x.dstOf c 0) c.moved (upTo - c.moved) 34, upTo)

/-- The pieces of the chunk that may move next: any, but a row's in the order of the index stream (R141, R147). -/
def EngQueue.ready (x : EngQueue) (c : Cmd) : List (Nat × Nat) :=
  if c.op = .scat then x.left.filter fun p => !x.left.any fun r => r.1 < p.1 && x.dstOf c r.1 = x.dstOf c p.1 else x.left

/-- The key of the fetched row of a gathered byte in its window of 256 indices (R146). -/
def EngQueue.rowKey (x : EngQueue) (c : Cmd) (off : Nat) : Nat :=
  let first := off / dRowSize c.words * dRowSize c.words
  off / dRowSize c.words / 256 * 2 ^ 64 + x.rowAt c first

/-- The bytes of one piece of the work: of a collective's output, of a row fetched in its window, or read now; a unit of an
overlapping copy that has taken a source word's value has that (R141). -/
def State.pieceRead (s : State) (d e q : Nat) (x : EngQueue) (c : Cmd) (off n : Nat) : Except EngErr (List Byte) × State :=
  match c.op with
  | .coll _ _ => (.ok ((Tbl.get? off x.got).getD []), s)
  | .gath =>
    let rsz := dRowSize c.words
    let part (b : List Byte) : List Byte := (b.drop (off % rsz)).take n
    match Tbl.get? (x.rowKey c off) x.got with
    | some b => (.ok (part b), s)
    | none =>
      match s.engReads d e q c (dSspace c.words) c.sdev (linesOf (x.srcOf c (off / rsz * rsz)) rsz) with
      | (.error y, s) => (.error y, s)
      | (.ok b, s) =>
        let y := s.engQ d e q
        (.ok (part b), s.setEngQ d e q { y with got := y.got.set (x.rowKey c off) b })
  | op =>
    match s.engReads d e q c (dSspace c.words) c.sdev (linesOf (x.srcOf c off) n) with
    | (.error y, s) => (.error y, s)
    | (.ok b, s) =>
      if op = .cpy || op = .carm then
        (.ok ((wordsFrom (x.dstOf c 0) off n (n + 1)).flatMap fun w =>
          (Tbl.get? w.1 x.got).getD ((b.drop (w.1 - off)).take w.2)), s)
      else (.ok b, s)

/-- Has the chunk been moved, the work has come to its end. -/
def EngQueue.chunkEnd (x : EngQueue) (c : Cmd) : EngQueue :=
  if x.left ≠ [] then x
  else
    match c.op with
    | .gath | .scat => { x with
        idx := x.idx.drop (x.upTo - x.rows), rows := x.upTo
        got := x.got.filter fun p => x.upTo / 256 ≤ p.1 / 2 ^ 64 }
    | .coll _ _ => { x with got := [] }
    | _ => x.progress x.upTo

/-- Moves one piece of the chunk, a free choice (R141, R437): one line of the destination is read and sent. A CPYM's pieces wait for
the operand buffer (R143). -/
def State.movePiece (s : State) (d e q : Nat) (x : EngQueue) (c : Cmd) : State :=
  let ready := x.ready c
  let (j, s) := s.pick ready.length
  match ready[j]? with
  | none => s
  | some (off, n) =>
    match s.pieceRead d e q x c off n with
    | (.error y, s) => s.engFail d e q c (BitVec.ofNat 64 (x.srcOf c off)) y
    | (.ok b, s) =>
      let on (s : State) : State :=
        let y := s.engQ d e q
        s.setEngQ d e q (EngQueue.chunkEnd { y with
          left := y.left.filter fun p => p.1 ≠ off
          got := match c.op with
            | .cpym => y.got.set off b
            | .cpy | .carm => y.got.filter fun p => !(off ≤ p.1 && p.1 < off + n)
            | _ => y.got } c)
      if c.op = .cpym then on s
      else
        match s.engPut d e q c off (x.dstOf c off) b fun _ => true with
        | (.error y, s) => s.engFail d e q c (BitVec.ofNat 64 (x.dstOf c off)) y
        | (.ok _, s) => on s

/-! ### What has been sent (R141) -/

/-- The units that may come to stand at their home now: each whose bytes no earlier one of its queue has in flight. -/
def EngQueue.landable (x : EngQueue) : List Nat :=
  (List.range x.fly.length).filter fun j => match x.fly[j]? with
    | none => false
    | some f => !(x.fly.take j).any fun g => g.key < f.key + f.data.length && f.key < g.key + g.data.length

/-- A unit comes to stand at its home, at any time before the completion add (R141); with the last of an 8-byte word that the same
write covers the word's poison is lifted (R391). -/
def State.engLand (s : State) (d e q j : Nat) : State :=
  let x := s.engQ d e q
  match x.fly[j]? with
  | none => s
  | some f =>
    let s := s.setEngQ d e q { x with fly := x.fly.eraseIdx j }
    let s := match f.pa with
      | some pa => s.landBytes d pa f.data
      | none => { s with mem := Memory.write s.mem f.key f.data }
    if f.whole && !(x.fly.eraseIdx j).any fun g => g.key / 8 = f.key / 8 then s.lift (f.key / 8 * 8) 8 else s

/-- The memory key of an address of a command, where its translation is at hand. -/
def State.engAt (s : State) (d : Nat) (c : Cmd) (space dev a : Nat) : Option Nat :=
  if space = 1 then some (s.key (s.global (0x1F8000000000 + a)))
  else if space = 2 then
    some (if dev = field (s.mmioAt 0 0x80).toNat 30 16 then s.key (s.global (a % 2 ^ 45)) else s.awayKey dev a)
  else (s.physAt d c.ctx (BitVec.ofNat 64 a)).map s.key

/-- The memory keys of len bytes of a command's address: the first key of each page's part, and its bytes. -/
def State.engSpans (s : State) (d : Nat) (c : Cmd) (space dev a len : Nat) : List (Nat × Nat) :=
  (List.range (len / 65536 + 2)).filterMap fun i =>
    let o := if i = 0 then 0 else (a / 65536 + i) * 65536 - a
    if len ≤ o then none
    else (s.engAt d c space dev (a + o)).map fun k => (k, Nat.min (len - o) (65536 - (a + o) % 65536))

/-- The copy in progress of a queue whose source and destination share bytes of memory (R141), under whatever addresses. -/
def State.overlapping (s : State) (d : Nat) (x : EngQueue) : Option Cmd :=
  match x.work with
  | none => none
  | some c =>
    if !x.runs || !(c.op = .cpy || (c.op = .carm && x.firing)) || (x.left = [] && !x.fly.any (·.live)) then none
    else
      let from_ := s.engSpans d c (dSspace c.words) c.sdev (x.srcOf c 0) (dLen c.words)
      let dest := s.engSpans d c (dDspace c.words) c.ddev (x.dstOf c 0) (dLen c.words)
      if from_.any fun p => dest.any fun r => p.1 < r.1 + r.2 && r.1 < p.1 + p.2 then some c else none

/-- A destination word of an overlapping copy that is a source word too takes the value that a source word holds now, both a free
choice; it keeps it when it is sent, or has it where it has been sent and does not stand there yet (R141). -/
def State.blend (s : State) (d e q : Nat) (c : Cmd) : State :=
  let x := s.engQ d e q
  let len := dLen c.words
  let (t, s) := s.pick len
  let (o, s) := s.pick len
  let dst := x.dstOf c 0
  let word := (dst + t) / 4 * 4
  let inner := dst ≤ word && word + 4 ≤ dst + len
  let n := if inner then 4 else 1
  let isSource (k : Nat) : Bool :=
    (s.engSpans d c (dSspace c.words) c.sdev (x.srcOf c 0) len).any fun p => p.1 ≤ k && k < p.1 + p.2
  match s.engAt d c (dDspace c.words) c.ddev (dst + t),
      (List.range n).mapM fun i => s.engAt d c (dSspace c.words) c.sdev (x.srcOf c 0 + o + i) with
  | some k, some ks =>
    if (inner && (dst + t) % 4 ≠ 0) || o % 4 ≠ t % 4 || len < o + n || !isSource k || ks.any fun a => s.poisoned a 1 then s
    else
      let b := ks.flatMap fun a => Memory.read s.mem a 1
      if x.fly.any fun f => f.live && f.off = t then
        s.setEngQ d e q { x with fly := x.fly.map fun f => if f.live && f.off = t && f.data.length = n then { f with data := b } else f }
      else if c.moved ≤ t then s.setEngQ d e q { x with got := x.got.set t b }
      else s
  | _, _ => s

/-- The next chunk of the work begins; an index outside the table ends the command (R146, R208). -/
def State.chunkStart (s : State) (d e q : Nat) (x : EngQueue) (c : Cmd) : State :=
  match x.nextChunk c with
  | ([], _) => if c.op.isRows && x.idx ≠ [] then s.engEnd d e q c (BitVec.ofNat 64 x.rows) else s
  | (l, n) => s.setEngQ d e q { x with left := l, upTo := n }

/-- COALESCE_INDEX (R146, R208): the token at the coalescing MT's port gives the head's next indices. A control
token is dropped; a data token that is no INT32 token is a token fault of the MT (log 17). -/
def execCoalesceIndex (d e q : Nat) (s : State) : Host.Outcome State Fault Refusal :=
  .next <|
    let x := s.engQ d e q
    match x.work with
    | none => s
    | some c =>
      let t := dCoalesce c.words
      let key := 4 * t + dPort c.words
      match s.headTok key with
      | none => s
      | some k =>
        if !x.runs || x.firing || !c.op.isRows || dLen c.words ≤ x.rows + x.idx.length || !s.acts t || k.tok.isMarker
            || k.tok.isDrain || k.tok.kind = 3 then s
        else if k.tok.kind = 1 then (s.popAt key 0).2
        else if k.tok.fmt ≠ 7 then s.elemFault t .token (dPort c.words)
        else
          let s := (s.popAt key 0).2
          let new := (List.range (k.tok.count + 1)).map fun i => (lane k.tok.payload i).toInt
          let x := s.engQ d e q
          s.setEngQ d e q { x with idx := x.idx ++ new.take (dLen c.words - x.rows - x.idx.length) }

/-! ### Completion -/

/-- Has the work moved all it has to move? -/
def EngQueue.moved (x : EngQueue) : Bool := match x.work with
  | none => false
  | some c =>
    match c.op with
    | .cpy | .carm => dLen c.words ≤ c.moved && (c.op = .cpy || x.firing)
    | .cpym => x.landed && dLen c.words ≤ c.moved
    | .gath | .scat => dLen c.words ≤ x.rows
    | .coll _ _ => x.landed && x.left = []
    | _ => false

/-- The amount of the completion add (R140, R147). -/
def Cmd.amount (c : Cmd) : Word :=
  if c.op.isRows then BitVec.ofNat 64 (dLen c.words * dRowSize c.words) else dAmount c.words

/-- Adds to a counter of a command's context at its home (R140, R161). -/
def State.engAdd (s : State) (d e q : Nat) (c : Cmd) (va : Nat) (amount : Word) : Except EngErr Unit × State :=
  match s.engPlace d e q c 0 (BitVec.ofNat 64 va) 0 .write with
  | (.error x, s) => (.error x, s)
  | (.ok (.away _ _), s) => (.error .access, s)
  | (.ok (.here pa), s) =>
    match engGot (s.counterAt d (engMaster e c) pa amount) with
    | (.error x, s) => (.error x, s)
    | (.ok _, s) => (.ok (), s)

/-- The work is done: a firing is counted, a command leaves its queue. -/
def State.engDone (s : State) (d e q : Nat) (x : EngQueue) : State :=
  match x.armed with
  | some a =>
    if a.live then
      s.setEngQ d e q { (s.engQ d e q).fresh with
        armed := some { a with done := a.done + 1, live := false, cmd := { a.cmd with moved := 0 } } }
    else s.engDrop d e q
  | none => s.engDrop d e q

/-- ENGINE_COMPLETION_ADD (R140, R144, R147, R206, R435): the completion add of the work whose bytes have landed; or CDISARM, which
discards the triggers and disarms the queue, and then reports the count of firings, which it keeps until the add has performed. -/
def execEngineCompletionAdd (d e q : Nat) (s : State) : Host.Outcome State Fault Refusal :=
  .next <|
    let x := s.engQ d e q
    match x.work with
    | none => s
    | some c =>
      if !x.runs then s
      else if c.op = .cdisarm then
        let count := (x.armed.map (·.done)).getD c.moved
        let s := s.setEngQ d e q { x with armed := none, cmds := { c with moved := count } :: x.cmds.drop 1 }
        if dword c.words 4 = 0 || count = 0 then s.engDrop d e q
        else
          match s.engAdd d e q c (dword c.words 4) (BitVec.ofNat 64 count) with
          | (.error y, s) => s.engFail d e q c (BitVec.ofNat 64 (dword c.words 4)) y
          | (.ok _, s) => s.engDrop d e q
      else if !x.moved || x.fly.any (·.live) then s
      else if c.amount = 0 then s.engDone d e q x
      else
        match s.engAdd d e q c (dCctr c.words) c.amount with
        | (.error y, s) => s.engFail d e q c (BitVec.ofNat 64 (dCctr c.words)) y
        | (.ok _, s) => s.engDone d e q x

/-! ### Templates -/

/-- CARM_ARM (R204): the queue takes the template at its head, or discards it where one is armed. -/
def execCarmArm (d e q : Nat) (s : State) : Host.Outcome State Fault Refusal :=
  .next <|
    let x := s.engQ d e q
    match x.cmds with
    | [] => s
    | c :: _ =>
      if !x.runs || c.op ≠ .carm || x.firing then s
      else if x.armed.isSome then s.engEnd d e q c 0
      else
        let s := s.engDrop d e q
        s.setEngQ d e q { s.engQ d e q with armed := some ⟨{ c with moved := 0 }, 0, 0, 0, false⟩ }

/-- TEMPLATE_TRIGGER (R144, R145, R205): a CFIRE at the head joins the waiting triggers, or is discarded where no
template is armed; else the next waiting trigger begins a firing. -/
def execTemplateTrigger (d e q : Nat) (s : State) : Host.Outcome State Fault Refusal :=
  .next <|
    let x := s.engQ d e q
    if !x.runs then s
    else
      match x.armed, x.cmds with
      | none, c :: _ => if c.op = .cfire then s.engEnd d e q c 0 else s
      | some a, c :: _ =>
        if c.op = .cfire && a.waiting < 64 then
          let s := s.engDrop d e q
          s.setEngQ d e q { s.engQ d e q with armed := some { a with waiting := a.waiting + 1 } }
        else if !a.live && 0 < a.waiting && c.op ≠ .cdisarm then
          s.setEngQ d e q { x with armed := some { a with waiting := a.waiting - 1, begun := a.begun + 1, live := true } }
        else s
      | some a, [] =>
        if !a.live && 0 < a.waiting then
          s.setEngQ d e q { x with armed := some { a with waiting := a.waiting - 1, begun := a.begun + 1, live := true } }
        else s
      | none, [] => s

/-- A token reaches the trigger input of a queue (R144, R204): it waits for its firing, holds where 64 wait, and
fires nothing where no template is armed (log 17). -/
def State.triggerAt (s : State) (d e q : Nat) : Option State :=
  let x := s.engQ d e q
  match x.armed with
  | none => some s
  | some a =>
    if 64 ≤ a.waiting then none else some (s.setEngQ d e q { x with armed := some { a with waiting := a.waiting + 1 } })

/-! ### Copies with a matrix command -/

/-- Is the CT that a CPYM names a running node of the issuing region (R203)? -/
def State.cpymTarget (s : State) (c : Cmd) : Option Node :=
  match s.node? (tileField (dDst c.words)) with
  | none => none
  | some n => if n.region = c.region && n.phase ≠ .ended then some n else none

/-- Does the node's own commit put a matrix word into the queue now? It enters before an engine's (R262). -/
def Node.matrixNext (n : Node) : Bool := n.runs && (match n.phase with
  | .commit (.matrix _ to_ :: _) => to_.all fun v => n.regs.vFull.getLsbD v.toNat
  | _ => false)

/-- Is the region of a handle pre-empted (R395)? -/
def State.savedAway (s : State) (h : Nat) : Bool := s.saves.any fun a => a.2.out && a.2.handle = h

/-- CPYM_DELIVER (R143, R203, R435): once every byte of the command has come and the operand buffer has room for all of them they
enter it; then the matrix word enters the tile's queue, as that has room. -/
def execCpymDeliver (d e q : Nat) (s : State) : Host.Outcome State Fault Refusal :=
  .next <|
    let x := s.engQ d e q
    match x.cmds with
    | [] => s
    | c :: _ =>
      if !x.runs || c.op ≠ .cpym || x.armed.isSome || x.landed then s
      else
        match s.cpymTarget c with
        | none => if s.savedAway c.region then s else s.engEnd d e q c (BitVec.ofNat 64 (dDst c.words))
        | some n =>
          let b := bitAt (dDst c.words) 12
          if n.gated || c.moved < dLen c.words then s
          else if x.got ≠ [] then
            if (n.mat.buf b).free < dLen c.words then s
            else
              (s.modNode n.tile fun n => { n with mat := n.mat.copyIn b (x.got.flatMap fun p => p.2) }).setEngQ d e q { x with got := [] }
          else if 16 ≤ n.mat.queue.length || n.matrixNext then s
          else
            (s.modNode n.tile fun n => { n with mat := { n.mat with
              queue := n.mat.queue ++ [⟨BitVec.ofNat 32 (dword c.words 6), none, none, false, []⟩] } }).setEngQ d e q
              { s.engQ d e q with landed := true }

/-- May a CPYM at the head of a queue read: has the operand buffer room for all its bytes (R143)? -/
def State.cpymRoom (s : State) (c : Cmd) : Bool := match s.cpymTarget c with
  | some n => !n.gated && dLen c.words ≤ (n.mat.buf (bitAt (dDst c.words) 12)).free
  | none => false

/-! ### Collectives -/

/-- Places of a collective: die, engine, queue and command of every rank's command that heads its queue and
bears the tag, of one launch (R210). -/
def State.collOf (s : State) (launch tag : Nat) : List (Nat × Nat × Nat × Cmd) :=
  (List.range 4).flatMap fun d =>
    (s.die d).engines.filterMap fun p =>
      match p.2.cmds with
      | c :: _ =>
        match c.op with
        | .coll _ _ =>
          if c.launch = launch && dTag c.words = tag && p.2.runs && !p.2.landed then some (d, p.1 / 8, p.1 % 8, c) else none
        | _ => none
      | [] => none

/-- Do two commands of a collective agree in n, len, type, operation and output bit (R210)? -/
def collAgree (a b : Cmd) : Bool :=
  dRanks a.words = dRanks b.words && dLen a.words = dLen b.words && dword a.words 6 = dword b.words 6 && a.op = b.op

/-- The largest power of two below n (R149); fuel bounds the search. -/
def halfBelow (n : Nat) : Nat → Nat → Nat
  | p, 0 => p
  | p, f + 1 => if 2 * p < n then halfBelow n (2 * p) f else p

/-- sum(lo, n) of R149 for element j of FP32 patterns; fuel bounds the depth. -/
def collSum (x : Nat → Nat) (lo n : Nat) : Nat → Nat
  | 0 => 0
  | f + 1 =>
    if n ≤ 1 then x lo
    else
      let h := halfBelow n 1 32
      Ty.f32.fpAdd rne 0 (collSum x lo h f) (collSum x (lo + h) (n - h) f)

/-- Element j of a rank's input as an FP32 pattern (R148). -/
def collElem (ty : Ty) (b : List Byte) (j : Nat) : Nat :=
  let k := ty.width / 8
  let raw := ofBytes ((b.drop (k * j)).take k)
  if ty = .f32 then raw else raw * 2 ^ 16

/-- Bytes of a sum as its output bit selects (R148). -/
def collOut (fp32 : Bool) (x : Nat) : List Byte :=
  let x := if (Ty.f32.dec x).isNan then Ty.f32.nanBits else x
  if fp32 then toBytes x 4 else toBytes (Ty.bf16.cvtFp .f32 rne 0 (BitVec.ofNat 64 x)) 2

/-- The output of rank r from the inputs in rank order (R149, R210). -/
def collResult (op : Nat) (fp32 : Bool) (c : Cmd) (ins : List (List Byte)) : List Byte :=
  let n := dRanks c.words
  let ty : Ty := if dword c.words 6 = 8 then .f32 else .bf16
  let total := dLen c.words / dElem c.words
  let part := if op = 1 then total / n else total
  let from_ := if op = 1 then dRank c.words * part else 0
  if op = 2 then ins.flatten
  else
    (List.range part).flatMap fun j =>
      collOut fp32 (collSum (fun r => collElem ty ((ins[r]?).getD []) (from_ + j)) 0 n 40)

/-- n free bytes. -/
def State.freeBytes (s : State) : Nat → List Byte × State
  | 0 => ([], s)
  | n + 1 =>
    let (x, s) := s.pickWord
    let (l, s) := s.freeBytes n
    (x.setWidth 8 :: l, s)

/-- The places of the ranks 0..n−1 of a collective, none for a rank on another device; or none while a rank of this module has not
issued. -/
def collRanks (all : List (Nat × Nat × Nat × Cmd)) (c : Cmd) : Option (List (Option (Nat × Nat × Nat × Cmd))) :=
  (List.range (dRanks c.words)).mapM fun r =>
    match all.find? fun p => dRank p.2.2.2.words = r with
    | some p => some (some p)
    | none => if c.away.contains r then some none else none

/-- Reads the inputs of n bytes of a collective's ranks; on failure the queue of the rank concerned freezes or halts. The input of a
rank on another device is what that device sends, which is free (R148). -/
def State.collRead (s : State) (n : Nat) : List (Option (Nat × Nat × Nat × Cmd)) → Option (List (List Byte)) × State
  | [] => (some [], s)
  | none :: l =>
    let (b, s) := s.freeBytes n
    (match s.collRead n l with
     | (none, s) => (none, s)
     | (some m, s) => (some (b :: m), s))
  | some (d, e, q, c) :: l =>
    match s.engReads d e q c (dSspace c.words) 0 (linesOf (dSrc c.words) (dLen c.words)) with
    | (.error y, s) => (none, s.engFail d e q c (BitVec.ofNat 64 (dSrc c.words)) y)
    | (.ok b, s) =>
      match s.collRead n l with
      | (none, s) => (none, s)
      | (some m, s) => (some (b :: m), s)

/-- A rank's engine holds the output that it is to write: its pieces of lines, and their bytes. -/
def EngQueue.outputs (x : EngQueue) (c : Cmd) (out : List Byte) : EngQueue :=
  let l := linesFrom (dDst c.words) 0 out.length (out.length / 128 + 2)
  { x with landed := true, left := l, got := l.map fun p => (p.1, (out.drop p.1).take p.2) }

/-- Hands every rank's engine of this module its output, which it writes line by line (R141, R210). -/
def State.collWrite (s : State) (op : Nat) (fp32 : Bool) (ins : List (List Byte)) :
    List (Option (Nat × Nat × Nat × Cmd)) → State
  | [] => s
  | none :: l => s.collWrite op fp32 ins l
  | some (d, e, q, c) :: l =>
    (s.setEngQ d e q ((s.engQ d e q).outputs c (collResult op fp32 c ins))).collWrite op fp32 ins l

/-- The 4-byte words of bytes. -/
def wordsIn : List Byte → Nat → List (List Byte)
  | _, 0 => []
  | b, n + 1 => b.take 4 :: wordsIn (b.drop 4) n

/-- A free choice of n flags. -/
def State.flags (s : State) : Nat → List Bool × State
  | 0 => ([], s)
  | n + 1 =>
    let (j, s) := s.pick 2
    let (l, s) := s.flags n
    ((j = 1) :: l, s)

/-- A free choice of n of some words. -/
def State.someWords (s : State) (ws : List (List Byte)) : Nat → List Byte × State
  | 0 => ([], s)
  | n + 1 =>
    let (j, s) := s.pick ws.length
    let (l, s) := s.someWords ws n
    ((ws[j]?).getD [] ++ l, s)

/-- What a rank's destination holds after a collective that does not match: each word is as it was, or one of the words that the
ranks' engines write, a free choice (R210); they are sent line by line. -/
def State.collJunk (s : State) (d e q : Nat) (c : Cmd) (ws : List (List Byte)) : List (Nat × Nat) → State
  | [] => s
  | (off, n) :: l =>
    let (b, s) := s.someWords ws (n / 4 + 1)
    let (on, s) := s.flags (n / 4 + 1)
    (s.engPut d e q c off (dDst c.words + off) (b.take n) fun f => (on[(f.off - off) / 4]?).getD false).2.collJunk d e q c ws l

/-- The output of a rank's own operation. -/
def Cmd.output (c : Cmd) (ins : List (List Byte)) : List Byte := match c.op with
  | .coll op fp32 => collResult op fp32 c ins
  | _ => []

/-- Every rank whose command is there finds the difference, and ends its command with an engine fault (R210). -/
def State.collEnd (s : State) (all : List (Nat × Nat × Nat × Cmd)) (ins : List (List Byte)) : State :=
  let ws := all.flatMap fun p => wordsIn (p.2.2.2.output ins) ((p.2.2.2.output ins).length / 4)
  all.foldl (fun s p =>
    let (d, e, q, c) := p
    let out := (c.output ins).length
    (s.collJunk d e q c ws (linesFrom (dDst c.words) 0 out (out / 128 + 2))).engEnd d e q c (BitVec.ofNat 64 (dDst c.words))) s

/-- The commands at the heads of the queues of an engine that are collectives ready to run. -/
def State.collHeads (s : State) (d e : Nat) : List Cmd :=
  (List.range 8).filterMap fun q =>
    let x := s.engQ d e q
    match x.cmds with
    | c :: _ => (match c.op with
      | .coll _ _ => if x.runs && !x.landed then some c else none
      | _ => none)
    | [] => none

/-- The collective that an engine can act on: one of its heads whose ranks of this module have all issued, or do not agree. -/
def State.collNext (s : State) (d e : Nat) : Option Cmd :=
  (s.collHeads d e).find? fun c =>
    let all := s.collOf c.launch (dTag c.words)
    (collRanks all c).isSome || all.any fun p => !collAgree c p.2.2.2

/-- COLLECTIVE_EXECUTE (R148, R149, R209, R210): with a command of every rank at the head of its queue the sums or the concatenation
are made, in the fixed tree, and every rank's engine has its output to write. Commands that differ end with an engine fault. What
ranks on other devices issue, and when, is free. -/
def execCollectiveExecute (d e : Nat) (s : State) : Host.Outcome State Fault Refusal :=
  .next <| match s.collNext d (16 + e) with
  | none => s
  | some c =>
    let all := s.collOf c.launch (dTag c.words)
    let differ (s : State) : State :=
      match s.collRead (dLen c.words) (all.map some) with
      | (some ins, s) => s.collEnd all ins
      | (none, s) => s
    match c.op with
    | .coll op fp32 =>
      if all.any fun p => !collAgree c p.2.2.2 then differ s
      else
        match collRanks all c with
        | none => s
        | some ranks =>
          let (j, s) := if ranks.all (·.isSome) then (1, s) else s.pick 3
          if j = 0 then s
          else if j = 2 then differ s
          else
            match s.collRead (dLen c.words) ranks with
            | (none, s) => s
            | (some ins, s) => s.collWrite op fp32 ins ranks
    | _ => s

/-! ### The rotation -/

/-- Has a queue a chunk ready (R137)? -/
def State.chunkReady (s : State) (d e q : Nat) : Bool :=
  let x := s.engQ d e q
  x.runs && !x.moved &&
    (match x.work with
     | none => false
     | some c =>
       if x.firing then true
       else if x.armed.isSome then c.op = .cpy || c.op = .cpym || c.op.isRows
       else c.op = .cpy || (c.op.isRows && !x.idx.isEmpty) || (c.op = .cpym && c.moved < dLen c.words && s.cpymRoom c))

/-- Is a queue within a chunk? -/
def EngQueue.within (x : EngQueue) : Bool := x.runs && x.left ≠ []

/-- The next queue of an engine in its rotation: one within a chunk, else one with a chunk ready. -/
def State.nextQueue (s : State) (d e : Nat) : Option Nat :=
  let r := (s.die d).rot.getD e 0
  let l := (List.range 8).map fun i => (r + i) % 8
  match l.find? fun q => (s.engQ d e q).within with
  | some q => some q
  | none => l.find? fun q => s.chunkReady d e q

/-- The engine begins the next chunk of its rotation, or moves a piece of the chunk that it is within. A copy, gather or scatter that
meets an armed template is discarded with an engine fault (R202). -/
def State.chunkStep (s : State) (d e q : Nat) : State :=
  let x := s.engQ d e q
  match x.work with
  | none => s
  | some c =>
    if x.left ≠ [] then s.movePiece d e q x c
    else
      let s := s.modDie d fun y => { y with rot := y.rot.set e ((q + 1) % 8) }
      if x.armed.isSome && !x.firing then s.engEnd d e q c 0 else s.chunkStart d e q x c

/-- What an engine may do next: the unit of a queue that may land, the copy of a queue that overlaps itself, the queue that moves. -/
inductive EngMove where
  | land (q j : Nat)
  | blend (q : Nat) (c : Cmd)
  | chunk (q : Nat)
  deriving DecidableEq, Repr

/-- What an engine may do next. -/
def State.engMoves (s : State) (d e : Nat) : List EngMove :=
  ((s.nextQueue d e).map EngMove.chunk).toList
  ++ (List.range 8).flatMap fun q =>
    let x := s.engQ d e q
    x.landable.map (EngMove.land q) ++ ((s.overlapping d x).map (EngMove.blend q)).toList

/-- ENGINE_CHUNK (R137, R141, R142, R202, R208): a free choice of what the engine may do next. -/
def execEngineChunk (d e : Nat) (s : State) : Host.Outcome State Fault Refusal :=
  .next <|
    let moves := s.engMoves d e
    let (j, s) := if moves.length ≤ 1 then (0, s) else s.pick moves.length
    match moves[j]? with
    | none => s
    | some (.land q i) => s.engLand d e q i
    | some (.blend q c) => s.blend d e q c
    | some (.chunk q) => s.chunkStep d e q

end Sys2Proof.Machine
end

