-- ==== Sys2Proof/Machine/System.lean ====
section
/-! DEFINITION. Traps, system registers, snapshots, checks, randomness and time (R34, R35, R415 to R427). -/

namespace Sys2Proof.Machine

/-! ### Traps -/

/-- A trap slot, held for step 4 (R417, R420); a second one that fires raises the block fault. A SYSC of a context without a
system handler is a precise trap of its firing: its block is abandoned, and the privilege trap is recorded (R419, R427).
Which of the two a second slot that has no handler raises the spec does not say: the block fault (DESIGN CHOICE, log 7). -/
def State.trapSlot (s : State) (n : Node) (k : TrapKind) (code : BitVec 15) : State :=
  if n.blk.effs.any fun e => e.step = 4 then s.trapHere .block 0
  else if k = .sysc && s.sysVec n.ctx = 0 then s.takeTrap s.focus .sysc n.slot code.toNat 0 n.pc
  else s.hold 4 n.slot [.trap k code n.slot]

/-- TRAP (R420). -/
def execTrap (p : Pred) (code : BitVec 15) (s : State) : Host.Outcome State Fault Refusal :=
  .next (s.fire (.trap p code) fun n _ => s.trapSlot n .trap code)

/-- SYSC (R420). -/
def execSysc (p : Pred) (code : BitVec 15) (s : State) : Host.Outcome State Fault Refusal :=
  .next (s.fire (.sysc p code) fun n _ => s.trapSlot n .sysc code)

/-- BKPT (R397, R420). -/
def execBkpt (p : Pred) (code : BitVec 15) (s : State) : Host.Outcome State Fault Refusal :=
  .next (s.fire (.bkpt p code) fun n _ => s.trapSlot n .bkpt code)

/-! ### System registers -/

/-- Depth of the edge at an input port (R227); the first of several (log 18). -/
def State.depthAt (s : State) (k : Nat) : Nat := match s.inEdges k with
  | e :: _ => e.2.depth
  | [] => 0

/-- `node.tile` (R341). -/
def tileWord (t : Nat) : Word := BitVec.ofNat 64 (t % 4096)

/-- A system register of a node (R34, R118, R158, R166, R227, R234, R245, R246, R341, R349, R352, R354, R368, R370,
R376, R416). -/
def State.sysRead (s : State) (n : Node) (r : BitVec 12) : Word :=
  let k := r.toNat
  let die := s.die (dieOf n.tile)
  if k = 0x000 then n.ctx.setWidth 64
  else if k = 0x001 then n.mode
  else if k = 0x002 then n.assist
  else if k = 0x003 then n.seed
  else if k = 0x004 then flag (s.satFlags.contains n.ctx.toNat)
  else if k = 0x100 then BitVec.ofNat 64 (n.issueCyc n.slot)
  else if k = 0x101 then s.now
  else if k = 0x200 then tileWord n.tile
  else if k = 0x201 then n.repMode.setWidth 64 <<< 2 ||| n.rep.setWidth 64
  else if k = 0x202 then n.stream
  else if k = 0x203 then n.srCount
  else if k = 0x210 then BitVec.ofNat 64 n.cfgSeq
  else if k = 0x300 then n.tr.vec
  else if k = 0x301 then n.tr.epc
  else if k = 0x302 then n.tr.cause
  else if k = 0x303 then n.tr.addr
  else if k = 0x304 then flag n.tr.act
  else if 0x305 ≤ k && k ≤ 0x308 then vget n.tr.scr (k - 0x305) 0
  else if 0x400 ≤ k && k ≤ 0x427 then die.retain ((k - 0x400) / 8) (k % 8)
  else if 0x500 ≤ k && k ≤ 0x515 then (n.man.regs[k - 0x500]?).getD 0
  else if k = 0x600 then n.red.sig
  else if k = 0x601 then n.red.cnt.setWidth 64
  else if k = 0x602 then n.red.seqNo
  else if k = 0x603 then n.red.mis.setWidth 64 <<< 32 ||| n.red.vote.setWidth 64 <<< 16 ||| flag n.red.lead
  else if 0x700 ≤ k && k ≤ 0x73F then vget n.cur (k - 0x700) 0
  else if 0x740 ≤ k && k ≤ 0x77F then vget n.floor (k - 0x740) 0
  else if k = 0x780 then n.rrTable
  else if 0x790 ≤ k && k ≤ 0x793 then BitVec.ofNat 64 (s.depthAt (4 * n.tile + (k - 0x790)))
  else if k = 0x794 then n.steer.setWidth 64
  else 0

/-- MFS (R415). `chain.now`, and `cyc` outside a fixed-timing region, are the leader's (R380). -/
def execMfs (p : Pred) (t : Tgt) (r : BitVec 12) (s : State) : Host.Outcome State Fault Refusal :=
  let i := Instr.mfs p t r
  .next (s.fire i fun n _ =>
    if sysPrivRange r then s.trapHere (if n.priv then .illegal else .privilege) 0
    else if r = 0x101 || (r = 0x100 && !s.fixedAt n) then
      State.observe s s n (s.sysRead n r) fun x s => s.emit i (.scalar x)
    else s.emit i (.scalar (s.sysRead n r)))

/-- MTS (R415): held for step 3. A retention register asks for its window's owner (R118). -/
def execMts (p : Pred) (r : BitVec 12) (s : State) : Host.Outcome State Fault Refusal :=
  .next (s.fire (.mts p r) fun n o =>
    let k := r.toNat
    if sysPrivRange r then s.trapHere (if n.priv then .illegal else .privilege) 0
    else if 0x400 ≤ k && k ≤ 0x417 && !s.ownsWindow (dieOf n.tile) (k % 8) n.ctx then s.trapHere .privilege 0
    else s.hold 3 n.slot [.mts r o.l])

/-- Writes a retention register (R118 to R120). -/
def State.writeRetain (s : State) (d r k : Nat) (x : Word) : State :=
  let ways := (s.die d).retain 2 k
  if r = 0 then (if ways ≠ 0 then s else s.setRetain d 0 k (x &&& BitVec.ofNat 64 (bits 44 7)))
  else if r = 1 then (if ways ≠ 0 then s else s.setRetain d 1 k (x &&& BitVec.ofNat 64 (bits 39 0)))
  else
    let w := x.toNat % 16
    if w = 0 then s.retainOff d k else if 8 < w || ways ≠ 0 then s else s.retainOn d k w

/-- The write of an MTS (R118, R415, R416). -/
def State.sysWrite (s : State) (n : Node) (r : BitVec 12) (x : Word) : State :=
  let k := r.toNat
  if k = 0x300 then
    s.setNode n.tile { n with tr := { n.tr with vec := x &&& BitVec.ofNat 64 (bits 55 4) } }
  else if k = 0x304 then
    if x.getLsbD 0 then s else s.setNode n.tile { n with tr := { n.tr with act := false }, sysEntry := false }
  else if 0x305 ≤ k && k ≤ 0x308 then
    s.setNode n.tile { n with tr := { n.tr with scr := vset n.tr.scr (k - 0x305) x } }
  else if 0x400 ≤ k && k ≤ 0x417 then s.writeRetain (dieOf n.tile) ((k - 0x400) / 8) (k % 8) x
  else s

/-! ### Snapshots, checks, time, randomness, switches -/

/-- MARK (R422): a cut begins, or is joined, at step 3. -/
def execMark (p : Pred) (s : State) : Host.Outcome State Fault Refusal :=
  .next (s.fire (.mark p) fun n _ => s.hold 3 n.slot [.mark])

/-- SIGCHK (R423): the cut and the check of a release point, then an implicit release. -/
def execSigchk (p : Pred) (s : State) : Host.Outcome State Fault Refusal :=
  .next (s.fire (.sigchk p) fun n _ => s.hold 3 n.slot [.relCheck [], .roundWait, .relPerform])

/-- RNDR (R424): 64 fresh bits, a free value; a shadow takes the leader's. -/
def execRndr (p : Pred) (t u : Tgt) (s : State) : Host.Outcome State Fault Refusal :=
  let i := Instr.rndr p t u
  .next (s.fire i fun n _ =>
    let (x, s') := s.pickWord
    State.observe s s' n x fun x s => s.emit i (.scalar x))

/-- CYCW (R425): the commit holds at step 3 until `cyc` is at least left; in a fixed-timing region a cycle that is
past raises the timing fault. -/
def execCycw (p : Pred) (s : State) : Host.Outcome State Fault Refusal :=
  .next (s.fire (.cycw p) fun n r =>
    if s.fixedAt n && r.l < n.cyc then s.trapHere .timing 0 else s.hold 3 n.slot [.cycw r.l])

/-- CFGSW (R349, R426): the region's switch begins at step 3. -/
def execCfgsw (p : Pred) (s : State) : Host.Outcome State Fault Refusal :=
  .next (s.fire (.cfgsw p) fun n _ =>
    match Tbl.get? n.region s.regions with
    | none => s.trapHere .config 0
    | some r =>
      if n.task.isSome || r.switching || 65535 ≤ r.step then s.trapHere .config 0
      else s.hold 3 n.slot [.cfgsw])

end Sys2Proof.Machine
end

