-- ==== Sys2Proof/Machine/HomeSteps.lean ====
section
/-! DEFINITION. Steps at homes and proxies: atomics, counter adds and ordered atomics in flight (R56, R114 to R117,
R157, R186 to R188), watches (R212, R428), directory and RDC requests (R106 to R110), page walks (R85, R91, R92), and
the values that reach registers (R31). -/

namespace Sys2Proof.Machine

/-! ### Registers that fill -/

/-- Is a register empty? -/
def Regs.isEmpty (r : Regs) (d : DstReg) : Bool := match d with
  | .g n => !r.gFull.getLsbD n.toNat
  | .v n => !r.vFull.getLsbD n.toNat

/-- A register becomes full with a value (R31). -/
def Regs.fill (r : Regs) (d : DstReg) (x : Vec) : Regs := match d with
  | .g n => { r with g := vset r.g n.toNat (x.setWidth 64), gFull := bitSet r.gFull n.toNat true }
  | .v n => { r with v := vset r.v n.toNat x, vFull := bitSet r.vFull n.toNat true }

/-- A register becomes empty (R31). -/
def Regs.drain (r : Regs) (d : DstReg) : Regs := match d with
  | .g n => { r with gFull := bitSet r.gFull n.toNat false }
  | .v n => { r with vFull := bitSet r.vFull n.toNat false }

/-- A value that has come stays with the states saved since its request: where the register is empty in one, it fills
there too (R389). -/
def State.fillSaved (s : State) (t : Nat) (r : DstReg) (x : Vec) : State :=
  match s.node? t with
  | none => s
  | some n =>
    let g (o : Node) : Node := if o.regs.isEmpty r then { o with regs := o.regs.fill r x } else o
    let f (v : Saved) : Saved := { v with nodes := v.nodes.modify t g }
    s.modRegion n.region fun g => { g with saving := g.saving.map f, confirmed := g.confirmed.map f }

/-- REGISTER_VALUE_ARRIVE (R31): the value of a long-latency producer fills its register; one that comes before
its commit has marked the register empty waits. -/
def execRegisterValueArrive (t : Nat) (r : DstReg) (x : Vec) (s : State) : Host.Outcome State Fault Refusal :=
  .next <| match s.node? t with
  | none => s
  | some n =>
    if n.phase = .ended then s
    else if n.regs.isEmpty r then
      let mine : Bool := match r, n.drainDue with
        | .v k, some (k', y) => k = k' && x = y
        | _, _ => false
      let m := if mine then n.drained else n.mat
      (if mine then s else s.fillSaved t r x).setNode t { n with regs := n.regs.fill r x, mat := m }
    else s.post (.registerValueArrive t r x)

/-- Sends a value to a register of a node, and forwards a leader's to its shadows under its name (R381). -/
def State.sendReg (s : State) (t : Nat) (r : DstReg) (k : FwdKey) (x : Vec) : State :=
  let s := s.post (.registerValueArrive t r x)
  match s.node? t with
  | none => s
  | some n => s.forward n k x

/-! ### Answers and refusals -/

/-- A request of a node is answered; a commit that holds for it gets the value (R31, R159). -/
def State.answered (s : State) (t : Nat) (held : Bool) (x : Word) : State :=
  s.modNode t fun n => { n with outst := n.outst - 1, reply := if held then some x else n.reply }

/-- A request of a node that has left its block is refused (R72, R384): the node freezes at its next release, and
the request is issued again on resumption. A second one keeps trying until the first is resolved. -/
def State.lateFault (s : State) (t : Nat) (c : Cause) (prec : BitVec 2) (addr : Nat) (i : Instr) : State :=
  match s.node? t with
  | none => s
  | some n =>
    match n.late with
    | some _ => s.post i
    | none => s.setNode t { n with late := some (n.record s.now c prec (BitVec.ofNat 64 addr) 0 0, some i) }

/-- How a failed request of a node ends. -/
def State.requestFails (s : State) (t : Nat) (e : AccErr) (addr : Nat) (i : Instr) : State :=
  match e with
  | .access => s.lateFault t .accessLate 1 addr i
  | .poison => s.poisonNode t (BitVec.ofNat 64 addr)

/-- The 64-bit value that an atomic returns, zero-extended (R186). -/
def atomOld (r : AtomReq) (old : Nat) : Word := BitVec.ofNat 64 (old % 2 ^ r.ty.width)

/-- A node's own atomic or counter add has changed words: copies of them on the node's path are older and go (R155). -/
def State.ownChange (s : State) (t pa es : Nat) : State :=
  if s.ownLine (dieOf t) pa then s else s.dropWords t (pa / 128) (bytesMask (pa % 128) es)

/-- Ends an atomic that has been applied. What one with `.acq` on a round counter observes is the counter's new value (DESIGN CHOICE,
log 59). -/
def State.atomDone (s : State) (r : AtomReq) (v : Nat × Nat) : State :=
  let s := (s.ownChange r.tile r.pa r.ty.bytes).answered r.tile r.held (atomOld r v.2)
  match r.ret with
  | some (g, k) => s.sendReg r.tile (.g g) k ((atomOld r v.1).setWidth 1024)
  | none => s

/-- ATOMIC_AT_HOME (R114, R186). -/
def execAtomicAtHome (r : AtomReq) (s : State) : Host.Outcome State Fault Refusal :=
  .next <| match s.atomicAt (dieOf r.tile) r.m r.pa r.ty r.op r.right r.third false with
  | (.ok v, u) => (u.mine r.tile s).atomDone r v
  | (.error e, s) => s.requestFails r.tile e r.pa (.atomicAtHome r)

/-- COUNTER_ADD_AT_HOME (R157). -/
def execCounterAddAtHome (r : CtrReq) (s : State) : Host.Outcome State Fault Refusal :=
  .next <| match s.counterAt (dieOf r.tile) r.m r.pa r.amount with
  | (.ok v, u) => ((u.mine r.tile s).ownChange r.tile r.pa 8).answered r.tile r.held (BitVec.ofNat 64 v.2)
  | (.error e, s) => s.requestFails r.tile e r.pa (.counterAddAtHome r)

/-! ### Ordered atomics -/

/-- The die and slice at which an ordered atomic is ordered (R116, R188). -/
def State.orderHome (s : State) (r : AtomReq) : Option (Nat × Nat) :=
  match s.home (dieOf r.tile) r.pa with
  | .slice d sl => some (d, sl)
  | .proxy l sl => if s.hostIsCxl l then some (proxyDie l, sl) else none
  | _ => none

/-- The stream table entry of a context and stream on a die (R116, R453): eight bytes, of which the low four hold the number
(DESIGN CHOICE, log 59). -/
def State.streamAt (s : State) (d : Nat) (c : BitVec 12) (stream : BitVec 16) : Nat :=
  field (s.mmioAt d (0x10928 + 8 * c.toNat)).toNat 53 19 * 2 ^ 19 + 8 * stream.toNat

/-- The next expected number of a stream. -/
def State.expected (s : State) (d : Nat) (r : OrdReq) : Word32 :=
  BitVec.ofNat 32 (s.devRead (s.streamAt d r.req.m.ctx r.stream) 4)

/-- Ends an ordered atomic that has been applied: a peer's is answered (R63). -/
def State.orderDone (s : State) (r : OrdReq) (v : Nat × Nat) : State :=
  if r.remote then s.hand (.answer v.1 r.req.ty.bytes) else s.atomDone r.req v

/-- Ends an ordered atomic that has failed with a cause of its own or at its home. -/
def State.orderFails (s : State) (r : OrdReq) (e : Option AccErr) : State :=
  if r.remote then s.hand .refusedAnswer
  else match e with
    | some e => s.requestFails r.req.tile e r.req.pa (.orderedAtomicArrival r)
    | none => s.lateFault r.req.tile .orderedAtomic 1 r.req.pa (.orderedAtomicArrival r)

/-- The atomic operation of an ordered atomic that has been accepted. -/
def State.orderAtom (s : State) (r : OrdReq) : Except AccErr (Nat × Nat) × State :=
  let q := r.req
  let (x, u) := s.applyAt (dieOf q.tile) q.m q.pa q.ty.bytes false false (.ordered q.ty q.op q.right q.third r.stream r.seqNo)
    (AtomOp.apply q.op q.ty q.right.toNat q.third.toNat)
  (x, if r.remote then u else u.mine r.req.tile s)

/-- Applies an ordered atomic whose turn it is, and advances its stream (R116). -/
def State.orderApply (s : State) (d : Nat) (r : OrdReq) : State :=
  match s.orderAtom r with
  | (.error e, s) => s.orderFails r (some e)
  | (.ok v, s) =>
    let e := s.expected d r
    (s.devWrite (s.streamAt d r.req.m.ctx r.stream) 4 (e + 1).toNat).orderDone r v

/-- Applies the buffered entries of a stream whose turn has come; fuel bounds their number. -/
def State.orderDrain (s : State) (d : Nat) (r : OrdReq) : Nat → State
  | 0 => s
  | f + 1 =>
    let turn (q : OrdReq) : Bool := q.req.m.ctx = r.req.m.ctx && q.stream = r.stream && q.seqNo = s.expected d r
    match (s.die d).aoBuf.find? turn with
    | none => s
    | some q =>
      ((s.modDie d fun x => { x with aoBuf := x.aoBuf.filter fun y => y ≠ q }).orderApply d q).orderDrain d r f

/-- The stream of an ordered atomic at a peer. -/
def peerStream (r : OrdReq) : Nat := (r.req.pa / 2 ^ 45 * 2 ^ 12 + r.req.m.ctx.toNat) * 2 ^ 16 + r.stream.toNat

/-- Is an ordered atomic of this module to the same stream of a peer, with a lower number, still under way? -/
def State.earlierOrdered (s : State) (r : OrdReq) (least : Word32) : Bool :=
  s.agenda.any fun i => match i with
    | .orderedAtomicArrival q | .atomoRetryResend q => peerStream q = peerStream r && q.seqNo - least < r.seqNo - least
    | _ => false

/-- An ordered atomic for another device (R63, R116): it is applied there in the order of its stream. What lies between this module's
own numbers comes from elsewhere, at a time that is free: until it has, the atomic waits. -/
def State.orderAway (s : State) (r : OrdReq) : State :=
  let least := s.peerOrder.getD (peerStream r) 0
  let gap := r.seqNo - least
  if 2 ^ 31 ≤ gap.toNat then s.orderFails r none
  else
    let (c, s) := if gap = 0 then (1, s) else s.pick 2
    if c = 0 || s.earlierOrdered r least then s.post (.orderedAtomicArrival r)
    else
      match s.orderAtom r with
      | (.error e, s) => s.orderFails r (some e)
      | (.ok v, s) => { s with peerOrder := s.peerOrder.set (peerStream r) (r.seqNo + 1) }.orderDone r v

/-- An ordered atomic with the right to its address is handled at its home (R116, R117, R188): applied in its turn, buffered while
fewer than 63 entries of the slice wait, sent back where they are full, refused where it lies behind. -/
def State.orderTake (s : State) (r : OrdReq) : State :=
  match s.home (dieOf r.req.tile) r.req.pa, s.orderHome r.req with
  | .peer _, _ => s.orderAway r
  | _, none =>
    match s.orderAtom r with
    | (.error e, s) => s.orderFails r (some e)
    | (.ok v, s) => s.orderDone r v
  | _, some (d, sl) =>
    let gap := (r.seqNo - s.expected d r).toNat
    let s := s.touch (s.key (s.streamAt d r.req.m.ctx r.stream))
    if !(s.mmioAt d (0x10928 + 8 * r.req.m.ctx.toNat)).getLsbD 0 || 2 ^ 31 ≤ gap then s.orderFails r none
    else if gap = 0 then (s.orderApply d r).orderDrain d r 64
    else
      let waiting := (s.die d).aoBuf.filter fun q => s.orderHome q.req = some (d, sl)
      if waiting.length < 63 then s.modDie d fun x => { x with aoBuf := x.aoBuf ++ [r] }
      else if r.remote then s.hand .retryAnswer
      else s.post (.atomoRetryResend
        { r with backoff := if r.backoff = 0 then 64 else Nat.min 1024 (2 * r.backoff), accepted := false })

/-- An ordered atomic arrives: its rights are checked once, when it does (R74, R177). -/
def State.orderArrive (s : State) (r : OrdReq) : State :=
  if r.accepted then s.orderTake r
  else
    match s.permit (dieOf r.req.tile) r.req.m r.req.pa 3 with
    | (true, s) => s.orderTake { r with accepted := true }
    | (false, s) => s.orderFails r (some .access)

/-- ORDERED_ATOMIC_ARRIVAL (R116). -/
def execOrderedAtomicArrival (r : OrdReq) (s : State) : Host.Outcome State Fault Refusal := .next (s.orderArrive r)

/-- ATOMO_RETRY_RESEND (R116): after its backoff a refused arrival comes again. -/
def execAtomoRetryResend (r : OrdReq) (s : State) : Host.Outcome State Fault Refusal := .next (s.orderArrive r)

/-! ### Watches -/

/-- A node waits for a counter (R212): a watch where its home has one free, else it reads again and again. -/
def State.watchFor (s : State) (t pa : Nat) (target : Word) : State :=
  match s.watchHome (dieOf t) pa with
  | none => s.modNode t fun n => { n with watch := some ⟨pa, target, false⟩ }
  | some (d, k, _) =>
    let l := (s.die d).watches.getD k []
    if s.watchFree (dieOf t) pa then
      ((s.modDie d fun x => { x with watches := x.watches.set k (l ++ [t]) }).modNode t fun n =>
        { n with watch := some ⟨pa, target, true⟩ }).proxyWatch pa
    else s.modNode t fun n => { n with watch := some ⟨pa, target, false⟩ }

/-- A node's watch is withdrawn (R212). -/
def State.unwatch (s : State) (t : Nat) : State :=
  let s := s.modNode t fun n => { n with
    watch := none
    blk := { n.blk with sleep := n.blk.sleep.mapAll fun _ w => { w with held := false } } }
  (List.range 4).foldl (fun s d => s.modDie d fun x =>
    { x with watches := x.watches.mapAll fun _ l => l.filter fun k => k ≠ t }) s

/-- A node reads the counter that it waits for; a value that has reached its target is its observation. -/
def State.pollWatch (s : State) (t : Nat) : State :=
  match s.node? t with
  | none => s
  | some n =>
    match n.watch with
    | none => s
    | some w =>
      match s.readCounter (dieOf t) n.master w.pa with
      | (.error e, s) => (s.unwatch t).requestFails t e w.pa (.counterWatchRepoll t)
      | (.ok b, s) =>
        let v : Word := BitVec.ofNat 64 (Sys2Proof.ofBytes b)
        if w.target ≤ v then (s.unwatch t).modNode t fun n => { n with reply := some v } else s

/-- COUNTER_WATCH_REPOLL (R212): a waiter without a watch reads its counter again. -/
def execCounterWatchRepoll (t : Nat) (s : State) : Host.Outcome State Fault Refusal :=
  .next <| match s.node? t with
  | none => s
  | some n => match n.watch with
    | some w => if w.held then s else s.pollWatch t
    | none => s

/-- COUNTER_WATCH_NOTIFY (R212): the home of an 8-byte word answers every watch whose target it has reached. -/
def execCounterWatchNotify (key : Nat) (s : State) : Host.Outcome State Fault Refusal :=
  .next (s.notify (key / 8 * 8))

/-- A word of host memory as a read finds it: what it held, or what the host has written since, which is free. -/
def State.hostWord (s : State) (pa : Nat) : State :=
  let (c, s) := s.pick 2
  let (x, s) := s.pickWord
  if c = 0 then s else s.poke (s.key pa) 8 x.toNat

/-- Is the home of an address a proxy slice, and is its link trained as CXL? -/
def State.proxyOf (s : State) (pa : Nat) : Option (Nat × Bool) :=
  match s.home 0 pa with
  | .proxy l _ => some (l, s.hostIsCxl l)
  | _ => none

/-- HOST_COUNTER_POLL (R428): over PCI Express the proxy reads a watched counter again, and tests its watches. -/
def execHostCounterPoll (key : Nat) (s : State) : Host.Outcome State Fault Refusal :=
  .next <| match s.proxyOf key with
  | some (l, false) =>
    let a := key / 8 * 8
    if s.hostUp l then ((s.hand (.host l 5 (a % 2 ^ 45 / 128))).hostWord a).notify a else s
  | _ => s

/-! ### Directory and RDC requests -/

/-- HOME_READ_REQUEST (R106): an L1's read of a span of an own-die line, checked and served by its home. -/
def execHomeReadRequest (m : Master) (t line first count : Nat) (s : State) : Host.Outcome State Fault Refusal :=
  .next <| match s.homeLine (dieOf t) m (s.dom * 2 ^ 38 + line) (spanMask first count) false false with
  | (.error _, s) => s
  | (.ok _, s) => if s.ownLine (dieOf t) (s.global (line * 128)) then s.dirRead t line (spanMask first count) false else s

/-- OWNERSHIP_REQUEST (R106): an L1's request for a span of an own-die line in M. -/
def execOwnershipRequest (t line first count : Nat) (s : State) : Host.Outcome State Fault Refusal :=
  .next (
    if s.ownLine (dieOf t) (s.global (line * 128)) then
      (s.l2Use (dieOf t) line false).dirOwn t line (spanMask first count) false
    else s)

/-- EVICTION_WRITEBACK (R106): an L1 evicts a line, and its dirty words go back to the home. -/
def execEvictionWriteback (t line : Nat) (s : State) : Host.Outcome State Fault Refusal :=
  .next (s.l1Evict t (s.dom * 2 ^ 38 + line))

/-- RDC_FILL (R109, R110): a line homed elsewhere comes back and fills an RDC slice with a time stamp or with the
round of a region. `line` counts lines of the domain. -/
def execRdcFill (m : Master) (d line : Nat) (round : Option (Nat × Nat)) (s : State) : Host.Outcome State Fault Refusal :=
  .next <|
    let all : Word32 := BitVec.allOnes 32
    if !s.farLine d (line * 128) then s
    else
      match s.homeLine d m line all false true with
      | (.error _, s) => s
      | (.ok v, s) =>
        let (st, s) := match round with
          | some (k, r) => s.roundStamp d (rdcSlice line) m.ctx k r
          | none => s.timeStamp d (rdcSlice line)
        s.rdcPut d line all v st false

/-! ### Walks and rings -/

/-- PAGE_WALK (R85, R86, R88): a walker reads the next entry for the miss of a request; the end of the walk completes every miss
that its page covers, or leaves the fault for those who wait. -/
def execPageWalk (d : Nat) (ctx : BitVec 12) (page : Nat) (kind : AccKind) (_cls : BitVec 3) (r : Requester) (s : State) :
    Host.Outcome State Fault Refusal :=
  .next (
    let known := (s.die d).misses.any fun m => m.ctx = ctx && m.page = page && m.why.isNone
    (if known then s else s.missJoin d ctx page ⟨r, kind⟩).walkStep d ctx page)

/-- FAULT_RECORD_DEFERRED (R93, R452): records that wait for a ring are written as it has room. -/
def execFaultRecordDeferred (d ring : Nat) (s : State) : Host.Outcome State Fault Refusal := .next (s.drainRing d ring)

/-- TLB_INV_COMPLETE (R90): the invalidation under way ends once the windows it forced have performed. -/
def execTlbInvComplete (d : Nat) (s : State) : Host.Outcome State Fault Refusal :=
  .next (if (s.die d).tlbBusy && s.tlbClear d then s.tlbEnd d else s)

end Sys2Proof.Machine
end

