-- ==== Sys2Proof/Machine/Network.lean ====
section
/-! DEFINITION. The Scruple network at work (R309 to R327, R329 to R335, R444 to R446): working memory, propagation,
tabled scores, waves, loading, and its arrivals. An arrival whose access fails changes nothing: the network freezes or
halts and takes it again (log 19). -/

namespace Sys2Proof

open Sys2Proof.Machine

/-- The ID that a delta names. -/
def Delta.wid : Delta → Nat
  | .assert v | .modify v => (lane v 0).toNat
  | .retract i => i.toNat

/-- The class of a delta's image. -/
def Delta.cls : Delta → Nat
  | .assert v | .modify v => field (lane v 1).toNat 31 16
  | .retract _ => 0

end Sys2Proof

namespace Sys2Proof.Machine

/-- Why an arrival cannot be carried out: a translation that now waits (R91), a page that a load looks for whose walk runs (R88), or
a fault of the network. -/
inductive NetErr where
  | walk (ctx : BitVec 12) (assist : Word) (va : Nat) (kind : AccKind)
  | look (ctx : BitVec 12) (va : Nat)
  | fail (c : Cause) (addr : Nat)
  deriving DecidableEq, Repr

/-- A piece of an arrival: its result and the state after it, or why there is none. -/
abbrev NetM := StateT State (Except NetErr)

/-- The network of a die. -/
def netGet (d : Nat) : NetM Net := do return ((← get).die d).net

/-- Changes the network of a die. -/
def State.modNet (s : State) (d : Nat) (f : Net → Net) : State := s.modDie d fun x => { x with net := f x.net }

/-- Changes the network of a die. -/
def netMod (d : Nat) (f : Net → Net) : NetM Unit := modify fun s => s.modNet d f

/-- A free number below n, within an arrival. -/
def netPick (n : Nat) : NetM Nat := fun s => .ok (s.pick n)

/-! ### The owner's memory (R310) -/

/-- The master that the network is. -/
def Net.master (n : Net) : Master := ⟨n.owner.getD 0, 4⟩

/-- Translates an address of the owner. -/
def netXlate (d va : Nat) (kind : AccKind) : NetM Nat := fun s =>
  let n := (s.die d).net
  let c := n.owner.getD 0
  match s.xlate d none c (BitVec.ofNat 64 va) kind 4 n.assist (.network d) with
  | (.ok e, s) => .ok (e.phys va, s)
  | (.error .addr, _) => .error (.fail .accessLate va)
  | (.error .poison, _) => .error (.fail .uncorrectable va)
  | (.error .fault, _) => .error (.walk c n.assist va kind)

/-- An access of the network at a home. -/
def netGot {α : Type} (va : Nat) (r : Except AccErr α × State) : Except NetErr (α × State) :=
  match r with
  | (.ok x, s) => .ok (x, s)
  | (.error .access, _) => .error (.fail .accessLate va)
  | (.error .poison, _) => .error (.fail .uncorrectable va)

/-- Reads bytes of the owner's memory, line by line. -/
def netBytes (d : Nat) : List (Nat × Nat) → NetM (List Byte)
  | [] => pure []
  | (va, k) :: l => do
    let pa ← netXlate d va .read
    let b ← fun s => netGot va (s.homeRead d (s.die d).net.master pa k false)
    return b ++ (← netBytes d l)

/-- Reads n bytes as a number. -/
def netRead (d va n : Nat) : NetM Nat := do return Sys2Proof.ofBytes (← netBytes d (linesOf va n))

/-- Writes bytes of the owner's memory, line by line. -/
def netPut (d : Nat) : List (Nat × Nat) → List Byte → NetM Unit
  | [], _ => pure ()
  | (va, k) :: l, b => do
    let pa ← netXlate d va .write
    fun s => netGot va (s.homeWrite d (s.die d).net.master pa (b.take k))
    netPut d l (b.drop k)

/-- Writes n bytes of a number. -/
def netWrite (d va n x : Nat) : NetM Unit := netPut d (linesOf va n) (toBytes x n)

/-- A free number of n bytes, within an arrival. -/
def netFree : Nat → NetM (List Byte)
  | 0 => pure []
  | n + 1 => do
    let x ← fun s => Except.ok s.pickWord
    return toBytes x.toNat 8 ++ (← netFree n)

/-- The network's state goes through its heap (R310), as master (owner, class 4) like its other accesses. The heap's layout is private
and the on-die storage spills at times of its own: whether a piece of state is read from and written to the heap now, where, and with
which bytes, is free (DESIGN CHOICE, log 19). -/
def netHeap (d : Nat) : NetM Unit := do
  let n ← netGet d
  if n.heapsz.toNat < 64 then return
  if (← netPick 2) = 0 then return
  let a := n.heap + 64 * (← netPick (n.heapsz.toNat / 64))
  let _ ← netRead d a 64
  netPut d [(a, 64)] (← netFree 8)

/-! ### Working memory (R311) -/

/-- Generation, class and fields of an entry of 64 bytes; field 14 is the ID (R315). -/
def wmeGen (e : Nat) : Nat := field e 47 32
def wmeClass (e : Nat) : Nat := field e 63 48
def wmeField (e f : Nat) : Word32 := BitVec.ofNat 32 (if f = 14 then e else e / 2 ^ (64 + 32 * f))

/-- Entry i of the table. -/
def netEntry (d i : Nat) : NetM Nat := do netRead d ((← netGet d).wm + 64 * i) 64

/-- Writes entry i. -/
def netSetEntry (d i e : Nat) : NetM Unit := do netWrite d ((← netGet d).wm + 64 * i) 64 e

/-! ### Nodes (R315) -/

/-- The relation of a test word. -/
def testCond (op : Nat) : Cond :=
  if op = 1 then .eq else if op = 2 then .ne else if op = 3 then .lt else if op = 4 then .le
  else if op = 5 then .gt else .ge

/-- Does a test hold of two values? An FP32 test compares as FCMP does (R285, R313). -/
def testHolds (w : Word) (a b : Word32) : Bool :=
  let c := testCond (field w.toNat 63 60)
  let ty := field w.toNat 59 58
  if ty = 2 then Ty.f32.fpCmp c a.toNat b.toNat
  else if ty = 0 then c.holdsInt a.toInt b.toInt
  else c.holdsInt a.toNat b.toNat

/-- Does a test of an entry beside a token's patterns hold? -/
def netTest (d : Nat) (pats : List (Nat × Nat)) (e : Nat) (w : Word) : NetM Bool := do
  if field w.toNat 63 60 = 0 then return true
  let a := wmeField e (field w.toNat 57 54)
  if w.getLsbD 46 then return testHolds w a (w.setWidth 32)
  match pats[field w.toNat 49 47]? with
  | none => return false
  | some p => return testHolds w a (wmeField (← netEntry d p.1) (field w.toNat 53 50))

/-- Do all tests of a list hold? -/
def netTests (d : Nat) (pats : List (Nat × Nat)) (e : Nat) : List Word → NetM Bool
  | [] => return true
  | w :: l => do if ← netTest d pats e w then netTests d pats e l else return false

/-- Does WME i pass the tests of a node beside a token's patterns? -/
def netPass (d : Nat) (nd : NetNode) (pats : List (Nat × Nat)) (i : Nat) : NetM Bool := do
  netTests d pats (← netEntry d i) nd.tests

/-- Node i. -/
def Net.node (n : Net) (i : Nat) : NetNode := (n.nodes[i]?).getD ⟨0, 0, 0, 0, 0, [], 0, 0, 0⟩

/-- Children of a node that makes or passes tokens, in increasing index (R318). -/
def Net.kids (n : Net) (i : Nat) : List Nat :=
  (List.range n.nodes.length).filter fun k =>
    let x := n.node k
    2 ≤ x.kind && x.kind ≤ 5 && x.left = i && x.left ≠ x.right

/-- Nodes that an alpha node feeds, in increasing index. -/
def Net.fed (n : Net) (i : Nat) : List Nat :=
  (List.range n.nodes.length).filter fun k =>
    let x := n.node k
    (x.kind = 2 || x.kind = 3) && x.right = i

/-- Alpha nodes in increasing index (R445). -/
def Net.alphas (n : Net) : List Nat := (List.range n.nodes.length).filter fun k => (n.node k).kind = 1

/-- Classes of the negation nodes on the way from a node to the root (R315); fuel bounds the way. -/
def Net.negClasses (n : Net) : Nat → Nat → List Nat
  | 0, _ => []
  | f + 1, i =>
    let x := n.node i
    if x.kind = 3 then (n.node x.right).cls :: n.negClasses f x.left
    else if x.kind = 2 && x.left = x.right then []
    else if 2 ≤ x.kind && x.kind ≤ 5 then n.negClasses f x.left
    else []

/-- The WMEs in an alpha memory, in increasing ID. While WME w enters, the alpha nodes from index `upto` on do not
hold it yet (R445). -/
def netAlpha (d a : Nat) (cur : Option (Nat × Nat)) : NetM (List Nat) := do
  let n ← netGet d
  let entered (i : Nat) : Bool := match cur with
    | some (w, upto) => i ≠ w || a ≤ upto
    | none => true
  ((n.stamps.map (·.1)).filter entered).filterM fun i => do
    let e ← netEntry d i
    if wmeClass e = (n.node a).cls then netTests d [] e (n.node a).tests else return false

/-! ### Tokens (R317 to R319) -/

/-- A new token with the next token number. -/
def netToken (d : Nat) (t : NTok) : NetM Nat := do
  netHeap d
  let n ← netGet d
  netMod d fun n => { n with tokens := n.tokens.set n.tokNum t, tokNum := (n.tokNum + 1) % 2 ^ 64 }
  return n.tokNum

/-- Tokens that a node made, in increasing number. -/
def Net.beta (n : Net) (i : Nat) : List (Nat × NTok) := n.tokens.filter fun p => p.2.node = i

/-- Token numbers of a set with all their descendants: a parent's number is below its child's. -/
def Net.closure (n : Net) (l : List Nat) : List Nat :=
  n.tokens.foldl (fun a p => match p.2.parent with
    | some q => if a.contains q && !a.contains p.1 then a ++ [p.1] else a
    | none => a) l

/-- Key of an activation: the token's number and the production node. -/
def actKey (t i : Nat) : Nat := t * 65536 + i

/-- Deletes tokens with their descendants: activations are withdrawn and counted, parked and waiting tokens leave
their lists (R319). -/
def Net.delete (n : Net) (l : List Nat) : Net :=
  let dead := n.closure l
  let gone := n.acts.filter fun p => dead.contains (p.1 / 65536)
  { n with
    tokens := n.tokens.filter fun p => !dead.contains p.1
    acts := n.acts.filter fun p => !dead.contains (p.1 / 65536)
    withdrawn := n.withdrawn + gone.length
    blocks := n.blocks.mapAll fun _ b => b.filter fun x => !dead.contains x.1
    parked := n.parked.mapAll fun _ b => b.filter fun x => !dead.contains x.2
    stalled := n.stalled.filter fun x => !dead.contains x.2 }

/-- Writes the park word of a pending entry: a heap address while tokens are parked there, else 0 (R321). -/
def netParkWord (d e : Nat) (parked : Bool) : NetM Unit := do
  let n ← netGet d
  let p ← if parked then netPick (Nat.max 1 n.heapsz.toNat) else pure 0
  netWrite d (n.st + 128 * e + 88) 8 (if parked then n.heap + p else 0)

/-- Deletes tokens; an entry that the last parked token leaves names no list (R319, R321). -/
def netDelete (d : Nat) (l : List Nat) : NetM Unit := do
  netHeap d
  let n ← netGet d
  netMod d fun n => n.delete l
  let m ← netGet d
  (n.parked.filter fun p => p.2 ≠ [] && m.parked.getD p.1 [] = []).forM fun p => netParkWord d p.1 false

/-- A production node makes an activation of a token (R317, R323). -/
def Net.activate (n : Net) (i t : Nat) (k : NTok) : Net :=
  let stamp := (k.pats.map fun p => (n.stamps.getD p.1 0).toNat).foldl Nat.max 0
  { n with acts := n.acts.set (actKey t i) ⟨i, k.pats, BitVec.ofNat 64 stamp⟩ }

/-! ### Tabled scores (R320 to R322) -/

/-- The hash of R320. -/
def scoreHash (pats : List (Nat × Nat)) : Word :=
  pats.foldl (fun h p => Sys2Proof.fmix (h ^^^ BitVec.ofNat 64 (p.2 * 2 ^ 32 ^^^ p.1))) 0x9E3779B97F4A7C15

/-- Address of entry e of the score table. -/
def Net.scoreAt (n : Net) (e : Nat) : Nat := n.st + 128 * e

/-- What a lookup finds: the entry of the key and whether it is valid, the first free entry, the valid entry with the
lowest address. -/
structure Probe where
  hit : Option (Nat × Bool)
  room : Option Nat
  victim : Option Nat
  deriving DecidableEq, Repr

/-- Does one of the pairs of an entry name a free WME or an old generation (R321)? -/
def netDead (d a : Nat) : Nat → NetM Bool
  | 0 => return false
  | k + 1 => do
    let p ← netRead d (a + 24 + 8 * k) 8
    let i := field p 31 0
    if 2 ^ (← netGet d).wmn ≤ i then return true
    let e ← netEntry d i
    if wmeClass e = 0 || wmeGen e ≠ field p 47 32 then return true else netDead d a k

/-- Looks a key up through entries (R321); a dead entry that it passes over is freed. -/
def netProbe (d : Nat) (h : Word) (key : Nat) : List Nat → Probe → NetM Probe
  | [], p => return p
  | e :: l, p => do
    let a := (← netGet d).scoreAt e
    let w0 ← netRead d a 8
    let st := field w0 63 62
    let dead ← if st = 2 then netDead d a (Nat.min 8 (field w0 35 32)) else pure false
    if dead then netWrite d a 8 (w0 % 2 ^ 62)
    let st := if dead then 0 else st
    if (st = 1 || st = 2) && w0 % 2 ^ 32 = key && (← netRead d (a + 8) 8) = h.toNat then
      return { p with hit := some (e, st = 2) }
    else
      netProbe d h key l (if st = 1 then p
        else if st = 2 then
          { p with victim := some (match p.victim with
            | some v => Nat.min v e
            | none => e) }
        else { p with room := p.room.or (some e) })

/-- Looks a key up (R321). -/
def netLookup (d : Nat) (h : Word) (key : Nat) : NetM Probe := do
  let n ← netGet d
  netProbe d h key ((List.range 8).map fun k => (h.toNat + k) % 2 ^ n.stm) ⟨none, none, none⟩

/-- Puts a task record of the network into its die's task dispatch (R322, R325). -/
def netRecord (d tmpl node inst : Nat) (spare : Word) (firing : Option Nat) : NetM Unit := do
  let n ← netGet d
  let id ← modifyGet fun s => s.fresh
  modify fun s => s.modDie d fun x => { x with
    tasks := x.tasks ++ [⟨id, BitVec.ofNat 64 (tmpl * 2 ^ 48 + node * 2 ^ 32 + inst), spare, n.owner.getD 0, none, 0, firing, [], false, none⟩] }

/-- Does a score meet the condition of a score node, as FCMP compares (R285, R322)? -/
def scoreMeets (nd : NetNode) (score : Nat) : Bool :=
  let c : Cond := match field nd.w2.toNat 30 28 with
    | 0 => .eq | 1 => .ne | 2 => .lt | 3 => .le | 4 => .gt | 5 => .ge | 6 => .uo | _ => .or
  Ty.f32.fpCmp c (score % 2 ^ 32) (field nd.w1.toNat 31 0)

/-- A token at a score node (R322): `pass` takes it on where its score is tabled and meets the condition. -/
def netScore (d i t : Nat) (k : NTok) (pass : NetM Unit) : NetM Unit := do
  let n ← netGet d
  let nd := n.node i
  let key := field nd.w1.toNat 63 32
  let p ← netLookup d (scoreHash k.pats) (field key 31 16 * 2 ^ 16 + key % 2 ^ 16)
  match p.hit with
  | some (e, true) =>
    if scoreMeets nd (← netRead d (n.scoreAt e + 16) 4) then pass
  | some (e, false) =>
    if n.parked.getD e [] = [] then netParkWord d e true
    netMod d fun n => { n with parked := n.parked.set e (n.parked.getD e [] ++ [(i, t)]) }
  | none =>
    match p.room.or p.victim with
    | none => netMod d fun n => { n with stalled := n.stalled ++ [(i, t)] }
    | some e =>
      let a := n.scoreAt e
      let park ← netPick (Nat.max 1 n.heapsz.toNat)
      let w0 := 2 ^ 62 + k.pats.length * 2 ^ 32 + key
      let pairs := (List.range 8).map fun j => match k.pats[j]? with
        | some q => q.2 * 2 ^ 32 + q.1
        | none => 0
      netPut d [(a, 128)] ((w0 :: (scoreHash k.pats).toNat :: 0 :: pairs ++ [n.heap + park, 0, 0, 0, 0]).flatMap
        fun x => toBytes x 8)
      netMod d fun n => { n with parked := n.parked.set e [(i, t)] }
      netRecord d (field nd.w2.toNat 63 48) (field nd.w2.toNat 47 32) e (BitVec.ofNat 64 a) none

/-! ### Propagation (R317, R318, R445) -/

/-- Makes a token and passes it to the children of the node that made it. -/
def netSpawn (d : Nat) (act : Nat → Nat → NetM Unit) (k : NTok) : NetM Unit := do
  let t ← netToken d k
  ((← netGet d).kids k.node).forM fun c => act c t

/-- A pair of a join: where its tests hold and the child does not stand yet, the child token. -/
def netJoin (d : Nat) (act : Nat → Nat → NetM Unit) (i t : Nat) (k : NTok) (w : Nat) : NetM Unit := do
  let n ← netGet d
  if n.tokens.any fun p => p.2.node = i && p.2.parent = some t && p.2.wme = some w then return
  if ← netPass d (n.node i) k.pats w then
    netSpawn d act ⟨i, some t, some w, k.pats ++ [(w, wmeGen (← netEntry d w))]⟩

/-- A parent token passes a negation node. -/
def netNegPass (d : Nat) (act : Nat → Nat → NetM Unit) (i t : Nat) (k : NTok) : NetM Unit :=
  netSpawn d act ⟨i, some t, none, k.pats⟩

/-- Token t reaches node i from its left parent. Fuel bounds the depth of the network. -/
def netLeft (d : Nat) (cur : Option (Nat × Nat)) : Nat → Nat → Nat → NetM Unit
  | 0, _, _ => pure ()
  | f + 1, i, t => do
    let n ← netGet d
    let nd := n.node i
    match Tbl.get? t n.tokens with
    | none => pure ()
    | some k =>
      if nd.kind = 2 then
        (← netAlpha d nd.right cur).forM fun w => netJoin d (netLeft d cur f) i t k w
      else if nd.kind = 3 then
        let bl ← (← netAlpha d nd.right cur).filterM fun w => netPass d nd k.pats w
        if bl = [] then netNegPass d (netLeft d cur f) i t k
        else netMod d fun n => { n with blocks := n.blocks.set i (n.blocks.getD i [] ++ bl.map fun w => (t, w)) }
      else if nd.kind = 4 then
        netScore d i t k ((n.kids i).forM fun c => netLeft d cur f c t)
      else if nd.kind = 5 then netMod d fun n => n.activate i t k
      else pure ()

/-- Fuel for the depth of a network. -/
def Net.deep (n : Net) : Nat := n.nodes.length + 1

/-- A WME that has entered the alpha memory of node i's right parent reaches node i. -/
def netRight (d : Nat) (cur : Option (Nat × Nat)) (i w : Nat) : NetM Unit := do
  let n ← netGet d
  let nd := n.node i
  let act := netLeft d cur n.deep
  if nd.kind = 2 && nd.left = nd.right then
    if ← netPass d nd [] w then netSpawn d act ⟨i, none, some w, [(w, wmeGen (← netEntry d w))]⟩
  else if nd.kind = 2 then (n.beta nd.left).forM fun p => netJoin d act i p.1 p.2 w
  else
    (n.beta nd.left).forM fun p => do
      if ← netPass d nd p.2.pats w then
        let n ← netGet d
        let b := n.blocks.getD i []
        if !b.contains (p.1, w) then
          netMod d fun n => { n with blocks := n.blocks.set i (b ++ [(p.1, w)]) }
          if !b.any fun x => x.1 = p.1 then
            netDelete d ((n.tokens.filter fun q => q.2.node = i && q.2.parent = some p.1 && q.2.wme.isNone).map (·.1))

/-- WME w enters the network (R445): the alpha nodes in increasing index, each with all that follows. -/
def netEnter (d w : Nat) : NetM Unit := do
  netHeap d
  let n ← netGet d
  netMod d fun n => { n with stamps := n.stamps.set w n.stamp, stamp := n.stamp + 1 }
  n.alphas.forM fun a => do
    let e ← netEntry d w
    if wmeClass e = (n.node a).cls then
      if ← netTests d [] e (n.node a).tests then
        (n.fed a).forM fun i => netRight d (some (w, a)) i w

/-- WME w leaves (R319): its tokens go with their descendants, then the tokens that it alone blocked pass. -/
def netLeave (d w : Nat) : NetM Unit := do
  netMod d fun n => { n with stamps := n.stamps.erase w }
  let n ← netGet d
  netDelete d ((n.tokens.filter fun p => p.2.wme = some w).map (·.1))
  let n ← netGet d
  let freed := n.blocks.flatMap fun b =>
    ((b.2.filter fun x => x.2 = w && !b.2.any fun y => y.1 = x.1 && y.2 ≠ w).map (·.1)).mergeSort.map fun t => (b.1, t)
  netMod d fun n => { n with blocks := n.blocks.mapAll fun _ b => b.filter fun x => x.2 ≠ w }
  freed.forM fun p => do
    match Tbl.get? p.2 (← netGet d).tokens with
    | some k => netNegPass d (netLeft d none n.deep) p.1 p.2 k
    | none => pure ()

/-! ### Deltas (R312) -/

/-- A delta is refused: it is counted and an event is written (R312). -/
def netRefuse (d : Nat) : NetM Unit := do
  let n ← netGet d
  netMod d fun n => { n with dropped := n.dropped + 1 }
  modify fun s => s.event d 0x07 (n.owner.getD 0) 0 0 0

/-- Retracts WME i (R312, R319). -/
def netRetract (d i : Nat) : NetM Unit := do
  netSetEntry d i ((← netEntry d i) &&& bits 47 0 ||| (← netEntry d i) / 2 ^ 64 * 2 ^ 64)
  netLeave d i

/-- Asserts an image at ID i: class and fields from the image, the next generation (R312). -/
def netAssert (d i : Nat) (v : Vec) : NetM Unit := do
  let g := (wmeGen (← netEntry d i) + 1) % 2 ^ 16
  let x := v.toNat % 2 ^ 512
  netSetEntry d i (x / 2 ^ 48 * 2 ^ 48 + g * 2 ^ 32 + i)
  netEnter d i

/-- Applies a delta (R312). -/
def netDelta (d : Nat) (x : Delta) : NetM Unit := do
  let i := x.wid
  let used := wmeClass (← netEntry d i) ≠ 0
  match x with
  | .assert v => if used || x.cls = 0 then netRefuse d else netAssert d i v
  | .retract _ => if !used then netRefuse d else netRetract d i
  | .modify v =>
    if !used || x.cls = 0 then netRefuse d
    else
      netRetract d i
      netAssert d i v

/-! ### The conflict set and waves (R323 to R326) -/

/-- A production node's rule ID, salience and masks. -/
def NetNode.rule (x : NetNode) : Nat := field x.w1.toNat 63 48
def NetNode.salience (x : NetNode) : Int := (x.w1.extractLsb' 32 16).toInt
def NetNode.adds (x : NetNode) : List Nat :=
  ((List.range 4).map fun k => field x.w3.toNat (16 * k + 15) (16 * k)).filter fun c => c ≠ 0

/-- Does activation a stand before b in the order of R323? Keys end with the activation ID. -/
def Net.before (n : Net) (a b : Nat × Activation) : Bool :=
  let x := n.node a.2.node
  let y := n.node b.2.node
  if x.salience ≠ y.salience then y.salience < x.salience
  else if a.2.stamp ≠ b.2.stamp then b.2.stamp < a.2.stamp
  else if x.rule ≠ y.rule then x.rule < y.rule
  else a.1 ≤ b.1

/-- IDs at the patterns of a mask. -/
def maskIds (pats : List (Nat × Nat)) (m : Nat) : List Nat :=
  ((List.range 8).filter fun j => m.testBit j).filterMap fun j => (pats[j]?).map (·.1)

/-- The sets of R324. -/
def Activation.wmes (a : Activation) : List Nat := a.pats.map (·.1)
def Net.rm (n : Net) (a : Activation) : List Nat := maskIds a.pats (field (n.node a.node).w2.toNat 63 56)
def Net.mods (n : Net) (a : Activation) : List Nat := maskIds a.pats (field (n.node a.node).w2.toNat 55 48)
def Net.neg (n : Net) (a : Activation) : List Nat := n.negClasses n.deep a.node

/-- Do two sets meet? -/
def meets (a b : List Nat) : Bool := a.any fun x => b.contains x

/-- Do two activations shut each other out (R324)? -/
def Net.clash (n : Net) (a b : Activation) : Bool :=
  meets a.wmes (n.rm b ++ n.mods b) || meets (n.rm a ++ n.mods a) b.wmes || meets (n.mods a) (n.mods b)
    || meets (n.node a.node).adds (n.neg b) || meets (n.node b.node).adds (n.neg a)

/-- Takes a wave from activations in order (R324). -/
def Net.accept (n : Net) (limit : Nat) : List (Nat × Activation) → List (Nat × Activation) → List (Nat × Activation)
  | [], acc => acc
  | a :: l, acc =>
    if acc.length = limit then acc
    else n.accept limit l (if acc.any fun b => n.clash a.2 b.2 then acc else acc ++ [a])

/-- The wave that a limit gives (R323, R324). -/
def Net.form (n : Net) (limit : Nat) : List (Nat × Activation) :=
  n.accept limit (n.acts.mergeSort fun a b => n.before a b) []

/-- Is no delta queued, no token parked and no score request outstanding (R332)? A CSWAVE or NETLD asks it of the
queue before its own arrival. -/
def Net.quiescent (n : Net) : Bool :=
  n.held = [] && n.parked = [] && n.stalled = [] && n.filling.isNone && !(n.wave.any fun w => w.deltas ≠ [])

/-- Puts the task records of a wave's slots (R325). -/
def netFirings (d : Nat) : Nat → List WaveSlot → NetM Unit
  | _, [] => pure ()
  | k, w :: l => do
    let x := (← netGet d).node w.act.node
    netRecord d (field x.w1.toNat 31 16) (field x.w1.toNat 15 0) k (BitVec.ofNat 64 (w.actId)) (some w.id)
    netFirings d (k + 1) l

/-- Forms a wave (R324, R325, R332). -/
def netWave (d : Nat) (c : CtrRef) (ctx : BitVec 12) (limit : Nat) : NetM Unit := do
  let n ← netGet d
  let acc := n.form limit
  let first ← modifyGet fun s => (s.nextId, { s with nextId := s.nextId + acc.length })
  let slots := (List.range acc.length).filterMap fun k => (acc[k]?).map fun a =>
    (⟨first + k, a.1 / 65536, a.2, [], false⟩ : WaveSlot)
  netMod d fun n => { n with
    acts := n.acts.filter fun p => !(acc.map (·.1)).contains p.1
    wave := slots
    waveCtr := some (c, ctx)
    open_ := acc ≠ []
    closed := if acc = [] then n.closed + 1 else n.closed }
  netFirings d 0 slots

/-- Does a buffered delta match its slot's declarations (R326)? -/
def Net.declared (n : Net) (a : Activation) (x : Delta) : Bool := match x with
  | .assert _ => (n.node a.node).adds.contains x.cls
  | .retract _ => (n.rm a).contains x.wid
  | .modify _ => (n.mods a).contains x.wid

/-- Is every slot of the open wave done? -/
def Net.allDone (n : Net) : Bool := n.open_ && n.wave.all fun w => w.done

/-- The first buffered delta of a wave, slot 0 first and in issue order within each slot, with what is left (R326). -/
def firstDelta : List WaveSlot → Option (Activation × Delta × List WaveSlot)
  | [] => none
  | w :: l => match w.deltas with
    | x :: m => some (w.act, x, { w with deltas := m } :: l)
    | [] => (firstDelta l).map fun r => (r.1, r.2.1, w :: r.2.2)

/-- Applies one buffered delta, or refuses it where it does not match its slot's declarations (R326). -/
def netBuffered (d : Nat) (a : Activation) (x : Delta) (left : List WaveSlot) : NetM Unit := do
  netMod d fun n => { n with wave := left }
  if (← netGet d).declared a x then netDelta d x else netRefuse d

/-- The wave closes; the arrivals held from other sources come next (R326). -/
def Net.close (n : Net) : Net :=
  { n with open_ := false, closed := n.closed + 1, inbox := n.held ++ n.inbox, held := [] }

/-- Counts a slot's FDONE (R333). -/
def netDone (d id : Nat) : NetM Unit :=
  netMod d fun n => { n with wave := n.wave.map fun w => if w.id = id then { w with done := true } else w }

/-! ### SCSET (R334) -/

/-- Judges parked tokens in parking order against a score (R322). -/
def netWake (d score : Nat) (l : List (Nat × Nat)) : NetM Unit :=
  l.forM fun p => do
    let n ← netGet d
    if n.tokens.has p.2 && scoreMeets (n.node p.1) score then
      (n.kids p.1).forM fun c => netLeft d none n.deep c p.2

/-- Tokens that found every entry pending look again. -/
def netRetry (d : Nat) : NetM Unit := do
  let n ← netGet d
  netMod d fun n => { n with stalled := [] }
  n.stalled.forM fun p => do
    let n ← netGet d
    match Tbl.get? p.2 n.tokens with
    | some k => netScore d p.1 p.2 k ((n.kids p.1).forM fun c => netLeft d none n.deep c p.2)
    | none => pure ()

/-- A score-conflict event. -/
def netConflict (d : Nat) : NetM Unit := do
  let n ← netGet d
  modify fun s => s.event d 0x08 (n.owner.getD 0) 0 0 0

/-- SCSET at the network (R334). -/
def netScset (d : Nat) (h key : Word) : NetM Unit := do
  let n ← netGet d
  let id := field key.toNat 63 32
  let score := field key.toNat 31 0
  let p ← netLookup d h id
  match p.hit with
  | some (_, true) => netConflict d
  | some (e, false) =>
    let a := n.scoreAt e
    let w0 ← netRead d a 8
    netWrite d (a + 16) 4 score
    netWrite d (a + 88) 8 0
    netWrite d a 8 (2 ^ 63 + w0 % 2 ^ 62)
    netMod d fun n => { n with parked := n.parked.erase e }
    netWake d score (n.parked.getD e [])
    netRetry d
  | none =>
    match p.room with
    | none => netConflict d
    | some e =>
      netPut d [(n.scoreAt e, 128)] ([2 ^ 63 + id, h.toNat, score].flatMap (fun x => toBytes x 8) ++ List.replicate 104 0)

/-! ### NETLD (R314 to R316, R335) -/

/-- Is a test other than op 0 without a constant? -/
def testOther (w : Word) : Bool := field w.toNat 63 60 ≠ 0 && !w.getLsbD 46

/-- Is a test word well formed: op, reserved bits, and the fields that the test reads (R315, log 19)? -/
def testOk (w : Word) : Bool :=
  field w.toNat 63 60 ≤ 6 && field w.toNat 45 32 = 0 && (field w.toNat 63 60 = 0 || field w.toNat 57 54 ≤ 14)
    && (!testOther w || field w.toNat 53 50 ≤ 14)

/-- A node record as it is read: its four words. -/
abbrev NodeRec := Word × Word × Word × Word

/-- The node of a record, its tests those that it holds itself. -/
def NetNode.ofRec (r : NodeRec) : NetNode :=
  let w := r.1.toNat
  let k := field w 63 60
  ⟨k, field w 59 56, field w 47 32, field w 31 16, field w 15 0,
    if k = 6 then [r.2.1, r.2.2.1, r.2.2.2].take (field w 59 58) else if k ≤ 3 then [r.2.1, r.2.2.1] else [],
    r.2.1, r.2.2.1, r.2.2.2⟩

/-- Does record i of an image pass the checks of R316, given the nodes before it with their extensions' tests? -/
def nodeOk (ns : List NetNode) (r : NodeRec) (x : NetNode) : Bool :=
  let i := ns.length
  let w := r.1.toNat
  let lk := if x.left < i then ((ns[x.left]?).map (·.kind)).getD 0 else 0
  let rk := if x.right < i then ((ns[x.right]?).map (·.kind)).getD 0 else 0
  let ld := ((ns[x.left]?).map (·.depth)).getD 0
  field w 55 48 = 0 &&
  (if x.kind = 1 then
    x.left = 0xFFFF && x.right = 0xFFFF && x.depth = 1 && x.tests.all testOk && !x.tests.any testOther && r.2.2.2 = 0
  else if x.kind = 2 then
    rk = 1 && x.tests.all testOk && r.2.2.2 = 0 &&
      (if x.left = x.right then x.depth = 1 else (lk = 2 || lk = 3) && x.depth = ld + 1 && x.depth ≤ 8)
  else if x.kind = 3 then
    rk = 1 && (lk = 2 || lk = 3) && x.depth = ld && x.tests.all testOk && r.2.2.2 = 0
  else if x.kind = 4 then
    (lk = 2 || lk = 3) && x.right = 0xFFFF && x.depth = ld && field r.2.2.1.toNat 27 0 = 0 && r.2.2.2 = 0
      && field r.2.2.1.toNat 31 28 < 8
  else if x.kind = 5 then
    (lk = 2 || lk = 3 || lk = 4) && x.right = 0xFFFF && x.depth = ld && field r.2.2.1.toNat 44 0 = 0
  else false)

/-- Do the tests of a join or negation node name patterns that its left parent's tokens hold (R316)? -/
def depthOk (ns : List NetNode) (x : NetNode) : Bool :=
  let ld := if x.left = x.right then 0 else ((ns[x.left]?).map (·.depth)).getD 0
  if x.kind = 2 || x.kind = 3 then x.tests.all fun w => !testOther w || field w.toNat 49 47 < ld
  else if x.kind = 1 then !x.tests.any testOther
  else true

/-- Reads node records into nodes, or rejects them (R315, R316). `host` is the node that an extension would extend
and how many it has. -/
def netNodes (ns : List NetNode) (host : Option (Nat × Nat)) : List NodeRec → Option (List NetNode)
  | [] => some ns
  | r :: l =>
    let x := NetNode.ofRec r
    if x.kind = 6 then
      match host with
      | none => none
      | some (h, k) =>
        let y := (ns[h]?).getD x
        let c := field r.1.toNat 59 58
        if 2 ≤ k || field r.1.toNat 57 0 ≠ 0 || c = 0 || 8 < y.tests.length + c || !x.tests.all testOk
            || ([r.2.1, r.2.2.1, r.2.2.2].drop c).any fun w => w ≠ 0 then none
        else
          let y := { y with tests := y.tests ++ x.tests }
          if depthOk ns y then netNodes (ns.set h y ++ [{ x with tests := [] }]) (some (h, k + 1)) l else none
    else if nodeOk ns r x && depthOk ns x then
      netNodes (ns ++ [x]) (if x.kind ≤ 3 then some (ns.length, 0) else none) l
    else none

/-- Reads k node records. -/
def netRecs (d va : Nat) : Nat → NetM (List NodeRec)
  | 0 => return []
  | k + 1 => do
    let w (i : Nat) : NetM Word := do return BitVec.ofNat 64 (← netRead d (va + 8 * i) 8)
    let r := ((← w 0), (← w 1), (← w 2), (← w 3))
    return r :: (← netRecs d (va + 32) k)

/-- Is one of k pages from va on not mapped? -/
def netHole (d va : Nat) : Nat → NetM Bool
  | 0 => return false
  | k + 1 => fun s =>
    let c := (s.die d).net.owner.getD 0
    match s.xlateHint d none c va .read (.network d) with
    | (.page _, s) => (netHole d (va + 65536) k).run s
    | (.missing, s) => .ok (true, s)
    | (.walking, _) => .error (.look c va)

/-- Does an image run past the end of its mapping (R316)? -/
def netRunsPast (d va len : Nat) : NetM Bool :=
  if len = 0 || 2 ^ 56 < va + len then return true
  else netHole d (va / 65536 * 65536) ((va + len - 1) / 65536 + 1 - va / 65536)

/-- The network is left unloaded with a load status, and a network-load event is written. -/
def netReject (d status : Nat) (ctx : BitVec 12) : NetM Unit := do
  netMod d fun n => { Net.reset with status := status, inbox := n.inbox }
  modify fun s => s.event d 0x08 ctx 0 0 0

/-- A load asserts entry i of working memory, with its generation, if its class is nonzero; after the last one the load has
succeeded (R335). -/
def netFill (d i : Nat) : NetM Unit := do
  if wmeClass (← netEntry d i) ≠ 0 then netEnter d i
  netMod d fun n => if i + 1 < 2 ^ n.wmn then { n with filling := some (i + 1) } else { n with filling := none, status := 1 }

/-- NETLD at the network (R335): the old state goes, the block is read and checked, then the image; what is left is to assert the
entries of working memory. -/
def netLoad (d : Nat) (ctx : BitVec 12) (assist image block : Word) : NetM Unit := do
  let old ← netGet d
  netMod d fun n => { Net.reset with status := old.status, inbox := n.inbox }
  if image ≠ 0 then
    netMod d fun n => { n with owner := some ctx, assist := assist }
    let w (i : Nat) : NetM Nat := netRead d (block.toNat + 8 * i) 8
    let b0 ← w 0
    let b1 ← w 1
    let b2 ← w 2
    let b3 ← w 3
    let b4 ← w 4
    let b5 ← w 5
    let b6 ← w 6
    let b7 ← w 7
    if 2 ^ 56 ≤ b0 || b0 % 64 ≠ 0 || b1 < 10 || 24 < b1 || 2 ^ 56 ≤ b2 || b2 % 4096 ≠ 0 || b3 % 4096 ≠ 0
        || 2 ^ 56 ≤ b4 || b4 % 128 ≠ 0 || b5 < 8 || 24 < b5 || b6 ≠ 0 || b7 ≠ 0 then netReject d 3 ctx
    else
      let va := image.toNat
      let h0 ← netRead d va 8
      let len ← netRead d (va + 8) 8
      let rest ← netBytes d (linesOf (va + 16) 48)
      let count := field h0 31 16
      if field h0 63 48 ≠ 0x5C7A || field h0 47 32 ≠ 1 || count = 0 || rest.any (fun b => b ≠ 0)
          || len < 64 + 32 * count || (← netRunsPast d va len) then netReject d 2 ctx
      else
        match netNodes [] none (← netRecs d (va + 64) count) with
        | none => netReject d 2 ctx
        | some ns =>
          let bytes ← netBytes d (linesOf va len)
          netMod d fun n => { n with
            wm := b0, wmn := b1, heap := b2, heapsz := BitVec.ofNat 64 b3, st := b4, stm := b5
            image := bytes, nodes := ns, stamp := 1, tokNum := 1, filling := some 0 }

/-! ### Arrivals (R446) -/

/-- The network halts with a record of a given detail (R310, R382, R384). It names handle 0 (log 19). -/
def State.netHaltWith (s : State) (d : Nat) (c : Cause) (addr : Nat) (detail : Word32) : State :=
  let r : FaultRec := ⟨c, 1, false, ((s.die d).net.owner).getD 0, 1024 * d, 0, BitVec.ofNat 64 addr, detail, 0, 0, s.now⟩
  (s.modNet d fun n => { n with halted := some r }).report d r

/-- The network halts with a record without a detail. -/
def State.netHalt (s : State) (d : Nat) (c : Cause) (addr : Nat) : State := s.netHaltWith d c addr 0

/-- What met a fault is given up (R386): the load, the add to the wave counter, the first buffered delta or the message that the
network works at (DEDUCED, log 19). -/
def Net.discard (n : Net) : Net :=
  let n := { n with halted := none }
  if n.filling.isSome then { Net.reset with status := n.status, inbox := n.inbox }
  else if n.waveCtr.isSome && !n.open_ && n.inbox = [] then { n with waveCtr := none }
  else if n.open_ && n.wave.all (·.done) then
    (match firstDelta n.wave with
     | some (_, _, left) => { n with wave := left }
     | none => n)
  else { n with inbox := n.inbox.tail }

/-- Carries a piece out; where it fails, nothing of it stays, and the network freezes or halts. -/
def State.netRun {α : Type} (s : State) (d : Nat) (m : NetM α) (k : α → State → State) : State :=
  match m.run s with
  | .ok (x, s) => k x s
  | .error (.walk ctx assist va kind) =>
    match s.xlate d none ctx (BitVec.ofNat 64 va) kind 4 assist (.network d) with
    | (.error .fault, s) => s.freezeWalk (.network d)
    | (_, s) => s
  | .error (.look ctx va) => (s.xlateHint d none ctx va .read (.network d)).2
  | .error (.fail c addr) => s.netHalt d c addr

/-- May the network take its next arrival? -/
def Net.runs (n : Net) : Bool := !n.frozen && n.halted.isNone

/-- Does the delta stream alone stand still after a network fault, while other arrivals go on (R310)? -/
def Net.deltasHeld (n : Net) : Bool := !n.frozen && n.halted.any fun r => r.cause = .network

/-- Is a message one that a stopped delta stream holds (R310)? -/
def NetMsg.isHeld : NetMsg → Bool
  | .delta .. | .cswave .. => true
  | _ => false

/-- What the network takes next, with the messages left: the head, or behind a stopped delta stream the first message
that is not held (R310, R446). -/
def Net.next (n : Net) : Option (NetMsg × List NetMsg) :=
  if n.runs then
    match n.inbox with
    | m :: l => if n.filling.isSome then none else some (m, l)
    | [] => none
  else if n.deltasHeld then
    match n.inbox.span fun m => m.isHeld with
    | (a, m :: l) => some (m, a ++ l)
    | (_, []) => none
  else none

/-- Is the heap exhausted (R310)? One of no size is, once it is to back anything. The layout of another is private: a choice where the
tokens and stamps that it backs outgrow it at 64 bytes each (log 19). -/
def State.heapFull (s : State) (d : Nat) : Bool × State :=
  let n := (s.die d).net
  if n.heapsz = 0 && 0 < n.tokens.length + n.stamps.length then (true, s)
  else if n.heapsz.toNat < 64 * (n.tokens.length + n.stamps.length) then
    let (c, s) := s.pick 2
    (c = 1, s)
  else (false, s)

/-- Is the add to the wave counter due (R326): has the wave closed, is the queue empty and no token parked? -/
def Net.addDue (n : Net) : Bool :=
  n.waveCtr.isSome && !n.open_ && n.filling.isNone && n.inbox = [] && n.stalled = [] && n.parked.all fun p => p.2 = []

/-- The network adds 1 to the wave counter as soon as that is due (R326, R329); the counter's address is translated now (R90; DESIGN
CHOICE, log 20). -/
def State.netSettle (s : State) (d : Nat) : State :=
  let n := (s.die d).net
  match n.waveCtr with
  | none => s
  | some (c, ctx) =>
    if n.addDue && n.runs then
      s.netRun d (do
        let pa ← netXlate d c.va.toNat .write
        fun s => netGot c.va.toNat (s.counterAt d ⟨ctx, 4⟩ pa 1)) fun _ s =>
        s.modNet d fun n => { n with waveCtr := none }
    else s

/-- Does a piece ask for room in the heap before it (a delta or a wave), after it (a woken token or a load), or never
(R310)? -/
inductive Grows where
  | before | after | never
  deriving DecidableEq, Repr

/-- Carries out a piece of the network's work, unless the heap is exhausted: then the delta stream halts (R310). -/
def State.netWork (s : State) (d : Nat) (g : Grows) (m : NetM Unit) (k : State → State) : State :=
  let (full, s) := if g = .before then s.heapFull d else (false, s)
  if full then s.netHalt d .network 0
  else s.netRun d m fun _ s =>
    let (full, s) := if g = .after && (s.die d).net.halted.isNone then s.heapFull d else (false, s)
    k (if full then s.netHalt d .network 0 else s)

/-- Takes a message from the inbox, of which `left` stays, with a piece. -/
def State.netTake (s : State) (d : Nat) (left : List NetMsg) (g : Grows) (m : NetM Unit) : State :=
  s.netWork d g (do
    netMod d fun n => { n with inbox := left }
    m) fun s => s.netSettle d

/-- The wave whose slots are all done: its first buffered delta is applied, or it closes (R326). -/
def State.netClose (s : State) (d : Nat) : State :=
  let n := (s.die d).net
  match firstDelta n.wave with
  | some (a, x, left) => s.netWork d .before (netBuffered d a x left) id
  | none => (s.modNet d Net.close).netSettle d

/-- Holds the head of the inbox until the open wave closes (R325). -/
def netHold (d : Nat) (m : NetMsg) : NetM Unit := netMod d fun n => { n with held := n.held ++ [m] }

/-- NETWORK_DELTA_ARRIVAL (R312, R317 to R319, R325, R445, R446). -/
def execNetworkDeltaArrival (d : Nat) (s : State) : Host.Outcome State Fault Refusal :=
  .next <|
    let n := (s.die d).net
    match n.next with
    | some (.delta t f x, l) =>
      if n.allDone then s
      else if n.owner.isNone then s.netTake d l .never (pure ())
      else if n.open_ then
        match f with
        | some id =>
          s.netTake d l .never (netMod d fun n => { n with
            wave := n.wave.map fun w => if w.id = id then { w with deltas := w.deltas ++ [x] } else w })
        | none => s.netTake d l .never (netHold d (.delta t f x))
      else s.netTake d l .before (netDelta d x)
    | _ => s

/-- NETWORK_SCSET_ARRIVAL (R310, R325, R334, R446). -/
def execNetworkScsetArrival (d : Nat) (s : State) : Host.Outcome State Fault Refusal :=
  .next <|
    let n := (s.die d).net
    match n.next with
    | some (.scset h key, l) =>
      if n.owner.isNone then s.netTake d l .never (pure ())
      else if n.open_ then s.netTake d l .never (netHold d (.scset h key))
      else s.netTake d l .after (netScset d h key)
    | _ => s

/-- NETWORK_CSWAVE_ARRIVAL (R324, R332). -/
def execNetworkCswaveArrival (d : Nat) (s : State) : Host.Outcome State Fault Refusal :=
  .next <|
    let n := (s.die d).net
    match n.next with
    | some (.cswave _ c ctx limit, l) =>
      if n.owner.isNone then s.netTake d l .never (pure ()) else s.netTake d l .before (netWave d c ctx limit)
    | _ => s

/-- NETWORK_FDONE_ARRIVAL (R326, R333): an FDONE is counted, and a wave whose slots are all done applies its buffered
deltas one by one and closes; else the wave counter's add where it is still due. -/
def execNetworkFdoneArrival (d : Nat) (s : State) : Host.Outcome State Fault Refusal :=
  .next <|
    let n := (s.die d).net
    if n.allDone && n.runs then s.netClose d
    else
      match n.next with
      | some (.fdone id, l) => s.netTake d l .never (netDone d id)
      | _ => s.netSettle d

/-- NETLD_LOAD (R335): a load arrives, or asserts its next entry of working memory. -/
def execNetldLoad (d : Nat) (s : State) : Host.Outcome State Fault Refusal :=
  .next <|
    let n := (s.die d).net
    match n.filling with
    | some i => if n.runs then s.netWork d .before (netFill d i) fun s => s.netSettle d else s
    | none =>
      match n.next with
      | some (.netld ctx assist image block, l) => s.netTake d l .never (netLoad d ctx assist image block)
      | _ => s

/-- Does a message wait for quiescence before it arrives (R332, R335)? -/
def NetMsg.waits : NetMsg → Bool
  | .cswave .. | .netld .. => true
  | _ => false

/-- A commit sends a message to a network: none while the message must wait. A message of a context that no longer
owns the network is lost. -/
def State.netSend (s : State) (d : Nat) (ctx : BitVec 12) (m : NetMsg) : Option State :=
  let n := (s.die d).net
  if m.waits && !(n.inbox = [] && !n.open_ && n.waveCtr.isNone && n.quiescent) then none
  else
    let takes : Bool := match m with
      | .netld .. => true
      | _ => n.owner = some ctx
    some (if takes then s.modNet d fun n => { n with inbox := n.inbox ++ [m] } else s)

end Sys2Proof.Machine
end

