-- ==== Sys2Proof/Machine/Scruple.lean ====
section
/-! DEFINITION. The Scruple instructions (R309, R328 to R337). Their checks and observations are made at the network of
the leader's die, and a shadow takes the leader's outcome (R329). -/

namespace Sys2Proof.Machine

/-- The die of the leader of a node's replicas (R329). -/
def State.leaderDie (s : State) (n : Node) : Nat :=
  if n.shadow then
    match (s.twins n).find? fun p => p.2.red.lead with
    | some p => dieOf p.1
    | none => dieOf n.tile
  else dieOf n.tile

/-- The network that a node's Scruple instructions reach. -/
def State.netOf (s : State) (n : Node) : Net := (s.die (s.leaderDie n)).net

/-- An outcome or value observed at the network (R329): the leader's is forwarded, and a shadow takes it or waits. -/
def State.netObserve (s0 s : State) (n : Node) (x : Vec) (k : Vec → State → State) : State :=
  if n.shadow then
    match n.forwarded (n.fwdKey 0) with
    | some y => k y s0
    | none => s0.retry
  else k x (s.forward n (n.fwdKey 0) x)

/-- Goes on unless a check at the network traps. -/
def State.netCheck (s : State) (n : Node) (bad : Option Cause) (k : State → State) : State :=
  let code : Vec := match bad with
    | none => 0
    | some c => BitVec.ofNat 1024 c.code
  s.netObserve s n code fun c s =>
    if c = 0 then k s else s.trapHere (if c = BitVec.ofNat 1024 Cause.privilege.code then .privilege else .rule) 0

/-- The rule trap of a context that does not own the network, or of another check (R309). -/
def State.ruleBad (s : State) (n : Node) (also : Bool) : Option Cause :=
  if (s.netOf n).owner ≠ some n.ctx || also then some .rule else none

/-- The operands of a slot as one store at address 0, for the signature (R329, R378). -/
def operandStore (l : List Word) : StoreReq :=
  ⟨0, (List.range l.length).map fun k => ⟨8 * k, 0, 8, ((l[k]?).getD 0).toNat⟩, .normal, none⟩

/-- The words of a vector operand. -/
def vecWords (v : Vec) : List Word := (List.range 16).map fun k => v.extractLsb' (64 * k) 64

/-- The acts of a message to the network: the operands for the signature, a release at `.dev`, the arrival (R329). -/
def netActs (n : Node) (ops : List Word) (m : NetMsg) : List Act :=
  .sign (operandStore ops) :: relActs n true [] ++ [.netMsg m]

/-- Is an act a task's FDONE? -/
def Act.isFdone : Act → Bool
  | .netMsg (.fdone _) => true
  | _ => false

/-- Is an act a delta? -/
def Act.isDelta : Act → Bool
  | .netMsg (.delta ..) => true
  | _ => false

/-- Is a slot's FDONE still to come: is the slot in the open wave, and has no FDONE of it been sent (R330, R333)? -/
def Net.slotOpen (n : Net) (id : Nat) : Bool :=
  n.open_ && (n.wave.any fun w => w.id = id && !w.done) && !n.inbox.contains (.fdone id)

/-- Has a firing task sent its FDONE, or does a lower slot of the block hold it (R330)? -/
def Node.afterFdone (n : Node) (net : Net) : Bool := match n.firing with
  | none => false
  | some id => !net.slotOpen id || n.blk.effs.any fun e => e.slot < n.slot && e.acts.any Act.isFdone

/-- A delta of a slot (R330). -/
def State.deltaSlot (s : State) (n : Node) (ops : List Word) (x : Delta) (image : Bool) : State :=
  let net := s.netOf n
  s.netCheck n (s.ruleBad n (2 ^ net.wmn ≤ x.wid || (image && x.cls = 0) || n.afterFdone net)) fun s =>
    s.hold 3 n.slot (netActs n ops (.delta n.tile n.firing x))

/-- WMASR (R330). -/
def execWmasr (p : Pred) (s : State) : Host.Outcome State Fault Refusal :=
  .next (s.fire (.wmasr p) fun n r => s.deltaSlot n (vecWords r.lv) (.assert r.lv) true)

/-- WMRET (R330). -/
def execWmret (p : Pred) (s : State) : Host.Outcome State Fault Refusal :=
  .next (s.fire (.wmret p) fun n r => s.deltaSlot n [r.l] (.retract (r.l.setWidth 32)) false)

/-- WMMOD (R330). -/
def execWmmod (p : Pred) (s : State) : Host.Outcome State Fault Refusal :=
  .next (s.fire (.wmmod p) fun n r => s.deltaSlot n (vecWords r.lv) (.modify r.lv) true)

/-- A value that the network reads for a slot; a trap in its place is forwarded under a name of its own. A read that fails
leaves the slot waiting, and the network freezes or halts. -/
def State.netRead (s : State) (n : Node) (bad : Bool) (m : NetM Vec) (k : Vec → State → State) : State :=
  let d := s.leaderDie n
  if n.shadow then
    if (n.forwarded (n.fwdKey 1)).isSome then s.trapHere .rule 0 else s.netObserve s n 0 k
  else if (s.ruleBad n bad).isSome then (s.forward n (n.fwdKey 1) 0).trapHere .rule 0
  else if (s.die d).net.frozen then s.retry
  else
    match m.run s with
    | .ok (x, s') => State.netObserve s s' n x k
    | .error _ => (if (s.die d).net.runs then s.netRun d m fun _ s => s else s).retry

/-- WMRD (R331). -/
def execWmrd (p : Pred) (t u : Tgt) (s : State) : Host.Outcome State Fault Refusal :=
  let i := Instr.wmrd p t u
  .next (s.fire i fun n r =>
    let id := r.l.toNat % 2 ^ 32
    s.netRead n (2 ^ (s.netOf n).wmn ≤ id) (do return BitVec.ofNat 1024 (← netEntry (s.leaderDie n) id)) fun x s =>
      s.emit i (.vector x))

/-- CSWAVE (R332). -/
def execCswave (p : Pred) (s : State) : Host.Outcome State Fault Refusal :=
  .next (s.fire (.cswave p) fun n r =>
    if r.l.toNat % 8 ≠ 0 then s.trapHere .align r.l
    else
      s.netCheck n (s.ruleBad n (r.r = 0 || 64 < r.r.toNat)) fun s =>
        (s.counterRef n r.l .write).on fun c s =>
          s.hold 3 n.slot (netActs n [r.l, r.r] (.cswave n.tile c n.ctx r.r.toNat)))

/-- FDONE (R330, R333). -/
def execFdone (p : Pred) (s : State) : Host.Outcome State Fault Refusal :=
  .next (s.fire (.fdone p) fun n _ =>
    let bad := match n.firing with
      | none => true
      | some id => !(s.netOf n).slotOpen id || n.blk.effs.any fun e =>
          e.acts.any Act.isFdone || (n.slot < e.slot && e.acts.any Act.isDelta)
    s.netCheck n (s.ruleBad n bad) fun s => s.hold 3 n.slot (netActs n [] (.fdone (n.firing.getD 0))))

/-- SCSET (R334). -/
def execScset (p : Pred) (s : State) : Host.Outcome State Fault Refusal :=
  .next (s.fire (.scset p) fun n r =>
    s.netCheck n (s.ruleBad n false) fun s => s.hold 3 n.slot (netActs n [r.l, r.r] (.scset r.l r.r)))

/-- What SCGET emits (R334): bit 63 and the score of a valid entry, bit 62 of a pending one, 0 without one. -/
def netScget (d : Nat) (h key : Word) : NetM Vec := do
  let n ← netGet d
  match (← netLookup d h (field key.toNat 63 32)).hit with
  | some (e, true) => return BitVec.ofNat 1024 (2 ^ 63 + (← Sys2Proof.Machine.netRead d (n.scoreAt e + 16) 4))
  | some (_, false) => return BitVec.ofNat 1024 (2 ^ 62)
  | none => return 0

/-- SCGET (R334). -/
def execScget (p : Pred) (t u : Tgt) (s : State) : Host.Outcome State Fault Refusal :=
  let i := Instr.scget p t u
  .next (s.fire i fun n r =>
    s.netRead n false (netScget (s.leaderDie n) r.l r.r) fun x s => s.emit i (.scalar (x.setWidth 64)))

/-- NETLD (R335): a loaded network's owner alone, or a privileged node, may issue it. -/
def execNetld (p : Pred) (s : State) : Host.Outcome State Fault Refusal :=
  .next (s.fire (.netld p) fun n r =>
    let bad := match (s.netOf n).owner with
      | some c => c ≠ n.ctx && !n.priv
      | none => false
    s.netCheck n (if bad then some .privilege else none) fun s =>
      if r.l ≠ 0 && r.r.toNat % 64 ≠ 0 then s.trapHere .align r.r
      else s.hold 3 n.slot (netActs n [r.l, r.r] (.netld n.ctx n.assist r.l r.r) ++ [.netldWait]))

/-- What CSRD emits, or none for a reserved selector or item (R336). -/
def Net.csrd (n : Net) (x : Word) : Option Nat :=
  let sel := field x.toNat 63 62
  let item := field x.toNat 11 8
  if sel = 0 then
    if 10 < item then none
    else
      match n.wave[field x.toNat 5 0]? with
      | none => some 0
      | some w =>
        let nd := n.node w.act.node
        if item < 8 then
          match w.act.pats[item]? with
          | some q => some (2 ^ 63 + q.2 * 2 ^ 32 + q.1)
          | none => some 0
        else if item = 8 then
          some (w.act.pats.length * 2 ^ 32 + field nd.w1.toNat 47 32 * 2 ^ 16 + nd.rule)
        else if item = 9 then some w.actId
        else some w.act.stamp.toNat
  else if sel = 1 then
    let k := field x.toNat 3 0
    let queued := n.inbox.any fun m => match m with
      | .delta .. => true
      | _ => false
    if k = 0 then some n.closed
    else if k = 1 then some (b2n (n.quiescent && !queued) * 2 ^ 9 + b2n n.open_ * 2 ^ 8 + n.wave.length)
    else if k = 2 then some n.acts.length
    else if k = 3 then some n.withdrawn
    else if k = 4 then some n.dropped
    else if k = 5 then some (n.parked.foldl (fun a p => a + p.2.length) n.stalled.length)
    else if k = 6 then some n.stamp.toNat
    else if k = 7 then some n.status
    else none
  else none

/-- CSRD (R336). -/
def execCsrd (p : Pred) (t u : Tgt) (s : State) : Host.Outcome State Fault Refusal :=
  let i := Instr.csrd p t u
  .next (s.fire i fun n r =>
    let v := (s.netOf n).csrd r.l
    s.netRead n v.isNone (pure (BitVec.ofNat 1024 (v.getD 0 % 2 ^ 64))) fun x s => s.emit i (.scalar (x.setWidth 64)))

end Sys2Proof.Machine
end

