-- ==== Sys2Proof/Machine/Image.lean ====
section
/-! DEFINITION. The checks of a launch image (R128, R134, R226, R227, R233, R235, R340, R342, R345 to R347, R351) on its
records, each with its place in the image. Endpoints and elements are taken relative to their region: element quad × 4 +
tile, port element × 4 + port. -/

namespace Sys2Proof.Machine

/-- A record with its place. -/
abbrev ImgRec := Nat × CfgRec

/-- Element that a record names. -/
def CfgRec.elem (c : CfgRec) : Nat := 4 * c.quad + c.tile

/-- Is an element a CT: tiles 0 and 3 of a quad are, 1 and 2 are MTs (R432)? -/
def elemIsCt (e : Nat) : Bool := e % 4 = 0 || e % 4 = 3

/-- The port of an endpoint of 16 bits. -/
def endKey (e : Nat) : Nat := 16 * field e 15 8 + 4 * field e 7 6 + e % 4

/-- Source and destination of an edge record, or entry and exit of a loop bound. -/
def CfgRec.ends (c : CfgRec) : Nat × Nat := (endKey (field c.w1.toNat 63 48), endKey (field c.w1.toNat 47 32))

/-- Depth, latency where timed, and back mark of an edge record. -/
def CfgRec.depth (c : CfgRec) : Nat := field c.w2.toNat 6 0
def CfgRec.timed (c : CfgRec) : Option Nat := if c.w2.getLsbD 15 then some (field c.w2.toNat 14 8) else none
def CfgRec.isBack (c : CfgRec) : Bool := c.w2.getLsbD 16

/-- Does a kind name an element? -/
def CfgRec.hasElem (c : CfgRec) : Bool := [3, 4, 5, 7, 8, 10, 11].contains c.kind

/-- Attribute and direction of a port record; its port. -/
def CfgRec.attr (c : CfgRec) : Nat := field c.w0.toNat 29 28
def CfgRec.isOut (c : CfgRec) : Bool := c.w0.getLsbD 27
def CfgRec.portKey (c : CfgRec) : Nat := 4 * c.elem + c.w0.toNat % 4

/-- Mode of an MT's node record. -/
def CfgRec.mtMode (c : CfgRec) : Nat := field c.w0.toNat 29 28

/-- Is a kind reserved, or is a field nonzero that the kind does not assign (R345 to R347)? -/
def CfgRec.malformed (c : CfgRec) : Bool :=
  let n := c.w0.toNat % 2 ^ 40
  let a := c.w1.toNat
  let b := c.w2.toNat
  let d := c.w3.toNat
  let ends := a % 2 ^ 32 ≠ 0 || field a 53 50 ≠ 0 || field a 37 34 ≠ 0
  match c.kind with
  | 0 => n / 2 ^ 16 ≠ 0 || c.step ≠ 0
  | 1 => field n 29 16 ≠ 0 || c.step ≠ 0 || a / 2 ^ 16 ≠ 0 || b ≠ 0 || d ≠ 0
  | 2 => n / 2 ^ 10 ≠ 0 || c.step ≠ 0 || a ≠ 0 || b ≠ 0 || d ≠ 0
  | 3 => n % 2 ^ 24 ≠ 0 || b ≠ 0 || d ≠ 0 || 2 ^ 56 ≤ a ||
      (if elemIsCt c.elem then field n 29 24 ≠ 0
       else c.mtMode = 3 || (if c.mtMode = 0 then a % 32 ≠ 0 else a ≠ 0))
  | 4 => field n 29 6 ≠ 0 || b ≠ 0 || d ≠ 0
  | 5 => field n 29 3 ≠ 0 || b ≠ 0 || d ≠ 0
  | 6 => n ≠ 0 || ends || b / 2 ^ 17 ≠ 0 || b.testBit 7 || d ≠ 0
  | 7 => field n 26 2 ≠ 0 ||
      (if c.attr = 1 then d / 8 ≠ 0 else if c.attr = 2 then a / 2 ^ 7 ≠ 0 || b ≠ 0 || d ≠ 0 else a ≠ 0 || b ≠ 0 || d ≠ 0)
  | 8 => field n 29 5 ≠ 0 || a ≠ 0 || b ≠ 0 || d ≠ 0
  | 9 => n / 2 ^ 4 ≠ 0 || ends || b ≠ 0 || d ≠ 0
  | 10 => field n 29 4 ≠ 0 || a ≠ 0 || b ≠ 0 || d ≠ 0
  | 11 => field n 29 2 ≠ 0 || a ≠ 0 || b ≠ 0 || d ≠ 0
  | _ => true

/-- Does a record name a tile of the wrong kind, or a port of the wrong direction (R346, R347)? -/
def CfgRec.misplaced (c : CfgRec) : Bool :=
  let ct := elemIsCt c.elem
  match c.kind with
  | 4 | 8 => !ct
  | 5 => ct
  | 7 => if c.attr = 0 then !ct || c.isOut else if c.attr = 1 then c.isOut else if c.attr = 2 then !c.isOut else ct || c.isOut
  | _ => false

/-- Place in the order of R345: region, quads, nodes and presets of step 0, then the rest by step. -/
def CfgRec.phase (c : CfgRec) : Nat :=
  if c.kind = 1 then 0 else if c.kind = 2 then 1
  else if (c.kind = 3 || c.kind = 4) && c.step = 0 then 2
  else 3 + c.step

/-- Records that stand before one of an earlier phase, or presets of a later step. -/
def outOfOrder : List ImgRec → Nat → List Nat
  | [], _ => []
  | (i, c) :: l, p =>
    (if c.phase < p || (c.kind = 4 && c.step ≠ 0) then [i] else []) ++ outOfOrder l (Nat.max p c.phase)

/-- A tile descriptor of R128 that is refused. -/
def descBad (x : Word) : Bool :=
  let w := field x.toNat 59 48
  let h := field x.toNat 47 36
  let size := field x.toNat 35 16
  let base := field x.toNat 15 0 * 128
  x.getLsbD 63 && (field x.toNat 62 61 = 3 || w % 32 ≠ 0 || w = 0 || h = 0 || size < w * h * 4 || size % 128 ≠ 0
    || 0xC0000 < base + size)

/-- A sequencer descriptor of R134 that is refused. -/
def seqBad (w : List Word) : Bool :=
  let w0 := ((w[0]?).getD 0).toNat
  let w3 := ((w[3]?).getD 0).toNat
  2 ≤ field w0 63 62 || field w0 61 56 ≠ 0 || field w3 4 0 ≠ 0 || field w3 15 12 = 13 || field w3 15 12 = 15

/-! ### Shapes (R340) -/

/-- Quad offset of a quad record. -/
def CfgRec.offset (c : CfgRec) : Nat × Nat := (field c.w0.toNat 9 5, field c.w0.toNat 4 0)

/-- Do two quads share a side? -/
def adjacent (a b : Nat × Nat) : Bool :=
  (a.1 = b.1 && (a.2 + 1 = b.2 || b.2 + 1 = a.2)) || (a.2 = b.2 && (a.1 + 1 = b.1 || b.1 + 1 = a.1))

/-- Grows a set of quads by those that touch it; fuel is their number. -/
def reach (all : List (Nat × Nat)) : Nat → List (Nat × Nat) → List (Nat × Nat)
  | 0, s => s
  | f + 1, s => reach all f (s ++ all.filter fun q => !s.contains q && s.any fun p => adjacent p q)

/-- Is a shape connected? -/
def connected (l : List (Nat × Nat)) : Bool := match l with
  | [] => false
  | q :: _ => l.all fun p => (reach l l.length [q]).contains p

/-- Width and height of a shape. -/
def extent (l : List (Nat × Nat)) : Nat × Nat :=
  ((l.map (·.1)).foldl Nat.max 0 - (l.map (·.1)).foldl Nat.min 31 + 1,
    (l.map (·.2)).foldl Nat.max 0 - (l.map (·.2)).foldl Nat.min 31 + 1)

/-- Tile offset of an element in a shape (R432). -/
def elemAt (shape : List (Nat × Nat)) (e : Nat) : Nat × Nat :=
  let q := (shape[e / 4]?).getD (0, 0)
  (2 * q.1 + e % 4 % 2, 2 * q.2 + e % 4 / 2)

/-- Manhattan distance in tiles between two elements (R235). -/
def distance (shape : List (Nat × Nat)) (a b : Nat) : Nat :=
  let p := elemAt shape a
  let q := elemAt shape b
  (p.1 - q.1) + (q.1 - p.1) + (p.2 - q.2) + (q.2 - p.2)

/-! ### Steps -/

/-- Can an element be reached from another over edges; fuel is their number. -/
def reachElem (es : List (Nat × Nat)) (goal : Nat) : Nat → List Nat → Bool
  | 0, s => s.contains goal
  | f + 1, s => reachElem es goal f (s ++ (es.filter fun e => s.contains e.1 && !s.contains e.2).map (·.2))

/-- Forward edges of a step as pairs of elements; an edge from a tile to itself is none (R351, R440). -/
def forwardEdges (l : List ImgRec) : List (Nat × Nat) :=
  (l.filter fun r => r.2.kind = 6 && !r.2.isBack && r.2.ends.1 / 4 ≠ r.2.ends.2 / 4).map fun r =>
    (r.2.ends.1 / 4, r.2.ends.2 / 4)

/-- The output port that a route record names (R346). -/
def routePort (c : CfgRec) : Nat := 4 * c.elem + field c.w0.toNat 4 3

/-- Records of a step that break its rules. `l` holds the step's records, `els` the elements with a node in it, `seqs` the
sequencer words of its streaming MTs by record place. -/
def stepBad (shape : List (Nat × Nat)) (fixed : Bool) (l : List ImgRec) (els : List Nat) (seqs : List (Nat × List Word)) :
    List Nat :=
  let at_ (f : CfgRec → Bool) : List Nat := (l.filter fun r => f r.2).map (·.1)
  let edges := l.filter fun r => r.2.kind = 6
  let into (p : Nat) : List ImgRec := edges.filter fun r => r.2.ends.2 = p
  let from_ (p : Nat) : List ImgRec := edges.filter fun r => r.2.ends.1 = p
  let merges := l.filter fun r => r.2.kind = 11
  let merged (p : Nat) : Bool := merges.any fun r => r.2.portKey = p
  let trigger (p : Nat) : Bool := l.any fun r => r.2.kind = 7 && r.2.attr = 2 && r.2.portKey = p
  let depthSum (i e : Nat) : Nat :=
    (edges.filter fun r => r.1 ≤ i && r.2.ends.2 / 4 = e).foldl (fun a r => a + r.2.depth) 0
  let fw := forwardEdges l
  at_ (fun c => c.hasElem && c.kind ≠ 3 && c.kind ≠ 5 && !els.contains c.elem)
    ++ (edges.filter fun r => !els.contains (r.2.ends.1 / 4) || !els.contains (r.2.ends.2 / 4)
        || r.2.depth < 2 || 64 < r.2.depth || 128 < depthSum r.1 (r.2.ends.2 / 4)
        || (from_ r.2.ends.1).any (fun q => q.1 < r.1) || trigger r.2.ends.1
        || (!merged r.2.ends.2 && (into r.2.ends.2).any fun q => q.1 < r.1)
        || (match r.2.timed with
            | some lat => !fixed || lat < 2 + distance shape (r.2.ends.1 / 4) (r.2.ends.2 / 4) || 64 < lat
            | none => false)
        || (!r.2.isBack && r.2.ends.1 / 4 ≠ r.2.ends.2 / 4
            && reachElem fw (r.2.ends.1 / 4) fw.length [r.2.ends.2 / 4])).map (·.1)
    ++ (merges.filter fun r => (into r.2.portKey).length < 2 || 4 < (into r.2.portKey).length).map (·.1)
    ++ at_ (fun c => c.kind = 10 && ((List.range 4).filter fun p => c.w0.getLsbD p).length < 2)
    ++ at_ (fun c => c.kind = 10 && (List.range 4).any fun p => c.w0.getLsbD p && into (4 * c.elem + p) = [])
    ++ at_ (fun c => c.kind = 7 && !c.isOut && into c.portKey = [])
    ++ at_ (fun c => c.kind = 8 && from_ (routePort c) = [] && !trigger (routePort c))
    ++ at_ (fun c => c.kind = 3 && !elemIsCt c.elem && c.mtMode = 1 && (List.range 4).any fun p =>
        let k := 4 * c.elem + p
        into k ≠ [] && from_ k = [] && !trigger k && !l.any fun q => q.2.kind = 7 && !q.2.isOut && q.2.attr = 1 && q.2.portKey = k)
    ++ at_ (fun c => c.kind = 9 && (into c.ends.1 = [] || into c.ends.2 = []))
    ++ at_ (fun c => c.kind = 5 && descBad c.w1)
    ++ (l.filter fun r => r.2.kind = 7 && r.2.attr = 3 &&
        !l.any fun q => q.2.kind = 3 && q.2.elem = r.2.elem && q.2.mtMode = 1).map (·.1)
    ++ (seqs.filter fun q => seqBad q.2 ||
        (match l.find? fun r => r.1 = q.1 with
         | none => false
         | some r =>
           let w3 := ((q.2[3]?).getD 0).toNat
           let p := 4 * r.2.elem + field w3 9 8
           if w3.testBit 7 then into p = [] else from_ p = [] && !trigger p)).map (·.1)

/-- The elements that have a node in a step: CTs keep theirs, MTs have those of the step's own records (R346). -/
def stepElems (l : List ImgRec) (n : Nat) : List Nat :=
  (l.filter fun r => r.2.kind = 3 && (elemIsCt r.2.elem || r.2.step = n)).map fun r => r.2.elem

/-- Records of a region that break the rules; the first of `l` is its region record. -/
def regionBad (rank : Nat) (l : List ImgRec) (seqs : List (Nat × List Word)) : List Nat :=
  match l with
  | [] => []
  | (i0, r0) :: _ =>
    let last := field r0.w1.toNat 15 0
    let quads := l.filter fun r => r.2.kind = 2
    let shape := quads.map fun r => r.2.offset
    let fixed := r0.w0.getLsbD 39
    let count := field r0.w0.toNat 38 30 + 1
    let steps := (l.map fun r => r.2.step).eraseDups
    let twice := l.filter fun r => r.2.kind = 3 && l.any fun q =>
      q.1 < r.1 && q.2.kind = 3 && q.2.elem = r.2.elem && q.2.step = r.2.step
    let bad (f : CfgRec → Bool) : List Nat := (l.filter fun r => f r.2).map (·.1)
    bad (fun c => c.malformed || c.misplaced || last < c.step || c.kind = 0)
      ++ outOfOrder l 0
      ++ (if r0.w0.toNat % 2 ^ 16 ≠ rank || 256 < count || quads.length ≠ count || !connected shape
            || (fixed && (16 < (extent shape).1 || 16 < (extent shape).2)) then [i0] else [])
      ++ (quads.filter fun r => quads.any fun q => q.1 < r.1 && q.2.offset = r.2.offset).map (·.1)
      ++ bad (fun c => c.hasElem && count ≤ c.quad)
      ++ bad (fun c => (c.kind = 6 || c.kind = 9) && (4 * count ≤ c.ends.1 / 4 || 4 * count ≤ c.ends.2 / 4))
      ++ bad (fun c => c.kind = 3 && elemIsCt c.elem && c.step ≠ 0)
      ++ twice.map (·.1)
      ++ (l.filter fun r => r.2.kind = 4 &&
          8 < (l.filter fun q => q.1 ≤ r.1 && q.2.kind = 4 && q.2.elem = r.2.elem).length).map (·.1)
      ++ steps.flatMap fun n =>
          let own := l.filter fun r => r.2.step = n && 3 ≤ r.2.kind
          stepBad shape fixed own (stepElems l n) (seqs.filter fun q => own.any fun r => r.1 = q.1)

/-- Cuts the records after the image record into regions. -/
def splitRegions : List ImgRec → List (List ImgRec)
  | [] => []
  | r :: l =>
    match splitRegions l with
    | [] => [[r]]
    | g :: gs => if g.head?.any fun q => q.2.kind = 1 then [r] :: g :: gs else (r :: g) :: gs

/-- The first offending record of an image (R347), if there is one. -/
def imageFault (recs : List ImgRec) (seqs : List (Nat × List Word)) : Option Nat :=
  match recs with
  | [] => some 0
  | (_, h) :: l =>
    let gs := splitRegions l
    let head := h.kind ≠ 0 || h.malformed || h.w0.toNat % 2 ^ 16 = 0 || h.w3.toNat ≠ 32 * recs.length
      || gs.length ≠ h.w0.toNat % 2 ^ 16
    if head then some 0
    else
      least ((gs.flatMap fun g => match g with
          | [] => []
          | r :: _ => if r.2.kind ≠ 1 then [r.1] else [])
        ++ (List.range gs.length).flatMap fun k => regionBad k ((gs[k]?).getD []) seqs)

end Sys2Proof.Machine
end

