-- ==== Sys2Proof/Machine/Send.lean ====
section
/-! DEFINITION. What leaves an output port: a token on its edge, or a trigger of an engine's queue (R204, R227, R346),
and the tokens of a drain. -/

namespace Sys2Proof.Machine

/-- The engine and queue of a trigger port (R346). -/
def State.triggerOf (s : State) (k : Nat) : Option (Nat × Nat) :=
  (s.portAttrs (k / 4) (k % 4) true).findSome? fun a => match a with
    | .trigger e q => some (e, q)
    | _ => none

/-- An output port sends a token; none where it has to wait. -/
def State.sendOut (s : State) (k : Nat) (tok : Token) : Option State :=
  match s.triggerOf k with
  | some (e, q) => s.triggerAt (dieOf (k / 4)) e q
  | none => if s.canSend k then some (s.sendTok k tok) else none

/-- The next token of a route drain leaves, the first one by the entry that `edge.steer` names in its cycle (R233, R234); none
where it has to wait. -/
def State.drainStep (s : State) (t : Nat) (n : Node) (r : MatRun) : Option State :=
  match (if r.route.isSome then r.route else n.routeOf n.steerNow.toNat) with
  | none => some (s.modMat t fun m => { m with
      drains := putRun r none m.drains, queue := r.w :: m.queue
      faulted := if m.faulted.isSome then m.faulted else some (s.elemRecord t .steer 1 0 0 0) })
  | some p =>
    let ty := r.w.oty
    (s.sendOut (4 * t + p) (r.drainTok ty r.sent (vget n.tags p 0))).map fun s =>
      let sent := r.sent + 1
      let new := if 4096 ≤ sent * drainPer ty then none
        else some { r with sent := sent, route := some p, until_ := n.cyc.toNat + 1 }
      s.modMat t fun m => { m with drains := putRun r new m.drains }

/-- DRAIN_TOKEN_SEND (R233, R234, R267): the next token of a drain to the route table leaves, of the oldest drain that can
send one. -/
def execDrainTokenSend (t : Nat) (s : State) : Host.Outcome State Fault Refusal :=
  .next <| match s.node? t with
  | none => s
  | some n => (n.routeDrains.findSome? fun r => s.drainStep t n r).getD s

/-! ### Steer tokens -/

/-- STEER_TOKEN_POP (R225, R234): a steer token at the head of a port sets a CT's `edge.steer`; an MT discards it with
an event. A drain whose first token leaves in the cycle still finds what stood before, and an MSTEER that starts in it does not replace
the token's value (R306). -/
def execSteerTokenPop (t port : Nat) (s : State) : Host.Outcome State Fault Refusal :=
  .next <| match s.headTok (4 * t + port) with
  | none => s
  | some x =>
    if x.tok.kind ≠ 3 || !s.acts t then s
    else
      match s.node? t with
      | some n =>
        (s.popAt (4 * t + port) 0).2.modNode t fun m => { m with
          steer := x.tok.payload.setWidth 3
          steerOld := if n.steered then n.steerOld else some (n.cyc, n.steer) }
      | none => (s.popAt (4 * t + port) 0).2.event (dieOf t) 0x06 (s.ctxOfTile t) t 0 0

end Sys2Proof.Machine
end

