-- ==== Sys2Proof/Machine/Launch.lean ====
section
/-! DEFINITION. Queues, slots and packets (R353 to R363, R165, R366): mapping, choosing, checking and beginning a packet,
and completing it. -/

namespace Sys2Proof.Machine

/-! ### The launch controller's memory -/

/-- Why a read or write of the controller fails: a translation that now waits (R91), or a refusal at an address. -/
inductive LErr where
  | walk (va : Nat) (kind : AccKind)
  | fail (va : Nat)
  deriving DecidableEq, Repr

/-- A piece of the controller's work for a queue. -/
abbrev LaunchM := StateT State (Except LErr)

/-- For whom the controller reads: the die, the queue, the context and its assist bits. -/
structure LFor where
  d : Nat
  q : Nat
  ctx : BitVec 12
  assist : Word
  deriving DecidableEq, Repr

/-- The master that the controller is (R357). -/
def LFor.master (l : LFor) : Master := ⟨l.ctx, 3⟩

/-- Number that stands for the task overflow ring in place of a queue. -/
def ringQueue : Nat := 65536

/-- Who waits for a translation of the controller. -/
def LFor.req (l : LFor) : Requester := if l.q = ringQueue then .taskRing l.d else .launch l.d l.q

/-- Translates an address. -/
def lXlate (l : LFor) (va : Nat) (kind : AccKind) : LaunchM Nat := fun s =>
  match s.xlate l.d none l.ctx (BitVec.ofNat 64 va) kind 3 l.assist l.req with
  | (.ok e, s) => .ok (e.phys va, s)
  | (.error .fault, _) => .error (.walk va kind)
  | (.error _, _) => .error (.fail va)

/-- An access at a home. -/
def lGot {α : Type} (va : Nat) (r : Except AccErr α × State) : Except LErr (α × State) :=
  match r with
  | (.ok x, s) => .ok (x, s)
  | (.error _, _) => .error (.fail va)

/-- Reads bytes line by line. -/
def lBytes (l : LFor) : List (Nat × Nat) → LaunchM (List Byte)
  | [] => pure []
  | (va, k) :: t => do
    let pa ← lXlate l va .read
    let b ← fun s => lGot va (s.homeRead l.d l.master pa k false)
    return b ++ (← lBytes l t)

/-- Reads n words of 8 bytes. -/
def lWords (l : LFor) (va n : Nat) : LaunchM (List Word) := do
  let b ← lBytes l (linesOf va (8 * n))
  return (List.range n).map fun k => BitVec.ofNat 64 (Sys2Proof.ofBytes ((b.drop (8 * k)).take 8))

/-- Reads a word. -/
def lWord (l : LFor) (va : Nat) : LaunchM Nat := do return ((← lWords l va 1)[0]?.getD 0).toNat

/-- Adds to a counter at its home. -/
def lAdd (l : LFor) (va : Nat) (amount : Word) : LaunchM Unit := do
  let pa ← lXlate l va .write
  fun s => (lGot va (s.counterAt l.d l.master pa amount)).map fun r => ((), r.2)

/-- Writes a word. -/
def lPut (l : LFor) (va : Nat) (x : Word) : LaunchM Unit := do
  let pa ← lXlate l va .write
  fun s => lGot va (s.homeWrite l.d l.master pa (toBytes x.toNat 8))

/-- Carries a piece out; one whose translation faults changes nothing, and its queue waits (R91). -/
def State.lRun {α : Type} (s : State) (l : LFor) (m : LaunchM α) (ok : α → State → State)
    (bad : Nat → State → State) : State :=
  match m.run s with
  | .ok (x, s) => ok x s
  | .error (.walk va kind) =>
    match s.xlate l.d none l.ctx (BitVec.ofNat 64 va) kind 3 l.assist l.req with
    | (.error .fault, s) => s.freezeWalk l.req
    | (_, s) => s
  | .error (.fail va) => bad va s

/-! ### Queues and slots (R356, R361) -/

/-- A valid entry of the queue table (R356). -/
structure QEntry where
  die : Nat
  prio : Nat
  ctx : BitVec 12
  lgn : Nat
  base : Nat
  posted : Nat
  consumed : Nat
  deriving DecidableEq, Repr

/-- The entry of a queue, where it is valid. The device reads its own table. -/
def State.qEntry (s : State) (q : Nat) : Option QEntry :=
  let a := field (s.mmioAt 0 0x100D8).toNat 53 21 * 2 ^ 21 + 32 * q
  let w0 := s.devRead a 8
  let w1 := s.devRead (a + 8) 8
  let w2 := s.devRead (a + 16) 8
  let w3 := s.devRead (a + 24) 8
  let lgn := field w0 36 32
  if !w0.testBit 63 || field w0 57 56 ≠ 0 || field w0 43 37 ≠ 0 || field w0 31 0 ≠ 0 || lgn < 4 || 16 < lgn
      || 2 ^ 56 ≤ w1 || 2 ^ 56 ≤ w2 || 2 ^ 56 ≤ w3 || w1 % 64 ≠ 0 then none
  else some ⟨field w0 62 61, field w0 60 58, BitVec.ofNat 12 (field w0 55 44), lgn, w1, w2, w3⟩

/-- The controller reads the entry of a queue, which is an access to HBM (R77). -/
def State.tableRead (s : State) (q : Nat) : State :=
  s.touch (s.key (field (s.mmioAt 0 0x100D8).toNat 53 21 * 2 ^ 21 + 32 * q))

/-- A queue that the controller does not know. -/
def QueueSt.none : QueueSt := ⟨false, Option.none, 0, false, Option.none, Option.none, Option.none, Option.none⟩

/-- Queue q of a die. -/
def State.queueAt (s : State) (d q : Nat) : QueueSt := (s.die d).queues.getD q QueueSt.none

/-- Writes a queue. -/
def State.setQueue (s : State) (d q : Nat) (x : QueueSt) : State :=
  s.modDie d fun y => { y with queues := y.queues.set q x }

/-- LQ_DOORBELL (R357, R361, R453): the doorbell of a queue makes it active on the die that its entry names. -/
def State.ring (s : State) (q : Nat) : State := match s.qEntry q with
  | some e => (s.setQueue e.die q { s.queueAt e.die q with active := true }).tableRead q
  | none => s.tableRead q

/-- LQ_DOORBELL. -/
def execLqDoorbell (_d q : Nat) (s : State) : Host.Outcome State Fault Refusal := .next (s.ring q)

/-- Does the host assign the slots of a queue's context (R361, R368)? -/
def State.hostMaps (s : State) (q : Nat) : Bool := match s.qEntry q with
  | some e => (s.ctxReg e.ctx 2).getLsbD 1
  | none => false

/-- LQ_SLOT_WRITE (R361, R453): the host assigns a slot. The queue that held it loses it. -/
def State.slotWrite (s : State) (d k : Nat) (x : Word) : State :=
  let s := s.mmioKeep d (0x100E8 + 8 * k) x
  let s := match Tbl.get? k (s.die d).slots with
    | some q => (s.setQueue d q { s.queueAt d q with slot := none, watch := none }).modDie d fun y => { y with slots := y.slots.erase k }
    | none => s
  let q := x.toNat % 2 ^ 16
  if x.getLsbD 63 && s.hostMaps q then
    (s.setQueue d q { s.queueAt d q with slot := some k, mappedAt := s.now.toNat }).modDie d fun y =>
      { y with slots := y.slots.set k q }
  else s

/-- LQ_SLOT_WRITE. -/
def execLqSlotWrite (d k : Nat) (x : Word) (s : State) : Host.Outcome State Fault Refusal := .next (s.slotWrite d k x)

/-- Is slot k free for a hardware-mode queue? -/
def State.slotFree (s : State) (d k : Nat) : Bool :=
  !(s.die d).slots.has k && !(s.mmioAt d (0x100E8 + 8 * k)).getLsbD 63

/-- Hardware-mode queues of a die that are active and hold no slot, in rotating order of number. -/
def State.unmapped (s : State) (d : Nat) : List Nat :=
  let l := ((s.die d).queues.filter fun p => p.2.active && p.2.slot.isNone && !s.hostMaps p.1).map (·.1)
  let r := (s.die d).rotQ
  (l.filter fun q => r ≤ q) ++ l.filter fun q => q < r

/-- Does a queue stand at a packet boundary: does no packet of it wait half begun (R361)? The model begins a packet in one
step, so that every mapped queue does, a waiting wait packet's too. -/
def State.atBoundary (_s : State) (_d _q : Nat) : Bool := true

/-- The slot that passes on: the one whose queue has held it longest, at least 64 µs and at a packet boundary. -/
def State.oldSlot (s : State) (d : Nat) : Option (Nat × Nat) :=
  ((s.die d).slots.filter fun p =>
    s.atBoundary d p.2 && !(s.mmioAt d (0x100E8 + 8 * p.1)).getLsbD 63
      && (s.queueAt d p.2).mappedAt + 64000 ≤ s.now.toNat).foldl (fun a p => match a with
    | none => some p
    | some b => if (s.queueAt d p.2).mappedAt < (s.queueAt d b.2).mappedAt then some p else a) none

/-- Gives slot k to a queue. -/
def State.mapSlot (s : State) (d k q : Nat) : State :=
  (s.setQueue d q { s.queueAt d q with slot := some k, mappedAt := s.now.toNat }).modDie d fun y =>
    { y with slots := y.slots.set k q, rotQ := q + 1 }

/-- QUEUE_SLOT_ROTATE (R361): the next active queue without a slot takes a free one, or one that is passed on. -/
def execQueueSlotRotate (d : Nat) (s : State) : Host.Outcome State Fault Refusal :=
  .next <| match s.unmapped d with
  | [] => s
  | q :: l =>
    match (List.range 256).find? fun k => s.slotFree d k with
    | some k => s.mapSlot d k ((least (q :: l)).getD q)
    | none =>
      match s.oldSlot d with
      | none => s
      | some (k, o) => (s.setQueue d o { s.queueAt d o with slot := none, watch := none }).mapSlot d k q

/-! ### Packets (R358 to R360) -/

/-- Words and fields of a packet. -/
def pWord (w : List Word) (k : Nat) : Nat := ((w[k]?).getD 0).toNat
def pKind (w : List Word) : Nat := field (pWord w 0) 63 60
def pRed (w : List Word) : Nat := field (pWord w 0) 59 58
def pFixed (w : List Word) : Bool := (pWord w 0).testBit 57
def pLate (w : List Word) : Bool := (pWord w 0).testBit 56
def pSer (w : List Word) : Bool := (pWord w 0).testBit 55
def pCount (w : List Word) : Nat := field (pWord w 0) 31 0
def pDeadline (w : List Word) : Nat := if pWord w 1 = 0 then 2 ^ 64 - 1 else pWord w 1
def pImage (w : List Word) : Nat := field (pWord w 2) 55 0
def pTmpl (w : List Word) : Nat := field (pWord w 3) 63 48
def pCctr (w : List Word) : Nat := field (pWord w 6) 55 0

/-- A packet that is rejected with reason 0x8 (R359): its kind or red is reserved, a reserved field is not 0, or its counter's address
is no multiple of 8 (DEDUCED, log 30). -/
def pMalformed (w : List Word) : Bool :=
  !(1 ≤ pKind w && pKind w ≤ 3) || pRed w = 0 || field (pWord w 0) 54 32 ≠ 0 || pWord w 5 ≠ 0 || pCctr w % 8 ≠ 0

/-- A head: its queue, number, words and position in the order of R362. -/
structure Head where
  q : Nat
  e : QEntry
  n : Nat
  words : List Word
  deriving DecidableEq, Repr

/-- For whom the controller reads a queue's packets. -/
def State.forQueue (s : State) (d q : Nat) (e : QEntry) : LFor := ⟨d, q, e.ctx, s.ctxReg e.ctx 2⟩

/-- Does a position stand before another (R362)? -/
def earlier (a b : Nat × Nat × Nat) : Bool :=
  a.1 < b.1 || (a.1 = b.1 && (b.2.1 < a.2.1 || (a.2.1 = b.2.1 && a.2.2 < b.2.2)))

/-- Deadline, priority and number of a head. -/
def Head.pos (h : Head) : Nat × Nat × Nat := (pDeadline h.words, h.e.prio, h.q)

/-- Reads the head packet of a queue (R357): none where the queue is empty. -/
def lHead (l : LFor) (e : QEntry) : LaunchM (Option (Nat × List Word)) := do
  let posted ← lWord l e.posted
  let n ← lWord l e.consumed
  if posted = n then return none
  return some (n, ← lWords l (e.base + n % 2 ^ e.lgn * 64) 8)

/-- A record of a refused access of the launch controller (R72, R382). -/
def State.launchFault (s : State) (l : LFor) (va : Nat) : State :=
  s.report l.d ⟨.accessLate, 1, false, l.ctx, 1024 * l.d, 0, BitVec.ofNat 64 va, 0, 0, 0, s.now⟩

/-- A queue is no longer active and loses its slot (R361), but for one that the host has assigned (R368, R453). -/
def State.quiet (s : State) (d q : Nat) : State :=
  let x := s.queueAt d q
  let mine (k : Nat) : Bool := (s.mmioAt d (0x100E8 + 8 * k)).getLsbD 63
  if x.slot.any mine then s.setQueue d q { x with active := false, aborted := none, watch := none }
  else (s.setQueue d q { x with active := false, slot := none, aborted := none, watch := none }).modDie d fun y =>
    { y with slots := y.slots.filter fun p => p.2 ≠ q }

/-- Has the translation of a page for a queue been aborted (R96)? -/
def State.abortedAt (s : State) (d q va : Nat) : Bool := (s.queueAt d q).aborted = some (va / 65536)

/-- A queue whose head cannot be read, because the translation of its page has been aborted: a packet whose slot lies there has
completed aborted, with nothing of it known but that it is consumed; a queue whose counters lie there rests (R96). -/
def State.headAborted (s : State) (d q : Nat) (e : QEntry) (lf : LFor) : State :=
  match (do
      let _ ← lWord lf e.posted
      let _ ← lWord lf e.consumed
      lAdd lf e.consumed 1 : LaunchM Unit).run s with
  | .ok (_, s) => s.setQueue d q { s.queueAt d q with aborted := none }
  | .error _ => s.quiet d q

/-- The heads of the mapped queues of a die; a queue found empty is no longer active and loses its slot (R361). -/
def State.heads (s : State) (d : Nat) : List (Nat × Nat) → List Head × State
  | [] => ([], s)
  | (_, q) :: l =>
    match s.qEntry q with
    | none => State.heads (s.quiet d q) d l
    | some e =>
      if (s.queueAt d q).waiting || e.die ≠ d || !(s.queueAt d q).active then s.heads d l
      else
        let s := s.tableRead q
        let lf := s.forQueue d q e
        match (lHead lf e).run s with
        | .ok (none, s) => State.heads (s.quiet d q) d l
        | .ok (some (n, w), s) =>
          let (hs, s) := s.heads d l
          (⟨q, e, n, w⟩ :: hs, s)
        | .error (.walk va kind) =>
          if s.abortedAt d q va then State.heads (s.headAborted d q e lf) d l
          else State.heads (s.lRun lf (do let _ ← lXlate lf va kind) (fun _ s => s) fun _ s => s) d l
        | .error (.fail va) => State.heads ((s.launchFault lf va).quiet d q) d l

/-- Does R360 let a head begin, and R68 and R456? -/
def State.eligible (s : State) (d : Nat) (h : Head) (held : Bool) : Bool :=
  !held && !(pSer h.words && (match (s.queueAt d h.q).last with
    | some id => s.launches.has id
    | none => false))

/-- The earliest of a list of heads (R362). -/
def firstHead : List Head → Option Head
  | [] => none
  | h :: l => match firstHead l with
    | none => some h
    | some g => if earlier g.pos h.pos then some g else some h

/-- Launches of a die that have begun and are not placed yet. -/
def State.unplaced (s : State) (d : Nat) : List Launch :=
  (s.launches.map (·.2)).filter fun l => !l.foreign && l.die = d && l.status.isNone && l.gang.any fun g => !g.started

/-- Position of a launch in the order of R362. -/
def State.posOf (s : State) (l : Launch) : Nat × Nat × Nat :=
  (pDeadline l.words, ((s.qEntry l.queue).map (·.prio)).getD 0, l.queue)

/-! ### Placement (R340, R364, R375) -/

/-- Is a quad of the module's grid free: no region holds or reserves it, no task runs on it, and its die lives? -/
def State.quadFree (s : State) (X Y : Nat) : Bool :=
  X < 32 && Y < 32 && !s.dieDead (X / 16 + 2 * (Y / 16))
    && !(s.regions.any fun p => !p.2.isTask && p.2.shape.any fun o =>
          p.2.originX + o.1 = X && p.2.originY + o.2 = Y)
    && !((List.range 4).any fun t => s.nodes.has (tileOfQuad X Y t))

/-- May a shape stand at an origin with its first quad on a die; `one`, that of a fixed-timing region or of a replica, wholly on it (R340,
R375)? -/
def State.fits (s : State) (shape : List (Nat × Nat)) (one : Bool) (d X Y : Nat) : Bool :=
  let die (o : Nat × Nat) : Nat := (X + o.1) / 16 + 2 * ((Y + o.2) / 16)
  (shape.all fun o => s.quadFree (X + o.1) (Y + o.2))
    && (match shape with
        | o :: _ => die o = d
        | [] => false)
    && (!one || shape.all fun o => die o = d)

/-- A free choice among the origins at which a shape fits. -/
def State.place (s : State) (shape : List (Nat × Nat)) (one : Bool) (d : Nat) : Option (Nat × Nat) × State :=
  let l := ((List.range 32).flatMap fun X => (List.range 32).map fun Y => (X, Y)).filter fun p =>
    s.fits shape one d p.1 p.2
  let (k, s) := s.pick l.length
  (l[k]?, s)

/-- Can a shape lie on one die (R375)? -/
def onOneDie (shape : List (Nat × Nat)) : Bool := shape.all fun a => shape.all fun b => a.1 < b.1 + 16 && a.2 < b.2 + 16

/-- Quad offsets of a region's records. -/
def shapeOf (recs : List CfgRec) : List (Nat × Nat) := (recs.filter fun c => c.kind = 2).map fun c => c.offset

/-- Is a region's record list one of a fixed-timing region? -/
def fixedOf (recs : List CfgRec) : Bool := (recs.head?.map fun c => c.w0.getLsbD 39).getD false

/-- A region that is not placed yet. -/
def Region.blank (launch : Nat) (ctx : BitVec 12) (rank rep d : Nat) (recs : List CfgRec) (seqs : Tbl (List Word)) : Region where
  launch := launch
  ctx := ctx
  rank := rank
  replica := rep
  die := d
  isTask := false
  fixed := fixedOf recs
  live := false
  shape := shapeOf recs
  originX := 0
  originY := 0
  elems := []
  recs := recs
  seqs := seqs
  step := 0
  lastStep := field ((recs.head?.map fun c : CfgRec => c.w1).getD 0#64).toNat 15 0
  switching := false
  cutNum := 0
  saving := none
  confirmed := none
  pendingAt := none
  frozen := none
  gated := false
  cyc := 0
  still := 0
  quiet := 0
  spillEdge := none
  spillAsked := false
  spillPool := false
  spillAt := 0
  errorAgain := []
  retried := []
  voteCut := none
  cutAgain := false
  rolling := false
  rollDie := d
  evicting := none
  ending := false

/-- A handle that no region of the module holds (R382): a free choice. -/
def State.newHandle (s : State) : Nat × State :=
  let (n, s) := s.pick 65535
  let l := (List.range 65535).map fun k => 1 + (n + k) % 65535
  ((l.find? fun h => !s.regions.has h).getD 65535, s)

/-- Elements of a region in the order of its node records, those of later steps last (R341), and then the MTs that have descriptors
without one (R128). -/
def Region.elements (r : Region) : List Nat :=
  (((r.recs.filter fun c => c.kind = 3) ++ r.recs.filter fun c => c.kind = 5).map fun c => r.recTile c).eraseDups

/-- Reserves quads for a region of a launch (R364), all on one die where the launch has replicas (R375); none where nothing fits. -/
def State.reserve (s : State) (r : Region) (one : Bool) : Option Nat × State :=
  match s.place r.shape (r.fixed || one) r.die with
  | (none, s) => (none, s)
  | (some (X, Y), s) =>
    let (h, s) := s.newHandle
    let r := { r with originX := X, originY := Y }
    (some h, { s with regions := s.regions.set h { r with elems := r.elements } })

/-- Replicas of a launch (R375). -/
def Launch.replicas (l : Launch) : Nat := pRed l.words

/-- Die of a region of a launch: the rank map's, or its replica's. -/
def Launch.dieOf (l : Launch) (rank rep : Nat) : Nat :=
  (l.map[if l.replicas = 1 then rank else rep]?).getD 0

/-- The regions of a launch that lie on a die, by rank and replica. -/
def Launch.onDie (l : Launch) (d : Nat) : List (Nat × Nat) :=
  ((List.range l.recs.length).flatMap fun k => (List.range l.replicas).map fun r => (k, r)).filter fun p =>
    l.dieOf p.1 p.2 = d

/-- Reserves every region of a launch on a die: none where one of them does not fit. -/
def State.reserveAll (s : State) (id : Nat) (l : Launch) (d : Nat) : List (Nat × Nat) → Option (List Nat) × State
  | [] => (some [], s)
  | (k, r) :: t =>
    match s.reserve (Region.blank id l.ctx k r d ((l.recs[k]?).getD []) ((l.seqs[k]?).getD [])) (1 < l.replicas) with
    | (none, s) => (none, s)
    | (some h, s) =>
      match s.reserveAll id l d t with
      | (none, s) => (none, s)
      | (some hs, s) => (some (h :: hs), s)

/-- CTs of a die that hold no region and no task (R367). -/
def State.freeCts (s : State) (d : Nat) : List Nat :=
  if s.dieDead d then []
  else ((List.range 1024).map fun k => 1024 * d + k).filter fun t =>
    let o := t % 1024
    let X := 16 * (d % 2) + o / 64
    let Y := 16 * (d / 2) + o % 32 / 2
    isCt t && !s.nodes.has t && !s.regions.any fun p => !p.2.isTask && p.2.shape.any fun q =>
      p.2.originX + q.1 = X && p.2.originY + q.2 = Y

/-- Pairs of dies for pair mode: the diagonals when either has room, else any two (R375). -/
def State.diePairs (room : Nat → Bool) : List (List Nat) :=
  let ok (l : List Nat) : Bool := l.all room
  let diag := [[0, 3], [3, 0], [1, 2], [2, 1]].filter ok
  if diag ≠ [] then diag
  else ((List.range 4).flatMap fun a => (List.range 4).filterMap fun b => if a ≠ b then some [a, b] else none).filter ok

/-- Triples of dies. -/
def State.dieTriples (room : Nat → Bool) : List (List Nat) :=
  ((List.range 4).flatMap fun a => (List.range 4).flatMap fun b => (List.range 4).filterMap fun c =>
    if a ≠ b && b ≠ c && a ≠ c then some [a, b, c] else none).filter fun l => l.all room

/-- A free choice of the dies of a launch's replicas. -/
def State.repDies (s : State) (n : Nat) (room : Nat → Bool) : Option (List Nat) × State :=
  let l := if n = 2 then State.diePairs room else State.dieTriples room
  let (k, s) := s.pick l.length
  (l[k]?, s)

/-! ### The manifest (R354, R355) -/

/-- Bytes of a register as the manifest digest takes it. -/
def regBytes (x : Word) : List Byte := toBytes x.toNat 8

/-- Resident templates of a context on a die, in ID order. -/
def State.tmplsOf (s : State) (d : Nat) (c : BitVec 12) : List (Nat × Template) :=
  (s.die d).tmpls.filter fun p => p.1 / 65536 = c.toNat

/-- The images that `man.tbl` covers. -/
def State.tableBytes (s : State) (d : Nat) (c : BitVec 12) : List Byte :=
  (s.tmplsOf d c).flatMap (fun p => p.2.image)
    ++ (if (s.die d).net.owner = some c then (s.die d).net.image else [])

/-- The manifest of a launch. -/
def Manifest.of (bin : List Word) (mode seed : Word) (tbl : List Word) (ranks mts cts : Nat) : Manifest :=
  let regs := bin ++ [mode, seed] ++ tbl
    ++ [BitVec.ofNat 64 (2 ^ 56 + ranks), BitVec.ofNat 64 (mts * 2 ^ 32 + cts)]
  let head : List Byte := [0x50, 0x48, 0x58, 0x4D, 0x41, 0x4E, 0x49, 0x31]
  ⟨regs ++ sha384 (head ++ regs.flatMap regBytes)⟩

/-- n free words. -/
def State.pickWords (s : State) : Nat → List Word × State
  | 0 => ([], s)
  | n + 1 =>
    let (x, s) := s.pickWord
    let (l, s) := s.pickWords n
    (x :: l, s)

/-! ### Deterministic mode (R353) -/

/-- The blocks of a code image: address and block; words that no header starts are passed over. Fuel is the number of
16-byte units. -/
def codeBlocks (base : Nat) (b : List Byte) : Nat → List (Nat × Blk)
  | 0 => []
  | f + 1 =>
    let h : Word := BitVec.ofNat 64 (ofBytes (b.take 8))
    if b.length < 16 then []
    else if headerBad h || b.length < 8 + restBytes h then codeBlocks (base + 16) (b.drop 16) f
    else
      let n := (8 + restBytes h + 15) / 16 * 16
      (base, Blk.ofBytes h (b.drop 8) false 0) :: codeBlocks (base + n) (b.drop n) f

/-- Does an instruction break rule 0x2: an ATOM of FP32, or one with op exch, cas, and or xor (log 61)? -/
def detAtom : Instr → Bool
  | .atom _ a op _ _ => a.ty = .f32 || [AtomOp.exch, .cas, .and, .xor].contains op
  | _ => false

/-- Is an instruction a delta? -/
def isDeltaInstr : Instr → Bool
  | .wmasr .. | .wmret .. | .wmmod .. => true
  | _ => false

/-- Addresses that a block may go to by displacement, and the block after a call. -/
def nextBlocks (a : Nat) (b : Blk) : List Nat :=
  let there (d : BitVec 22) : Nat := ((BitVec.ofNat 64 a + d.signExtend 64 * 16 : Word)).toNat
  let after := (a + 8 + restBytes b.header + 15) / 16 * 16
  b.instrs.flatMap fun p => match p.2 with
    | .br _ d => [there d]
    | .call _ d => [there d, after]
    | .calli _ => [after]
    | _ => []

/-- Blocks that an entry reaches; fuel is their number. -/
def reachBlocks (bs : List (Nat × Blk)) : Nat → List Nat → List Nat
  | 0, l => l
  | f + 1, l => reachBlocks bs f
      (l ++ ((bs.filter fun p => l.contains p.1).flatMap fun p => nextBlocks p.1 p.2).eraseDups.filter fun a => !l.contains a)

/-- Does the node that starts at an address issue deltas? -/
def nodeDeltas (bs : List (Nat × Blk)) (entry : Nat) : Bool :=
  let l := reachBlocks bs bs.length [entry]
  bs.any fun p => l.contains p.1 && p.2.instrs.any fun q => isDeltaInstr q.2

/-- Template nodes that are firing actions of a context's rules on a die. -/
def State.actions (s : State) (d : Nat) (c : BitVec 12) : List (Nat × Nat) :=
  let n := (s.die d).net
  if n.owner = some c then
    (n.nodes.filter fun x => x.kind = 5).map fun x => (field x.w1.toNat 31 16, field x.w1.toNat 15 0)
  else []

/-- The reasons of R353 for which an image is refused. -/
def State.detBad (s : State) (d : Nat) (c : BitVec 12) (base len : Nat) (bs : List (Nat × Blk)) (recs : List (List CfgRec)) :
    List Nat :=
  let merges := recs.any fun l => l.any fun r => r.kind = 11 &&
    !(l.any fun p => p.step = r.step && p.kind = 7 && p.attr = 1 && p.portKey = r.portKey) &&
    !(l.any fun p => p.step = r.step && p.kind = 3 && p.elem = r.elem && p.mtMode = 2 && p.w0.getLsbD 27 && !p.w0.getLsbD 24)
  let atoms := bs.any fun p => p.2.instrs.any fun q => detAtom q.2
  let own := (recs.map fun l => (l.filter fun r => r.kind = 3 && elemIsCt r.elem && nodeDeltas bs r.w1.toNat).length).foldl
    (· + ·) 0
  let acts := s.actions d c
  let tm := ((s.tmplsOf d c).flatMap fun p => (List.range p.2.entries.length).filter fun k =>
    let e := field (pWord ((p.2.entries[k]?).getD []) 0) 55 0
    base ≤ e && e < base + len && !acts.contains (p.1 % 65536, k) && nodeDeltas bs e).length
  (if merges then [1] else []) ++ (if atoms then [2] else []) ++ (if 1 < own + tm then [3] else [])

/-- The entry blocks of a template's nodes. -/
def Template.starts (t : Template) : List Nat := t.entries.map fun e => field (pWord e 0) 55 0

/-- The same for a task packet, whose code are the blocks that its template's nodes reach. -/
def State.detTasks (s : State) (d : Nat) (c : BitVec 12) (bs : List (Nat × Blk)) (id : Nat) (t : Template) : List Nat :=
  let acts := s.actions d c
  let own := ((List.range t.entries.length).filter fun k =>
    !acts.contains (id, k) && nodeDeltas bs ((t.starts[k]?).getD 0)).length
  (if bs.any fun p => p.2.instrs.any fun q => detAtom q.2 then [2] else []) ++ (if 1 < own then [3] else [])

/-! ### Beginning a packet -/

/-- What the checks of a chosen packet give. -/
inductive Check where
  | refuse (reason : Nat) (at_ : Option Nat)
  | gang (recs : List (List CfgRec)) (seqs : List (Tbl (List Word))) (map : List Nat) (bin : List Word)
      (rounds : Tbl RoundRegion)
  | tasks (tmpl : Option Template) (rounds : Tbl RoundRegion)

/-- Reads the table of round regions (R165). -/
def lRounds (l : LFor) (table : Nat) : Nat → LaunchM (Tbl RoundRegion)
  | 0 => pure []
  | k + 1 => do
    let t ← lRounds l table k
    let w ← lWords l (table + 32 * k) 4
    return match roundOfWords (pWord w 0) (pWord w 1) (pWord w 2) (pWord w 3) with
      | some r => t ++ [(k, r)]
      | none => t

/-- Reads n records of a launch image. -/
def lRecs (l : LFor) (va : Nat) : Nat → LaunchM (List CfgRec)
  | 0 => pure []
  | k + 1 => do
    let w ← lWords l va 4
    return ⟨BitVec.ofNat 64 (pWord w 0), BitVec.ofNat 64 (pWord w 1), BitVec.ofNat 64 (pWord w 2),
      BitVec.ofNat 64 (pWord w 3)⟩ :: (← lRecs l (va + 32) k)

/-- Reads the sequencer descriptors that streaming MTs' node records name. -/
def lSeqs (l : LFor) : List ImgRec → LaunchM (List (Nat × List Word))
  | [] => pure []
  | r :: t => do
    let rest ← lSeqs l t
    if r.2.kind = 3 && !elemIsCt r.2.elem && r.2.mtMode = 0 && !r.2.malformed then
      return (r.1, ← lWords l r.2.w1.toNat 4) :: rest
    return rest

/-- Sequencer programs of a region by step and element. -/
def seqsOf (g : List ImgRec) (seqs : List (Nat × List Word)) : Tbl (List Word) :=
  g.foldl (fun t r => match seqs.find? fun q => q.1 = r.1 with
    | some q => Tbl.set t (r.2.step * 2 ^ 16 + r.2.elem) q.2
    | none => t) []

/-- Reads a rank map (R364): the die of each region, with 4 + device × 4 + die for one on another device; none where a
reserved bit is set. -/
def lMap (l : LFor) (own va : Nat) : Nat → LaunchM (Option (List Nat))
  | 0 => pure (some [])
  | k + 1 => do
    let b ← lBytes l (linesOf va 4)
    let w := Sys2Proof.ofBytes b
    let t ← lMap l own (va + 4) k
    if field w 14 0 ≠ 0 then return none
    let d := if field w 31 17 = own then field w 16 15 else 4 + 4 * field w 31 17 + field w 16 15
    return t.map fun t => d :: t

/-- The checks of a gang packet (R347, R353, R359, R375). -/
def lGang (l : LFor) (w : List Word) (mode : Word) (rounds : Tbl RoundRegion) : LaunchM Check := do
  let va := pImage w
  if va % 32 ≠ 0 then return .refuse 0xA (some va)
  let head ← lWords l va 4
  let len := pWord head 3
  let recs ← lRecs l va (if field (pWord head 0) 63 56 = 0 && len < 2 ^ 40 then Nat.max 1 (len / 32) else 1)
  let irs := (List.range recs.length).filterMap fun k => (recs[k]?).map fun r => (k, r)
  let seqs ← lSeqs l irs
  match imageFault irs seqs with
  | some k => return .refuse 0xA (some (va + 32 * k))
  | none =>
    if len % 32 ≠ 0 then return .refuse 0xA (some va)
    let gs := splitRegions (irs.drop 1)
    let rs := gs.map fun g => g.map (·.2)
    if pFixed w ≠ rs.any fixedOf then return .refuse 9 none
    let s ← get
    match ← lMap l (field (s.mmioAt 0 0x80).toNat 30 16) (pWord w 3) rs.length with
    | none => return .refuse 8 none
    | some m =>
      if 1 < pRed w && ((m.any fun d => 4 ≤ d || d ≠ m.headD 0) || !(rs.all fun g => onOneDie (shapeOf g))) then return .refuse 8 none
      let base := pWord head 1
      let code ← lBytes l (linesOf base (pWord head 2))
      let bs := if mode.getLsbD 0 then codeBlocks base code (code.length / 16 + 1) else []
      let s ← get
      let bad := if mode.getLsbD 0 then s.detBad l.d l.ctx base code.length bs rs else []
      let k ← fun s => Except.ok (s.pick bad.length)
      match bad[k]? with
      | some r => return .refuse r none
      | none => return .gang rs (gs.map fun g => seqsOf g seqs) m (sha384 code) rounds

/-- Key of a template: its context and ID. -/
def tmplKey (c : BitVec 12) (t : Nat) : Nat := c.toNat * 65536 + t

/-- Reads and checks a template image (R343, R366); none where it breaks R343 or its ID differs. -/
def lTmpl (l : LFor) (va id : Nat) : LaunchM (Option Template) := do
  if va % 32 ≠ 0 then return none
  let h ← lWords l va 2
  let n := field (pWord h 0) 47 32
  if field (pWord h 0) 63 48 ≠ id || n = 0 || 4096 < n || field (pWord h 0) 31 0 ≠ 0 || pWord h 1 ≠ 0 then return none
  let b ← lBytes l (linesOf va (16 + 32 * n))
  let word (k : Nat) : Word := BitVec.ofNat 64 (Sys2Proof.ofBytes ((b.drop (8 * k)).take 8))
  let es := (List.range n).map fun k => (List.range 4).map fun j => word (2 + 4 * k + j)
  let ok (e : List Word) : Bool :=
    pWord e 0 < 2 ^ 56 && pWord e 0 % 16 = 0 && pWord e 1 < 2 ^ 56 && pWord e 2 < 2 ^ 32 && pWord e 2 % 8 = 0
      && pWord e 3 = 0
  return if es.all ok then some ⟨es, b, 0, l.ctx⟩ else none

/-- Reads bytes; none where an access is refused. -/
def lTry (l : LFor) (va n : Nat) : LaunchM (Option (List Byte)) := fun s =>
  match (lBytes l (linesOf va n)).run s with
  | .ok (b, s) => .ok (some b, s)
  | .error (.fail _) => .ok (none, s)
  | .error x => .error x

/-- Reads the blocks that addresses reach by displacement; fuel bounds their number. -/
def lBlocks (l : LFor) : Nat → List Nat → List (Nat × Blk) → LaunchM (List (Nat × Blk))
  | 0, _, bs => pure bs
  | _, [], bs => pure bs
  | f + 1, a :: t, bs => do
    if bs.any fun p => p.1 = a then lBlocks l f t bs
    else
      match ← lTry l a 8 with
      | none => lBlocks l f t bs
      | some hb =>
        let h : Word := BitVec.ofNat 64 (Sys2Proof.ofBytes hb)
        if headerBad h then lBlocks l f t bs
        else
          match ← lTry l (a + 8) (restBytes h) with
          | none => lBlocks l f t bs
          | some b =>
            let k := Blk.ofBytes h b false 0
            lBlocks l f (nextBlocks a k ++ t) (bs ++ [(a, k)])

/-- The checks of a task packet with its template (R353): `new` is the template where it is not resident yet. -/
def lTasks (l : LFor) (w : List Word) (mode : Word) (t : Template) (new : Option Template) (rounds : Tbl RoundRegion) :
    LaunchM Check := do
  let bs ← if mode.getLsbD 0 then lBlocks l 65536 t.starts [] else pure []
  let s ← get
  let bad := if mode.getLsbD 0 then s.detTasks l.d l.ctx bs (pTmpl w) t else []
  let k ← fun s => Except.ok (s.pick bad.length)
  match bad[k]? with
  | some r => return .refuse r none
  | none => return .tasks new rounds

/-- The checks of a chosen packet, its round table first (R165, R366). -/
def lCheck (l : LFor) (w : List Word) (mode table : Word) (resident : Option Template) : LaunchM Check := do
  let rounds ← if table = 0 then pure [] else lRounds l table.toNat 64
  if pKind w = 1 then lGang l w mode rounds
  else
    match resident with
    | some t => lTasks l w mode t none rounds
    | none =>
      match ← lTmpl l (pImage w) (pTmpl w) with
      | none => return .refuse 8 none
      | some t => lTasks l w mode t (some t) rounds

/-- A launch at its beginning. -/
def State.newLaunch (s : State) (d : Nat) (h : Head) (rounds : Tbl RoundRegion) : Launch where
  queue := h.q
  pkt := h.n
  die := d
  words := h.words
  ctx := h.e.ctx
  mode := s.ctxReg h.e.ctx 1
  assist := s.ctxReg h.e.ctx 2
  seed := s.ctxReg h.e.ctx 7
  rrTable := s.ctxReg h.e.ctx 8
  man := ⟨List.replicate 22 0⟩
  rounds := rounds
  lateRun := pDeadline h.words < s.now.toNat
  recs := []
  seqs := []
  map := []
  gang := []
  tickT := 0
  attempt := 0
  emitted := 0
  running := 0
  status := none
  foreign := false

/-- The registers that a launch has taken. -/
def Launch.ctxRun (l : Launch) : CtxRun := ⟨l.mode, l.assist, l.seed, l.rrTable, l.rounds⟩

/-- A packet begins (R357): it is consumed, and its launch stands in its queue as the last; one that runs has taken its context's
registers (R451). Where `consumed` cannot be counted up nothing begins, and the queue rests. -/
def State.begin (s : State) (d : Nat) (h : Head) (l : Launch) : State :=
  let lf := s.forQueue d h.q h.e
  s.lRun lf (lAdd lf h.e.consumed 1)
    (fun _ s =>
      let (id, s) := s.fresh
      let s := { s with
        launches := s.launches.set id l
        ctxRun := if l.status.isNone then s.ctxRun.set l.ctx.toNat l.ctxRun else s.ctxRun }
      s.setQueue d h.q { s.queueAt d h.q with last := some id, aborted := none, watch := none })
    fun va s => (s.launchFault lf va).quiet d h.q

/-- A packet completes without running (R359, R363). -/
def State.refuse (s : State) (d : Nat) (h : Head) (status reason : Nat) : State :=
  s.begin d h { s.newLaunch d h [] with status := some (status, reason) }

/-- Number of MT and CT nodes of a gang (R354). -/
def tileCounts (recs : List (List CfgRec)) : Nat × Nat :=
  let all := recs.flatMap fun l => l.filter fun r => r.kind = 3
  let mts := (recs.map fun l => ((l.filter fun r => r.kind = 3 && !elemIsCt r.elem).map fun r => r.elem).eraseDups.length).foldl
    (· + ·) 0
  (mts, (all.filter fun r => elemIsCt r.elem).length)

/-- The tick T of a gang's start: some ticks from now, or the one that the host chooses where it performs both phases, which is
free (R364, R368; log 30). -/
def State.startTick (s : State) (assist : Word) (span : Nat) : Nat × State :=
  if assist.getLsbD 6 then
    let (x, s) := s.pickWord
    (x.toNat, s)
  else (s.now.toNat + span, s)

/-- A gang begins, if it can be placed at once (R362 to R364, R375): its dies are asked for reservations for a
tick T. -/
def State.beginGang (s : State) (d : Nat) (h : Head) (recs : List (List CfgRec)) (seqs : List (Tbl (List Word)))
    (map : List Nat) (bin : List Word) (rounds : Tbl RoundRegion) : State :=
  let l := { s.newLaunch d h rounds with recs := recs, seqs := seqs, map := map }
  let room (l : Launch) (s : State) (x : Nat) : Bool := (s.reserveAll 0 l x (l.onDie x)).1.isSome
  let alone (x : Nat) : List Nat := x :: List.replicate (l.replicas - 1) 4
  let (dies, s) :=
    if l.replicas = 1 then
      (if (map.filter fun x => x < 4).eraseDups.all fun x => room l s x then some map else none, s)
    else
      s.repDies l.replicas fun x =>
        room { l with map := alone x } s x
  match dies with
  | none => s
  | some m =>
    if l.lateRun && !pLate h.words then s.refuse d h 2 0
    else
      let (mts, cts) := tileCounts recs
      let man := Manifest.of bin l.mode l.seed (sha384 (s.tableBytes d l.ctx)) recs.length mts cts
      let (T, s) := s.startTick l.assist 20000
      s.begin d h { l with
        map := m, man := man, tickT := T
        gang := m.eraseDups.map fun x => ⟨x, false, false, false, false, false⟩ }

/-- Does a template have a queued or running task on a die, or a packet there that still emits (R366; the latter DEDUCED, log 32)? -/
def State.tmplBusy (s : State) (d key : Nat) : Bool :=
  ((s.die d).tasks.any fun r => tmplKey r.ctx (field r.w0.toNat 63 48) = key)
    || (s.launches.any fun p => pKind p.2.words = 2 && p.2.map.contains d && p.2.status.isNone
          && p.2.emitted ≤ pCount p.2.words && tmplKey p.2.ctx (pTmpl p.2.words) = key)
    || s.nodes.any fun p => p.2.task.isSome && dieOf p.1 = d
        && tmplKey p.2.ctx (field ((p.2.stream.toNat + 2 ^ 63) % 2 ^ 64) 63 48) = key

/-- Makes a template resident on a die, evicting the least recently used idle ones (R366); fuel bounds the evictions. -/
def State.makeResident (s : State) (d key : Nat) (t : Template) : Nat → Option State
  | 0 => none
  | f + 1 =>
    let ts := (s.die d).tmpls
    if ts.length < 256 && ts.foldl (fun a p => a + p.2.entries.length) 0 + t.entries.length ≤ 4096 then
      some { s.modDie d fun x => { x with tmpls := x.tmpls.set key { t with used := s.useTick } } with useTick := s.useTick + 1 }
    else
      match lruOf (fun t => (t.used : Int)) (ts.filter fun p => !s.tmplBusy d p.1) with
      | none => none
      | some p => (s.modDie d fun x => { x with tmpls := x.tmpls.erase p.1 }).makeResident d key t f

/-- Makes a packet's template resident on every die of its replicas. -/
def State.residentOn (s : State) (key : Nat) (t : Option Template) : List Nat → Option State
  | [] => some s
  | d :: l =>
    match Tbl.get? key (s.die d).tmpls, t with
    | some _, _ =>
      ({ s.modDie d fun x => { x with tmpls := x.tmpls.modify key fun y => { y with used := s.useTick } } with
        useTick := s.useTick + 1 }).residentOn key t l
    | none, some t => (s.makeResident d key t 257).bind fun s => s.residentOn key (some t) l
    | none, none => none

/-- A task packet begins, if a CT is free for each replica and its template can be made resident (R362, R366). -/
def State.beginTasks (s : State) (d : Nat) (h : Head) (tmpl : Option Template) (rounds : Tbl RoundRegion) : State :=
  let l := s.newLaunch d h rounds
  let free (x : Nat) : Bool := s.freeCts x ≠ []
  let (dies, s) := if l.replicas = 1 then (if free d then some [d] else none, s) else s.repDies l.replicas free
  match dies with
  | none => s
  | some m =>
    if l.lateRun && !pLate h.words then s.refuse d h 2 0
    else
      match s.residentOn (tmplKey l.ctx (pTmpl h.words)) tmpl m with
      | none => s
      | some s =>
        let tbl := sha384 (s.tableBytes d l.ctx)
        let (bin, s) := s.pickWords 6
        let (tiles, s) := s.pickWord
        let man := Manifest.of bin l.mode l.seed tbl 1 (tiles.toNat / 2 ^ 32) (tiles.toNat % 2 ^ 32)
        s.begin d h { l with map := m, man := man }

/-- The template of a packet, where it is resident on every die that may run it. -/
def State.resident (s : State) (d : Nat) (h : Head) : Option Template :=
  let key := tmplKey h.e.ctx (pTmpl h.words)
  if pRed h.words = 1 || (List.range 4).all fun x => (s.die x).tmpls.has key then Tbl.get? key (s.die d).tmpls else none

/-- The controller works on the head it has chosen; one whose read has been aborted completes aborted (R96). -/
def State.beginHead (s : State) (d : Nat) (h : Head) : State :=
  if (s.queueAt d h.q).aborted.isSome then s.refuse d h 4 3
  else if pMalformed h.words then s.refuse d h 3 8
  else
    let lf := s.forQueue d h.q h.e
    let table := s.ctxReg h.e.ctx 8
    let mode := s.ctxReg h.e.ctx 1
    let rej (reason : Nat) (at_ : Option Nat) (s : State) : State :=
      let s := match at_ with
        | some a => s.report d ⟨.configLoad, 0, false, h.e.ctx, 1024 * d, 0, BitVec.ofNat 64 a, 0, 0, 0, s.now⟩
        | none => s
      s.refuse d h 3 reason
    s.lRun lf (lCheck lf h.words mode table (s.resident d h))
      (fun c s => match c with
        | .refuse r a => rej r a s
        | .gang recs seqs map bin rounds => s.beginGang d h recs seqs map bin rounds
        | .tasks t rounds => s.beginTasks d h t rounds)
      fun va s =>
        if table ≠ 0 && table.toNat ≤ va && va < table.toNat + 2048 then rej 0xB none s
        else if pKind h.words = 1 then rej 0xA (some va) s else rej 8 none s

/-- Is the power limit, or the temperature, exceeded as last taken (R456)? -/
def State.overLimit (s : State) : Bool := (s.mmioAt 0 0x18).toNat < (s.mmioAt 0 0x20).toNat || 100 < (s.mmioAt 0 0x28).toNat

/-- Does the module hold launches back: every elastic patch has stood at its floor for 1 ms and the limit is still
exceeded (R456)? -/
def State.launchesHeld (s : State) : Bool := s.floorMs ≥ 100 && s.overLimit

/-- Is a head a gang that spans devices? Its map is read only when it is chosen; unlocked ticks hold every gang whose map
names another device (R362). -/
def State.spans (s : State) (d : Nat) (h : Head) : Bool :=
  let lf := s.forQueue d h.q h.e
  pKind h.words = 1 && match (do
      let head ← lWords lf (pImage h.words) 1
      lMap lf (field (s.mmioAt 0 0x80).toNat 30 16) (pWord h.words 3) (Nat.min 65536 (pWord head 0 % 65536))
      : LaunchM (Option (List Nat))).run s with
    | .ok (some m, _) => m.any fun x => 4 ≤ x
    | _ => false

/-- PACKET_CHOOSE (R357, R360, R362, R363): among the eligible heads of a die's mapped queues the first in order begins,
unless it cannot be placed or a launch before it in order is not placed yet. -/
def execPacketChoose (d : Nat) (s : State) : Host.Outcome State Fault Refusal :=
  .next (
    if !(s.mmioAt 0 0x100D8).getLsbD 0 || s.launchesHeld then s
    else
      let (hs, s) := s.heads d (s.die d).slots
      let hs := hs.filter fun h => s.eligible d h (pKind h.words = 3 && !pMalformed h.words && (s.queueAt d h.q).aborted.isNone)
        && (s.locked || !s.spans d h)
      match firstHead hs with
      | none => s
      | some h =>
        if (s.unplaced d).any fun l => earlier (s.posOf l) h.pos then s else s.beginHead d h)

/-- The value of the counter of a wait packet: read at its home, or, where its line is watched for the queue at a proxy, the one that the
proxy has read (R428). -/
def lCounter (l : LFor) (va : Nat) : LaunchM Nat := fun s =>
  match s.xlate l.d none l.ctx (BitVec.ofNat 64 va) .read 3 l.assist l.req with
  | (.ok e, u) =>
    if (u.queueAt l.d l.q).watch = some (e.phys va) then .ok (u.peek (u.key (e.phys va)) 8, u) else (lWord l va).run s
  | _ => (lWord l va).run s

/-- A wait packet whose counter lies below its target watches it at a proxy of a CXL link (R212, R428). -/
def lWatch (l : LFor) (va : Nat) : LaunchM Unit := do
  let pa ← lXlate l va .read
  modify fun s =>
    let x := s.queueAt l.d l.q
    match s.home l.d pa with
    | .proxy h _ =>
      if s.hostIsCxl h && s.hostUp h && x.watch ≠ some pa && s.watchFree l.d pa then
        (s.setQueue l.d l.q { x with watch := some pa }).proxyWatch pa
      else s
    | _ => s

/-- WAIT_PACKET_SATISFIED (R360): a wait packet at the head of a queue, with ser once the packet before it has completed, completes
once its counter has reached its target, and the queue goes on with no packet at work before the next. Queues that are not enabled wait
(R453). -/
def execWaitPacketSatisfied (d q : Nat) (s : State) : Host.Outcome State Fault Refusal :=
  .next <| match s.qEntry q with
  | none => s
  | some e =>
    if !(s.mmioAt 0 0x100D8).getLsbD 0 || (s.queueAt d q).slot.isNone || (s.queueAt d q).waiting || e.die ≠ d
        || (s.queueAt d q).aborted.isSome then s
    else
      let s := s.tableRead q
      let lf := s.forQueue d q e
      s.lRun lf (do
        match ← lHead lf e with
        | none => return false
        | some (n, w) =>
          if pKind w = 3 && !pMalformed w && s.eligible d ⟨q, e, n, w⟩ false then
            let v ← lCounter lf (pImage w)
            if pWord w 3 ≤ v then
              lAdd lf e.consumed 1
              return true
            else
              lWatch lf (pImage w)
              return false
          else return false)
        (fun went s => if went then s.setQueue d q { s.queueAt d q with last := none, watch := none } else s) fun va s => s.launchFault lf va

/-! ### Completion (R359) -/

/-- Has a launch come to its end? A region on another device ends when that device says so, which is free. -/
def State.launchOver (s : State) (id : Nat) (l : Launch) : Bool :=
  let live := (s.regions.any fun p => p.2.launch = id && !p.2.isTask)
    || s.saves.any fun p => p.2.out && p.2.region.launch = id
  let tasks := l.running ≠ 0 || (s.dies.toList.any fun x => x.tasks.any fun r => r.launch = some id)
  !(l.gang.any fun g => g.abort) && match l.status with
  | some _ => !live && !tasks && (pKind l.words ≠ 2 || l.map.isEmpty || pCount l.words < l.emitted)
  | none =>
    if pKind l.words = 1 then !live && l.gang ≠ [] && l.gang.all fun g => g.started
    else !tasks && pCount l.words < l.emitted

/-- The status word of a packet (R359). -/
def Launch.statusWord (l : Launch) (now : Word) : Word :=
  let (st, reason) := l.status.getD (if l.lateRun then (1, 0) else (0, 0))
  BitVec.ofNat 64 (st * 2 ^ 60 + reason * 2 ^ 56 + now.toNat % 2 ^ 56)

/-- PACKET_COMPLETE (R359): the status word, then the completion add. A gang that another device's controller has started leaves; that
controller completes its packet. -/
def execPacketComplete (id : Nat) (s : State) : Host.Outcome State Fault Refusal :=
  .next <| match Tbl.get? id s.launches with
  | none => s
  | some l =>
    if !s.launchOver id l || (s.queueAt l.die l.queue).waiting then s
    else
      let done (s : State) : State := { s with launches := s.launches.erase id }
      if l.foreign then done s
      else
      let c := if pKind l.words = 3 && !pMalformed l.words then 0 else pCctr l.words
      if c = 0 then done s
      else
        let lf : LFor := ⟨l.die, l.queue, l.ctx, l.assist⟩
        let s := s.lRun lf (do
          lPut lf (c + 8) (l.statusWord s.now)
          lAdd lf c (BitVec.ofNat 64 (pWord l.words 7))) (fun _ s => done s) fun va s => done (s.launchFault lf va)
        if (s.queueAt l.die l.queue).waiting then s.setQueue l.die l.queue { s.queueAt l.die l.queue with ending := some id } else s

end Sys2Proof.Machine
end

