-- ==== Sys2Proof/Machine/Cuts.lean ====
section
/-! DEFINITION. Cuts and rollback (R387 to R390, R431): when an element saves, what is saved, when a cut is complete and
confirmed, and the return to it. -/

namespace Sys2Proof.Machine

/-! ### Regions and their elements -/

/-- The region at a handle. -/
def State.reg (s : State) (h : Nat) : Option Region := Tbl.get? h s.regions

/-- Is there an element on a tile? -/
def State.hasElem (s : State) (t : Nat) : Bool := s.nodes.has t || s.mts.has t

/-- Edges of a tile's step that end at it, and that leave it. -/
def State.insOf (s : State) (t : Nat) : List (Nat × Edge) := s.edges.filter fun e => e.2.dst / 4 = t
def State.outsOf (s : State) (t : Nat) : List (Nat × Edge) := s.edges.filter fun e => e.2.src / 4 = t

/-- Everything of a region as it stands: what a start saves (R431), or a pre-emption (R395). -/
def State.snapshot (s : State) (h num : Nat) : Saved where
  num := num
  open_ := []
  nodes := s.nodes.filter fun p => p.2.region = h
  mts := s.mts.filter fun p => p.2.region = h
  ports := s.ports.filter fun p => s.regionOf (p.1 / 4) = h
  edges := s.edges.filter fun e => e.2.region = h
  bounds := s.bounds.filter fun b => b.2.region = h
  tbars := s.tbars.filter fun b => b.2.region = h

/-- Does an element stand at a release point (R378, R387)? -/
def State.atRelease (s : State) (t : Nat) : Bool :=
  match s.node? t with
  | some n => (match n.phase with
    | .commit (.relCheck [] :: _) => true
    | _ => false)
  | none =>
    match Tbl.get? t s.mts with
    | some m => m.implicitReq && !m.passed
    | none => false

/-! ### Saving -/

/-- The tokens of a buffer that stand before the marker of their own edge. -/
def beforeMarker : List PortTok → List Nat → List PortTok
  | [], _ => []
  | x :: l, gone =>
    if gone.contains x.edge then beforeMarker l gone
    else if x.tok.isMarker then beforeMarker l (x.edge :: gone)
    else x :: beforeMarker l gone

/-- Has the marker of a cut on an edge reached its receiver? -/
def State.markerCame (s : State) (e : Nat) (x : Edge) (num : Nat) : Bool :=
  let is (k : Token) : Bool := k.isMarker && k.cut = num
  ((s.port x.dst).toks.any fun k => k.edge = e && is k.tok)
    || ((s.port x.dst).carriers.any fun k => k.edge = e && is k.tok) || x.spill.any is

/-- A node as a cut saves it: a block that has fired nothing is to be fetched again. -/
def Node.atRest (n : Node) : Node :=
  let n := if n.phase = .fire then n.abandon n.pc else n
  { n with atMarker := false, ready := none, watch := none, issued := false }

/-- Adds an element to a cut: its state, its ports' tokens before their markers, and the edges whose marker is still
to come (R387). A loop bound is saved with the first of its two ends. -/
def State.saveElem (s : State) (t : Nat) (v : Saved) : Saved :=
  let v := match s.node? t, Tbl.get? t s.mts with
    | some n, _ => { v with nodes := v.nodes.set t n.atRest }
    | none, some m => { v with mts := v.mts.set t m }
    | none, none => v
  let v := (List.range 4).foldl (fun (v : Saved) p =>
    let k := 4 * t + p
    if s.ports.has k then
      let q := s.port k
      { v with ports := v.ports.set k { q with toks := beforeMarker q.toks [], carriers := beforeMarker q.carriers [] } }
    else v) v
  let v := (s.edges.filter fun e => e.2.dst % hiddenPort / 4 = t).foldl (fun (v : Saved) e =>
    let came := s.markerCame e.1 e.2 v.num
    { v with
      edges := v.edges.set e.1 { e.2 with link := [], spill := e.2.spill.takeWhile fun k => !k.isMarker }
      open_ := if came then v.open_ else v.open_ ++ [e.1] }) v
  let v := (s.bounds.filter fun b => b.2.entry / 4 = t || b.2.exit / 4 = t).foldl (fun (v : Saved) b =>
    if v.bounds.has b.1 then v else { v with bounds := v.bounds.set b.1 b.2 }) v
  (s.barsOf t).foldl (fun (v : Saved) b => { v with tbars := v.tbars.set b.1 b.2 }) v

/-- Has an element saved for a cut? -/
def Saved.has (v : Saved) (t : Nat) : Bool := v.nodes.has t || v.mts.has t

/-- Has nothing of the block fired? -/
def Node.untouched (n : Node) : Bool :=
  !n.issued && n.blk.effs.isEmpty && n.blk.exit.isNone && n.blk.slots.toList.all fun r => r.st = .waiting

/-- Does an element stand where it may save (R387)? -/
def State.mayPause (s : State) (t : Nat) : Bool :=
  match s.node? t with
  | some n => n.phase = .ended || (!n.gated && (match n.phase with
    | .fetch => n.stop.isNone && n.atMarker
    | .fire => n.stop.isNone && n.blk.header.getLsbD 50 && n.untouched
    | .commit (.relCheck [] :: _) => n.stop.isNone || n.stop = some .walk
    | _ => false))
  | none =>
    match Tbl.get? t s.mts with
    | some m => m.ended || (m.stop.isNone && !m.gated)
    | none => true

/-- Does a marker of a cut head each used forward input of a tile? -/
def State.headsMarked (s : State) (t num : Nat) : Bool :=
  (s.insOf t).all fun e => !e.2.forward ||
    (match s.headTok e.2.dst with
     | some k => k.tok.isMarker && k.tok.cut = num
     | none => false)

/-- May every used output of a tile send? -/
def State.outsReady (s : State) (t : Nat) : Bool := (s.outsOf t).all fun e => s.canSend e.2.src

/-- Sends a token on every used output of a tile. -/
def State.sendAll (s : State) (t : Nat) (k : Token) : State :=
  (s.outsOf t).foldl (fun s e => s.sendTok e.2.src k) s

/-- The first port of a tile whose head is a marker that its element need not wait for. -/
def State.staleMarker (s : State) (t : Nat) : Option Nat :=
  let due (num : Nat) : Bool := match s.reg (s.regionOf t) with
    | some r => (match r.saving with
      | some v => v.num = num && !v.has t
      | none => false)
    | none => false
  (List.range 4).find? fun p => match s.headTok (4 * t + p) with
    | some k => k.tok.isMarker && !due k.tok.cut
    | none => false

/-- May an element save for the cut of its region? -/
def State.maySave (s : State) (t : Nat) : Bool :=
  match s.reg (s.regionOf t) with
  | some r => (match r.saving with
    | some v => !v.has t && s.mayPause t && (s.ended t || s.headsMarked t v.num) && s.outsReady t
    | none => false)
  | none => false

/-! ### Beginning, completing and confirming a cut -/

/-- Does an element's region keep cuts? -/
def State.keeps (s : State) (t : Nat) : Bool := s.cutKeeping (s.regionOf t)

/-- A cut begins, unless one is in progress (R387). `by_` is the element whose release point forces it. -/
def State.beginCut (s : State) (h : Nat) (by_ : Option Nat) : State :=
  s.modRegion h fun r => match r.saving with
    | some _ => r
    | none => { r with
        cutNum := r.cutNum + 1
        saving := some ⟨r.cutNum + 1, [], [], [], [], [], [], []⟩
        pendingAt := by_ }

/-- A cut is asked for at an element (R387): it begins, or the element joins the one in progress whose marker has not reached it; where
it has saved for that one, another follows. -/
def State.askCut (s : State) (h t : Nat) : State :=
  match (s.reg h).bind (·.saving) with
  | some v => if v.has t then s.modRegion h fun r => { r with cutAgain := true } else s
  | none => s.beginCut h none

/-- A node's release point has passed (R378): its signature and count are cleared, and its sequence number moves on. -/
def Node.pass (n : Node) : Node := match n.phase with
  | .commit (.relCheck _ :: q) =>
    { n with phase := .commit q, verdict := false, red := { n.red with sig := 0, cnt := 0, seqNo := n.red.seqNo + 1 } }
  | _ => n

/-- As a node's, for the release of an MT's window. -/
def Mt.pass (m : Mt) : Mt := { m with passed := true, verdict := false, sig := 0, cnt := 0, redSeq := m.redSeq + 1 }

/-- An element's release goes on, in the saved state of its cut too (R389). -/
def State.pass (s : State) (t : Nat) : State :=
  if !s.atRelease t then s
  else
    let h := s.regionOf t
    let s := (s.modNode t Node.pass).modRegion h fun r => { r with confirmed := r.confirmed.map fun (v : Saved) =>
      { v with nodes := v.nodes.modify t Node.pass, mts := v.mts.modify t Mt.pass } }
    { s with mts := s.mts.modify t Mt.pass }

/-- The name of a release point of a logical node at the assize units. -/
def State.groupOf (s : State) (t : Nat) : Nat :=
  match s.node? t with
  | some n => n.stream.toNat + 2 ^ 64 * n.launch + 2 ^ 96 * n.bornAt
  | none =>
    match Tbl.get? t s.mts, s.reg (s.regionOf t) with
    | some m, some r =>
      match listFind (fun x => x = t) r.elems 0 with
      | some (i, _) => 2 ^ 63 + 2 ^ 40 * r.rank + i + 2 ^ 64 * m.launch + 2 ^ 95
      | none => 0
    | _, _ => 0

/-- The other replicas' elements for an element. -/
def State.twinsOf (s : State) (t : Nat) : List Nat :=
  match s.node? t with
  | some n => (s.twins n).map (·.1)
  | none => s.twinTiles t

/-- The die of the leader of an element's replicas (R378). -/
def State.assizeDie (s : State) (t : Nat) : Nat :=
  match (t :: s.twinsOf t).find? fun x => s.leads (s.regionOf x) with
  | some x => dieOf x
  | none => dieOf t

/-- The report of an element at a release point. -/
def State.reportOf (s : State) (t : Nat) : Report :=
  let rep := ((s.reg (s.regionOf t)).map (·.replica)).getD 0
  match s.node? t, Tbl.get? t s.mts with
  | some n, _ => ⟨rep, n.red.sig, n.red.cnt, n.red.seqNo, t, s.now⟩
  | none, some m => ⟨rep, m.sig, m.cnt, m.redSeq, t, s.now⟩
  | none, none => ⟨rep, 0, 0, 0, t, s.now⟩

/-- Sends an element's report to the assize unit (R378). -/
def State.sendReport (s : State) (t : Nat) : State :=
  let g := s.groupOf t
  s.modDie (s.assizeDie t) fun x => { x with reports := x.reports.set g (x.reports.getD g [] ++ [s.reportOf t]) }

/-- Has the element saved at the release point at which it stands? -/
def State.savedHere (s : State) (v : Saved) (t : Nat) : Bool :=
  s.atRelease t &&
    (match s.node? t, Tbl.get? t v.nodes, Tbl.get? t v.mts with
     | some n, some o, _ => n.blocks = o.blocks && n.phase = o.phase
     | none, _, some m => m.implicitReq && !m.passed
     | _, _, _ => false)

/-- The counter adds of a region's ports that a confirmed cut covers are due; what is popped later waits for another cut (R387). -/
def State.addsDue (s : State) (h : Nat) (v : Saved) : State :=
  let old (k : Nat) : Nat := (v.ports.getD k InPort.empty).adds.length
  let due (k : Nat) (p : InPort) : InPort :=
    if s.regionOf (k / 4) = h then { p with due := p.due ++ p.adds.take (old k), adds := p.adds.drop (old k) } else p
  let s := { s with ports := s.ports.mapAll due }
  s.modRegion h fun r => { r with confirmed := r.confirmed.map fun (v : Saved) =>
    { v with ports := v.ports.mapAll fun _ p => { p with adds := [], due := [] } } }

/-- A cut is confirmed (R389): older saved states and journal entries are freed, and the releases that waited for it go
on: under replicas those that have their verdict. -/
def State.confirmCut (s : State) (h : Nat) : State :=
  match s.reg h with
  | none => s
  | some r =>
    match r.saving with
    | none => s
    | some v =>
      let alone := s.repModeOf h = 1
      let go := r.elems.filter fun t => s.savedHere v t && (alone ||
        ((s.node? t).any (·.verdict)) || ((Tbl.get? t s.mts).any (·.verdict)))
      let s := s.modRegion h fun r =>
        { r with confirmed := some v, saving := none, pendingAt := none, errorAgain := [] }
      let s := { s with
        mts := s.mts.mapAll fun _ m => if m.region = h then { m with
          journal := m.journal.filter fun j => v.num ≤ j.interval
          lost := m.lost.filter fun i => v.num ≤ i } else m
        nodes := s.nodes.mapAll fun t n => if n.region = h then { n with
          fwd := n.fwd.filter fun p => match Tbl.get? t v.nodes with
            | some o => o.blocks ≤ p.1.block || 64 ≤ p.1.slot
            | none => true } else n }
      let s := (go.foldl (fun s t => s.pass t) s).addsDue h v
      if r.cutAgain then (s.modRegion h fun r => { r with cutAgain := false }).beginCut h none else s

/-- Every element has saved (R389): a single replica's cut, and one that no release point forced, is confirmed at once;
under replicas the release points that it covers go to the assize unit. -/
def State.cutComplete (s : State) (h : Nat) : State :=
  match s.reg h with
  | none => s
  | some r =>
    match r.saving with
    | none => s
    | some v =>
      if r.elems.any fun t => s.hasElem t && !v.has t then s
      else if s.repModeOf h = 1 then s.confirmCut h
      else
        let s := (r.elems.filter fun t => s.savedHere v t).foldl (fun s t => s.sendReport t) s
        if r.pendingAt.isNone then s.confirmCut h else s

/-- Takes the marker at the head of a port. -/
def State.takeMarker (s : State) (k : Nat) : State :=
  (s.popAt k 0).2.modNode (k / 4) fun n => { n with atMarker := false }

/-- ELEMENT_SAVE (R387): an element saves its state and sends markers; one that has saved takes the markers that still
come. -/
def execElementSave (t : Nat) (s : State) : Host.Outcome State Fault Refusal :=
  .next <|
    match s.staleMarker t with
    | some p => if s.acts t || s.ended t then s.takeMarker (4 * t + p) else s
    | none =>
      if !s.maySave t then s
      else
        let h := s.regionOf t
        match (s.reg h).bind (·.saving) with
        | none => s
        | some v =>
          let s := s.modRegion h fun r => { r with saving := r.saving.map fun v => s.saveElem t v }
          let ports := ((s.insOf t).filter fun e => e.2.forward && !s.ended t).map fun e => e.2.dst
          let s := ports.eraseDups.foldl (fun s k => s.takeMarker k) s
          let s := s.modNode t fun n => { n with atMarker := false, ready := none }
          let s := { s with mts := s.mts.modify t fun m => { m with interval := v.num } }
          (s.sendAll t (markerToken v.num)).cutComplete h

/-! ### Moving a saved state (R341, R379, R395) -/

/-- Moves a saved state to other tiles under another handle. -/
def Saved.move (v : Saved) (f : Nat → Nat) (h : Nat) : Saved :=
  let port (k : Nat) : Nat := k / hiddenPort * hiddenPort + 4 * f (k % hiddenPort / 4) + k % 4
  let id (e : Nat) : Nat := h * 2 ^ 40 + e % 2 ^ 40
  { v with
    open_ := v.open_.map id
    nodes := v.nodes.foldl (fun t p => t.set (f p.1) { p.2 with tile := f p.1, region := h }) []
    mts := v.mts.foldl (fun t p => t.set (f p.1) { p.2 with tile := f p.1, region := h }) []
    ports := v.ports.foldl (fun t p => t.set (port p.1) { p.2 with
      toks := p.2.toks.map fun k => { k with edge := if k.edge = barrierEdge then k.edge else id k.edge }
      carriers := p.2.carriers.map fun k => { k with edge := id k.edge }
      taken := p.2.taken.map fun k => { k with edge := id k.edge }
      scales := p.2.scales.foldl (fun t q => t.set (id q.1) q.2) [] }) []
    edges := v.edges.foldl (fun t e => t.set (id e.1) { e.2 with src := port e.2.src, dst := port e.2.dst, region := h }) []
    bounds := v.bounds.foldl (fun t b => t.set (id b.1) { b.2 with entry := port b.2.entry, exit := port b.2.exit, region := h }) []
    tbars := v.tbars.foldl (fun t b => t.set (f (b.1 / 16) * 16 + b.1 % 16) { b.2 with region := h }) [] }

/-! ### Rolling back -/

/-- May the last confirmed cut of a region be restored: there is one, and no later interval of an MT is lost (R388, R389)? -/
def State.mayRollBack (s : State) (h : Nat) : Bool :=
  match (s.reg h).bind (·.confirmed) with
  | none => false
  | some v => s.mts.all fun p => p.2.region ≠ h || !(p.2.lost.any fun i => v.num ≤ i)

/-- A rollback begins (R389): the region stands still, and what it waits for on translations and counters is
withdrawn. -/
def State.beginRollback (s : State) (h : Nat) : State :=
  match s.reg h with
  | none => s
  | some r =>
    let s := s.modRegion h fun r => { r with rolling := true, rollDie := r.die, gated := true }
    let s := r.elems.foldl (fun s t => s.unwatch t) s
    let s := { s with
      dies := s.dies.map fun d => d.forget (elemOf r.elems)
      nodes := s.nodes.mapAll fun _ n => if n.region = h then { n with gated := true, late := none } else n
      mts := s.mts.mapAll fun _ m => if m.region = h then { m with gated := true, late := none } else m }
    s

/-- Is a message for a register that can take it still under way to a tile of a region? -/
def State.valueDue (s : State) (h : Nat) : Bool :=
  s.agenda.any fun i => match i with
    | .registerValueArrive t r _ => match s.node? t with
      | some n => n.region = h && n.regs.isEmpty r
      | none => false
    | _ => false

/-- Has every request of a region been answered? -/
def State.settled (s : State) (h : Nat) : Bool :=
  (s.nodes.all fun p => p.2.region ≠ h || p.2.outst = 0) && (s.mts.all fun p => p.2.region ≠ h || p.2.outst = 0)
    && !s.valueDue h

/-- Lines that the fetch unit of a node has pinned (R266). -/
def Node.fetchPins (n : Node) : List Nat :=
  (n.mat.mma.toList ++ n.mat.tail ++ n.mat.loads).flatMap fun r => r.pins

/-- Takes the fetch pins of a region's nodes off (R266). -/
def State.unpinRegion (s : State) (h : Nat) : State :=
  (s.nodes.filter fun p => p.2.region = h).foldl (fun s p => s.unpinFetch (dieOf p.1) p.2.fetchPins) s

/-- A node as a rollback restores it. What it has taken from its leader stays, and so do its trap counts; an answer that
has come to a release under way stays with it. -/
def Node.restored (o n : Node) : Node :=
  let unpin (r : MatRun) : MatRun := { r with pins := [] }
  { o with
    outst := 0
    fwd := n.fwd
    reply := if o.reply.isNone && o.blocks = n.blocks then n.reply else o.reply
    red := { o.red with mis := n.red.mis, vote := n.red.vote, lead := n.red.lead }
    cmdsOut := o.cmdsOut.filter fun c => n.cmdsOut.contains c
    mat := { o.mat with mma := o.mat.mma.map unpin, tail := o.mat.tail.map unpin, loads := o.mat.loads.map unpin }
    late := none
    stop := none
    gated := false }

/-- Undoes the scratchpad writes of an MT that its journal holds from a cut on, newest first (R389). -/
def State.undoSpad (s : State) (t num : Nat) : State :=
  match Tbl.get? t s.mts with
  | none => s
  | some m =>
    let l := (m.journal.filter fun j => num ≤ j.interval).reverse
    l.foldl (fun s j => s.poke (spadAddr t (4 * j.index)) 4 j.old.toNat) s

/-- Gives an edge of a saved state the credits that its tokens leave (R227). -/
def State.recredit (s : State) (e : Nat) : State :=
  match Tbl.get? e s.edges with
  | none => s
  | some x =>
    if x.timed.isSome then s
    else
      s.setEdge e { x with credits := s.window x - s.entries e x }

/-- Puts a saved state in place of what a region holds. -/
def State.install (s : State) (h : Nat) (v : Saved) : State :=
  let link (e : Nat × Edge) : Edge :=
    if v.open_.contains e.1 then
      match Tbl.get? e.1 s.edges with
      | some x => { e.2 with link := e.2.link ++ x.link.takeWhile fun k => !(k.tok.isMarker && k.tok.cut = v.num) }
      | none => e.2
    else e.2
  { s with
    ports := v.ports.foldl (fun t p => Tbl.set t p.1 p.2) (s.ports.filter fun p => s.regionOf (p.1 / 4) ≠ h)
    nodes := v.nodes.foldl (fun t p => Tbl.set t p.1 p.2) (s.nodes.filter fun p => p.2.region ≠ h)
    mts := v.mts.foldl (fun t p => Tbl.set t p.1 p.2) (s.mts.filter fun p => p.2.region ≠ h)
    edges := v.edges.foldl (fun t e => Tbl.set t e.1 (link e)) (s.edges.filter fun e => e.2.region ≠ h)
    bounds := v.bounds.foldl (fun t b => Tbl.set t b.1 b.2) (s.bounds.filter fun b => b.2.region ≠ h)
    tbars := v.tbars.foldl (fun t b => Tbl.set t b.1 b.2) (s.tbars.filter fun b => b.2.region ≠ h) }

/-! ### Banking of a scratchpad (R128, R129) -/

/-- By how many banks a 128-byte unit of a scratchpad is turned: its row in a skewed tile, which the first valid
descriptor that covers it makes. -/
def spadTurn (desc : Tbl Word) (unit : Nat) : Nat :=
  match desc.find? fun p => p.2.getLsbD 63 && field p.2.toNat 15 0 ≤ unit
      && unit < field p.2.toNat 15 0 + field p.2.toNat 35 16 / 128 with
  | some p =>
    if field p.2.toNat 62 61 = 0 && p.2.getLsbD 60 then
      (unit - field p.2.toNat 15 0) * 32 / Nat.max 1 (field p.2.toNat 59 48) % 32
    else 0
  | none => 0

/-- Other descriptors decide where a scratchpad's offsets lie (R128, R129): each word is found at the offset that names its
bank and bank word now. -/
def spadPlace (old new : Tbl Word) (o : Nat) : Nat :=
  let unit := o / 128
  let bank := (o % 128 / 4 + spadTurn old unit) % 32
  unit * 128 + (bank + 32 - spadTurn new unit) % 32 * 4 + o % 4

/-- As `spadPlace` for a whole scratchpad. -/
def State.reskew (s : State) (t : Nat) (old new : Tbl Word) : State :=
  if old = new then s
  else
    let base := spadAddr t 0
    let mine (k : Nat) : Bool := base ≤ k && k < base + 0xC0000
    let place (k : Nat) : Nat := base + spadPlace old new (k - base)
    let other := s.mem.filter fun c => !mine c.1
    { s with mem := (s.mem.filter fun c => mine c.1).foldl (fun m c => Memory.put (place c.1) c.2 m) other }

/-! ### Return to a cut (R389) -/

/-- The region goes on from its last confirmed cut, once every request it has sent is answered (R389). -/
def State.rollBack (s : State) (h : Nat) : State :=
  match (s.reg h).bind (·.confirmed) with
  | none => s
  | some v =>
    let tiles := v.mts.map (·.1)
    let s := tiles.foldl (fun s t => s.undoSpad t v.num) s
    let s := v.mts.foldl (fun s p => match Tbl.get? p.1 s.mts with
      | some m => s.reskew p.1 m.desc p.2.desc
      | none => s) s
    let w : Saved := { v with
      nodes := v.nodes.mapAll fun t o => match s.node? t with
        | some n => o.restored n
        | none => o
      mts := v.mts.mapAll fun t o => match Tbl.get? t s.mts with
        | some m => { o with outst := 0, fwd := m.fwd, journal := m.journal.filter fun j => j.interval < v.num,
                             interval := v.num, late := none, stop := none, gated := false }
        | none => o }
    let w := { w with ports := w.ports.mapAll fun k p => { p with due := (s.port k).due } }
    let s := (s.unpinRegion h).install h w
    let s := (w.edges.map (·.1)).foldl (fun s e => s.recredit e) s
    let steps := w.nodes.map (fun p => p.2.cfgSeq) ++ w.mts.map fun p => p.2.cfgSeq
    let step := (least steps).getD 0
    let switching := (steps.any fun k => k ≠ step) || w.nodes.any fun p => p.2.asked = step + 1
    s.modRegion h fun r => { r with
      step := step, switching := switching
      rolling := false, gated := false, frozen := none, saving := none, pendingAt := none, cutAgain := false, still := 0, quiet := 0 }

end Sys2Proof.Machine
end

