-- ==== Sys2Proof/Machine/Gang.lean ====
section
/-! DEFINITION. Gangs and their regions (R128 to R130, R226, R339 to R342, R346, R364, R365, R371, R406): starting and
ending a region, and the two phases of a gang's start. -/

namespace Sys2Proof.Machine

/-! ### Starting a region -/

/-- Elements that a region's records give a node. -/
def nodeCount (recs : List CfgRec) : Nat := ((recs.filter fun c => c.kind = 3).map fun c => c.elem).eraseDups.length

/-- Logical number of the first node of a region (R341). -/
def Launch.firstNode (l : Launch) (rank : Nat) : Nat :=
  (l.recs.take rank).foldl (fun a r => a + nodeCount r) 0

/-- The route table of an element in a step (R233, R346). -/
def Region.routes (r : Region) (step elem : Nat) : List Nat :=
  (List.range 8).map fun i =>
    match (r.at step).find? fun c => c.kind = 8 && c.elem = elem && c.w0.toNat % 8 = i with
    | some c => 2 ^ 15 + field c.w0.toNat 4 3 * 2 ^ 13
    | none => 0

/-- The presets of an element (R342). -/
def Region.presets (r : Region) (elem : Nat) (g : Vector Word 64) : Vector Word 64 :=
  (r.recs.filter fun c => c.kind = 4 && c.elem = elem).foldl (fun g c => vset g (c.w0.toNat % 64) c.w1) g

/-- A CT's node at its start (R33, R342, R376). -/
def State.startNode (s : State) (id h : Nat) (l : Launch) (r : Region) (pos : Nat) (c : CfgRec) : Node :=
  let n := Node.start (r.recTile c) l.ctx c.w1 (s.ctxReg l.ctx 4)
  { n with
    regs := { n.regs with g := r.presets c.elem n.regs.g }
    mode := l.mode, assist := l.assist, seed := l.seed
    stream := BitVec.ofNat 64 (l.firstNode r.rank + pos)
    man := l.man
    repMode := BitVec.ofNat 2 l.replicas, rep := BitVec.ofNat 2 r.replica, red := RedRegs.start (r.replica = 0)
    rrTable := l.rrTable, rounds := l.rounds
    route := r.routes 0 c.elem
    region := h, launch := id
    mark := s.now.toNat / 1024 }

/-- The program and the descriptors of an MT in a step (R128, R132, R346): an MT without a node record in it has none. -/
def Mt.load (m : Mt) (r : Region) (step elem : Nat) : Mt :=
  let desc := ((r.at step).filter fun c => c.kind = 5 && c.elem = elem).foldl
    (fun t c => Tbl.set t (c.w0.toNat % 8) c.w1) []
  let m := { m with
    desc := desc, started := false, idx := [0, 0, 0, 0], pack := [], inBytes := [], fifo := [], rows := []
    portQ := [], fly := [], buf := [], issued := false, expected := [], waiting := [] }
  match (r.at step).find? fun c => c.kind = 3 && c.elem = elem with
  | none => { m with mode := .streaming, seqr := [], done := true }
  | some c => { m with
      mode := if c.mtMode = 1 then .random else if c.mtMode = 2 then .ordered else .streaming
      arrival := c.w0.getLsbD 27
      updOp := BitVec.ofNat 2 (field c.w0.toNat 26 25)
      fp32 := c.w0.getLsbD 24
      seqr := r.seqs.getD (step * 2 ^ 16 + elem) []
      done := false }

/-- The name of an edge or a loop bound: its region, step and record. -/
def edgeId (h step i : Nat) : Nat := h * 2 ^ 40 + step * 2 ^ 20 + i

/-- The step of an edge. -/
def edgeStep (e : Nat) : Nat := e % 2 ^ 40 / 2 ^ 20

/-- Is a port a PX8 port in a step? -/
def Region.px8At (r : Region) (step key : Nat) : Bool :=
  (r.at step).any fun c => c.kind = 7 && !c.isOut && c.attr = 0 && 4 * r.recTile c + c.w0.toNat % 4 = key

/-- An edge at its start (R226, R227, R236). -/
def Region.edgeOf (r : Region) (h : Nat) (c : CfgRec) : Edge :=
  let dst := r.endpoint (field c.w1.toNat 47 32)
  { src := r.endpoint (field c.w1.toNat 63 48), dst := dst, region := h, depth := c.depth
    credits := if c.timed.isSome then 0 else if r.px8At c.step dst then 2 else c.depth
    timed := c.timed, back := c.isBack, link := [], spill := [], spilling := false, held := false }

/-- Records of a step with their places. -/
def Region.placed (r : Region) (step : Nat) : List (Nat × CfgRec) :=
  ((List.range r.recs.length).filterMap fun i => (r.recs[i]?).map fun c => (i, c)).filter fun p => p.2.step = step

/-- A loop bound at its start (R230). -/
def Region.boundOf (r : Region) (h : Nat) (c : CfgRec) : Bound where
  entry := r.endpoint (field c.w1.toNat 63 48)
  exit := r.endpoint (field c.w1.toNat 47 32)
  k := c.w0.toNat % 16 + 1
  tags := []
  region := h

/-- The loop bounds of a step, and the token barriers of a tile in it. -/
def State.addBound (s : State) (r : Region) (h : Nat) (p : Nat × CfgRec) : State :=
  { s with bounds := s.bounds.set (edgeId h p.2.step p.1) (r.boundOf h p.2) }
def State.addBar (s : State) (r : Region) (h : Nat) (c : CfgRec) : State :=
  { s with tbars := s.tbars.set (r.recTile c * 16 + c.w0.toNat % 16) ⟨BitVec.ofNat 4 (c.w0.toNat % 16), 0, h⟩ }

/-- The patches, by die and number, that hold a quad of a region (R2, R371). -/
def Region.patches (r : Region) : List (Nat × Nat) :=
  (r.shape.map fun o =>
    let X := r.originX + o.1
    let Y := r.originY + o.2
    (X / 16 + 2 * (Y / 16), X % 16 / 2 + 8 * (Y % 16 / 2))).eraseDups

/-- Pins or unpins the patches of a fixed-timing region (R371). -/
def State.pin (s : State) (r : Region) (on : Bool) : State :=
  if !r.fixed then s
  else r.patches.foldl (fun s p => s.modDie p.1 fun d =>
    let x := d.patches.getD p.2 ⟨0, [], 0, 0⟩
    { d with patches := d.patches.set p.2 { x with pinned := if on then x.pinned + 1 else x.pinned - 1 } }) s

/-- An MT of a region at its start: its node, or one that only holds descriptors (R128, R132). -/
def State.startMt (s : State) (h : Nat) (l : Launch) (r : Region) (c : CfgRec) : State :=
  let m := (Mt.start (r.recTile c) l.ctx).load r 0 c.elem
  let m := { m with assist := l.assist, region := h, launch := r.launch, mark := s.now.toNat / 1024 }
  { s.reskew (r.recTile c) [] m.desc with mts := s.mts.set (r.recTile c) m }

/-- A reserved region starts (R339, R342, R346, R349, R364, R371, R431). -/
def State.startRegion (s : State) (h : Nat) : State :=
  match s.reg h with
  | none => s
  | some r =>
    match Tbl.get? r.launch s.launches with
    | none => s
    | some l =>
      let s := s.modRegion h fun r => { r with live := true }
      let s := s.pin r true
      let recs := (r.recs.filter fun c => c.kind = 3)
      let firsts := (recs.map fun c => c.elem).eraseDups
      let s := (List.range firsts.length).foldl (fun s i =>
        let e := (firsts[i]?).getD 0
        match recs.find? fun c => c.elem = e with
        | none => s
        | some c =>
          if elemIsCt e then ((s.setNode (r.recTile c) (s.startNode r.launch h l r i c)).dropRemoteL1 (r.recTile c)).dropConst (r.recTile c)
          else s.startMt h l r c) s
      let s := ((r.recs.filter fun c => c.kind = 5).map fun c => r.recTile c).eraseDups.foldl (fun s t =>
        if s.hasElem t then s
        else
          match r.recs.find? fun c => c.kind = 5 && r.recTile c = t with
          | some c => s.startMt h l r c
          | none => s) s
      let s := (r.placed 0).foldl (fun s p =>
        if p.2.kind = 6 then s.setEdge (edgeId h 0 p.1) (r.edgeOf h p.2)
        else if p.2.kind = 9 then s.addBound r h p
        else if p.2.kind = 10 then s.addBar r h p.2
        else s) s
      if s.cutKeeping h then s.modRegion h fun x => { x with confirmed := some (s.snapshot h 0) } else s

/-! ### Ending a region -/

/-- Takes a tile out of what is under way to it or from it: answers to requests of its node find none. -/
def State.detach (s : State) (t : Nat) : State :=
  let away := 1024 * dieOf t + 1
  let r (x : AtomReq) : AtomReq := if x.tile = t then { x with tile := away, ret := none, held := false } else x
  let keep (i : Instr) : Bool := match i with
    | .registerValueArrive x .. | .forwardedValueArrive x .. => x ≠ t
    | _ => true
  let s := s.unwatch t
  { s with
    agenda := (s.agenda.filter keep).map fun i => match i with
      | .atomicAtHome x => .atomicAtHome (r x)
      | .counterAddAtHome x => .counterAddAtHome (if x.tile = t then { x with tile := away, held := false } else x)
      | .orderedAtomicArrival x => .orderedAtomicArrival { x with req := r x.req }
      | .atomoRetryResend x => .atomoRetryResend { x with req := r x.req }
      | i => i
    dies := s.dies.map fun d => { d.forget (elemOf [t]) with
      aoBuf := d.aoBuf.map fun x => { x with req := r x.req }
      reports := d.reports.mapAll fun _ l => l.filter fun x => x.tile ≠ t } }

/-- A region leaves its quads: its elements, ports and edges go, and so do windows that were not released. -/
def State.clearRegion (s : State) (h : Nat) : State :=
  match s.reg h with
  | none => s
  | some r =>
    let s := r.elems.foldl (fun s t =>
      let s := match s.node? t with
        | some n => s.unpinFetch (dieOf t) n.fetchPins
        | none => s
      let s := match Tbl.get? t s.mts with
        | some m => s.reskew t m.desc []
        | none => s
      s.detach t) s
    { s with
      ports := s.ports.filter fun p => !r.elems.contains (p.1 / 4)
      nodes := s.nodes.filter fun p => p.2.region ≠ h
      mts := s.mts.filter fun p => p.2.region ≠ h
      edges := s.edges.filter fun e => e.2.region ≠ h
      bounds := s.bounds.filter fun b => b.2.region ≠ h
      tbars := s.tbars.filter fun b => b.2.region ≠ h
      regions := s.regions.erase h }

/-- A region ends (R340, R371, R392, R406). -/
def State.endRegion (s : State) (h : Nat) : State :=
  match s.reg h with
  | none => s
  | some r =>
    let s := if r.live then s.pin r false else s
    let s := if r.spillPool then s.modDie r.die fun d => { d with spillUsed := d.spillUsed - 1 } else s
    s.clearRegion h

/-- A task's element leaves its CT, and its launch has one task less at work. -/
def State.endTask (s : State) (h : Nat) : State :=
  match s.reg h with
  | none => s
  | some r =>
    let s := s.endRegion h
    { s with launches := s.launches.modify r.launch fun l => { l with running := l.running - 1 } }

/-- Sets a launch's status, unless it has one. -/
def State.setStatus (s : State) (id st reason : Nat) : State :=
  { s with launches := s.launches.modify id fun l => match l.status with
      | some _ => l
      | none => { l with status := some (st, reason) } }

/-- Tells the controller of another device, and the members there, what becomes of this module's part of its gang (R364, R365). -/
def State.tellGang (s : State) (what id d : Nat) : State :=
  if (Tbl.get? id s.launches).any (·.foreign) then s.hand (.gang what id d) else s

/-- Stops every region of a launch (R339, R365). -/
def State.stopLaunch (s : State) (id st reason : Nat) : State :=
  let s := s.tellGang 2 id 0
  let hs := (s.regions.filter fun p => p.2.launch = id && !p.2.isTask).map (·.1)
  let s := hs.foldl (fun s h => s.endRegion h) (s.setStatus id st reason)
  { s with saves := s.saves.mapAll fun _ a =>
    if a.region.launch = id && !a.region.isTask then { a with out := false } else a }

/-- The regions of a task's other replicas. -/
def State.taskTwins (s : State) (h : Nat) : List Nat :=
  match s.reg h with
  | none => []
  | some r => (r.elems.flatMap fun t => (s.twinsOf t).map fun u => s.regionOf u).eraseDups

/-- The pre-empted regions of a task's other replicas. -/
def State.taskAway (s : State) (h : Nat) : List Nat :=
  match s.reg h with
  | none => []
  | some r => (s.saves.filter fun a => a.2.out && a.2.region.isTask && a.2.region.launch = r.launch &&
      r.elems.any fun t => (s.node? t).any fun n => a.2.saved.nodes.any fun p => n.isTwin p.2).map (·.1)

/-- A task ends in every replica, a pre-empted one and one that waits for a CT too. -/
def State.endTaskAll (s : State) (h : Nat) : State :=
  match s.reg h with
  | none => s
  | some r =>
    let away := s.taskAway h
    let s := r.elems.foldl (fun s t => match s.node? t with
      | some n => s.modQueued n fun q => { q with cancelled := true }
      | none => s) s
    let s := (h :: s.taskTwins h).foldl (fun s k => s.endTask k) s
    { s with
      saves := s.saves.mapAll fun k a => if away.contains k then { a with out := false } else a
      launches := s.launches.modify r.launch fun l => { l with running := l.running - away.length } }

/-- An unrecoverable fault, or an abort, of a region (R365, R384, R386): its gang stops, or its task ends. -/
def State.abortRegion (s : State) (h : Nat) : State :=
  match s.reg h with
  | none => s
  | some r => if r.isTask then (s.setStatus r.launch 4 3).endTaskAll h else s.stopLaunch r.launch 4 3

/-! ### The two phases of a gang (R364, R365) -/

/-- The part of a die in a launch's gang. -/
def Launch.member (l : Launch) (d : Nat) : Option GangMember := l.gang.find? fun g => g.die = d

/-- Changes the part of a die. -/
def State.modMember (s : State) (id d : Nat) (f : GangMember → GangMember) : State :=
  { s with launches := s.launches.modify id fun l => { l with gang := l.gang.map fun g => if g.die = d then f g else g } }

/-- GANG_RESERVE: a die reserves the quads of its regions and acknowledges. A die of another device acknowledges or
not, which is free. An acknowledgement counts if it comes by T − 2,000, which the controller that sent the message judges. -/
def execGangReserve (id d : Nat) (s : State) : Host.Outcome State Fault Refusal :=
  .next <| match Tbl.get? id s.launches with
  | none => s
  | some l =>
    match l.member d with
    | none => s
    | some g =>
      if g.reserved || l.status.isSome then s
      else
        let ack := s.now.toNat + 2000 ≤ l.tickT
        if 4 ≤ d then
          let (c, s) := s.pick 2
          s.modMember id d fun g => { g with reserved := c = 1, acked := c = 1 && ack }
        else
          match s.reserveAll id l d (l.onDie d) with
          | (none, _) => s
          | (some _, s) => (s.modMember id d fun g => { g with reserved := true, acked := ack || l.foreign }).tellGang 0 id d

/-- Regions that a launch has reserved on a die and not started. -/
def State.reservedOn (s : State) (id d : Nat) : List Nat :=
  (s.regions.filter fun p => p.2.launch = id && p.2.die = d && !p.2.live && !p.2.isTask).map (·.1)

/-- A die frees its reservation. -/
def State.release (s : State) (id d : Nat) : State :=
  ((s.reservedOn id d).foldl (fun s h => s.endRegion h) s).modMember id d fun g => { g with reserved := false, acked := false }

/-- Forgets another device's gang of which this module holds no reservation any more. -/
def State.forgetGang (s : State) (id : Nat) : State :=
  if (Tbl.get? id s.launches).any fun l => l.foreign && l.gang.all fun g => !g.reserved then
    { s with launches := s.launches.erase id }
  else s

/-- The reserve message of another device's controller reaches dies of this module: an input. Its contents the spec does not give; what
the model takes is the launch itself, with this module's dies as the members of its gang (R364; log 64). -/
def State.gangMessage (s : State) (id : Nat) (l : Launch) : State :=
  l.gang.foldl (fun s g => s.post (.gangReserve id g.die)) { s with launches := s.launches.set id { l with foreign := true } }

/-- GANG_RELEASE. -/
def execGangRelease (id d : Nat) (s : State) : Host.Outcome State Fault Refusal := .next ((s.release id d).forgetGang id)

/-- Has go been sent to a gang? -/
def State.goSent (s : State) (id : Nat) (l : Launch) : Bool :=
  (l.gang.any fun g => g.go) || s.agenda.any fun i => match i with
    | .gangGo k _ => k = id
    | _ => false

/-- GANG_ACK_DEADLINE: at T − 2,000 go is sent to every die, or every die is released and the attempt repeats; after the
eighth the packet is aborted with reason 0x1. -/
def execGangAckDeadline (id : Nat) (s : State) : Host.Outcome State Fault Refusal :=
  .next <| match Tbl.get? id s.launches with
  | none => s
  | some l =>
    if l.foreign || l.status.isSome || l.gang = [] || s.now.toNat + 2000 < l.tickT || s.goSent id l || (l.gang.any fun g => g.started) then s
    else if l.gang.all fun g => g.acked then l.gang.foldl (fun s g => s.post (.gangGo id g.die)) s
    else
      let s := l.gang.foldl (fun s g => s.release id g.die) s
      if 7 ≤ l.attempt then s.setStatus id 4 1
      else
        let (T, s) := s.startTick l.assist (20000 * 2 ^ (l.attempt + 1))
        { s with launches := s.launches.modify id fun l => { l with attempt := l.attempt + 1, tickT := T } }

/-- GANG_GO: a die that has acknowledged will start its regions at T. -/
def execGangGo (id d : Nat) (s : State) : Host.Outcome State Fault Refusal :=
  .next (s.modMember id d fun g => if g.acked then { g with go := true } else g)

/-- Is an abort of a gang under way? -/
def State.aborting (s : State) (id : Nat) : Bool := (Tbl.get? id s.launches).any fun l => l.gang.any fun g => g.abort

/-- A die has no go at T: it does not start, and sends abort to every member of the gang (R365). -/
def State.abortGang (s : State) (id d : Nat) : State :=
  let s := (s.modMember id d fun g => { g with acked := false }).tellGang 1 id d
  if s.aborting id then s
  else { s with launches := s.launches.modify id fun l => { l with gang := l.gang.map fun g => { g with abort := true } } }

/-- The regions of a launch on a die stop, started or not; one that is pre-empted does not come back. -/
def State.stopOn (s : State) (id d : Nat) : State :=
  let hs := (s.regions.filter fun p => p.2.launch = id && p.2.die = d && !p.2.isTask).map (·.1)
  let s := hs.foldl (fun s h => s.endRegion h) s
  { s with saves := s.saves.mapAll fun _ a =>
    if a.region.launch = id && a.region.die = d && !a.region.isTask then { a with out := false } else a }

/-- GANG_ABORT: a member that receives abort stops its regions, and its part is over; with the last member's the packet is aborted with
reason 0x2. -/
def execGangAbort (id d : Nat) (s : State) : Host.Outcome State Fault Refusal :=
  .next <| match Tbl.get? id s.launches with
  | none => s
  | some l =>
    if (l.member d).isSome then
      let s := (s.stopOn id d).modMember id d fun _ => ⟨d, false, false, false, true, false⟩
      if s.aborting id then s else s.setStatus id 4 2
    else s

/-- GANG_START_TICK: at T a die that has go starts its regions; one that has acknowledged and has no go aborts the gang. A
die of another device starts or aborts, which is free. -/
def execGangStartTick (id d : Nat) (s : State) : Host.Outcome State Fault Refusal :=
  .next <| match Tbl.get? id s.launches with
  | none => s
  | some l =>
    match l.member d with
    | none => s
    | some g =>
      if s.now.toNat < l.tickT || !g.acked || g.started || l.status.isSome then s
      else if !g.go then s.abortGang id d
      else if 4 ≤ d then
        let (c, s) := s.pick 2
        if c = 1 then s.modMember id d fun g => { g with started := true } else s.abortGang id d
      else
        ((s.reservedOn id d).foldl (fun s h => s.startRegion h) s).modMember id d fun g => { g with started := true }

end Sys2Proof.Machine
end

