-- ==== Sys2Proof/Machine/Switch.lean ====
section
/-! DEFINITION. The switch of a region from one configuration step to the next (R349 to R351, R396). -/

namespace Sys2Proof.Machine

/-! ### When an element switches -/

/-- Is the drain token of each used forward input at hand: at the head of its port, behind those of the other edges of a
merge (R350)? An ended CT takes every other token away (R406). -/
def State.drained (s : State) (t : Nat) : Bool :=
  (s.insOf t).all fun e => !e.2.forward ||
    (let p := s.port e.2.dst
     let ahead := if s.ended t then p.toks ++ p.carriers else p.toks.takeWhile fun k => k.tok.isDrain
     ahead.any fun k => k.edge = e.1 && k.tok.isDrain)

/-- Does a block wait in a RECV or TAGOF at a port whose head is a drain token (R350)? -/
def State.recvAtDrain (s : State) (n : Node) : Bool :=
  !n.issued && n.blk.instrs.any fun p => n.blk.waiting p.1 &&
    (match p.2 with
     | .recv _ _ _ q | .tagof _ _ _ q => (match s.headTok (4 * n.tile + q.toNat) with
       | some k => k.tok.isDrain
       | none => false)
     | _ => false)

/-- Does an element stand at the end of its block or walk, or wait at a drain token? -/
def State.atStepEnd (s : State) (t : Nat) : Bool :=
  match s.node? t with
  | some n => n.phase = .ended || (n.stop.isNone && !n.gated && (match n.phase with
    | .fetch => true
    | .fire => s.recvAtDrain n
    | _ => false))
  | none =>
    match Tbl.get? t s.mts with
    | some m => m.ended || (m.stop.isNone && !m.gated && !m.implicitReq && (match m.mode with
      | .streaming => m.done || (m.inBytes.isEmpty && field ((m.seqr[3]?).getD 0#64).toNat 7 7 = 1 && !(s.insOf t).isEmpty)
      | _ => (m.portQ.all fun p => p.2.isEmpty) && m.fly.all fun p => p.2.isEmpty))
    | none => false

/-- Is the element of a tile at its boundary in a switch: it runs no further block of its step (R350)? -/
def State.leaving (s : State) (t : Nat) : Bool :=
  match s.reg (s.regionOf t) with
  | none => false
  | some r => r.switching && s.seqOf t = r.step && s.atStepEnd t && s.drained t

/-- May the element of a tile switch (R350)? -/
def State.maySwitch (s : State) (t : Nat) : Bool := s.leaving t && s.outsReady t

/-! ### Leaving a step -/

/-- Takes the drain tokens of a tile's inputs. -/
def State.popDrains (s : State) (t : Nat) : State :=
  (s.insOf t).foldl (fun s e =>
    match listFind (fun (k : PortTok) => k.edge = e.1 && k.tok.isDrain) (s.port e.2.dst).toks 0 with
    | some (i, _) => (s.popAt e.2.dst i).2
    | none => s) s

/-- The inputs of a step that a tile leaves: forward edges go; what stands at, or still comes on, any other edge is met
as it arrives (R351). -/
def State.leaveIns (s : State) (t : Nat) : State :=
  (s.insOf t).foldl (fun s e =>
    let p := s.port e.2.dst
    let mine (l : List PortTok) : List LinkTok := (l.filter fun k => k.edge = e.1).map fun k => ⟨k.tok, 0⟩
    let s := s.setPort e.2.dst { p with
      toks := p.toks.filter fun k => k.edge ≠ e.1
      carriers := p.carriers.filter fun k => k.edge ≠ e.1
      taken := p.taken.filter fun k => k.edge ≠ e.1
      scales := p.scales.erase e.1, bit := 0 }
    if e.2.forward then { s with edges := s.edges.erase e.1 }
    else s.modEdge e.1 fun x => { x with
      dst := x.dst + hiddenPort
      link := mine p.carriers ++ mine p.toks ++ (x.spill.map fun k => ⟨k, 0⟩) ++ x.link
      spill := [], timed := none }) s

/-- The outputs of a step that a tile leaves: their last token is on its way. -/
def State.leaveOuts (s : State) (t : Nat) : State :=
  (s.outsOf t).foldl (fun s e => s.modEdge e.1 fun x => { x with src := x.src + hiddenPort }) s

/-- The loop bounds of a step that a tile leaves. -/
def State.leaveBounds (s : State) (t step : Nat) : State :=
  let away (k : Nat) : Nat := if k / 4 = t then k + hiddenPort else k
  (s.bounds.filter fun b => edgeStep b.1 = step && (b.2.entry / 4 = t || b.2.exit / 4 = t)).foldl (fun s b =>
    let y := { b.2 with entry := away b.2.entry, exit := away b.2.exit }
    { s with bounds := if hiddenPort ≤ y.entry && hiddenPort ≤ y.exit then s.bounds.erase b.1 else s.bounds.set b.1 y }) s

/-! ### Entering the next step -/

/-- An endpoint as it stands while only the elements of a list have switched. -/
def hideFor (t k : Nat) : Nat := if k % hiddenPort / 4 = t then k % hiddenPort else if k < hiddenPort then k + hiddenPort else k

/-- An edge of the next step that ends at or leaves a tile: a send on it waits until both its elements have switched. -/
def State.enterEdge (s : State) (r : Region) (h t : Nat) (p : Nat × CfgRec) : State :=
  let x := r.edgeOf h p.2
  if x.src / 4 ≠ t && x.dst / 4 ≠ t then s
  else
    let id := edgeId h p.2.step p.1
    let show_ (k : Nat) : Nat := if k % hiddenPort / 4 = t then k % hiddenPort else k
    let x := match Tbl.get? id s.edges with
      | some y => { y with src := show_ y.src, dst := show_ y.dst }
      | none => { x with src := hideFor t x.src, dst := hideFor t x.dst }
    s.setEdge id { x with held := hiddenPort ≤ x.src || hiddenPort ≤ x.dst }

/-- A loop bound of the next step. -/
def State.enterBound (s : State) (r : Region) (h t : Nat) (p : Nat × CfgRec) : State :=
  let y := r.boundOf h p.2
  if y.entry / 4 ≠ t && y.exit / 4 ≠ t then s
  else
    let id := edgeId h p.2.step p.1
    let show_ (k : Nat) : Nat := if k % hiddenPort / 4 = t then k % hiddenPort else k
    let y := match Tbl.get? id s.bounds with
      | some z => { z with entry := show_ z.entry, exit := show_ z.exit }
      | none => { y with entry := hideFor t y.entry, exit := hideFor t y.exit }
    { s with bounds := s.bounds.set id y }

/-- The element number of a tile in its region's records. -/
def Region.elemNo (r : Region) (t : Nat) : Nat :=
  ((r.recs.find? fun c => (c.kind = 3 || c.kind = 5) && r.recTile c = t).map fun c => c.elem).getD 0

/-- A tile takes up a step (R346, R349); what its journal holds goes where its words go (R129, R388). -/
def State.enterStep (s : State) (r : Region) (h t step : Nat) : State :=
  let s := { s with tbars := s.tbars.filter fun b => b.1 / 16 ≠ t }
  let s := (r.placed step).foldl (fun s p =>
    if p.2.kind = 6 then s.enterEdge r h t p
    else if p.2.kind = 9 then s.enterBound r h t p
    else if p.2.kind = 10 && r.recTile p.2 = t then s.addBar r h p.2
    else s) s
  let elem := r.elemNo t
  let s := s.modNode t fun n => { n with cfgSeq := step, route := r.routes step elem }
  match Tbl.get? t s.mts with
  | none => s
  | some m =>
    let m' := m.load r step elem
    { s.reskew t m.desc m'.desc with mts := s.mts.set t { m' with
        cfgSeq := step
        journal := m.journal.map fun j => { j with index := spadPlace m.desc m'.desc (4 * j.index) / 4 } } }

/-- The switch is complete once every element reads the next step (R350). -/
def State.switchDone (s : State) (h : Nat) : State :=
  match s.reg h with
  | none => s
  | some r =>
    if r.elems.all fun t => !s.hasElem t || s.seqOf t = r.step + 1 then
      (s.modRegion h fun r => { r with step := r.step + 1, switching := false }).event r.die 0x0C r.ctx 0 0 0
    else s

/-- ELEMENT_SWITCH (R350, R351): an element pops its drain tokens, sends drain tokens, and loads the next step. -/
def execElementSwitch (t : Nat) (s : State) : Host.Outcome State Fault Refusal :=
  .next (
    if !s.maySwitch t then s
    else
      let h := s.regionOf t
      match s.reg h with
      | none => s
      | some r =>
        let s := (s.popDrains t).sendAll t (ctlToken 2 0 0)
        let s := ((s.leaveIns t).leaveOuts t).leaveBounds t r.step
        (s.enterStep r h t (r.step + 1)).switchDone h)

end Sys2Proof.Machine
end

