-- ==== Sys2Proof/Machine/Tasks.lean ====
section
/-! DEFINITION. Tasks (R343, R344, R366, R367, R375): emitting records, the task queue of a die with its overflow ring, and
dispatch onto CTs. In the list of a die's records the first `onDie` stand in the queue on the die, the next `ovf` in
the ring, and the rest stall their producers. -/

namespace Sys2Proof.Machine

/-! ### The overflow ring (R367, R452) -/

/-- For whom a die works on its overflow ring. -/
def State.ringFor (s : State) (d : Nat) : LFor :=
  let c : BitVec 12 := (s.dieReg d 0xC0).setWidth 12
  ⟨d, ringQueue, c, s.ctxReg c 2⟩

/-- log2 of the record count of the overflow ring of a die, where it is enabled with a valid n and no access of it has been refused (R452). -/
def State.ovfN (s : State) (d : Nat) : Option Nat :=
  let b := s.dieReg d 0xB8
  let n := field b.toNat 62 58
  if b.getLsbD 63 && 8 ≤ n && n ≤ 24 && !(s.die d).ringBad then some n else none

/-- Does the ring of a die wait for a translation (R91)? -/
def State.ringWaits (s : State) (d : Nat) : Bool :=
  ((s.die d).pend.any fun p => p.waiters.contains (.taskRing d)) || (s.die d).unrec.contains (.taskRing d)

/-- An access of the ring is refused: its record is written, and the ring stands still until `tq.ovf` is written again
(DESIGN CHOICE, log 32). -/
def State.ringRefused (s : State) (d va : Nat) : State :=
  (s.launchFault (s.ringFor d) va).modDie d fun y => { y with ringBad := true }

/-- Writes a record into the ring: the entry, then the fill counter; says whether there was room. -/
def lRingPut (s0 : State) (d n : Nat) (r : TaskRec) : LaunchM Bool := do
  let lf := s0.ringFor d
  let fill ← lWord lf (s0.dieReg d 0xC8).toNat
  let free ← lWord lf (s0.dieReg d 0xD0).toNat
  if 2 ^ n ≤ (fill + 2 ^ 64 - free) % 2 ^ 64 then return false
  let a := field (s0.dieReg d 0xB8).toNat 55 0 + fill % 2 ^ n * 32
  lPut lf a r.w0
  lPut lf (a + 8) r.w1
  lPut lf (a + 16) (r.ctx.setWidth 64)
  lPut lf (a + 24) 0
  lAdd lf (s0.dieReg d 0xC8).toNat 1
  return true

/-- Takes the oldest entry out of the ring: its record and context as memory holds them. -/
def lRingTake (s0 : State) (d n : Nat) : LaunchM (Word × Word × BitVec 12) := do
  let lf := s0.ringFor d
  let free ← lWord lf (s0.dieReg d 0xD0).toNat
  let a := field (s0.dieReg d 0xB8).toNat 55 0 + free % 2 ^ n * 32
  let w ← lWords lf a 4
  lAdd lf (s0.dieReg d 0xD0).toNat 1
  return (BitVec.ofNat 64 (pWord w 0), BitVec.ofNat 64 (pWord w 1), BitVec.ofNat 12 (pWord w 2))

/-- Drains the oldest entry of the ring into a queue on the die that has room. -/
def State.ringDrain (s : State) (d : Nat) : State :=
  match s.ovfN d with
  | none => s
  | some n =>
    s.lRun (s.ringFor d) (lRingTake s d n) (fun x s => s.modDie d fun y => { y with
      tasks := (listFind (fun _ => true) (y.tasks.drop y.onDie) y.onDie).elim y.tasks fun p =>
        y.tasks.set p.1 { p.2 with w0 := x.1, w1 := x.2.1, ctx := x.2.2 }
      onDie := y.onDie + 1, ovf := y.ovf - 1 }) fun va s => s.ringRefused d va

/-- Puts the first record that stalls its producer into the ring. -/
def State.ringFill (s : State) (d : Nat) : State :=
  let x := s.die d
  match s.ovfN d, x.tasks[x.onDie + x.ovf]? with
  | some n, some r =>
    s.lRun (s.ringFor d) (lRingPut s d n r) (fun ok s => if ok then s.modDie d fun y => { y with ovf := y.ovf + 1 } else s)
      fun va s => s.ringRefused d va
  | _, _ => s

/-- Moves one record of a die on its way: from the ring, onto the die, or into the ring. -/
def State.taskSettle (s : State) (d : Nat) : State :=
  let x := s.die d
  if x.onDie < 4096 && x.ovf = 0 && x.onDie < x.tasks.length then s.modDie d fun y => { y with onDie := y.onDie + 1 }
  else if s.ringWaits d then s
  else if x.onDie < 4096 && 0 < x.ovf then s.ringDrain d
  else s.ringFill d

/-- Has a die a record that can move on its way? The ring may be full, which only its counters tell. -/
def State.settleDue (s : State) (d : Nat) : Bool :=
  let x := s.die d
  (x.onDie < 4096 && x.ovf = 0 && x.onDie < x.tasks.length)
    || (!s.ringWaits d && (s.ovfN d).isSome && ((x.onDie < 4096 && 0 < x.ovf) || x.onDie + x.ovf < x.tasks.length))

/-- Does a producer of a die stall? -/
def State.taskStall (s : State) (d : Nat) : Bool :=
  let x := s.die d
  x.onDie + x.ovf < x.tasks.length

/-! ### Emitting (R344, R366, R375) -/

/-- Adds a record to a die's list. -/
def State.addTask (s : State) (d : Nat) (r : TaskRec) : State :=
  (s.modDie d fun x => { x with tasks := x.tasks ++ [r] }).taskSettle d

/-- TASK_PACKET_EMIT (R366, R375): a tasks packet emits its next record, once for each replica. -/
def execTaskPacketEmit (id : Nat) (s : State) : Host.Outcome State Fault Refusal :=
  .next <| match Tbl.get? id s.launches with
  | none => s
  | some l =>
    if pKind l.words ≠ 2 || l.map.isEmpty || pCount l.words < l.emitted then s
    else if l.map.any fun d => s.taskStall d then s
    else
      let (tid, s) := s.fresh
      let w := pWord l.words 3
      let w0 := BitVec.ofNat 64 (field w 63 32 * 2 ^ 32 + (field w 31 0 + l.emitted) % 2 ^ 32)
      let rec_ (k : Nat) : TaskRec := ⟨tid, w0, (l.words[4]?).getD 0, l.ctx, some id, k, none, [], false, none⟩
      let s := { s with launches := s.launches.modify id fun l => { l with emitted := l.emitted + 1 } }
      (List.range l.map.length).foldl (fun s k => s.addTask ((l.map[k]?).getD 0) (rec_ k)) s

/-! ### Dispatch (R344, R367) -/

/-- Registers g0 to g3 of a task (R344). -/
def taskRegs (e : List Word) (r : TaskRec) (g : Vector Word 64) : Vector Word 64 :=
  let inst := field r.w0.toNat 31 0
  let g := vset g 0 (BitVec.ofNat 64 ((pWord e 1 + inst * (pWord e 2)) % 2 ^ 56))
  let g := vset g 1 r.w1
  let g := vset g 2 (BitVec.ofNat 64 inst)
  vset g 3 (BitVec.ofNat 64 (field r.w0.toNat 63 48 * 2 ^ 16 + field r.w0.toNat 47 32))

/-- A record that names no resident node: its fault record is written, and its task counts as ended (R384). -/
def State.taskBad (s : State) (d : Nat) (r : TaskRec) : State :=
  let s := s.report d ⟨.taskRecord, 0, false, r.ctx, 1024 * d, 0, 0, 0, 0, 0, s.now⟩
  match r.launch with
  | some id => s.setStatus id 4 3
  | none => s

/-- The node entry that a record names, where its template is resident. -/
def State.taskEntry (s : State) (d : Nat) (r : TaskRec) : Option (List Word) :=
  match Tbl.get? (tmplKey r.ctx (field r.w0.toNat 63 48)) (s.die d).tmpls with
  | none => none
  | some t => t.entries[field r.w0.toNat 47 32]?

/-- The registers of a context that a task of its network takes: those of the context's newest launch (R451; DEDUCED, log 32). -/
def State.ctxNow (s : State) (c : BitVec 12) : CtxRun :=
  s.ctxRun.getD c.toNat ⟨s.ctxReg c 1, s.ctxReg c 2, s.ctxReg c 7, s.ctxReg c 8, []⟩

/-- A task's node on its CT (R33, R342, R344, R376). A network's task has a manifest whose digests of the code and counts are free, while
its own digest is that of its registers (R355; log 32). -/
def State.taskNode (s : State) (t h id : Nat) (r : TaskRec) (e : List Word) : Node × State :=
  let n := Node.start t r.ctx (BitVec.ofNat 64 (pWord e 0)) (s.ctxReg r.ctx 4)
  let n := { n with
    regs := { n.regs with g := taskRegs e r n.regs.g }
    stream := BitVec.ofNat 64 (2 ^ 63) + r.w0
    region := h, launch := id, bornAt := r.id
    task := some (match r.firing with
      | some f => f + 1
      | none => 0)
    mark := s.now.toNat / 1024 }
  match r.launch.bind fun id => Tbl.get? id s.launches with
  | some l =>
    ({ n with
      mode := l.mode, assist := l.assist, seed := l.seed, rrTable := l.rrTable, rounds := l.rounds, man := l.man
      repMode := BitVec.ofNat 2 l.replicas, rep := BitVec.ofNat 2 r.replica, fwd := r.fwd
      red := { RedRegs.start (r.replica = 0 && r.voted.isNone) with vote := if r.voted.isSome then 1 else 0 }
      stop := if r.voted.isSome then some .vote else none }, s)
  | none =>
    let c := s.ctxNow r.ctx
    let (bin, s) := s.pickWords 6
    let (tiles, s) := s.pickWord
    ({ n with
      mode := c.mode, assist := c.assist, seed := c.seed, rrTable := c.rrTable, rounds := c.rounds
      man := Manifest.of bin c.mode c.seed (sha384 (s.tableBytes (dieOf t) r.ctx)) 1 (tiles.toNat / 2 ^ 32) (tiles.toNat % 2 ^ 32) }, s)

/-- Starts a task on a CT, as a unit of its own under a handle. A replica that a vote has passed over takes its trap now (R379; DEDUCED,
log 38). -/
def State.startTask (s : State) (d t : Nat) (r : TaskRec) (e : List Word) : State :=
  let (h, s) := s.newHandle
  let (id, s) := match r.launch with
    | some id => (id, s)
    | none => s.fresh
  let o := t % 1024
  let g := { Region.blank id r.ctx 0 r.replica d [] [] with
    isTask := true, live := true, elems := [t], voteCut := r.voted
    originX := 16 * (d % 2) + o / 64, originY := 16 * (d / 2) + o % 32 / 2 }
  let s := { s with regions := s.regions.set h g }
  let (n, s) := s.taskNode t h id r e
  let s := ((s.setNode t n).dropRemoteL1 t).dropConst t
  let s := if r.voted.isNone then s
    else s.event d 0x11 n.ctx (t % 4096) (n.rep.setWidth 64 + n.repMode.setWidth 64 * 4) n.red.seqNo
  let s := { s with
    dies := vset s.dies d { s.die d with
      tmpls := (s.die d).tmpls.modify (tmplKey r.ctx (field r.w0.toNat 63 48)) fun y => { y with used := s.useTick } }
    useTick := s.useTick + 1
    launches := s.launches.modify id fun l => { l with running := l.running + 1 } }
  if s.cutKeeping h then s.modRegion h fun x => { x with confirmed := some (s.snapshot h 0) } else s

/-- The record at the head of a die's queue starts on a CT, a free choice among the free ones (log 4). -/
def State.dispatch (s : State) (d : Nat) (r : TaskRec) : State :=
  let pop (s : State) : State := s.modDie d fun x => { x with tasks := x.tasks.drop 1, onDie := x.onDie - 1 }
  match s.taskEntry d r with
  | none => (pop s).taskBad d r
  | some e =>
    match s.freeCts d with
    | [] => s
    | t :: l =>
      let (k, s) := s.pick (t :: l).length
      (pop s).startTask d (((t :: l)[k]?).getD t) r e

/-- TASK_DISPATCH (R367): a record of a die moves on its way, or else the head of the queue starts. -/
def execTaskDispatch (d : Nat) (s : State) : Host.Outcome State Fault Refusal :=
  .next (
    let x := s.die d
    let s := if s.settleDue d then s.taskSettle d else s
    if (s.die d).onDie ≠ x.onDie || (s.die d).ovf ≠ x.ovf then s
    else
      match (s.die d).tasks with
      | [] => s
      | r :: _ =>
        if (s.die d).onDie = 0 then s
        else if r.cancelled then s.modDie d fun x => { x with tasks := x.tasks.drop 1, onDie := x.onDie - 1 }
        else s.dispatch d r)

end Sys2Proof.Machine
end

