-- ==== Sys2Proof/Machine/Window.lean ====
section
/-! DEFINITION. The store window (R90, R101, R102, R151, R377): a store's entry with its signature chunks, what still fits,
and the performing of one line at its home. -/

namespace Sys2Proof.Machine

/-! ### The signature (R377) -/

/-- The term of a chunk. -/
def chunkTerm (va : Word) (mask : Nat) (data : Word) : Word :=
  fmix ((va &&& BitVec.ofNat 64 (2 ^ 56 - 1)) ^^^ BitVec.ofNat 64 (mask * 2 ^ 56))
    + fmix (data ^^^ 0x9E3779B97F4A7C15#64)

/-- Adds chunks to a signature and a count. -/
def addTerms (sig : Word) (cnt : BitVec 32) (l : List Word) : Word × BitVec 32 :=
  (l.foldl (· + ·) sig, cnt + BitVec.ofNat 32 l.length)

/-- The bytes that a lane writes, by virtual address. -/
def laneBytes (x : LaneStore) : Tbl Byte :=
  (List.range x.size).map fun i => (x.va + i, BitVec.ofNat 8 (x.val / 2 ^ (8 * i)))

/-- The terms of a store: every lane enters the window on its own (R182), with one chunk for each aligned doubleword that it
touches. -/
def storeTerms (l : List LaneStore) : List Word :=
  l.flatMap fun x =>
    let b := laneBytes x
    ((b.map fun p => p.1 / 8).eraseDups).map fun w =>
      let mine := b.filter fun p => p.1 / 8 = w
      chunkTerm (BitVec.ofNat 64 (8 * w)) (mine.foldl (fun a p => a + 2 ^ (p.1 % 8)) 0)
        (BitVec.ofNat 64 (mine.foldl (fun a p => a + p.2.toNat * 2 ^ (8 * (p.1 % 8))) 0))

/-- The terms of action chunks (R378). -/
def actionTerms (l : List (Word × Word)) : List Word := l.map fun c => chunkTerm c.1 0 c.2

/-! ### Entering the window (R101, R102) -/

/-- Cuts lanes at line boundaries. -/
def laneParts (x : LaneStore) : List LaneStore :=
  let n := 128 - x.pa % 128
  if x.size ≤ n then [x]
  else [⟨x.va, x.pa, n, x.val % 2 ^ (8 * n)⟩, ⟨x.va + n, x.pa + n, x.size - n, x.val / 2 ^ (8 * n)⟩]

/-- Puts one lane into a line of the window, which takes the policy of its latest store (DESIGN CHOICE, log 59). -/
def Window.putLine (w : Window) (x : LaneStore) (pol : Policy) : Window :=
  let k := x.pa / 128
  let old := w.lines.getD k ⟨[], pol, [], 0⟩
  let b := (List.range x.size).foldl (fun t i =>
    Tbl.set t (x.pa % 128 + i) (BitVec.ofNat 8 (x.val / 2 ^ (8 * i)))) old.bytes
  let page := x.va / 65536
  { w with lines := w.lines.set k ⟨b, pol, if old.pages.contains page then old.pages else old.pages ++ [page],
      old.fresh ||| BitVec.ofNat 128 ((2 ^ x.size - 1) * 2 ^ (x.pa % 128))⟩ }

/-- A store to MMIO takes an entry of its own. -/
def Window.putReg (w : Window) (x : LaneStore) : Window :=
  { w with mmio := w.mmio ++ [⟨x.pa, x.size, BitVec.ofNat 64 x.val, x.va / 65536⟩] }

/-- A lane enters the window. -/
def State.winPut (s : State) (w : Window) (x : LaneStore) (pol : Policy) : Window :=
  if s.isMmio x.pa then w.putReg x else (laneParts x).foldl (fun w y => w.putLine y pol) w

/-- Lanes enter the window in order. -/
def State.winEnter (s : State) (w : Window) (l : List LaneStore) (pol : Policy) : Window :=
  l.foldl (fun w x => s.winPut w x pol) w

/-- Entries of a window: lines and MMIO stores. -/
def Window.size (w : Window) : Nat := w.lines.length + w.mmio.length

/-- Does a window keep the limits of R101: 256 entries, and, in a CT's L1, two lines of a set? -/
def Window.fits (w : Window) (sets : Bool) : Bool :=
  w.size ≤ 256 && (!sets || w.lines.all fun p => (w.lines.filter fun q => q.1 % 128 = p.1 % 128).length ≤ 2)

/-- How many of a store's lanes, from the first on, fit into a window. -/
def State.winPrefix (s : State) (w : Window) (sets : Bool) (pol : Policy) : List LaneStore → Nat
  | [] => 0
  | x :: l =>
    let w := s.winPut w x pol
    if w.fits sets then s.winPrefix w sets pol l + 1 else 0

/-! ### Performing a line (R102) -/

/-- Runs of neighbouring bytes: the offset of each and its bytes. -/
def byteRuns : Tbl Byte → List (Nat × List Byte)
  | [] => []
  | (o, b) :: t =>
    match byteRuns t with
    | (p, l) :: r => if p = o + 1 then (o, b :: l) :: r else (o, [b]) :: (p, l) :: r
    | [] => [(o, [b])]

/-- The words of a line that bytes touch. -/
def wordsMask (b : Tbl Byte) : Word32 := b.foldl (fun m p => m ||| bytesMask p.1 1) 0

/-- Writes runs of a line at its home. -/
def State.writeRuns (s : State) (d : Nat) (m : Master) (pa : Nat) : List (Nat × List Byte) → Except AccErr Unit × State
  | [] => (.ok (), s)
  | (o, b) :: l =>
    match s.homeWrite d m (pa + o) b with
    | (.error e, s) => (.error e, s)
    | (.ok _, s) => s.writeRuns d m pa l

/-- Writes runs of an own-die line into an L1 that holds their words in M. -/
def State.ownRuns (s : State) (pa : Nat) (l : List (Nat × List Byte)) : State :=
  l.foldl (fun s r =>
    let k := s.key (pa + r.1)
    ((({ s with mem := Memory.write s.mem k r.2 }).lift k r.2.length).noteWrite none k r.2.length (s.keyLine k)).notifyRange
      (pa + r.1) r.2.length) s

/-- Writes one line of the window of a CT's node, or of an MT, at its home. -/
def State.writeLine (s : State) (t k : Nat) (m : Master) (ct : Bool) (l : WinLine) : Except AccErr Unit × State :=
  let d := dieOf t
  let pa := k * 128
  let w := wordsMask l.bytes
  if ct && s.ownLine d pa && l.pol.fillsL1 then
    let (ok, s) := s.permit d m pa 2
    if !ok then (.error .access, s)
    else if s.lost d (k % 2 ^ 38) then (.error .poison, s)
    else
      let s := ((s.touch (s.key pa)).l2Use d (k % 2 ^ 38) false).dirOwn t (k % 2 ^ 38) w l.pol.lru
      (.ok (), s.ownRuns pa (byteRuns l.bytes))
  else
    match s.writeRuns d m pa (byteRuns l.bytes) with
    | (.error e, s) => (.error e, s)
    | (.ok _, s) =>
      if s.ownLine d pa then (.ok (), s)
      else
        let c := s.l1 t k
        let s := if ct && c.valid ≠ 0 then
            s.setL1 t k { c with data := l.bytes.foldl (fun v b => linePatch v b.1 [b.2]) c.data }
          else s
        (.ok (), s.rdcDrop d k w)

/-- Performs one line of the window of a CT's node, or of an MT: a write of its own (R102, R266). -/
def State.performLine (s : State) (t k : Nat) (m : Master) (ct : Bool) (l : WinLine) : Except AccErr Unit × State :=
  let (r, u) := s.writeLine t k m ct l
  (r, u.mine t s)

end Sys2Proof.Machine
end

