-- ==== Sys2Proof/Machine/MemTiles.lean ====
section
/-! DEFINITION. Memory tiles (R127 to R136, R388): the scratchpad's declared tiles and journal, the sequencer, and the random and
ordered-update modes; ports that add to counters (R346) and ports that decode PX8 (R236, R256 to R258). -/

namespace Sys2Proof.Machine

/-! ### The scratchpad as its own MT reaches it (R127 to R130) -/

/-- Where an access of an MT's own falls: an offset, or a wait, a range fault, or the journal's refusal. -/
inductive Spot where
  | at_ (off : Nat)
  | wait
  | range
  | refuse
  deriving DecidableEq, Repr

/-- The descriptor that decides an offset's mode (R128). -/
def Mt.descAt (m : Mt) (off : Nat) : Option (Nat × Word) :=
  m.desc.find? fun p => p.2.getLsbD 63 && field p.2.toNat 15 0 * 128 ≤ off
    && off < field p.2.toNat 15 0 * 128 + field p.2.toNat 35 16

/-- Entries of a FIFO descriptor. -/
def fifoCap (w : Word) : Nat := field w.toNat 35 16 / 128

/-- Row of an offset of a line buffer, and the rows it keeps (R130). -/
def lineRow (w : Word) (off : Nat) : Nat :=
  (off - field w.toNat 15 0 * 128) / Nat.max 1 (4 * field w.toNat 59 48)
def lineKeep (w : Word) : Nat := Nat.max 1 (field w.toNat 47 36)

/-- Where an offset of an MT's own access falls (R127, R130, R135). -/
def State.spot (s : State) (m : Mt) (off : Nat) (write : Bool) : Spot :=
  if 0xC0000 ≤ off then .range
  else if s.journaled m.tile off then .refuse
  else
    match m.descAt off with
    | none => .at_ off
    | some (d, w) =>
      let base := field w.toNat 15 0 * 128
      let mode := field w.toNat 62 61
      if mode = 1 then
        let (head, count) := m.fifo.getD d (0, 0)
        let cap := Nat.max 1 (fifoCap w)
        let slot (i : Nat) : Spot := .at_ (base + i % cap * 128 + (off - base) % 128)
        if write then (if cap ≤ count then .wait else slot (head + count))
        else if count = 0 then .wait else slot head
      else if mode = 2 then
        let j := lineRow w off
        let r := m.rows.getD d 0
        let len := Nat.max 1 (4 * field w.toNat 59 48)
        if !write && r ≤ j then .wait
        else if !write && j + lineKeep w < r then .range
        else .at_ (base + j % lineKeep w * len + (off - base) % len)
      else .at_ off

/-- What an access leaves of the heads and rows of an MT: an entry is complete with its byte 127, a row with its last
(R130). -/
def Mt.stepped (m : Mt) (off n : Nat) (write : Bool) : Mt :=
  match m.descAt off with
  | none => m
  | some (d, w) =>
    let base := field w.toNat 15 0 * 128
    let mode := field w.toNat 62 61
    if mode = 1 then
      let (head, count) := m.fifo.getD d (0, 0)
      if (off - base) % 128 + n < 128 then m
      else { m with fifo := m.fifo.set d (if write then (head, count + 1) else ((head + 1) % Nat.max 1 (fifoCap w), count - 1)) }
    else if mode = 2 && write then
      let len := Nat.max 1 (4 * field w.toNat 59 48)
      if (off - base) % len + n < len then m
      else { m with rows := m.rows.set d (Nat.max (m.rows.getD d 0) (lineRow w off + 1)) }
    else m

/-- The bytes of a journal entry (R388). -/
def JEntry.word (j : JEntry) : Nat := j.old.toNat * 2 ^ 32 + j.interval % 2 ^ 14 * 2 ^ 18 + j.index % 2 ^ 18

/-- Journals a word before its first write in an interval (R388). An entry takes the lowest free place of the journal's range (DESIGN
CHOICE, log 21). -/
def State.journalWord (s : State) (m : Mt) (word : Nat) : State × Mt :=
  if !s.cutKeeping m.region || m.journal.any fun j => j.interval = m.interval && j.index = word then (s, m)
  else if 8192 ≤ m.journal.length then (s, { m with lost := some m.interval })
  else
    let slot := ((List.range (m.journal.length + 1)).find? fun i => !m.journal.any fun j => j.slot = i).getD 0
    let j : JEntry := ⟨BitVec.ofNat 32 (s.peek (spadAddr m.tile (4 * word)) 4), m.interval, word, slot⟩
    (s.poke (spadAddr m.tile (0xB0000 + 8 * slot)) 8 j.word, { m with journal := m.journal ++ [j] })

/-- Journals the words of a write of n bytes. -/
def State.journalAll (s : State) (m : Mt) (o n : Nat) : State × Mt :=
  (List.range ((o + n - 1) / 4 + 1 - o / 4)).foldl (fun x i => x.1.journalWord x.2 (o / 4 + i)) (s, m)

/-- Reads a piece of the MT's own scratchpad. -/
def State.spadPiece (s : State) (m : Mt) (off n : Nat) : Except Spot (List Byte × Mt) :=
  match s.spot m off false with
  | .at_ o => .ok (Memory.read s.mem (spadAddr m.tile o) n, m.stepped off n false)
  | x => .error x

/-- Reads pieces of the MT's own scratchpad. -/
def State.spadRead (s : State) (m : Mt) : List (Nat × Nat) → Except Spot (List Byte × Mt)
  | [] => .ok ([], m)
  | (off, n) :: l => do
    let (b, m) ← s.spadPiece m off n
    let (c, m) ← s.spadRead m l
    return (b ++ c, m)

/-- Writes pieces of the MT's own scratchpad, journaling their words. -/
def State.spadWrite (s : State) (m : Mt) : List (Nat × Nat) → List Byte → Except Spot (State × Mt)
  | [], _ => .ok (s, m)
  | (off, n) :: l, b =>
    match s.spot m off true with
    | .at_ o =>
      let (s, m) := s.journalAll m o n
      let k := spadAddr m.tile o
      let s := s.recallHost (k / 128)
      let s := ({ s with mem := Memory.write s.mem k (b.take n) }).lift k n
      (s.notifyRange (s.global k) n).spadWrite (m.stepped off n true) l (b.drop n)
    | x => .error x

/-- Writes an MT; its journal forces a cut as it reaches 7,168 entries (R387). -/
def State.putMt (s : State) (m : Mt) : State :=
  let s := { s with mts := s.mts.set m.tile m }
  if 7168 ≤ m.journal.length then s.beginCut m.region none else s

/-- What an MT does at a place that gives no access. -/
def State.spotStop (s : State) (m : Mt) (x : Spot) (off : Nat) : State :=
  match x with
  | .range => s.elemStop m.tile (s.elemRecord m.tile .mtRange 0 (BitVec.ofNat 64 off) 0 0)
  | .refuse => s.elemStop m.tile (s.elemRecord m.tile .access 0 (BitVec.ofNat 64 off) 0 0)
  | _ => s

/-! ### Global memory as an MT reaches it (R87, R121, R132) -/

/-- The master that an MT is (R69). -/
def Mt.master (m : Mt) : Master := ⟨m.ctx, 0⟩

/-- Reads words of a line for an MT, which has no L1: an RDC copy filled after its start token's mark, or the home; a copy in the RDC
follows where its policy gives a load one (R57, R112). -/
def State.mtLine (s : State) (m : Mt) (k : Nat) (w : Word32) (p : Policy) : Except AccErr Vec × State :=
  let d := dieOf m.tile
  let far : Bool := match s.home d (k * 128) with
    | .slice h _ => h ≠ d
    | .proxy l _ => s.hostIsCxl l
    | .peer _ => true
    | _ => false
  match (if far && p ≠ .streaming then s.rdcTimed d k w m.mark else none) with
  | some v => (.ok v, s.useRdc d k)
  | none =>
    match s.homeLine d m.master k w p.lru p.fillsL1 with
    | (.error e, s) => (.error e, s)
    | (.ok v, s) =>
      let host := match s.home d (k * 128) with
        | .proxy .. => true
        | _ => false
      if !far || p = .streaming || (host && p = .bypass) then (.ok v, s)
      else
        let (st, s) := s.timeStamp d (rdcSlice k)
        (.ok v, s.rdcPut d k w v st p.lru)

/-- How an access of an MT to global memory ends: with a value, or with the MT stopped. -/
def State.mtRead (s : State) (m : Mt) (p : Policy) : List (Nat × Nat) → Option (List Byte) × State
  | [] => (some [], s)
  | (va, n) :: l =>
    let a := BitVec.ofNat 64 va
    match s.xlate (dieOf m.tile) (some m.tile) m.ctx a .read 0 m.assist (.mt m.tile) with
    | (.error .addr, s) => (none, s.elemStop m.tile (s.elemRecord m.tile .address 0 a 0 0))
    | (.error .poison, s) => (none, s.elemStop m.tile (s.elemRecord m.tile .uncorrectable 2 a 0 0))
    | (.error .fault, s) => (none, s.freezeWalk (.mt m.tile))
    | (.ok e, s) =>
      let pa := e.phys va
      match s.mtLine m (pa / 128) (bytesMask (pa % 128) n) p with
      | (.error .access, s) => (none, s.elemStop m.tile (s.elemRecord m.tile .accessLate 1 (BitVec.ofNat 64 pa) 0 0))
      | (.error .poison, s) => (none, s.elemStop m.tile (s.elemRecord m.tile .uncorrectable 2 (BitVec.ofNat 64 pa) 0 0))
      | (.ok v, s) =>
        match s.mtRead m p l with
        | (none, s) => (none, s)
        | (some b, s) => (some (lineBytes v (pa % 128) n ++ b), s)

/-- Translates the pieces of a store of an MT; none where it stops. -/
def State.mtLanes (s : State) (m : Mt) : List (Nat × Nat) → List Byte → Option (List LaneStore) × State
  | [], _ => (some [], s)
  | (va, n) :: l, b =>
    let a := BitVec.ofNat 64 va
    match s.xlate (dieOf m.tile) (some m.tile) m.ctx a .write 0 m.assist (.mt m.tile) with
    | (.error .addr, s) => (none, s.elemStop m.tile (s.elemRecord m.tile .address 0 a 0 0))
    | (.error .poison, s) => (none, s.elemStop m.tile (s.elemRecord m.tile .uncorrectable 2 a 0 0))
    | (.error .fault, s) => (none, s.freezeWalk (.mt m.tile))
    | (.ok e, s) =>
      match s.mtLanes m l (b.drop n) with
      | (none, s) => (none, s)
      | (some r, s) => (some (⟨va, e.phys va, n, ofBytes (b.take n)⟩ :: r), s)

/-- A store of an MT enters its window (R377), which is released first where it has no room. -/
def State.mtStore (s : State) (m : Mt) (l : List LaneStore) (p : Policy) : Option Mt :=
  let w := s.winEnter m.win l p
  if w.fits false then
    let (sig, cnt) := addTerms m.sig m.cnt (storeTerms l)
    some { m with win := w, sig := sig, cnt := cnt }
  else none

/-! ### The sequencer (R134 to R136) -/

/-- Fields of a sequencer program. -/
def Mt.seqWord (m : Mt) (k : Nat) : Nat := ((m.seqr[k]?).getD 0).toNat
def Mt.seqTy (m : Mt) : Ty := (Ty.ofCode (BitVec.ofNat 4 (field (m.seqWord 3) 15 12))).getD .n32
def Mt.seqDepth (m : Mt) : Nat := field (m.seqWord 3) 11 10 + 1
def Mt.seqPort (m : Mt) : Nat := field (m.seqWord 3) 9 8
def Mt.seqWrites (m : Mt) : Bool := bitAt (m.seqWord 3) 7
def Mt.seqPolicy (m : Mt) : Policy := Policy.ofCode (BitVec.ofNat 2 (field (m.seqWord 3) 6 5))
def Mt.seqGlobal (m : Mt) : Bool := bitAt (m.seqWord 0) 62

/-- Iterations of a loop less one: loops at or beyond the depth are taken as one. -/
def Mt.seqCount (m : Mt) (k : Nat) : Nat :=
  if k < m.seqDepth then field (m.seqWord 1) (16 * k + 15) (16 * k) else 0

/-- Byte stride of a loop. -/
def Mt.seqStride (m : Mt) (k : Nat) : Int :=
  let sx (x w : Nat) : Int := (BitVec.ofNat w x).toInt
  if k = 0 then sx (field (m.seqWord 2) 31 0) 32
  else if k = 1 then sx (field (m.seqWord 2) 63 32) 32
  else if k = 2 then 128 * sx (field (m.seqWord 3) 39 16) 24
  else 128 * sx (field (m.seqWord 3) 63 40) 24

/-- Address of the element at which the walk stands. -/
def Mt.seqAddr (m : Mt) : Nat :=
  let i (k : Nat) : Int := ((m.idx[k]?).getD 0 : Nat)
  (BitVec.ofInt 64 (field (m.seqWord 0) 55 0 + (i 3 * m.seqStride 3 + i 2 * m.seqStride 2 + i 1 * m.seqStride 1
    + i 0 * m.seqStride 0))).toNat

/-- The indices of the next element, loop 0 innermost; none after the last. -/
def Mt.seqNext (m : Mt) : Option (List Nat) :=
  let i (k : Nat) : Nat := (m.idx[k]?).getD 0
  match (List.range 4).find? fun k => i k < m.seqCount k with
  | none => none
  | some k => some ((List.range 4).map fun j => if j < k then 0 else if j = k then i k + 1 else i j)

/-- The token format of a type of its own (R136), or 7 for raw lanes. -/
def seqFmt (t : Ty) : Nat := match t with
  | .f32 => 0
  | .bf16 => 1
  | .f16 => 2
  | .e4m3 => 3
  | .e5m2 => 4
  | .e8m0 => 6
  | _ => 7

/-- Does a type travel as raw lanes? -/
def seqRaw (t : Ty) : Bool := seqFmt t = 7 && t ≠ .s32

/-- The token that packed bytes make: its count is of elements, or of lanes for raw bytes. -/
def seqToken (t : Ty) (b : List Byte) : Token :=
  let n := if seqRaw t then (b.length + 3) / 4 else b.length / t.bytes
  ⟨BitVec.ofNat 1024 (ofBytes b), BitVec.ofNat 32 (seqFmt t * 2 ^ 27 + (n - 1) * 2 ^ 19)⟩

/-- The walk moves past an element; after the last one the window is released (R377), or what was read has still to leave. -/
def Mt.walked (m : Mt) : Mt :=
  match m.seqNext with
  | some i => { m with idx := i }
  | none =>
    if m.seqWrites then { m with done := true, inBytes := [], implicitReq := m.implicitReq || m.seqGlobal }
    else { m with issued := true }

/-- Moves what the head of a reorder buffer holds into the token that is being filled, in walk order (R135). -/
def packUp : List SeqPiece → List Byte → List SeqPiece × List Byte
  | ⟨a, n, some b⟩ :: l, p => if p.length < 128 then packUp l (p ++ b) else (⟨a, n, some b⟩ :: l, p)
  | l, p => (l, p)

/-- As `packUp` for an MT; the walk is done once its last token has left. -/
def Mt.packedUp (m : Mt) : Mt :=
  let (l, p) := packUp m.buf m.pack
  { m with buf := l, pack := p, done := m.issued && l.isEmpty && p.isEmpty }

/-- The walk's next element enters the reorder buffer of 64 (R131): its bytes from the MT's own scratchpad, or its requests to global
memory, which are answered in any order (R132). -/
def State.seqIssue (s : State) (m : Mt) : State :=
  let a := m.seqAddr
  let ps := pieces a m.seqTy.bytes 3
  if m.issued || 64 < m.buf.length + ps.length then s
  else if m.seqGlobal then
    let m : Mt := { m with buf := m.buf ++ ps.map fun p => ⟨p.1, p.2, none⟩ }
    s.putMt m.walked
  else
    match s.spadRead m ps with
    | .ok (b, m) =>
      let m : Mt := { m with buf := m.buf ++ [⟨a, b.length, some b⟩] }
      s.putMt m.walked.packedUp
    | .error x => s.spotStop m x a

/-- The i-th request in the reorder buffer is answered; one that meets a fault stays, and is asked again alone (R434). -/
def State.seqAnswer (s : State) (m : Mt) (i : Nat) : State :=
  match m.buf[i]? with
  | some ⟨a, n, none⟩ =>
    (match s.mtRead m m.seqPolicy [(a, n)] with
     | (none, s) => s
     | (some b, s) =>
       let m : Mt := { m with buf := m.buf.set i ⟨a, n, some b⟩ }
       s.putMt m.packedUp)
  | _ => s

/-- A full token leaves, or the last one of the walk. -/
def State.seqSend (s : State) (m : Mt) : State :=
  if m.pack.length = 128 || (m.issued && m.buf.isEmpty && !m.pack.isEmpty) then
    match s.sendOut (4 * m.tile + m.seqPort) (seqToken m.seqTy m.pack) with
    | none => s
    | some s =>
      let m : Mt := { m with pack := [] }
      s.putMt m.packedUp
  else s

/-- What a walk from memory to tokens may do next. -/
inductive SeqAct where
  | send
  | issue
  | answer (i : Nat)
  deriving DecidableEq, Repr

/-- Does one of them. -/
def State.seqDo (s : State) (m : Mt) : SeqAct → State
  | .send => s.seqSend m
  | .issue => s.seqIssue m
  | .answer i => s.seqAnswer m i

/-- Those that do something; a sequencer that stands frozen sends alone (R434). -/
def State.seqDue (s : State) (m : Mt) : List SeqAct :=
  (if m.stop.isSome then [.send] else .send :: .issue :: (List.range m.buf.length).map .answer).filter fun x => s.seqDo m x ≠ s

/-- A walk from memory to tokens goes on by one of them, a free choice where several do something. -/
def State.seqOut (s : State) (m : Mt) : State :=
  match s.seqDue m with
  | [] => s
  | [x] => s.seqDo m x
  | x :: l =>
    let (k, s) := s.pick (x :: l).length
    s.seqDo m (((x :: l)[k]?).getD x)

/-- Writes the element at which the walk stands from its bytes. -/
def State.seqWrite (s : State) (m : Mt) (b : List Byte) (rest : List Byte) : State :=
  let a := m.seqAddr
  let ps := pieces a b.length 3
  let next (m : Mt) : Mt := ({ m with inBytes := rest }).walked
  if m.seqGlobal then
    match s.mtLanes m ps b with
    | (none, s) => s
    | (some l, s) =>
      match s.mtStore m l m.seqPolicy with
      | some m => s.putMt (next m)
      | none => s.putMt { m with implicitReq := true }
  else
    match s.spadWrite m ps b with
    | .ok (s, m) => s.putMt (next m)
    | .error x => s.spotStop m x a

/-- The bytes of a token that a sequencer takes (R136): none where its format or its length does not suit. -/
def seqBytes (t : Ty) (k : Token) : Option (List Byte) :=
  let n := (k.count + 1) * (if seqRaw t then 4 else t.bytes)
  if k.fmt = seqFmt t && n % t.bytes = 0 then some (toBytes k.payload.toNat n) else none

/-- One element of a walk from tokens to memory. -/
def State.seqIn (s : State) (m : Mt) : State :=
  let n := m.seqTy.bytes
  if n ≤ m.inBytes.length then s.seqWrite m (m.inBytes.take n) (m.inBytes.drop n)
  else
    let key := 4 * m.tile + m.seqPort
    match s.headTok key with
    | none => s
    | some x =>
      if x.tok.isMarker || x.tok.isDrain || x.tok.kind = 3 || s.barred key x then s
      else if x.tok.kind = 1 then (s.popAt key 0).2
      else
        match seqBytes m.seqTy x.tok with
        | none => s.elemFault m.tile .mtSequence m.seqPort
        | some b => (s.popAt key 0).2.putMt { m with inBytes := b, inTag := x.tok.tag }

/-- May a streaming MT's walk go on? One that stands frozen may still send (R434). -/
def State.walks (s : State) (t : Nat) (m : Mt) : Bool :=
  (s.acts t || (m.stop.isSome && !m.gated && !m.seqWrites)) && m.mode = .streaming && m.started && !m.done && !m.implicitReq

/-- SEQUENCER_ELEMENT (R131, R132, R134 to R136): the walk handles its next element or one that it has asked for, sends a token, or
takes its next one. -/
def execSequencerElement (t : Nat) (s : State) : Host.Outcome State Fault Refusal :=
  .next <| match Tbl.get? t s.mts with
  | none => s
  | some m => if !s.walks t m then s else if m.seqWrites then s.seqIn m else s.seqOut m

/-- MT_START_TOKEN (R132): the region's start token reaches a streaming MT. -/
def execMtStartToken (t : Nat) (s : State) : Host.Outcome State Fault Refusal :=
  .next <| match Tbl.get? t s.mts with
  | none => s
  | some m => if m.mode = .streaming && !m.started && s.acts t then
      s.putMt { m with started := true, mark := s.now.toNat / 1024 } else s

/-! ### Random and ordered-update modes (R131 to R133) -/

/-- MT_PORT_REQUEST (R131): the token at the head of an input port enters its queue of 16 requests. A control token is
discarded. -/
def execMtPortRequest (t port : Nat) (s : State) : Host.Outcome State Fault Refusal :=
  .next <|
    let key := 4 * t + port
    match Tbl.get? t s.mts, s.headTok key with
    | some m, some x =>
      let q := m.portQ.getD port []
      if !s.acts t || m.mode = .streaming || m.done || x.tok.isMarker || x.tok.isDrain || x.tok.kind = 3
          || s.barred key x || s.isCaddPort t port then s
      else if x.tok.kind = 1 then (s.popAt key 0).2
      else if 16 ≤ q.length then s
      else if m.mode = .random && x.tok.fmt ≠ 7 then s.elemFault t .token port
      else
        let s := (s.popAt key 0).2
        s.putMt { m with portQ := m.portQ.set port (q ++ [⟨x.tok, s.regionCyc m.region⟩]) }
    | _, _ => s

/-- The head of a port's queue leaves it. -/
def Mt.served (m : Mt) (port : Nat) : Mt :=
  { m with portQ := match m.portQ.getD port [] with
      | _ :: x :: l => m.portQ.set port (x :: l)
      | _ => m.portQ.erase port }

/-- Reads the words that an address token names, in lane order; none where the MT waits or stops. A misaligned offset
reads a free value (log 33). -/
def State.randomWords (s : State) (m : Mt) (global : Bool) (k : Token) : List Nat → Option (List Word32 × Mt) × State
  | [] => (some ([], m), s)
  | i :: l =>
    let a := (lane k.payload i).toNat
    let got : Option (Word32 × Mt) × State :=
      if a % 4 ≠ 0 then
        let (x, s) := s.pickWord
        (some (x.setWidth 32, m), s)
      else if global then
        match s.mtRead m .normal [(a, 4)] with
        | (none, s) => (none, s)
        | (some b, s) => (some (BitVec.ofNat 32 (ofBytes b), m), s)
      else
        match s.spadRead m [(a, 4)] with
        | .ok (b, m) => (some (BitVec.ofNat 32 (ofBytes b), m), s)
        | .error x => (none, s.spotStop m x a)
    match got with
    | (none, s) => (none, s)
    | (some (x, m), s) =>
      match s.randomWords m global k l with
      | (none, s) => (none, s)
      | (some (r, m), s) => (some (x :: r, m), s)

/-- Is a port configured as global (R346)? -/
def State.isGlobalPort (s : State) (t p : Nat) : Bool := (s.portAttrs t p false).any fun a => a = .global

/-- Is the answer to a request due: on a timed edge, 4 cycles after it came (R372)? -/
def State.answerDue (s : State) (m : Mt) (port : Nat) (q : MtReq) : Bool :=
  !s.timedPort m.tile true port || q.at_ + 4 ≤ s.regionCyc m.region

/-- The request at the head of a port's queue is read into the stream's reorder buffer of 64 (R131). -/
def State.randomRead (s : State) (m : Mt) (port : Nat) : State :=
  match m.portQ.getD port [] with
  | [] => s
  | q :: _ =>
    if 64 ≤ (m.fly.getD port []).length then s
    else
      match s.randomWords m (s.isGlobalPort m.tile port) q.tok (List.range (q.tok.count + 1)) with
      | (none, s) => s
      | (some (w, m), s) =>
        let pay := ofLanes fun i => (w[i]?).getD 0
        s.putMt { m.served port with fly := m.fly.set port (m.fly.getD port [] ++ [⟨⟨pay, q.tok.side⟩, q.at_⟩]) }

/-- The oldest answer of a stream leaves on the output port of the stream's number, once it is due (R131, R372). -/
def State.randomSend (s : State) (m : Mt) (port : Nat) : State :=
  match m.fly.getD port [] with
  | [] => s
  | r :: l =>
    if !s.answerDue m port r then s
    else
      match s.sendOut (4 * m.tile + port) r.tok with
      | none => s
      | some s => s.putMt { m with fly := if l.isEmpty then m.fly.erase port else m.fly.set port l }

/-- MT_RANDOM_REQUEST (R131, R132): the request at the head of a port's queue is read, or the oldest answer leaves, a free choice where
both can be. -/
def execMtRandomRequest (t port : Nat) (s : State) : Host.Outcome State Fault Refusal :=
  .next <| match Tbl.get? t s.mts with
  | none => s
  | some m =>
    if !s.acts t || m.mode ≠ .random then s
    else if s.randomSend m port = s then s.randomRead m port
    else if s.randomRead m port = s then s.randomSend m port
    else
      let (k, s) := s.pick 2
      if k = 0 then s.randomSend m port else s.randomRead m port

/-- The new value of a word under an update operation (R132): add, max, min or or. An integer sum beyond 32 bits is a
free value (log 33). -/
def State.updated (s : State) (m : Mt) (old x : Word32) : Word32 × State :=
  let a := old.toNat
  let b := x.toNat
  if m.updOp = 3 then (old ||| x, s)
  else if m.fp32 then
    (BitVec.ofNat 32 (if m.updOp = 0 then Ty.fpAdd .f32 rne 0 a b else if m.updOp = 1 then Ty.fpMax .f32 a b
      else Ty.fpMin .f32 a b), s)
  else if m.updOp = 0 then
    if a + b < 2 ^ 32 then (BitVec.ofNat 32 (a + b), s)
    else
      let (y, s) := s.pickWord
      (y.setWidth 32, s)
  else (BitVec.ofNat 32 (if m.updOp = 1 then Nat.max a b else Nat.min a b), s)

/-- Applies updates in order; none where the MT waits or stops. -/
def State.applyUpdates (s : State) (m : Mt) : List (Nat × Word32) → Option Mt × State
  | [] => (some m, s)
  | (ix, x) :: l =>
    match s.spadRead m [(4 * ix, 4)] with
    | .error y => (none, s.spotStop m y (4 * ix))
    | .ok (b, m) =>
      let (v, s) := s.updated m (BitVec.ofNat 32 (ofBytes b)) x
      match s.spadWrite m [(4 * ix, 4)] (toBytes v.toNat 4) with
      | .error y => (none, s.spotStop m y (4 * ix))
      | .ok (s, m) => s.applyUpdates m l

/-- Applies an update token: nothing of it stays where it cannot be applied whole. -/
def State.applyToken (s : State) (m : Mt) (k : Token) (done : Mt → Mt) : State :=
  match s.applyUpdates m (Config.updates k.payload k.count) with
  | (some m, s) => s.putMt (done m)
  | (none, s') =>
    match Tbl.get? m.tile s'.mts with
    | some x => { s with mts := s.mts.set m.tile { m with stop := x.stop }, free := s'.free }
    | none => s

/-- A request leaves a port's queue from its k-th place. -/
def Mt.servedAt (m : Mt) (port k : Nat) : Mt :=
  let l := (m.portQ.getD port []).eraseIdx k
  { m with portQ := if l.isEmpty then m.portQ.erase port else m.portQ.set port l }

/-- MT_ORDERED_UPDATE (R132, R133): the update whose turn it is is applied; an early one enters the reorder buffer, which
keeps one entry for the next; one that is past or too far ahead is a sequence fault. Where the other 63 entries are taken, an early
arrival waits, and the awaited update passes it. -/
def execMtOrderedUpdate (t port : Nat) (s : State) : Host.Outcome State Fault Refusal :=
  .next <| match Tbl.get? t s.mts with
  | none => s
  | some m =>
    if !s.acts t || m.mode ≠ .ordered then s
    else
      let e := m.expected.getD port 0
      let early := m.waiting.getD port []
      let ahead (n : Nat) : Nat := (n + 65536 - e) % 65536
      let next (m : Mt) : Mt := { m with expected := m.expected.set port ((e + 1) % 65536) }
      match listFind (fun (p : Nat × Token) => p.1 = e) early 0 with
      | some (i, p) => s.applyToken m p.2 fun m => next { m with waiting := m.waiting.set port (early.eraseIdx i) }
      | none =>
        if early.any fun p => 63 < ahead p.1 then s.elemFault t .mtSequence port
        else
          match m.portQ.getD port [] with
          | [] => s
          | q :: _ =>
            let n := ahead q.tok.tag.toNat
            if m.arrival then s.applyToken m q.tok fun m => m.served port
            else if n = 0 then s.applyToken m q.tok fun m => next (m.served port)
            else if 63 < n then s.elemFault t .mtSequence port
            else if 63 ≤ early.length then
              (match listFind (fun (r : MtReq) => r.tok.tag.toNat = e) (m.portQ.getD port []) 0 with
               | some (k, r) => s.applyToken m r.tok fun m => next (m.servedAt port k)
               | none => s)
            else s.putMt { m.served port with waiting := m.waiting.set port (early ++ [(q.tok.tag.toNat, q.tok)]) }

/-! ### Ports that add to counters (R346) -/

/-- The counter, amount and scope of a counter-add port. -/
def State.caddOf (s : State) (t p : Nat) : Option (Word × Word) :=
  (s.portAttrs t p false).findSome? fun a => match a with
    | .cadd addr amount _ => some (addr, amount)
    | _ => none

/-- Assist bits of a tile's element, and the requester that it is. -/
def State.tileAssist (s : State) (t : Nat) : Word × Requester :=
  match s.node? t, Tbl.get? t s.mts with
  | some n, _ => (n.assist, .node t)
  | none, some m => (m.assist, .mt t)
  | none, none => (0, .nobody)

/-- Is the element of a tile in a shadow? -/
def State.shadowAt (s : State) (t : Nat) : Bool :=
  s.repModeOf (s.regionOf t) ≠ 1 && !s.leads (s.regionOf t)

/-- The counter add of a port that is made next: one whose cut is confirmed, or, in a region that keeps no cuts, that of the data
token at the port's head. -/
def State.portAddNext (s : State) (t port : Nat) : Option (Word × Word) :=
  match (s.port (4 * t + port)).due with
  | x :: _ => some x
  | [] =>
    if s.keeps t then none
    else
      match s.caddOf t port, s.headTok (4 * t + port) with
      | some (va, amount), some x =>
        if x.tok.isMarker || x.tok.isDrain || x.tok.kind = 3 || x.tok.kind = 1 || s.barred (4 * t + port) x then none
        else some (va, if amount = 0 then (lane x.tok.payload 0).setWidth 64 else amount)
      | _, _ => none

/-- The add of a port is made, or dropped: its token is popped, or it leaves the list of those whose cut is confirmed. -/
def State.portAddGone (s : State) (t port : Nat) : State :=
  let key := 4 * t + port
  match (s.port key).due with
  | _ :: l => s.modPort key fun p => { p with due := l }
  | [] => (s.popAt key 0).2

/-- Makes the next counter add of a port (R346); a shadow's adds nothing (R381). -/
def State.portAdd (s : State) (t port : Nat) : State :=
  match s.portAddNext t port with
  | none => s
  | some (va, n) =>
    if s.shadowAt t then s.portAddGone t port
    else if va.toNat % 8 ≠ 0 then s.elemFault t .align port
    else
      let (assist, req) := s.tileAssist t
      let ctx := s.ctxOfTile t
      match s.xlate (dieOf t) (some t) ctx va .write 0 assist req with
      | (.error .addr, s) => s.elemFault t .address port
      | (.error .poison, s) => s.elemStop t (s.elemRecord t .uncorrectable 2 va 0 port)
      | (.error .fault, s) => s.freezeWalk req
      | (.ok e, s) =>
        match s.counterAt (dieOf t) ⟨ctx, 0⟩ (e.phys va.toNat) n with
        | (.error .access, s) => s.elemStop t (s.elemRecord t .accessLate 1 (BitVec.ofNat 64 (e.phys va.toNat)) 0 port)
        | (.error .poison, s) => s.elemStop t (s.elemRecord t .uncorrectable 2 (BitVec.ofNat 64 (e.phys va.toNat)) 0 port)
        | (.ok _, s) => s.portAddGone t port

/-- The physical address of the next counter add of a port, where its translation is at hand. -/
def State.portAddAt (s : State) (t port : Nat) : Option Nat :=
  (s.portAddNext t port).bind fun x => s.physAt (dieOf t) (s.ctxOfTile t) x.1

/-- COUNTER_ADD_PORT_TOKEN (R346): the token at the head of a counter-add port is popped, and a data token adds; in a region that
keeps cuts the add waits for a cut that covers the token (R381, R387), which is asked for as the token is popped. -/
def execCounterAddPortToken (t port : Nat) (s : State) : Host.Outcome State Fault Refusal :=
  .next <|
    let key := 4 * t + port
    if !s.acts t then s
    else if (s.portAddNext t port).isSome then s.portAdd t port
    else
      match s.caddOf t port, s.headTok key with
      | some (va, amount), some x =>
        if x.tok.isMarker || x.tok.isDrain || x.tok.kind = 3 || s.barred key x then s
        else if x.tok.kind = 1 then (s.popAt key 0).2
        else
          let n := if amount = 0 then (lane x.tok.payload 0).setWidth 64 else amount
          ((s.popAt key 0).2.modPort key fun p => { p with adds := p.adds ++ [(va, n)] }).askCut (s.regionOf t) t
      | _, _ => s

/-! ### PX8 (R236, R256 to R258) -/

/-- Bit i of a stream of carriers, from the first one's bit 0. -/
def px8Bit (l : List Vec) (i : Nat) : Option Bool := (l[i / 1024]?).map fun v => v.getLsbD (i % 1024)

/-- How decoding ends early: the stream has no more bits yet, or the frame is malformed. -/
inductive Px8End where
  | more
  | bad
  deriving DecidableEq, Repr

/-- The n bits from a position on, the first the most significant. -/
def px8Field (l : List Vec) (i : Nat) : Nat → Except Px8End Nat
  | 0 => .ok 0
  | n + 1 =>
    match px8Bit l (i + n) with
    | none => .error .more
    | some b => do
      let x ← px8Field l i n
      return 2 * x + b2n b

/-- Length of a run of one bits from a position on; fuel is the longest that is not malformed. -/
def px8Run (l : List Vec) (i : Nat) : Nat → Except Px8End Nat
  | 0 =>
    match px8Bit l i with
    | none => .error .more
    | some true => .error .bad
    | some false => .ok 0
  | f + 1 =>
    match px8Bit l i with
    | none => .error .more
    | some false => .ok 0
    | some true => do return (← px8Run l (i + 1) f) + 1

/-- One element of a block with base exponent b (R257): its byte, and the position after it. -/
def px8Elem (l : List Vec) (k b i : Nat) : Except Px8End (Nat × Nat) := do
  let sgn ← px8Field l i 1
  let man ← px8Field l (i + 1) 3
  if k = 3 then
    let d ← px8Field l (i + 4) 4
    if b < d then .error .bad
    return (sgn * 128 + (b - d) * 8 + man, i + 8)
  let q ← px8Run l (i + 4) (16 / 2 ^ k + 1)
  let r ← px8Field l (i + 5 + q) k
  let c := q * 2 ^ k + r
  let j := i + 5 + q + k
  if c = 0 then
    if man ≠ 0 then .error .bad
    return (sgn * 128, j)
  if b + 1 < c then .error .bad
  return (sgn * 128 + (b + 1 - c) * 8 + man, j)

/-- Elements of a block. -/
def px8Elems (l : List Vec) (k b : Nat) : Nat → Nat → Except Px8End (List Nat × Nat)
  | 0, i => .ok ([], i)
  | n + 1, i => do
    let (x, j) ← px8Elem l k b i
    let (r, j) ← px8Elems l k b n j
    return (x :: r, j)

/-- Blocks of a frame (R257): their scales and elements. -/
def px8Blocks (l : List Vec) (k : Nat) (ns : Bool) : Nat → Nat → Except Px8End (List Nat × List Nat × Nat)
  | 0, i => .ok ([], [], i)
  | n + 1, i => do
    let sc ← if ns then pure 127 else px8Field l i 8
    let i := if ns then i else i + 8
    let b ← px8Field l i 4
    let (es, j) ← px8Elems l k b 4 (i + 4)
    let (s, e, j) ← px8Blocks l k ns n j
    return (sc :: s, es ++ e, j)

/-- A frame from a position on (R256): scales, elements and the position after its padding. -/
def px8Frame (l : List Vec) (i : Nat) : Except Px8End (List Nat × List Nat × Nat) := do
  let count ← px8Field l i 6
  let k ← px8Field l (i + 6) 2
  let flags ← px8Field l (i + 8) 8
  if 32 ≤ count || 2 ≤ flags then .error .bad
  let (s, e, j) ← px8Blocks l k (flags = 1) (count + 1) (i + 16)
  let pad := (32 - j % 32) % 32
  let z ← px8Field l j pad
  if z ≠ 0 then .error .bad
  return (s, e, j + pad)

/-- A packed token of 8-bit elements. -/
def px8Token (fmt : Nat) (l : List Nat) (tag : BitVec 16) : Token :=
  ⟨BitVec.ofNat 1024 (ofBytes (l.map fun x => BitVec.ofNat 8 x)),
    BitVec.ofNat 32 (fmt * 2 ^ 27 + (l.length - 1) * 2 ^ 19 + tag.toNat)⟩

/-- Is it a carrier of PX8 code (R236)? -/
def Token.isCarrier (k : Token) : Bool := k.kind = 0 && k.fmt = 7

/-- A PX8 fault of a port (R236, R237): its record holds the carrier's position in the stream. -/
def State.px8Fault (s : State) (t port : Nat) : State :=
  let p := s.port (4 * t + port)
  s.elemStop t (s.elemRecord t .px8 0 0 (BitVec.ofNat 32 (p.pos - p.carriers.length)) port)

/-- Decodes the next frame of a port, where its buffer has two entries free; or takes the bits of a frame that is not complete, with
which the carriers' credits return. The carriers up to the first other token are decoded. -/
def State.px8Decode (s : State) (t port : Nat) : State :=
  let key := 4 * t + port
  let p := s.port key
  let data := p.carriers.takeWhile fun k => k.tok.isCarrier
  let l := p.taken ++ data
  let back (s : State) (gone : List PortTok) : State := gone.foldl (fun s k => s.creditBack k.edge) s
  match l with
  | [] => s
  | x :: _ =>
    match px8Frame (l.map fun k => k.tok.payload) p.bit with
    | .error .bad => s.px8Fault t port
    | .error .more => back (s.setPort key { p with carriers := p.carriers.drop data.length, taken := l }) data
    | .ok (sc, es, j) =>
      let room := match Tbl.get? x.edge s.edges with
        | some y => s.buffered x.edge y + 2 ≤ y.depth
        | none => true
      if !room then s
      else
        let tag := x.tok.tag
        let out := [px8Token 6 sc tag, px8Token 3 es tag].map fun k => (⟨x.edge, k⟩ : PortTok)
        let n := j / 1024 - p.taken.length
        back (s.setPort key { p with
          toks := p.toks ++ out, carriers := p.carriers.drop n, taken := [], bit := j % 1024 }) (data.take n)

/-- PX8_FRAME_DECODE (R236): what stands at the decoder's head: a marker or steer token passes into the buffer, and a drain token where
no frame is left incomplete; else the next carriers are decoded, but for those behind a marker that the port has still to take. -/
def execPx8FrameDecode (t port : Nat) (s : State) : Host.Outcome State Fault Refusal :=
  .next <|
    let key := 4 * t + port
    let p := s.port key
    match p.carriers with
    | [] => s
    | x :: l =>
      if !s.acts t then s
      else if x.tok.isMarker || x.tok.kind = 3 || (x.tok.isDrain && p.taken.isEmpty) then
        (s.setPort key { p with toks := p.toks ++ [x], carriers := l }).creditBack x.edge
      else if !x.tok.isCarrier then s.px8Fault t port
      else if p.toks.any fun k => k.tok.isMarker then s
      else s.px8Decode t port

end Sys2Proof.Machine
end

