-- ==== Sys2Proof/Machine/Assize.lean ====
section
/-! DEFINITION. Redundant execution (R379 to R381): the comparison of a release point's reports, rollback on a difference,
the vote, resynchronisation, and values that the leader forwards. -/

namespace Sys2Proof.Machine

/-! ### The members of a comparison -/

/-- Does an element stand after a vote trap? -/
def State.votedOut (s : State) (t : Nat) : Bool :=
  match s.node? t with
  | some n => n.stop = some .vote
  | none => (Tbl.get? t s.mts).any fun m => m.stop = some .vote

/-- The elements whose reports are compared with an element's. -/
def State.jury (s : State) (t : Nat) : List Nat := (t :: s.twinsOf t).filter fun x => !s.votedOut x

/-- The save areas whose pre-empted region holds a replica of an element: its report is missing. -/
def State.awayOf (s : State) (t : Nat) : List Nat :=
  match s.reg (s.regionOf t) with
  | none => []
  | some r => (s.saves.filter fun a =>
      let x := a.2.region
      a.2.out && x.launch = r.launch && x.rank = r.rank && x.isTask = r.isTask && x.replica ≠ r.replica
        && (match s.node? t with
          | some n => a.2.saved.nodes.any fun p => n.isTwin p.2 && p.2.stop ≠ some .vote
          | none => a.2.saved.mts.all fun p => p.2.stop ≠ some .vote)).map (·.1)

/-- How many replicas of a node's task still wait for a CT: their reports are missing. -/
def State.queuedOf (s : State) (t : Nat) : Nat :=
  match s.node? t with
  | some n => s.dies.toList.foldl (fun a d => a + (d.tasks.filter fun q => n.isQueuedTwin q && q.voted.isNone).length) 0
  | none => 0

/-- The report of an element, where it has come. -/
def reportBy (l : List Report) (t : Nat) : Option Report := l.find? fun r => r.tile = t

/-- Do two reports agree? One that is missing agrees with none. -/
def agree (a b : Option Report) : Bool := match a, b with
  | some a, some b => a.sig = b.sig && a.cnt = b.cnt && a.seqNo = b.seqNo
  | _, _ => false

/-- The members whose reports agree with one member's. -/
def alike (l : List Report) (m : List Nat) (t : Nat) : List Nat := m.filter fun x => agree (reportBy l t) (reportBy l x)

/-! ### Equal (R379) -/

/-- An element's release point has passed the assize unit: its cut, if it forced one, is confirmed, and its release
goes on (R389). -/
def State.acquit (s : State) (t : Nat) : State :=
  let s := s.modNode t fun n => { n with verdict := true }
  let s := { s with mts := s.mts.modify t fun m => { m with verdict := true } }
  let h := s.regionOf t
  match s.reg h with
  | none => s
  | some r =>
    if r.pendingAt = some t && r.saving.isSome then s.confirmCut h
    else if r.confirmed.any fun v => s.savedHere v t then s.pass t
    else s

/-! ### Different (R379, R380, R399) -/

/-- Acts that are left of a commit. -/
def Phase.left (p : Phase) : Nat := match p with
  | .commit q => q.length
  | _ => 0

/-- Does a forwarded value lie before a saved state: was it observed by a block, by a commit's act, or by a merge
element that the state has behind it? -/
def Saved.covers (v : Saved) (t : Nat) (k : FwdKey) : Bool :=
  if 64 ≤ k.slot && k.slot < 68 then k.block < ((v.ports.getD (4 * t + (k.slot - 64)) InPort.empty).pos)
  else
    match Tbl.get? t v.nodes with
    | some o => k.block < o.blocks || (k.block = o.blocks && k.slot = 100 && o.phase.left < k.part)
    | none => true

/-- A region that rolls back with its twins forgets the values that its leader will observe again. -/
def State.forgetForwarded (s : State) (h : Nat) : State :=
  match (s.reg h).bind (·.confirmed) with
  | none => s
  | some v =>
    let keep (t : Nat) (l : List (FwdKey × Vec)) := l.filter fun p => v.covers t p.1
    { s with
      nodes := s.nodes.mapAll fun t n => if n.region = h then { n with fwd := keep t n.fwd } else n
      mts := s.mts.mapAll fun t m => if m.region = h then { m with fwd := keep t m.fwd } else m
      agenda := s.agenda.filter fun i => match i with
        | .forwardedValueArrive t k _ => s.regionOf t ≠ h || v.covers t k
        | _ => true }

/-- The mismatch trap of a node is counted (R376). -/
def Node.mismatched (n : Node) : Node := { n with red := { n.red with mis := n.red.mis + 1 } }

/-- A difference that rollback cannot resolve: cause 0x22, and the launch is aborted. -/
def State.fatalMismatch (s : State) (t : Nat) : State :=
  (s.report (dieOf t) (s.elemRecord t .mismatch 3 0 0 0)).abortRegion (s.regionOf t)

/-- The reports of a release point differ: the first time every replica rolls back, the next time the mismatch is fatal. -/
def State.differ (s : State) (g : Nat) (seqNo : Word) (m : List Nat) : State :=
  let hs := (m.map fun t => s.regionOf t).eraseDups
  let again := hs.any fun h => (s.reg h).any fun r => r.retried.contains (g, seqNo)
  if again || !(hs.all fun h => s.mayRollBack h) then
    match m with
    | [] => s
    | t :: _ => s.fatalMismatch t
  else
    let s := m.foldl (fun s t => s.modNode t Node.mismatched) s
    let mark (r : Region) : Region := { r with retried := r.retried ++ [(g, seqNo)] }
    let away := s.awayOf (m.headD 0)
    let s := hs.foldl (fun s h => ((s.forgetForwarded h).beginRollback h).modRegion h mark) s
    let s := { s with saves := s.saves.mapAll fun k a =>
      if away.contains k then { a with region := { mark a.region with rolling := true } } else a }
    match m with
    | [] => s
    | t :: _ => s.event (dieOf t) 0x0B (s.ctxOfTile t) (t % 4096) 0 0

/-! ### The minority of three (R379, R399) -/

/-- Makes a region's replica the leader, or a shadow. -/
def State.setLead (s : State) (h : Nat) (on : Bool) : State :=
  { s with nodes := s.nodes.mapAll fun _ n => if n.region = h then { n with red := { n.red with lead := on } } else n }

/-- The reports for a region's elements move to the leader's die. -/
def State.moveReports (s : State) (hs : List Nat) (d : Nat) : State :=
  let mine (l : List Report) : Bool := l.any fun r => hs.contains (s.regionOf r.tile)
  let all := (List.range 4).flatMap fun k => if k = d then [] else (s.die k).reports.filter fun p => mine p.2
  let s := { s with dies := s.dies.map fun x => { x with reports := x.reports.filter fun p => !mine p.2 } }
  all.foldl (fun s p => s.modDie d fun x => { x with reports := x.reports.set p.1 (x.reports.getD p.1 [] ++ p.2) }) s

/-- The minority takes the vote trap: its region stands still until it is resynchronised. -/
def State.voteOut (s : State) (t leader : Nat) : State :=
  let h := s.regionOf t
  let s := s.modNode t fun n => { n with red := { n.red with vote := n.red.vote + 1 } }
  let s := match s.node? t with
    | some n => s.event (dieOf t) 0x11 n.ctx (t % 4096) (n.rep.setWidth 64 + n.repMode.setWidth 64 * 4) n.red.seqNo
    | none => s.event (dieOf t) 0x11 (s.ctxOfTile t) (t % 4096) 0 0
  let cut := ((s.reg (s.regionOf leader)).map (·.cutNum)).getD 0
  let s := (s.beginRollback h).modRegion h fun r => { r with rolling := false, saving := none, pendingAt := none, voteCut := some cut }
  { s with
    nodes := s.nodes.mapAll fun _ n => if n.region = h then { n with stop := some .vote } else n
    mts := s.mts.mapAll fun _ m => if m.region = h then { m with stop := some .vote } else m }

/-- A pre-empted minority takes the vote trap where it is saved. -/
def State.voteAway (s : State) (k leader : Nat) : State :=
  let cut := ((s.reg (s.regionOf leader)).map (·.cutNum)).getD 0
  { s with saves := s.saves.modify k fun a => { a with
      region := { a.region with saving := none, pendingAt := none, voteCut := some cut }
      saved := { a.saved with
        nodes := a.saved.nodes.mapAll fun _ n => { n with stop := some .vote, red := { n.red with lead := false } }
        mts := a.saved.mts.mapAll fun _ m => { m with stop := some .vote } } } }

/-- A minority that waits for a CT takes the vote trap as it starts (R379; DEDUCED, log 38). -/
def State.voteQueued (s : State) (leader : Nat) : State :=
  match s.node? leader with
  | none => s
  | some n =>
    let cut := ((s.reg n.region).map (·.cutNum)).getD 0
    s.modQueued n fun q => if q.voted.isSome then q else { q with voted := some cut }

/-- Two of three agree: the majority passes, under its lowest replica if the leader is in the minority. -/
def State.vote (s : State) (maj out away : List Nat) : State :=
  let hs := maj.map fun t => s.regionOf t
  let ho := out.map fun t => s.regionOf t
  let rank (h : Nat) : Nat := ((s.reg h).map (·.replica)).getD 0
  let lead := hs.foldl (fun a h => if rank h < rank a then h else a) (hs.headD 0)
  let s := if hs.any fun h => s.leads h then s else (ho.foldl (fun s h => s.setLead h false) s).setLead lead true
  let t := (maj.find? fun t => s.leads (s.regionOf t)).getD (maj.headD 0)
  let s := out.foldl (fun s u => s.voteOut u t) s
  let s := ((away.foldl (fun s k => s.voteAway k t) s).voteQueued t).moveReports (ho ++ hs) (dieOf t)
  maj.foldl (fun s t => s.acquit t) s

/-! ### The assize unit -/

/-- Compares the reports of a release point. -/
def State.judge (s : State) (d g : Nat) : State :=
  let l := (s.die d).reports.getD g []
  match l with
  | [] => s
  | r :: _ =>
    let m := s.jury r.tile
    let s := s.modDie d fun x => { x with reports := x.reports.erase g }
    let away := s.awayOf r.tile
    let best := m.find? fun t => m.length + away.length + s.queuedOf r.tile < 2 * (alike l m t).length
    match best with
    | none => s.differ g r.seqNo m
    | some t =>
      let maj := alike l m t
      let out := m.filter fun x => !maj.contains x
      if out.isEmpty && away.isEmpty && s.queuedOf r.tile = 0 then maj.foldl (fun s t => s.acquit t) s else s.vote maj out away

/-- Have the reports of every replica come? -/
def State.allReported (s : State) (l : List Report) : Bool := match l with
  | [] => false
  | r :: _ => (s.awayOf r.tile).isEmpty && s.queuedOf r.tile = 0 && (s.jury r.tile).all fun t => (reportBy l t).isSome

/-- Is 1 ms past the first report of a release point? -/
def State.reportLate (s : State) (l : List Report) : Bool := match l with
  | [] => false
  | r :: _ => r.tick.toNat + 1000000 ≤ s.now.toNat

/-- ASSIZE_COMPARE. -/
def execAssizeCompare (d g : Nat) (s : State) : Host.Outcome State Fault Refusal :=
  .next (if s.allReported ((s.die d).reports.getD g []) then s.judge d g else s)

/-- ASSIZE_REPORT_TIMEOUT: a report that is missing 1 ms after the first counts as differing. -/
def execAssizeReportTimeout (d g : Nat) (s : State) : Host.Outcome State Fault Refusal :=
  .next (if s.reportLate ((s.die d).reports.getD g []) then s.judge d g else s)

/-! ### Resynchronisation (R379) -/

/-- The region that leads the replicas of a region. -/
def State.leaderOf (s : State) (h : Nat) : Option Nat :=
  match s.reg h with
  | none => none
  | some r => (s.regions.find? fun p => p.2.launch = r.launch && p.2.rank = r.rank && p.2.isTask = r.isTask
      && p.1 ≠ h && s.leads p.1 && (!r.isTask || (match r.elems, p.2.elems with
        | t :: _, u :: _ => s.groupOf t = s.groupOf u
        | _, _ => false))).map (·.1)

/-- Copies a scratchpad. -/
def State.copySpad (s : State) (src dst : Nat) : State :=
  let a := spadAddr src 0
  let b := spadAddr dst 0
  let put := s.mem.filter fun c => a ≤ c.1 && c.1 < a + 0xB0000
  let rest := s.mem.filter fun c => !(b ≤ c.1 && c.1 < b + 0xB0000)
  { s with mem := put.foldl (fun m c => Memory.put (c.1 - a + b) c.2 m) rest }

/-- Undoes on one scratchpad what another MT has journaled from a cut on. -/
def State.undoFrom (s : State) (src dst num : Nat) : State :=
  match Tbl.get? src s.mts with
  | none => s
  | some m =>
    ((m.journal.filter fun j => num ≤ j.interval).reverse).foldl (fun s j => s.poke (spadAddr dst (4 * j.index)) 4 j.old.toNat) s

/-- Copies a leader's last confirmed cut into the minority, which goes on from there as a shadow. -/
def State.resync (s : State) (h lead : Nat) : State :=
  match s.reg h, s.reg lead with
  | some r, some l =>
    match l.confirmed with
    | none => s
    | some v =>
      let f (t : Nat) : Nat := match listFind (fun x => x = t) l.elems 0 with
        | some (i, _) => (r.elems[i]?).getD t
        | none => t
      let w := v.move f h
      let w : Saved := { w with nodes := w.nodes.mapAll fun _ n =>
        { n with rep := BitVec.ofNat 2 r.replica, red := { n.red with lead := false } } }
      let s := { s with mts := s.mts.mapAll fun _ m => if m.region = h then { m with journal := [], lost := none } else m }
      let s := (s.modRegion h fun r => { r with confirmed := some w, cutNum := v.num, voteCut := none }).rollBack h
      v.mts.foldl (fun s p =>
        let s := (s.copySpad p.1 (f p.1)).undoFrom p.1 (f p.1) v.num
        s.reskew (f p.1) (((Tbl.get? p.1 s.mts).map (·.desc)).getD p.2.desc) p.2.desc) s
  | _, _ => s

/-- May the minority at a tile be resynchronised: has its leader completed a cut since the vote? -/
def State.resyncDue (s : State) (t : Nat) : Bool :=
  let h := s.regionOf t
  s.votedOut t && s.settled h &&
    (match (s.reg h).bind (·.voteCut), (s.leaderOf h).bind (fun l => s.reg l) with
     | some k, some l => l.confirmed.any fun v => k < v.num
     | _, _ => false)

/-- REPLICA_RESYNC. -/
def execReplicaResync (t : Nat) (s : State) : Host.Outcome State Fault Refusal :=
  .next (
    let h := s.regionOf t
    if !s.resyncDue t then s
    else
      match s.leaderOf h with
      | some l => s.resync h l
      | none => s)

/-! ### Forwarded values (R380) -/

/-- Keeps a forwarded value; one of the same name gives way. -/
def keepForwarded (l : List (FwdKey × Vec)) (k : FwdKey) (x : Vec) : List (FwdKey × Vec) := (l.filter fun p => p.1 ≠ k) ++ [(k, x)]

/-- FORWARDED_VALUE_ARRIVE: a value that the leader observed reaches a shadow. -/
def execForwardedValueArrive (t : Nat) (k : FwdKey) (x : Vec) (s : State) : Host.Outcome State Fault Refusal :=
  let s := s.modNode t fun n => { n with fwd := keepForwarded n.fwd k x }
  .next { s with mts := s.mts.modify t fun m => { m with fwd := keepForwarded m.fwd k x } }

end Sys2Proof.Machine
end

