-- ==== Sys2Proof/Machine/Draws.lean ====
section
/-! DEFINITION. Stochastic rounding: which draw a slot's lane takes (R245, R246, R271). -/

namespace Sys2Proof.Machine

/-- Draw numbers that the slots below a slot reserve, in slot order (R246). -/
def Blk.drawsBelow (b : Blk) (k : Nat) : Nat :=
  (b.instrs.filter fun p => p.1 < k).foldl (fun a p => a + p.2.draws) 0

/-- Draw numbers that the block reserves (R246). -/
def Blk.drawsAll (b : Blk) : Nat := b.drawsBelow 32

/-- The random value of a lane of a slot (R245, R246). -/
def Node.draw (n : Node) (slot lane : Nat) : Word32 :=
  Sys2Proof.draw n.seed n.stream (n.srCount + BitVec.ofNat 64 (n.blk.drawsBelow slot + lane))

end Sys2Proof.Machine
end

