-- ==== Sys2Proof/Machine/Freeze.lean ====
section
/-! DEFINITION. How a region comes to rest after a fault and goes on (R384 to R386, R391 to R393, R452): the region clock's
gate, silence and the spill queue, the deadlock trap, `flt.ctl`, `spill.grant`, `tfq.resume` (R95, R96). -/

namespace Sys2Proof.Machine

/-! ### Gating (R385) -/

/-- The fault for which an element stands still. -/
def State.faultOf (s : State) (t : Nat) : Option FaultRec :=
  match s.node? t with
  | some n => (match n.stop with
    | some (.fault r) => some r
    | _ => n.mat.faulted)
  | none =>
    match Tbl.get? t s.mts with
    | some m => (match m.stop with
      | some (.fault r) => some r
      | _ => none)
    | none => none

/-- The first fault for which an element of a region stands still. -/
def State.faultIn (s : State) (h : Nat) : Option FaultRec :=
  match s.reg h with
  | none => none
  | some r => r.elems.findSome? fun t => s.faultOf t

/-- Gates the clock of a region, or lets it run. -/
def State.setGate (s : State) (h : Nat) (on : Bool) : State :=
  let s := s.modRegion h fun r => { r with gated := on, still := 0, quiet := 0 }
  { s with
    nodes := s.nodes.mapAll fun _ n => if n.region = h then { n with gated := on } else n
    mts := s.mts.mapAll fun _ m => if m.region = h then { m with gated := on } else m }

/-- The assist bits of a region's launch (R368). -/
def State.assistOf (s : State) (h : Nat) : Word :=
  match (s.reg h).bind fun r => Tbl.get? r.launch s.launches with
  | some l => l.assist
  | none => 0

/-- Writes a region's record, and the region stands frozen. -/
def State.freezeRegion (s : State) (h : Nat) (x : FaultRec) : State :=
  ((s.setGate h true).report (dieOf x.tile) x).modRegion h fun r => { r with frozen := some ⟨x, true⟩ }

/-- A rollback after an uncorrectable error of an element at an address. -/
def State.rollFor (s : State) (h : Nat) (a : Nat × Word) : State :=
  (s.beginRollback h).modRegion h fun r => { r with errorAgain := r.errorAgain ++ [a], frozen := none }

/-- An uncorrectable error of a region (R391): a rollback by the device, or by the host's order; without a cut to return
to, or met again at the same element and address after a rollback to the same cut, it is unrecoverable. -/
def State.uncorrectableIn (s : State) (h : Nat) (x : FaultRec) : State :=
  let again := (s.reg h).any fun r => r.errorAgain.contains (x.tile, x.addr)
  if again || !s.mayRollBack h then (s.report (dieOf x.tile) { x with prec := 3 }).abortRegion h
  else if (s.assistOf h).getLsbD 5 then s.freezeRegion h x
  else (s.report (dieOf x.tile) x).rollFor h (x.tile, x.addr)

/-- REGION_CLOCK_GATE (R385, R389): a region in which an element has faulted and no token has moved for 64 cycles is gated and
its record written; one that rolls back goes on once its requests are answered. -/
def execRegionClockGate (h : Nat) (s : State) : Host.Outcome State Fault Refusal :=
  .next <| match s.reg h with
  | none => s
  | some r =>
    if r.rolling then (if s.settled h then s.rollBack h else s)
    else if r.gated || r.still < 64 then s
    else
      match s.faultIn h with
      | none => s
      | some x => if x.cause = .uncorrectable then (s.setGate h true).uncorrectableIn h x else s.freezeRegion h x

/-! ### Silence (R392, R393, R433) -/

/-- Ordered atomics of a tile that wait in a buffer for a predecessor (R116, R117). -/
def State.gapped (s : State) (t : Nat) : Nat :=
  (s.dies.toList.flatMap fun d => d.aoBuf.filter fun q => !q.remote && q.req.tile = t).length

/-- The region whose request a requester sends. -/
def State.regionAsking (s : State) (r : Requester) : Option Nat := match r with
  | .node t | .mt t | .matrix t => if s.hasElem t then some (s.regionOf t) else none
  | .engine d e q => (s.engQ d e q).work.map (·.region)
  | _ => none

/-- Is a request of a region frozen on a pending fault, or thawed and not sent again yet (R433)? -/
def State.asksFrozen (s : State) (h : Nat) : Bool :=
  s.dies.toList.any fun x => ((x.pend.flatMap (·.waiters)) ++ x.unrec ++ x.thawed).any fun r => s.regionAsking r = some h

/-- Is a request of a region outstanding? One that waits for a translation is, until it is sent again or aborted (R433); an ordered
atomic that waits for its predecessor is not (R117; log 62). -/
def State.busy (s : State) (h : Nat) : Bool :=
  s.asksFrozen h ||
  (s.nodes.any fun p => p.2.region = h && s.gapped p.1 < p.2.outst) || (s.mts.any fun p => p.2.region = h && p.2.outst ≠ 0)
    || s.valueDue h || (s.mts.any fun p => p.2.region = h && p.2.stop = some .walk)
    || s.nodes.any fun p => p.2.region = h && (p.2.stop = some .walk || !p.2.mat.loads.isEmpty
      || (p.2.mat.mma.toList ++ p.2.mat.tail).any fun w => !w.lines.isEmpty)

/-- The full edges of a region. -/
def State.fullEdges (s : State) (h : Nat) : List (Nat × Edge) :=
  s.edges.filter fun e => e.2.region = h && e.2.timed.isNone && e.2.credits = 0 && e.2.src < hiddenPort && e.2.dst < hiddenPort

/-- Is a region silent? -/
def State.silent (s : State) (h : Nat) : Bool := match s.reg h with
  | none => false
  | some r => r.live && !r.gated && r.frozen.isNone && !r.spillAsked && 4096 ≤ r.quiet && !s.busy h && s.fullEdges h ≠ []

/-- The order in which a full buffer is chosen: its depth, its element's number, its port. -/
def bufferKey (r : Region) (x : Edge) : Nat :=
  let no := match listFind (fun t => t = x.dst / 4) r.elems 0 with
    | some (i, _) => i
    | none => r.elems.length
  (x.depth * 2 ^ 32 + no) * 4 + x.dst % 4

/-- The first of a list of edges in that order. -/
def firstBuffer (r : Region) : List (Nat × Edge) → Option (Nat × Edge)
  | [] => none
  | e :: l => match firstBuffer r l with
    | none => some e
    | some f => if bufferKey r f.2 < bufferKey r e.2 then some f else some e

/-- A region gets the spill queue at an address of HBM behind its smallest full buffer. -/
def State.giveSpill (s : State) (h : Nat) (pool : Bool) (a : Nat) : State :=
  match s.reg h with
  | none => s
  | some r =>
    let s := match firstBuffer r (s.fullEdges h) with
      | some e => (s.modEdge e.1 fun x => { x with spilling := true, credits := x.credits + 4096 }).modRegion h fun r =>
          { r with spillEdge := some e.1 }
      | none => s.modRegion h fun r => { r with spillEdge := some 0 }
    (s.modRegion h fun r => { r with spillAsked := false, spillPool := pool, spillAt := a, quiet := 0 }).event r.die 0x0D r.ctx 0 0 0

/-- A record of a region's controller. -/
def State.ctlRecord (s : State) (h : Nat) (r : Region) (c : Cause) (t : Nat) : FaultRec :=
  ⟨c, 2, false, r.ctx, t, h, 0, 0, r.step, 0, s.now⟩

/-- The tile that a silent region's record names: the receiver at its full buffer. -/
def State.silentTile (s : State) (h : Nat) (r : Region) : Nat :=
  match firstBuffer r (s.fullEdges h) with
  | some e => e.2.dst / 4
  | none => r.elems.headD 0

/-- MiB of the spill pool that are left on a die. -/
def State.poolLeft (s : State) (d : Nat) : Nat := field (s.dieReg d 0x90).toNat 39 20 - (s.die d).spillUsed

/-- The lowest MiB of a die's spill pool that no region's queue holds. -/
def State.poolAt (s : State) (d : Nat) : Nat :=
  let at_ (i : Nat) : Nat := (s.dieReg d 0x88).toNat + i * 2 ^ 20
  let held := (s.regions.filter fun p => p.2.spillPool && p.2.die = d).map fun p => p.2.spillAt
  at_ (((List.range (field (s.dieReg d 0x90).toNat 39 20)).find? fun i => !held.contains (at_ i)).getD 0)

/-- REGION_SILENCE: a silent region without a spill queue gets one from its die's pool, or asks the host for one. -/
def execRegionSilence (h : Nat) (s : State) : Host.Outcome State Fault Refusal :=
  .next <| match s.reg h with
  | none => s
  | some r =>
    if !s.silent h || r.spillEdge.isSome then s
    else if (s.assistOf h).getLsbD 3 then
      let t := s.silentTile h r
      (s.report (dieOf t) (s.ctlRecord h r .spill t)).modRegion h fun r => { r with spillAsked := true }
    else if s.poolLeft r.die = 0 then s
    else (s.giveSpill h true (s.poolAt r.die)).modDie r.die fun d => { d with spillUsed := d.spillUsed + 1 }

/-- Does a node's release wait for ordered atomics whose predecessors have not come (R117; log 62)? -/
def State.heldByGap (s : State) (t : Nat) (n : Node) : Bool := 0 < s.gapped t && (match n.phase with
  | .commit (.relDrain :: _) | .commit (.awaitReply _ :: _) => true
  | _ => false)

/-- The node of a region that waits on a counter, or whose release waits for an ordered atomic's predecessor. -/
def State.counterWaiter (s : State) (h : Nat) : Option Nat :=
  (s.nodes.find? fun p => p.2.region = h && p.2.runs && (p.2.watch.isSome || !p.2.sleeping.isEmpty || s.heldByGap p.1 p.2)).map (·.1)

/-- The tile at which a deadlock trap is due (R393): silence with a spill queue or an exhausted pool, or 2^k cycles without
movement while a node waits on a counter. A k above 40 disables that case as 0 does. -/
def State.deadlockAt (s : State) (h : Nat) : Option Nat :=
  match s.reg h with
  | none => none
  | some r =>
    let k := (s.dieReg r.die 0x80).toNat % 64
    if s.silent h && (r.spillEdge.isSome || (!(s.assistOf h).getLsbD 3 && s.poolLeft r.die = 0)) then some (s.silentTile h r)
    else if !r.live || r.gated || r.spillAsked || k = 0 || 40 < k || r.quiet < 2 ^ k || s.busy h then none
    else s.counterWaiter h

/-- DEADLOCK_TRAP: the region is gated and its record written. -/
def execDeadlockTrap (h : Nat) (s : State) : Host.Outcome State Fault Refusal :=
  .next <| match s.reg h, s.deadlockAt h with
  | some r, some t => s.freezeRegion h (s.ctlRecord h r .deadlock t)
  | _, _ => s

/-! ### `flt.ctl` (R384, R386) -/

/-- May a fault be resumed? A nested trap, and an atomic that timed out, may only be aborted. -/
def FaultRec.resumes (r : FaultRec) : Bool :=
  r.prec ≠ 3 && r.cause ≠ .translationAbort && r.cause ≠ .mismatch && !(r.cause = .linkTimeout && r.detail.getLsbD 31)

/-- An element takes up its work: what it stood for is lifted, and a refused request is issued again. -/
def Node.thaw (n : Node) (r : FaultRec) : Node × List Instr :=
  let n := { n with gated := false, stop := if n.stop = some (Stop.fault r) || n.stop = some Stop.breakpoint then none else n.stop }
  let n := if n.mat.faulted = some r then { n with mat := { n.mat with faulted := none } } else n
  match n.late with
  | some (x, i) => if x = r then ({ n with late := none }, i.toList) else (n, [])
  | none => (n, [])

/-- As a node's, for an MT. -/
def Mt.thaw (m : Mt) (r : FaultRec) : Mt × List Instr :=
  let m := { m with gated := false, stop := if m.stop = some (Stop.fault r) then none else m.stop }
  match m.late with
  | some (x, i) => if x = r then ({ m with late := none }, i.toList) else (m, [])
  | none => (m, [])

/-- A region goes on in place. -/
def State.resume (s : State) (h : Nat) (r : FaultRec) : State :=
  let again := (s.nodes.filter fun p => p.2.region = h).flatMap (fun p => (p.2.thaw r).2)
    ++ (s.mts.filter fun p => p.2.region = h).flatMap fun p => (p.2.thaw r).2
  let s := { s with
    nodes := s.nodes.mapAll fun _ n => if n.region = h then (n.thaw r).1 else n
    mts := s.mts.mapAll fun _ m => if m.region = h then (m.thaw r).1 else m
    agenda := s.agenda ++ again }
  s.modRegion h fun x => { x with gated := false, frozen := none, still := 0, quiet := 0 }

/-- The region that a write of `flt.ctl` names, if it is frozen. -/
def State.frozenAt (s : State) (h : Nat) : Option FaultRec := (s.reg h).bind fun r => r.frozen.map (·.r)

/-- The handle in a write of `flt.ctl`. -/
def ctlHandle (x : Word) : Nat := x.toNat % 65536

/-- Is a write of `flt.ctl` for an engine queue? -/
def ctlEngine (x : Word) : Bool := x.getLsbD 60

/-- The engine queue that a handle names, with the fault that halted it. -/
def State.haltedQ (s : State) (d h : Nat) : Option (Nat × Nat × FaultRec) :=
  if 160 ≤ h then none else (s.engQ d (h / 8) (h % 8)).halted.map fun r => (h / 8, h % 8, r)

/-- FLT_RESUME: a frozen region, a halted engine queue, or the die's network, which handle 0 names (log 19), goes on. -/
def execFltResume (d : Nat) (x : Word) (s : State) : Host.Outcome State Fault Refusal :=
  .next (
    let h := ctlHandle x
    if ctlEngine x then
      match s.haltedQ d h with
      | some (e, q, r) => if r.resumes then s.setEngQ d e q { s.engQ d e q with halted := none } else s
      | none => s
    else if h = 0 then
      if (s.die d).net.halted.any fun r => r.resumes then (s.modNet d fun n => { n with halted := none }).netSettle d else s
    else
      match s.frozenAt h with
      | some r => if r.resumes then s.resume h r else s
      | none => s)

/-- FLT_ROLLBACK: a region frozen by an uncorrectable error or a deadlock returns to its last confirmed cut; where that
is refused, the fault is unrecoverable (R389). -/
def execFltRollback (d : Nat) (x : Word) (s : State) : Host.Outcome State Fault Refusal :=
  .next (
    let h := ctlHandle x
    if ctlEngine x then s
    else
      match s.frozenAt h with
      | none => s
      | some r =>
        if r.cause ≠ .uncorrectable && r.cause ≠ .deadlock then s
        else if !s.mayRollBack h then s.abortRegion h
        else
          (if r.cause = .uncorrectable then s.rollFor h (r.tile, r.addr)
           else (s.beginRollback h).modRegion h fun r => { r with frozen := none }).modRegion h fun r => { r with rollDie := d })

/-- An engine queue's command is discarded without its completion add, and the queue runs on. -/
def State.abortQ (s : State) (d e q : Nat) (r : FaultRec) : State :=
  let s := if r.cause = .engine || r.cause = .translationAbort then s
    else s.engDiscard d e q
  s.setEngQ d e q { s.engQ d e q with halted := none }

/-- FLT_ABORT: a frozen region's launch is aborted, an engine queue's command discarded, or what the die's network works at. -/
def execFltAbort (d : Nat) (x : Word) (s : State) : Host.Outcome State Fault Refusal :=
  .next (
    let h := ctlHandle x
    if ctlEngine x then
      match s.haltedQ d h with
      | some (e, q, r) => s.abortQ d e q r
      | none => s
    else if h = 0 then
      if (s.die d).net.halted.isSome then (s.modNet d Net.discard).netSettle d else s
    else
      match s.frozenAt h with
      | some _ => s.abortRegion h
      | none => s)

/-! ### `spill.grant` (R392, R452) -/

/-- Does a region of a die wait for a spill queue? -/
def State.asksSpill (s : State) (d h : Nat) : Bool := (s.reg h).any fun r => r.spillAsked && r.die = d

/-- SPILL_GRANT: the region holds the queue that the host gives it until its end. -/
def execSpillGrant (d : Nat) (x : Word) (s : State) : Host.Outcome State Fault Refusal :=
  .next (if s.asksSpill d (ctlHandle x) then s.giveSpill (ctlHandle x) false (field x.toNat 53 20 * 2 ^ 20) else s)

/-- SPILL_REFUSE: the deadlock trap follows. -/
def execSpillRefuse (d : Nat) (x : Word) (s : State) : Host.Outcome State Fault Refusal :=
  .next (
    let h := ctlHandle x
    match s.reg h with
    | none => s
    | some r =>
      if !s.asksSpill d h then s
      else (s.modRegion h fun r => { r with spillAsked := false }).freezeRegion h (s.ctlRecord h r .deadlock (s.silentTile h r)))

/-! ### `tfq.resume` (R95, R96) -/

/-- TFQ_RESUME: the pending fault ends, and its requests and every unrecorded one retry. -/
def execTfqResume (d : Nat) (x : Word) (s : State) : Host.Outcome State Fault Refusal :=
  .next (s.tfqRetry d (x.extractLsb' 40 12) (x.toNat % 2 ^ 40))

/-- An element's translation is aborted: its region and gang with it. -/
def State.walkAborted (s : State) (t : Nat) (a : Word) : State :=
  let h := s.regionOf t
  if s.hasElem t then (s.report (dieOf t) (s.elemRecord t .translationAbort 3 a 0 0)).abortRegion h else s

/-- The translation of a page for a queue is aborted. A launch whose completion waits for it completes without its status word and
its add; else it is the head that is read from there, which the controller completes aborted (R96). -/
def State.packetAborted (s : State) (d q page : Nat) : State :=
  let x := s.queueAt d q
  match x.ending with
  | some id => { s.setQueue d q { x with waiting := false, ending := none } with launches := s.launches.erase id }
  | none => s.setQueue d q { x with waiting := false, aborted := some page }

/-- A request that waits for a translation is aborted. -/
def State.requestAborted (s : State) (page : Nat) (r : Requester) : State :=
  let a : Word := BitVec.ofNat 64 (page * 65536)
  match r with
  | .node t | .mt t | .matrix t => s.walkAborted t a
  | .engine d' e q =>
    match (s.engQ d' e q).work with
    | none => s.thawWalk r
    | some c =>
      let s := s.thawWalk r
      let s := s.engDiscard d' e q
      s.engHalt d' e q c .translationAbort 3 a
  | .network d' => (s.thawWalk r).netHalt d' .network (page * 65536)
  | .launch d' q => s.packetAborted d' q page
  | .taskRing d' => s.ringRefused d' (page * 65536)
  | .nobody => s

/-- TFQ_FAIL: the requests that wait on the key are aborted; without such a fault the unrecorded ones retry. -/
def execTfqFail (d : Nat) (x : Word) (s : State) : Host.Outcome State Fault Refusal :=
  let c := x.extractLsb' 40 12
  let page := x.toNat % 2 ^ 40
  .next <| match s.pendingAt d c page with
  | none => s.tfqRetry d c page
  | some p =>
    let s := s.modDie d fun y => { y with pend := y.pend.filter fun q => !(q.ctx = c && q.page = page) }
    p.waiters.foldl (fun s r => s.requestAborted page r) s

end Sys2Proof.Machine
end

