-- ==== Sys2Proof/Machine/Preempt.lean ====
section
/-! DEFINITION. Pre-emption (R394 to R396): saving a region into its save area and restoring it, at another place if asked. -/

namespace Sys2Proof.Machine

/-! ### Saving -/

/-- Writes a tile's dirty L1 words back and drops every line (R395). -/
def State.flushL1 (s : State) (t : Nat) : State :=
  ((s.cache t).l1.map (·.1)).foldl (fun s k => s.l1Evict t k) s

/-- The scratchpad of an MT, by offset. -/
def State.spadCells (s : State) (t : Nat) : List Host.Cell :=
  let b := spadAddr t 0
  (s.mem.filter fun c => b ≤ c.1 && c.1 < b + 0xC0000).map fun c => (c.1 - b, c.2)

/-- Puts a scratchpad in place. -/
def State.putSpad (s : State) (t : Nat) (l : List Host.Cell) : State :=
  let b := spadAddr t 0
  { s with mem := l.foldl (fun m c => Memory.put (b + c.1) c.2 m) (s.mem.filter fun c => !(b ≤ c.1 && c.1 < b + 0xC0000)) }

/-- The bytes of a save area, by offset. -/
def State.areaCells (s : State) (a n : Nat) : List Host.Cell :=
  (s.mem.filter fun c => s.key a ≤ c.1 && c.1 < s.key a + n).map fun c => (c.1 - s.key a, c.2)

/-- Bytes of a region's save area: 2 MiB for each quad. -/
def Region.areaSize (r : Region) : Nat := r.shape.length * 2 ^ 21

/-- A saved node issues again what it waited for: its watches are given up (R212). -/
def Node.packed (n : Node) : Node :=
  let unpin (r : MatRun) : MatRun := { r with pins := [] }
  { n with
    watch := none
    blk := { n.blk with sleep := n.blk.sleep.mapAll fun _ w => { w with held := false } }
    stop := if n.stop = some .walk then none else n.stop
    mat := { n.mat with
      fetchWait := false
      mma := n.mat.mma.map unpin, tail := n.mat.tail.map unpin, loads := n.mat.loads.map unpin } }

/-- A saved MT issues again what it waited for. -/
def Mt.packed (m : Mt) : Mt := { m with stop := if m.stop = some .walk then none else m.stop }

/-- Has everything under way to a region landed? -/
def State.landed (s : State) (h : Nat) : Bool :=
  s.settled h && !s.agenda.any fun i => match i with
    | .registerValueArrive t .. | .forwardedValueArrive t .. => s.hasElem t && s.regionOf t = h
    | _ => false

/-- A gated region leaves for its save area, once its answers have landed. -/
def State.saveOut (s : State) (h d a : Nat) : State :=
  match s.reg h with
  | none => s
  | some r =>
    let s := r.elems.foldl (fun s t => (s.unwatch t).flushL1 t) s
    let v := s.snapshot h 0
    let v := { v with nodes := v.nodes.mapAll fun _ n => n.packed, mts := v.mts.mapAll fun _ m => m.packed }
    let spads : Tbl (List Host.Cell) := v.mts.map fun p => (p.1, s.spadCells p.1)
    let s := (s.pin r false).clearRegion h
    let s := s.scribble a (r.areaSize / 8)
    let save : SaveArea := ⟨h, { r with evicting := none }, v, true, spads, [], s.areaCells a r.areaSize⟩
    let k := s.saves.foldl (fun m p => Nat.max m (p.1 + 1)) 0
    { s with saves := s.saves.set k save }.event d 0x0F r.ctx 0 0 0

/-- The address in `pre.addr`. -/
def State.preAddr (s : State) (d : Nat) : Nat := (s.dieReg d 0xA0).toNat

/-- PRE_SAVE: the region's clock is gated at once, and the region leaves once its answers have landed. -/
def execPreSave (d : Nat) (x : Word) (s : State) : Host.Outcome State Fault Refusal :=
  .next (
    let h := x.toNat % 65536
    match s.reg h with
    | none => s
    | some r =>
      if !r.live || r.evicting.isSome then s
      else (s.setGate h true).modRegion h fun r => { r with evicting := some (d, s.preAddr d) })

/-- Regions whose save can be completed go. -/
def State.evict (s : State) : State :=
  (s.regions.filterMap fun p => p.2.evicting.map fun e => (p.1, e)).foldl (fun s p =>
    if s.landed p.1 then s.saveOut p.1 p.2.1 p.2.2 else s) s

/-! ### Restoring -/

/-- Where a tile of a saved region stands when its origin is at a quad. -/
def Region.moveTile (r : Region) (X Y t : Nat) : Nat :=
  match r.shape.findSome? fun o => ((List.range 4).find? fun k => tileOfQuad (r.originX + o.1) (r.originY + o.2) k = t).map
      fun k => tileOfQuad (X + o.1) (Y + o.2) k with
  | some u => u
  | none => t

/-- A region at another origin under another handle. -/
def Region.moveTo (r : Region) (X Y h : Nat) : Region :=
  let f := r.moveTile X Y
  { r with
    originX := X, originY := Y
    die := (r.shape.head?.map fun o => (X + o.1) / 16 + 2 * ((Y + o.2) / 16)).getD r.die
    elems := r.elems.map f
    saving := r.saving.map fun v => v.move f h
    confirmed := r.confirmed.map fun v => v.move f h
    pendingAt := r.pendingAt.map f
    spillEdge := r.spillEdge.map fun e => if e = 0 then 0 else h * 2 ^ 40 + e % 2 ^ 40
    gated := r.frozen.isSome || r.rolling
    still := 0, quiet := 0 }

/-- Replaces n bits of a word from a place on. -/
def putField (w : Word) (lo n x : Nat) : Word :=
  (w &&& ~~~BitVec.ofNat 64 ((2 ^ n - 1) * 2 ^ lo)) ||| BitVec.ofNat 64 (x % 2 ^ n * 2 ^ lo)

/-- A command of a region that has moved names its tiles where they stand now. -/
def Cmd.moveTo (c : Cmd) (f : Nat → Nat) (old h : Nat) : Cmd :=
  if c.region ≠ old then c
  else
    let at_ (k lo : Nat) (l : List Word) : List Word :=
      let w := (l[k]?).getD 0
      l.set k (putField w lo 12 (f (field w.toNat (lo + 11) lo)))
    { c with
      tile := f c.tile, region := h
      words := if c.op = .cpym then at_ 1 0 c.words else if c.op.isRows then at_ 6 16 (at_ 6 0 c.words) else c.words }

/-- As for a command, in a queue. -/
def EngQueue.moveTo (x : EngQueue) (f : Nat → Nat) (old h : Nat) : EngQueue :=
  { x with
    cmds := x.cmds.map fun c => c.moveTo f old h
    armed := x.armed.map fun a => { a with cmd := a.cmd.moveTo f old h } }

/-- Names of the commands that are still in queues. -/
def State.cmdIds (s : State) : List Nat :=
  s.dies.toList.flatMap fun d => d.engines.flatMap fun p =>
    (p.2.cmds.map fun c => c.id) ++ p.2.armed.toList.map fun a => a.cmd.id

/-- The save whose bytes an area holds, which its check word tells: the area of the save, or one that they have been copied to. Of
several the one that has not been restored, else the newest. -/
def State.saveAt (s : State) (a : Nat) : Option (Nat × SaveArea) :=
  let l := (s.saves.filter fun p => s.areaCells a p.2.region.areaSize = p.2.cells).reverse
  match l.find? fun p => p.2.out with
  | some p => some p
  | none => l.head?

/-- May a saved region come back: is the handle free, and the place free and of the region's shape? -/
def State.mayRestore (s : State) (x : SaveArea) (h X Y : Nat) : Bool :=
  h ≠ 0 && !s.regions.has h
    && s.fits x.region.shape (x.region.fixed || ((Tbl.get? x.region.launch s.launches).any fun l => 1 < l.replicas))
      ((x.region.moveTo X Y h).die) X Y

/-- Puts a saved region in place and ungates its clock. What has come for its elements since the save, and the commands that name
them, go to the first restore of a save (log 21). -/
def State.restoreIn (s : State) (a d : Nat) (x : SaveArea) (h X Y : Nat) : State :=
  let f := x.region.moveTile X Y
  let r := x.region.moveTo X Y h
  let ids := s.cmdIds
  let v := x.saved.move f h
  let v : Saved := { v with
    nodes := v.nodes.mapAll fun _ n => { n with gated := r.gated, cmdsOut := n.cmdsOut.filter fun c => ids.contains c }
    mts := v.mts.mapAll fun _ m => { m with gated := r.gated } }
  let s : State := { s with
    regions := s.regions.set h r
    saves := s.saves.modify a fun x => { x with out := false, mail := [] }
    dies := if x.out then s.dies.map fun y => { y with engines := y.engines.mapAll fun _ q => q.moveTo f x.handle h } else s.dies }
  let s := x.spads.foldl (fun s p => s.putSpad (f p.1) p.2) s
  let s := ((v.nodes.map fun p => p.1).foldl (fun s t => (s.dropRemoteL1 t).dropConst t) s).install h v
  let s := (s.pin r true).event d 0x0F r.ctx 0 0 0
  { s with agenda := s.agenda ++ x.mail.map fun (i : Instr) => match i with
      | .registerValueArrive t q y => Instr.registerValueArrive (f t) q y
      | .forwardedValueArrive t k y => Instr.forwardedValueArrive (f t) k y
      | i => i }

/-- PRE_RESTORE: refused with fail = 1, or the region runs on at its new place. -/
def execPreRestore (d : Nat) (x : Word) (s : State) : Host.Outcome State Fault Refusal :=
  .next (
    let a := s.preAddr d
    let h := x.toNat % 65536
    let X := field x.toNat 25 21
    let Y := field x.toNat 20 16
    match s.saveAt a with
    | none => s.modDie d fun y => { y with preFail := true }
    | some (k, v) =>
      if s.mayRestore v h X Y then (s.modDie d fun y => { y with preFail := false }).restoreIn k d v h X Y
      else s.modDie d fun y => { y with preFail := true })

end Sys2Proof.Machine
end

