-- ==== Sys2Proof/Machine/MmioWrite.lean ====
section
/-! DEFINITION. Writes of MMIO registers and what they do (R6, R73 to R75, R77, R82, R89, R118, R356, R357, R361, R386,
R392, R394, R400, R401, R447, R449 to R455, R459, R460), and reset (R447, R448). -/

namespace Sys2Proof.Machine

/-- The state that an outcome goes on with; where it does not, the state before. -/
def State.after (s : State) (o : Host.Outcome State Fault Refusal) : State := match o with
  | .next s' => s'
  | _ => s

/-! ### Access targets (R73 to R75, R449) -/

/-- Does a target check the rights to an address (R69, R75)? -/
def State.checksAddr (s : State) (d t pa : Nat) : Bool :=
  let a := pa % 2 ^ 45
  match s.home d pa with
  | .slice h sl => (h = d && t = sl) || (0x8000000000 ≤ a && (t = 32 || t = 33) && portOf a = 2 * d + (t - 32))
  | .proxy l sl => d = proxyDie l && t = sl
  | .tile u _ => dieOf u = d && t = 64 + agentOf u
  | .mmio h _ => h = d && t = 38
  | .peer dev => match s.route dev with
    | some p => p / 4 = d && 34 + p % 4 = t
    | none => false
  | .refuse _ _ => false

/-- Drops every cached copy on the module of the lines that a test names, after writing dirty words back (R74); the pins of lines stay,
since only IUNPIN, CINV and reset end them (R123). -/
def State.purge (s : State) (f : Nat → Bool) : State :=
  let tiles := (List.range 4).flatMap fun d => (s.die d).tiles.map (·.1)
  let s := tiles.foldl (fun s t =>
    let ks := ((s.cache t).l1.map (·.1)).filter fun k => f (k % 2 ^ 50 * 128)
    let s := ks.foldl (fun s k => s.l1Evict t k) s
    let c := s.cache t
    s.setCache t { c with ic := codeGone c.ic fun k => f (k * 128) }) s
  { s with dies := s.dies.map fun x => { x with rdc := copiesGone x.rdc fun k => f (k * 128) } }

/-- The requests that a target has accepted stay under the rights they were checked with, and its busy bit speaks of them from now on
(R73, R74). -/
def State.rightsNote (s : State) (d t : Nat) : State :=
  let l := s.accepted.filter fun r => s.checksAddr d t r.req.pa
  s.modDie d fun x => { x with older := if l.isEmpty then x.older.erase t else x.older.set t l }

/-- ACC_PURGE: `acc.ctl` bit 2 of one target. -/
def execAccPurge (d t : Nat) (s : State) : Host.Outcome State Fault Refusal := .next (s.purge fun a => s.checksAddr d t a)

/-- Discards the cached rights entries of a target. -/
def State.rightsDrop (s : State) (d t : Nat) : State :=
  s.modDie d fun x => { x with rights := x.rights.filter fun p => p.1 / 32768 ≠ t }

/-- ACC_INVAL: `acc.ctl` bit 1 of one target. -/
def execAccInval (d t : Nat) (s : State) : Host.Outcome State Fault Refusal := .next ((s.rightsDrop d t).rightsNote d t)

/-- The access targets of a die (R75). -/
def targets : List Nat := (List.range 576).filter okAcc

/-- ATAB_PURGE: a purge at every target of the die. -/
def execAtabPurge (d : Nat) (s : State) : Host.Outcome State Fault Refusal :=
  .next (s.purge fun a => targets.any fun t => s.checksAddr d t a)

/-- ATAB_INVAL: every target of the die discards its cached rights. -/
def execAtabInval (d : Nat) (s : State) : Host.Outcome State Fault Refusal :=
  .next (targets.foldl (fun s t => s.rightsNote d t) (s.modDie d fun x => { x with rights := [] }))

/-- A target's rights-table base (R75, R449): the first value that is not 0 switches it to its tables; what was cached
under the old base goes (R74). -/
def State.setBase (s : State) (d t : Nat) (x : Word) : State :=
  let s := ((s.mmioKeep d (accOff t + 128) x).rightsDrop d t).rightsNote d t
  if s.mmioAt d (accOff t + 128) = 0 then s
  else s.modDie d fun y => { y with switched := if y.switched.contains t then y.switched else y.switched ++ [t] }

/-- ACC_BASE_WRITE. -/
def execAccBaseWrite (d t : Nat) (x : Word) (s : State) : Host.Outcome State Fault Refusal :=
  .next (if okAcc t then s.setBase d t x else s)

/-- ATAB_BASE_WRITE: every `acc.base` of the die gets the value. -/
def execAtabBaseWrite (d : Nat) (x : Word) (s : State) : Host.Outcome State Fault Refusal :=
  .next (targets.foldl (fun s t => s.setBase d t x) (s.mmioKeep d 0x10000 x))

/-! ### The map, translation, contexts -/

/-- HBM_MAP_WRITE (R77): ignored once HBM has been reached. -/
def execHbmMapWrite (x : Word) (s : State) : Host.Outcome State Fault Refusal :=
  .next (if (s.mmioAt 0 0x10).getLsbD 1 then s else s.setMmio 0 0x10 (x &&& 1))

/-- TR_ROOT_WRITE (R82): one register for the module. -/
def execTrRootWrite (c : BitVec 12) (x : Word) (s : State) : Host.Outcome State Fault Refusal :=
  .next (s.mmioKeep 0 (ctxOff c 0) x)

/-- TLB_INV_ALL (R89, R90): every entry of a context. -/
def execTlbInvAll (d : Nat) (x : Word) (s : State) : Host.Outcome State Fault Refusal :=
  .next (s.tlbWrite d (x ||| BitVec.ofNat 64 (2 ^ 63)))

/-- TLB_INV_PAGE (R89, R90): the entries of a page. -/
def execTlbInvPage (d : Nat) (x : Word) (s : State) : Host.Outcome State Fault Refusal :=
  .next (s.tlbWrite d (x &&& ~~~BitVec.ofNat 64 (2 ^ 63)))

/-- CTX_SAT_CLEAR (R158, R451). -/
def execCtxSatClear (c : BitVec 12) (x : Word) (s : State) : Host.Outcome State Fault Refusal :=
  .next (if x.getLsbD 0 then { s with satFlags := s.satFlags.filter fun k => k ≠ c.toNat } else s)

/-! ### Recorder, alarm, health, power, rings -/

/-- EV_THAW (R400): writing 1 to bit 62 unfreezes the ring. -/
def execEvThaw (d : Nat) (s : State) : Host.Outcome State Fault Refusal :=
  .next (s.modDie d fun x => { x with evFrozen := false })

/-- SEC_ALARM_SRC_CLEAR (R401): sources are cleared by writing 1. -/
def execSecAlarmSrcClear (x : Word) (s : State) : Host.Outcome State Fault Refusal :=
  .next (s.setMmio 0 0x30 (s.mmioAt 0 0x30 &&& ~~~(x &&& 0xF0)))

/-- SEC_ALARM_ACT_WRITE (R401): lock stays once it is 1, and with it act; a write of 0b11 to act is ignored. -/
def execSecAlarmActWrite (x : Word) (s : State) : Host.Outcome State Fault Refusal :=
  .next (
    let y := s.mmioAt 0 0x30
    if y.getLsbD 3 then s
    else
      let act := if x.toNat % 4 = 3 then y &&& 3 else x &&& 3
      s.setMmio 0 0x30 ((y &&& 0xF0) ||| (x &&& 8) ||| act))

/-- HEALTH_TRIP_CLEAR (R454): trip is cleared by writing 1. -/
def execHealthTripClear (x : Word) (s : State) : Host.Outcome State Fault Refusal :=
  .next (s.setMmio 0 0x08 (s.mmioAt 0 0x08 &&& ~~~(x &&& BitVec.ofNat 64 (2 ^ 40))))

/-- PWR_LIM_WRITE (R455): the limit is taken between 1,000 and 4,000 W. -/
def execPwrLimWrite (x : Word) (s : State) : Host.Outcome State Fault Refusal :=
  .next (s.setMmio 0 0x18 (BitVec.ofNat 64 (Nat.max 1000 (Nat.min 4000 (x.toNat % 65536)))))

/-- RING_ENABLE_WRITE (R93, R452): a fault ring's base; an enabled ring takes at once the records that wait for it. -/
def execRingEnableWrite (d ring : Nat) (x : Word) (s : State) : Host.Outcome State Fault Refusal :=
  .next ((s.mmioKeep d (0x10000 + (ringRegs ring).1) x).drainRing d ring)

/-! ### Reset (R447, R448) -/

/-- Is a cell's memory outside what reset clears: the second tier, the hosts' and the peers'? -/
def keptMem (k : Nat) : Bool := (0x8000000000 ≤ k && k < 0x1F8000000000) || 2 ^ 54 ≤ k

/-- `mod.health` as reset leaves it: every field at its Reset column, but trip, which is kept (R448, R454). -/
def healthAfter (x : Word) : Word := x &&& BitVec.ofNat 64 (2 ^ 40)

/-- The end of the second tier for its ports' capacities (R60, R459): eight times the smallest of those that trained, of at most
4,096 GB and in whole granules. -/
def t2Top (caps : List Nat) : Nat :=
  match caps.filter fun c => c ≠ 0 with
  | [] => 0x8000000000
  | c :: l => 0x8000000000 + 8 * (Nat.min (l.foldl Nat.min c) 4096000000000 / 4096 * 4096)

/-- Bring-up begins with its first step, which may fail for good: a free choice (R447). -/
def State.bringBegin (s : State) : State :=
  let (c, s) := s.pick 2
  { s with bringUp := some c }

/-- The module after a reset, before bring-up (R447, R448): frozen event rings, the trip bit, erased keys, and the memory of other
devices stay. -/
def State.rebooted (s : State) : State :=
  let kept (d : Nat) : Die :=
    let x := s.die d
    if x.evFrozen then { Die.reset with events := x.events, evCount := x.evCount, evFrozen := true } else Die.reset
  let r := { State.reset with
    mem := s.mem.filter fun c => keptMem c.1
    poison := s.poison.filter fun w => keptMem (8 * w)
    keysErased := s.keysErased
    hostCxl := s.hostCxl
    hostLines := s.hostLines
    dies := s.dies.zipWith (fun _ x => x) (Vector.ofFn fun d => kept d.val)
    nextId := s.nextId
    useTick := s.useTick
    out := s.out
    focus := s.focus
    free := s.free }
  let r := r.setMmio 0 0x08 (healthAfter (s.mmioAt 0 0x08))
  let r := (List.range 8).foldl (fun r p => r.setMmio 0 (0x38 + 8 * p) 0) r
  (r.setMmio 0 0x78 (BitVec.ofNat 64 (t2Top []))).bringBegin

/-- Sets bits of `mod.health`. -/
def State.health (s : State) (m : Nat) : State := s.setMmio 0 0x08 (s.mmioAt 0 0x08 ||| BitVec.ofNat 64 m)

/-- For each of n parts, a free choice says whether it trains; those that do not set their bits (R447). -/
def State.trains (s : State) (f : Nat → State → Bool → State) : Nat → State
  | 0 => s
  | n + 1 =>
    let s := s.trains f n
    let (c, s) := s.pick 2
    f n s (c = 1)

/-- A die whose bridges or stacks fail is marked failed, and the module degraded (R447, R454). -/
def State.dieTrains (d : Nat) (s : State) (ok : Bool) : State := if ok then s else s.health (2 ^ d + 2 ^ 4)

/-- A host link trains, or not. -/
def State.hostTrains (l : Nat) (s : State) (ok : Bool) : State := if ok then s.health (2 ^ (14 + l)) else s

/-- A peer port trains, or is marked down. -/
def State.peerTrains (p : Nat) (s : State) (ok : Bool) : State := if ok then s else s.health (2 ^ (16 + p))

/-- A second-tier port trains, and reports its device's capacity, which is free; or it is marked failed (R60, R459). -/
def State.t2Trains (p : Nat) (s : State) (ok : Bool) : State :=
  if ok then
    let (x, s) := s.pickWord
    s.setMmio 0 (0x38 + 8 * p) x
  else s.health (2 ^ (32 + p) + 2 ^ 4)

/-- The next step of bring-up (R447). Which parts fail is free (DESIGN CHOICE, log 45). -/
def State.bringOn (s : State) : State :=
  let next (k : Nat) (s : State) : State := { s with bringUp := some k }
  match s.bringUp with
  | some 1 => next 2 s
  | some 2 => next 3 (s.trains State.dieTrains 4)
  | some 3 => next 4 (s.trains State.dieTrains 4)
  | some 4 =>
    let s := ((s.trains State.hostTrains 2).trains State.peerTrains 16).trains State.t2Trains 8
    next 5 (s.setMmio 0 0x78 (BitVec.ofNat 64 (t2Top ((List.range 8).map fun p => (s.mmioAt 0 (0x38 + 8 * p)).toNat))))
  | some 5 => next 6 { s with now := 0, locked := false, sinceSync := 0 }
  | some 6 => { s.health (2 ^ 12) with bringUp := none }
  | _ => s

/-- MOD_RESET: a write of 1 to `mod.reset` bit 0. -/
def execModReset (s : State) : Host.Outcome State Fault Refusal := .next s.rebooted

/-! ### The map (R450) -/

/-- The effect of a write in the module group. -/
def State.moduleWrite (s : State) (off : Nat) (x : Word) : State :=
  if off = 0x00 then (if x.getLsbD 0 then s.after (execModReset s) else s)
  else if off = 0x08 then s.after (execHealthTripClear x s)
  else if off = 0x10 then s.after (execHbmMapWrite x s)
  else if off = 0x18 then s.after (execPwrLimWrite x s)
  else if off = 0x30 then
    let s := s.after (execSecAlarmSrcClear x s)
    s.after (execSecAlarmActWrite x s)
  else s.mmioKeep 0 off x

/-- A write of `flt.ctl` (R386). -/
def State.fltCtl (s : State) (d : Nat) (x : Word) : State :=
  match field x.toNat 63 62 with
  | 0 => s.after (execFltResume d x s)
  | 1 => s.after (execFltRollback d x s)
  | 2 => s.after (execFltAbort d x s)
  | _ => s

/-- The effect of a write in a die's group. -/
def State.dieWrite (s : State) (d o : Nat) (x : Word) : State :=
  let top := x.getLsbD 63
  if o = 0x00 then s.after (execAtabBaseWrite d x s)
  else if o = 0x08 then
    let s := if x.getLsbD 1 then s.after (execAtabInval d s) else s
    if x.getLsbD 2 then s.after (execAtabPurge d s) else s
  else if o = 0x10 then (if top then s.after (execTlbInvAll d x s) else s.after (execTlbInvPage d x s))
  else if o = 0x18 then s.after (execRingEnableWrite d 0 x s)
  else if o = 0x20 then s.after (execRingEnableWrite d 1 x s)
  else if o = 0x58 then s.after (execRingEnableWrite d 2 x s)
  else if o = 0x50 then (if top then s.after (execTfqFail d x s) else s.after (execTfqResume d x s))
  else if o = 0x78 then s.fltCtl d x
  else if o = 0xB8 then (s.mmioKeep d (0x10000 + o) x).modDie d fun y => { y with ringBad := false }
  else if o = 0x98 then (if top then s.after (execSpillGrant d x s) else s.after (execSpillRefuse d x s))
  else if o = 0xA8 then (if top then s.after (execPreRestore d x s) else s.after (execPreSave d x s))
  else if o = 0xB0 then (if x.getLsbD 62 then s.after (execEvThaw d s) else s)
  else if o = 0xE0 then s.after (execLqDoorbell d (x.toNat % 65536) s)
  else if 0xE8 ≤ o && o < 0x8E8 then s.after (execLqSlotWrite d ((o - 0xE8) / 8) x s)
  else s.mmioKeep d (0x10000 + o) x

/-- The effect of a write in the group of the access targets. -/
def State.accWrite (s : State) (d off : Nat) (x : Word) : State :=
  let t := (off - 0x40000) / 256
  let o := (off - 0x40000) % 256
  if o = 128 then s.after (execAccBaseWrite d t x s)
  else if o = 136 && okAcc t then
    let s := if x.getLsbD 1 then s.after (execAccInval d t s) else s
    if x.getLsbD 2 then s.after (execAccPurge d t s) else s
  else if o < 128 && okAcc t then (s.mmioKeep d off x).rightsNote d t
  else s.mmioKeep d off x

/-- The effect of a write in the per-context group. -/
def State.ctxWrite (s : State) (off : Nat) (x : Word) : State :=
  let c : BitVec 12 := BitVec.ofNat 12 ((off - 0x100000) % 0x8000 / 8)
  if off < 0x108000 then s.after (execTrRootWrite c x s)
  else if 0x118000 ≤ off && off < 0x120000 then s.after (execCtxSatClear c x s)
  else s.mmioKeep 0 off x

/-- A write of an MMIO register of a die's block. -/
def State.mmioWrite (s : State) (d off : Nat) (x : Word) : State :=
  if off < 0x10000 then (if d = 0 then s.moduleWrite off x else s)
  else if off < 0x40000 then s.dieWrite d (off - 0x10000) x
  else if off < 0x64000 then s.accWrite d off x
  else if 0x100000 ≤ off && off < 0x148000 then s.ctxWrite off x
  else s.mmioKeep d off x

/-- A write by a master to the MMIO target of a die: an aligned access of 8 bytes alone (R69, R450). -/
def State.regWrite (s : State) (from_ : Nat) (m : Master) (pa size : Nat) (x : Word) : Except AccErr Unit × State :=
  match s.home from_ pa with
  | .mmio d off =>
    let (ok, s) := s.permit from_ m pa 2
    if !ok || size ≠ 8 || off % 8 ≠ 0 then (.error .access, s) else (.ok (), s.mmioWrite d off x)
  | _ => (.error .access, s)

/-- MMIO_REGISTER_WRITE: a write at an offset of the MMIO window reaches its target. -/
def execMmioRegisterWrite (m : Master) (off size : Nat) (x : Word) (s : State) : Host.Outcome State Fault Refusal :=
  .next (s.regWrite (off / 2 ^ 36 % 4) m (s.global (0x1FC000000000 + off % 2 ^ 38)) size x).2

end Sys2Proof.Machine
end

