-- ==== Sys2Proof/Machine/Range.lean ====
section
/-! DEFINITION. What the hints, pins and cache operations do at commit step 3 (R190, R191, R193, R194), line by line, and the
pins' limits (R123). A line without a translation or without the right to it is skipped. -/

namespace Sys2Proof.Machine

/-! ### Prefetch (R190) -/

/-- PREF of a line: as a load of its policy would, or into the home L2 or the RDC alone. -/
def State.prefLine (s : State) (t : Nat) (n : Node) (k : Nat) (p : Policy) (level : Bool) : State :=
  let d := dieOf t
  let all : Word32 := BitVec.allOnes 32
  if !level then (s.loadLine t k n.master n.mark all p).2
  else if s.ownLine d (k * 128) then (s.homeLine d n.master k all p.lru false).2
  else if !s.farLine d (k * 128) then s
  else
    match s.homeLine d n.master k all p.lru true with
    | (.error _, s) => s
    | (.ok v, s) =>
      let (st, s) := s.timeStamp d (rdcSlice k)
      s.rdcPut d k all v st p.lru

/-! ### Code (R123, R191) -/

/-- Puts a code pin on a line of an instruction cache, where its set holds fewer than two others. -/
def State.icPin (s : State) (t k : Nat) (on : Bool) : State :=
  let c := s.cache t
  let others := c.ic.filter fun p => icSet p.1 = icSet k && p.1 ≠ k && p.2.pin
  if on && 2 ≤ others.length then s
  else s.setCache t { c with ic := c.ic.modify k fun l => { l with pin := on } }

/-- Puts a code pin on an L2 line, where its set holds fewer than two others and keeps six ways free of pins and
protection; the pin holds the code bytes of that moment (R124). A protected line takes none, since pins and protection share no
ways (DESIGN CHOICE, log 59). -/
def State.l2Pin (s : State) (d ln : Nat) (on : Bool) : State :=
  let set := (s.die d).l2.filter fun p => l2Set p.1 = l2Set ln && p.1 ≠ ln
  let pins := set.filter fun p => p.2.code.isSome
  let bound := set.filter fun p => p.2.code.isSome || p.2.prot.isSome
  let code : Option Vec := if on then some (s.lineAt (s.dom * 2 ^ 38 + ln)) else none
  if on && (2 ≤ pins.length || 9 < bound.length) then s
  else s.modDie d fun x => { x with l2 := x.l2.modify ln fun l =>
    if on && (l.prot.isSome || l.code.isSome) then l else { l with code := code } }

/-- Puts a code pin on an RDC line, where its set holds fewer than two others; the pin holds the code bytes of that moment. -/
def State.rdcPin (s : State) (d k : Nat) (on : Bool) : State :=
  let setOf (k : Nat) := (rdcSlice k, field (k % 2 ^ 38 * 128) 22 12)
  let others := (s.die d).rdc.filter fun p => setOf p.1 = setOf k && p.1 ≠ k && p.2.code.isSome
  if on && 2 ≤ others.length then s
  else s.modDie d fun x => { x with rdc := x.rdc.modify k fun l =>
    { l with code := if on then some (l.code.getD l.data) else none } }

/-- Fills a line of code at a level, where it is absent. -/
def State.codeFill (s : State) (t : Nat) (n : Node) (k : Nat) (level : Bool) : State :=
  let d := dieOf t
  if !level then
    if ((s.cache t).code? k).isSome then s
    else
      match s.codeLine t k n.master with
      | (.ok v, s) => s.icFill t k v false
      | (.error _, s) => s
  else if s.ownLine d (k * 128) then
    if Tbl.has (s.die d).l2 (k % 2 ^ 38) then s else (s.homeLine d n.master k (BitVec.allOnes 32) false false).2
  else if (s.pinnedCode d k).isSome || (Tbl.get? k (s.die d).rdc).any fun l => covers l.valid (BitVec.allOnes 32) then s
  else s.prefLine t n k .normal true

/-- Sets or clears the code pin of a line at a level. -/
def State.codePin (s : State) (t k : Nat) (level on : Bool) : State :=
  let d := dieOf t
  if !level then s.icPin t k on
  else if s.ownLine d (k * 128) then s.l2Pin d (k % 2 ^ 38) on
  else s.rdcPin d k on

/-! ### Write back and invalidate (R193, R194) -/

/-- Writes the M and O words of a line of an L1 back: M becomes E, and O becomes S. -/
def State.l1Clean (s : State) (t k : Nat) : State :=
  let l := s.l1 t k
  let w := l.m ||| l.o
  if w = 0 then s
  else
    let d := dieOf t
    let ln := k % 2 ^ 38
    let s := s.l2Dirty d ln
    let e := s.dirOf d ln
    let mine := e.ownV && e.ownPtr = agentOf t
    let m := e.ownMask &&& ~~~w
    let e : DirEntry := if !mine then e
      else (if m = 0 then { e with ownV := false, ownPtr := 0, ownMask := 0 } else { e with ownMask := m }).add (agentOf t) w
    (s.setDir d ln e).setL1 t k { l with m := 0, o := 0, e := l.e ||| l.m, s := l.s ||| l.o }

/-- CWB of a line: dirty words go to the home slice, and from it to the memory behind it. -/
def State.writeBack (s : State) (t k : Nat) (deep : Bool) : State :=
  let s := s.l1Clean t k
  if deep && s.ownLine (dieOf t) (k * 128) then
    s.modDie (dieOf t) fun x => { x with l2 := x.l2.modify (k % 2 ^ 38) fun l => { l with dirty := false } }
  else s

/-- CINV of words of a line; a constant line goes whole. -/
def State.cinvLine (s : State) (t k : Nat) (w : Word32) (kind : InvKind) : State :=
  let d := dieOf t
  match kind with
  | .data =>
    let s := s.l1Clean t k
    (s.setL1 t k ((s.l1 t k).drop w)).rdcDrop d k w
  | .code =>
    s.modDie d fun x => { x with
      tiles := x.tiles.mapAll fun _ c => { c with ic := c.ic.erase k }
      rdc := x.rdc.erase k
      l2 := if s.ownLine d (k * 128) then x.l2.modify (k % 2 ^ 38) fun l => { l with code := none } else x.l2 }
  | .const => if w = 0 then s else s.setL1 t (constKey k) L1Line.empty

/-! ### Ranges -/

/-- The words of a virtual line that a range touches. -/
def rangeMask (va len vk : Nat) : Word32 :=
  let a := Nat.max va (vk * 128)
  let b := Nat.min (va + len) (vk * 128 + 128)
  if a < b then bytesMask (a % 128) (b - a) else 0

/-- What a range operation does to one virtual line of a page. -/
def State.rangeLine (s : State) (t : Nat) (n : Node) (op : RangeOp) (r : RangeReq) (e : TlbEnt) (vk : Nat) : State :=
  let k := e.phys (vk * 128) / 128
  match op with
  | .pref => s.prefLine t n k r.pol r.level
  | .tlbpf => s
  | .ipf => s.codeFill t n k r.level
  | .ipin => (s.codeFill t n k r.level).codePin t k r.level true
  | .iunpin => s.codePin t k r.level false
  | .cwb => s.writeBack t k r.level
  | .cinv kind => s.cinvLine t k (rangeMask r.va.toNat r.len.toNat vk) kind

/-- The part of a range in the 64 KiB of its first byte, and the rest where there is one. -/
def RangeReq.cut (r : RangeReq) : RangeReq × Option RangeReq :=
  let stop := (r.va.toNat / 65536 + 1) * 65536
  let k := stop - r.va.toNat
  if r.len.toNat ≤ k then (r, none)
  else ({ r with len := BitVec.ofNat 64 k }, some { r with va := BitVec.ofNat 64 stop, len := r.len - BitVec.ofNat 64 k })

/-- The translation that a range operation asks for: TLBPF of level 1 fills the last-level buffer alone. -/
def State.rangePage (s : State) (t : Nat) (n : Node) (op : RangeOp) (r : RangeReq) : Hinted × State :=
  let code : Bool := op = .ipf || op = .ipin || op = .iunpin
  let whole : Bool := op = .tlbpf && r.level
  s.xlateHint (dieOf t) (if whole then none else some t) n.ctx r.va.toNat (if code then .fetch else .read) (.node t)

/-- A range operation on the lines of a range within one page. -/
def State.rangeOp (s : State) (t : Nat) (n : Node) (op : RangeOp) (r : RangeReq) (e : TlbEnt) : State :=
  let first := r.va.toNat / 128
  let count := if r.len = 0 then 0 else (r.va.toNat + r.len.toNat - 1) / 128 + 1 - first
  (List.range count).foldl (fun s i => s.rangeLine t n op r e (first + i)) s

end Sys2Proof.Machine
end

