-- ==== Sys2Proof/Machine/Release.lean ====
section
/-! DEFINITION. What a commit does at a release (R24, R101, R102, R151, R152, R160, R167, R171, R378, R387, R389): how an act
ends, what of it a rollback leaves, the release point, the performing of a window, acquires. -/

namespace Sys2Proof.Machine

/-! ### How an act ends -/

/-- An act of a commit is done; or it has set what comes next itself; or it waits, with nothing changed. -/
inductive Acted where
  | done (s : State)
  | own (s : State)
  | hold

/-- Changes a node in a way that a rollback leaves as it is: the state saved at the release that the node works on changes
with it (R389). -/
def State.lasting (s : State) (t : Nat) (f : Node → Node) : State :=
  match s.node? t with
  | none => s
  | some n =>
    let g (o : Node) : Node := if o.blocks = n.blocks && o.phase = n.phase then f o else o
    let h (v : Saved) : Saved := { v with nodes := v.nodes.modify t g }
    (s.setNode t (f n)).modRegion n.region fun r => { r with confirmed := r.confirmed.map h }

/-- A lasting act is done: what is left of the commit is q. -/
def State.lasts (s : State) (t : Nat) (q : List Act) (f : Node → Node) : Acted :=
  .own (s.lasting t fun n => { f n with phase := .commit q })

/-- An element whose translation has faulted stands still until it is there, and keeps its place (R91); one that only misses asks
again (R88). -/
def State.stopWalk (s : State) (t : Nat) : State :=
  if !s.faulting (.node t) && !s.faulting (.mt t) then s
  else
  let s := s.modNode t fun n => { n with stop := some .walk }
  { s with mts := s.mts.modify t fun m => { m with stop := some .walk } }

/-- An element that stands still with an access refused after its commit (R384). -/
def State.stopAccess (s : State) (t : Nat) (a : Word) : State := s.elemStop t (s.elemRecord t .accessLate 1 a 0 0)

/-- An element that stands still with an uncorrectable error (R391). -/
def State.stopPoison (s : State) (t : Nat) (a : Word) : State := s.elemStop t (s.elemRecord t .uncorrectable 2 a 0 0)

/-- An access at a home that fails in a commit. -/
def State.stopFor (s : State) (t : Nat) (e : AccErr) (a : Word) : State := match e with
  | .access => s.stopAccess t a
  | .poison => s.stopPoison t a

/-- What a commit does with an access that may end without a value. -/
def Got.within {α : Type} (g : Got α) (t : Nat) (walks : Bool) (k : α → State → Acted) : Acted := match g with
  | .ok x s => k x s
  | .trap _ a s => .own (s.stopAccess t a)
  | .walk s => if walks then .hold else .own (s.stopWalk t)
  | .poison s => .own (s.stopPoison t 0)
  | .sleep _ _ => .hold

/-! ### The release point (R378, R387) -/

/-- Has the report of an element reached the assize unit? -/
def State.reported (s : State) (t : Nat) : Bool :=
  (reportBy ((s.die (s.assizeDie t)).reports.getD (s.groupOf t) []) t).isSome

/-- An element of a region that keeps cuts stands at a release point: the cut comes first, then the verdict; `done` says that
both are there. -/
def State.relPoint (s : State) (t : Nat) (verdict : Bool) : Acted :=
  let h := s.regionOf t
  match s.reg h with
  | none => .done s
  | some r =>
    match r.saving with
    | some v =>
      if s.repModeOf h ≠ 1 && r.pendingAt.isSome && s.savedHere v t && !verdict && !s.reported t
          && !(r.elems.any fun u => s.hasElem u && !v.has u) then
        .own (s.sendReport t)
      else .hold
    | none =>
      if r.confirmed.any fun v => s.savedHere v t then
        if s.repModeOf h = 1 || verdict then .done s
        else if s.reported t then .hold
        else .own (s.sendReport t)
      else .own (s.beginCut h (some t))

/-! ### The window at its homes (R102, R167) -/

/-- The round regions whose slots a window's lines lie in. -/
def Window.roundsOf (w : Window) (n : Node) : List RoundRegion :=
  (w.lines.flatMap fun l => l.2.pages.filterMap fun p =>
    (n.slotOf (p * 65536 + l.1 * 128 % 65536)).map fun x => x.2.1).eraseDups

/-- May an implicit release store into the slots of round regions: is the slot of the next round reclaimed? -/
def State.roundsReady (s : State) (t : Nat) (n : Node) : List RoundRegion → Got Bool
  | [] => .ok true s
  | r :: l =>
    match s.readRound t n r with
    | .ok (_, p) s =>
      match s.readReclaim t n r (r.nr + 1) with
      | .ok (m, _) s => if m + r.slots < p + 2 then .ok false s else s.roundsReady t n l
      | .trap c a s => .trap c a s
      | .walk s => .walk s
      | .poison s => .poison s
      | .sleep x s => .sleep x s
    | .trap c a s => .trap c a s
    | .walk s => .walk s
    | .poison s => .poison s
    | .sleep x s => .sleep x s

/-- Performs one entry of a window: a line, or, after the last line, the oldest store to MMIO. `put` changes the element's
window. None where the window is empty. -/
def State.winStep (s : State) (t : Nat) (m : Master) (ct : Bool) (w : Window)
    (put : State → (Window → Window) → State) : Option State :=
  match w.lines, w.mmio with
  | p :: l, _ =>
    let (i, s) := s.pick (l.length + 1)
    let (k, x) := (((p :: l)[i]?).getD p)
    let s' := (put s fun w => { w with lines := w.lines.erase k }).modRegion (s.regionOf t) fun r => { r with quiet := 0 }
    some (match s'.performLine t k m ct x with
      | (.ok _, s) => s
      | (.error e, _) => s.stopFor t e (BitVec.ofNat 64 (k * 128)))
  | [], r :: _ =>
    let s' := put s fun w => { w with mmio := w.mmio.drop 1 }
    some (match s'.regWrite (dieOf t) m r.pa r.size r.val with
      | (.ok _, s) => s
      | (.error e, _) => s.stopFor t e (BitVec.ofNat 64 r.pa))
  | [], [] => none

/-- The part of a release that performs a node's window. A shadow's performs nothing (R379). -/
def State.performWindow (s : State) (t : Nat) (n : Node) (q : List Act) : Acted :=
  if n.shadow then s.lasts t q fun n => { n with win := Window.empty }
  else
    match s.winStep t n.master true n.win (fun s f => s.lasting t fun n => { n with win := f n.win }) with
    | some s => .own s
    | none => s.lasts t q id

/-! ### Acquires (R112, R153, R171) -/

/-- A load has read a round counter: the greatest round since the node's last acquire is kept by region (R154). -/
def Node.saw (n : Node) (va : Nat) (x : Word) : Node :=
  { n with seen := (n.rounds.filter fun p => p.2.rctr = va).foldl (fun t p =>
      if t.getD p.1 0 < x then t.set p.1 x else t) n.seen }

/-- A node acquires: its mark moves on, and what its loads have observed so far is no later FENCE's. -/
def Node.marked (n : Node) (now : Word) (sc : Scope) : Node :=
  { n with mark := if sc = .node then n.mark else now.toNat / 1024, seen := [] }

/-- FENCE's acquire counts as observing what the node's loads have observed since its last acquire (R154, R189). -/
def Node.fenceAcquired (n : Node) (now : Word) (sc : Scope) : Node :=
  { n.marked now sc with floor := n.seen.foldl (fun f p => if vget f p.1 0 < p.2 then vset f p.1 p.2 else f) n.floor }

/-- A node acquires: an observed round raises the region's floor (R171). -/
def Node.acquired (n : Node) (now : Word) (sc : Scope) (seen : Option (Nat × Word)) : Node :=
  let n := n.marked now sc
  match seen with
  | none => n
  | some (va, x) =>
    { n with floor := (n.rounds.filter fun p => p.2.rctr = va).foldl (fun f p =>
        if vget f p.1 0 < x then vset f p.1 x else f) n.floor }

/-- The last act but for q has set the node's commit: what is left is q. -/
def State.goOn (s : State) (t : Nat) (q : List Act) : Acted := .own (s.modNode t fun n => { n with phase := .commit q })

/-- What an acquire does to its node's caches. -/
def State.acquireL1 (s : State) (t : Nat) (sc : Scope) : State := if sc = .node then s else s.dropRemoteL1 t

/-- The name of a value that a commit's act observes: the acts that are left, this one included. -/
def Node.actKey (n : Node) (q : List Act) : FwdKey := ⟨n.blocks, 100, q.length + 1⟩

/-- An act that observes a value (R380, R381): the leader's is forwarded, and a shadow takes it or waits. -/
def State.actObserveVec (s : State) (n : Node) (q : List Act) (x : Option Vec) (k : Vec → State → Acted) : Acted :=
  if n.shadow then
    match n.forwarded (n.actKey q) with
    | some y => k y s
    | none => .hold
  else
    match x with
    | none => .hold
    | some x => k x (s.forward n (n.actKey q) x)

/-- The same for a scalar. -/
def State.actObserve (s : State) (n : Node) (q : List Act) (x : Option Word) (k : Word → State → Acted) : Acted :=
  s.actObserveVec n q (x.map (·.setWidth 1024)) fun y s => k (y.setWidth 64) s

/-- A release waits for answers: a request that was refused stops the node here (R384). -/
def State.orLate (s : State) (t : Nat) (n : Node) (a : Acted) : Acted := match n.late with
  | some (r, _) => .own (s.elemStop t r)
  | none => a

end Sys2Proof.Machine
end

