-- ==== Sys2Proof/Machine/Commit.lean ====
section
/-! DEFINITION. Firing the slots of a block and its commit (R20 to R25, R31, R152, R403 to R407, R417, R420): SLOT_FIRE,
BLOCK_COMMIT and COMMIT_STEP_RESUME, which works off one act of a commit at a time. -/

namespace Sys2Proof.Machine

/-! ### Step 1: registers (R24, R31) -/

/-- A register write; it waits while the register is empty. -/
def State.regAct (s : State) (t : Nat) (full : Bool) (f : Regs → Regs) : Acted :=
  if full then .done (s.modNode t fun n => { n with regs := f n.regs }) else .hold

/-! ### Step 2: the memory class (R24, R101, R184) -/

/-- Makes room in the L1 sets for the lines that a window newly takes up (R101). -/
def State.winRoom (s : State) (t : Nat) (old w : Window) : State :=
  w.lines.foldl (fun s l => if Tbl.has old.lines l.1 then s else s.l1Fit t l.1 4 w.lines) s

/-- Has an invalidation under way on a tile's die overtaken the translation of an address (R90)? -/
def State.invalidating (s : State) (t : Nat) (n : Node) (va : Nat) : Bool :=
  (s.die (dieOf t)).tlbBusy && tlbNames (s.die (dieOf t)).tlbReq n.ctx va

/-- A store enters the window, lane by lane; where one has no room, the whole window is released first. One whose translation an
invalidation has overtaken has the window released after it (R90). -/
def State.storeAct (s : State) (t : Nat) (n : Node) (r : StoreReq) (q : List Act) : Acted :=
  let k := s.winPrefix n.win true r.pol r.lanes
  let w := s.winEnter n.win (r.lanes.take k) r.pol
  let (sig, cnt) := addTerms n.red.sig n.red.cnt (storeTerms (r.lanes.take k))
  let old := n.win
  let n := { n with
    win := w, red := { n.red with sig := sig, cnt := cnt }
    implicitReq := n.implicitReq || r.lanes.any fun x => s.invalidating t n x.va }
  let s := s.winRoom t old w
  if k = r.lanes.length then .own (s.setNode t { n with phase := .commit q })
  else
    .own (s.setNode t { n with phase := .commit (.relCheck [] :: .roundWait :: .relPerform
      :: .store { r with lanes := r.lanes.drop k } :: q) })

/-- The lines of a memory request of a commit: what a load of the node would read now, and its window laid over it. -/
def State.ldaLines (s : State) (t : Nat) (n : Node) (r : LdaReq) : List (Nat × Nat) → Got (List Byte)
  | [] => .ok [] s
  | (pa, k) :: l =>
    let w := bytesMask (pa % 128) k
    let va := r.va + (pa - r.pa)
    let got : Got Vec := match n.slotOf va with
      | some (reg, g, j) => s.loadSlot t (pa / 128) n reg g j w r.pol
      | none =>
        match s.loadLine t (pa / 128) n.master n.mark w r.pol with
        | (.ok v, s) => .ok v s
        | (.error .access, s) => .trap .access (BitVec.ofNat 64 pa) s
        | (.error .poison, s) => .poison s
    match got with
    | .ok v s =>
      match s.ldaLines t n r l with
      | .ok b s => .ok (lineBytes (n.win.lay (pa / 128) v) (pa % 128) k ++ b) s
      | g => g
    | .trap c a s => .trap c a s
    | .walk s => .walk s
    | .poison s => .poison s
    | .sleep x s => .sleep x s

/-- The value of an LDA from its bytes. -/
def LdaReq.value (r : LdaReq) (b : List Byte) : Vec :=
  let es := r.ty.bytes
  if r.vec then ofLanes fun i => extendLane r.ty (ofBytes ((b.drop (es * i)).take es))
  else (extendTo r.ty (ofBytes (b.take es))).setWidth 1024

/-- The bytes that an LDA reads. -/
def LdaReq.size (r : LdaReq) : Nat := r.ty.bytes * (if r.vec then 32 else 1)

/-- What an LDA's request reads: the node's window over the register or the lines. -/
def State.ldaRead (s : State) (t : Nat) (n : Node) (r : LdaReq) : Got Vec :=
  if s.isMmio r.pa then
    match s.homeRead (dieOf t) n.master r.pa r.size false with
    | (.error .access, s) => .trap .access (BitVec.ofNat 64 r.pa) s
    | (.error .poison, s) => .poison s
    | (.ok b, s) => .ok (((n.win.reg r.pa).map (·.setWidth 1024)).getD (r.value b)) s
  else
    match s.ldaLines t n r (pieces r.pa r.size 4) with
    | .ok b s => .ok (r.value b) s
    | .trap c a s => .trap c a s
    | .walk s => .walk s
    | .poison s => .poison s
    | .sleep x s => .sleep x s

/-- A refused or poisoned LDA: its register stays empty, the node freezes at its next release, and the request is made again on
resumption (R184, R195, R384). -/
def State.ldaFails (s : State) (t : Nat) (r : FwdKey × LdaReq) (c : Cause) (a : Word) : State :=
  s.modNode t fun n => { n with
    late := if n.late.isSome then n.late else some (n.record s.now c 1 a 0 0, none)
    again := n.again ++ [r] }

/-- The lanes that an LDA reads. -/
def LdaReq.lanes (r : LdaReq) : List LaneAt :=
  (List.range (if r.vec then 32 else 1)).map fun i => ⟨i, r.va + i * r.ty.bytes, r.ty.bytes⟩

/-- An LDA has its value: it is on its way to the register, and what it shows of round counters is observed (R154, R171). -/
def State.ldaGot (s : State) (t : Nat) (r : LdaReq) (x : Vec) : State :=
  (s.modNode t fun n => (n.countersIn r.lanes (laneLines r.lanes r.vec x)).foldl (fun n y => n.saw y.1 y.2) n).post
    (.registerValueArrive t r.dst x)

/-- An LDA's request and its answer: the value on its way, or a failure. On a shared-volatile page the leader's value is forwarded
(R97). A round that is not published yet holds the commit here (DESIGN CHOICE, log 59). -/
def State.ldaAsk (s : State) (t : Nat) (n : Node) (r : FwdKey × LdaReq) (ready : State → State) : Acted :=
  match s.ldaRead t n r.2 with
  | .ok x s => .done ((ready (if r.2.sv then s.forward n r.1 x else s)).ldaGot t r.2 x)
  | .trap _ a s => .done ((ready s).ldaFails t r .accessLate a)
  | .poison s => .done ((ready s).ldaFails t r .uncorrectable (BitVec.ofNat 64 r.2.pa))
  | .walk s => .own (s.stopWalk t)
  | .sleep _ _ => .hold

/-- Must an LDA wait for an atomic of the node? -/
def State.ldaBlocked (s : State) (t : Nat) (r : LdaReq) : Bool :=
  (pieces r.pa r.size 4).any fun p => s.atomicPending t (p.1 / 128) (bytesMask (p.1 % 128) p.2)

/-- LDA at step 2: its register is empty until the value comes. A shadow's on a shared-volatile page waits for the leader's value. -/
def State.ldaAct (s : State) (t : Nat) (n : Node) (r : LdaReq) (q : List Act) : Acted :=
  let drain (s : State) : State := s.modNode t fun n => { n with regs := n.regs.drain r.dst }
  if n.regs.isEmpty r.dst then .hold
  else if r.sv && n.shadow then s.actObserveVec n q none fun x s => .done ((drain s).ldaGot t r x)
  else if s.ldaBlocked t r then .hold
  else s.ldaAsk t n (n.actKey q, r) drain

/-- A refused LDA is made again once its node's fault has been resolved. None while there is none, or it must wait. -/
def State.ldaAgain (s : State) (t : Nat) (n : Node) : Option State :=
  match n.late, n.again with
  | none, r :: l =>
    if s.ldaBlocked t r.2 then none
    else
      match (s.setNode t { n with again := l }).ldaAsk t n r id with
      | .done s => some s
      | .own s => some (s.modNode t fun n => { n with again := r :: n.again })
      | .hold => none
  | _, _ => none

/-- Is a value still due in an empty register of a node: of an LDA, or another that comes by a message (R152)? -/
def State.loadsDue (s : State) (t : Nat) (n : Node) : Bool :=
  n.again ≠ [] || s.agenda.any fun i => match i with
    | .registerValueArrive k r _ => k = t && n.regs.isEmpty r
    | _ => false

/-- A range operation goes on page by page; it waits while the walk for its next page runs (R88, R190). -/
def State.rangeAct (s : State) (t : Nat) (n : Node) (op : RangeOp) (r : RangeReq) (q : List Act) : Acted :=
  if r.len = 0 then .done s
  else
    let (x, s) := s.rangePage t n op r
    let now := match x with
      | .page e => s.rangeOp t n op r.cut.1 e
      | .missing | .walking => s
    match x, r.cut.2 with
    | .walking, _ => .own s
    | _, none => .done now
    | _, some r => now.goOn t (.range op r :: q)

/-! ### Own writes of releases and atomics (R31, R152, R187, R188) -/

/-- Does a window hold bytes of a span? -/
def Window.meets (w : Window) (pa n : Nat) : Bool :=
  w.lines.any fun l => l.2.bytes.any fun b => pa ≤ l.1 * 128 + b.1 && l.1 * 128 + b.1 < pa + n

/-- The store of a release, which follows the window that it has emptied. -/
def State.ownStoreAct (s : State) (t : Nat) (n : Node) (r : StoreReq) (q : List Act) : Acted :=
  if n.shadow || r.lanes.isEmpty then s.lasts t q id
  else
    let k := s.winPrefix n.win true r.pol r.lanes
    let w := s.winEnter n.win (r.lanes.take k) r.pol
    let q := .relPerform :: (if k < r.lanes.length then [.ownStore { r with lanes := r.lanes.drop k }] else []) ++ q
    (s.winRoom t n.win w).lasts t q fun n => { n with win := w }

/-- An atomic's request leaves; the register for what it returns is empty until that comes. A shadow takes what the leader's returned
(R381). -/
def State.ownAtomAct (s : State) (t : Nat) (n : Node) (va pa : Nat) (ty : Ty) (op : AtomOp) (right third : Word)
    (ret : Option (BitVec 6)) (stream : Option (BitVec 16)) (held : Bool) (q : List Act) : Acted :=
  let waits : Bool := match ret with
    | some g => n.regs.isEmpty (.g g)
    | none => false
  let empty (n : Node) : Node := match ret with
    | some g => { n with regs := n.regs.drain (.g g) }
    | none => n
  if waits then .hold
  else if n.shadow then
    match ret with
    | none => s.lasts t q id
    | some g => s.actObserveVec n q none fun x s => (s.post (.registerValueArrive t (.g g) x)).lasts t q empty
  else
    let r : AtomReq := ⟨n.master, t, va, pa, ty, op, right, third, ret.map fun g => (g, n.actKey q), held⟩
    let i := match stream with
      | some k => Instr.orderedAtomicArrival ⟨r, k, right.extractLsb' 32 32, 0, false, false⟩
      | none => .atomicAtHome r
    (s.post i).lasts t q fun n => { empty n with outst := n.outst + 1, reply := none }

/-- A counter add leaves. -/
def State.ownAddAct (s : State) (t : Nat) (n : Node) (c : CtrRef) (amount : Word) (held : Bool) (q : List Act) : Acted :=
  if n.shadow then s.lasts t q id
  else (s.post (.counterAddAtHome ⟨n.master, t, c.va.toNat, c.pa, amount, held⟩)).lasts t q fun n =>
    { n with outst := n.outst + 1, reply := none }

/-- A commit holds for its request's answer, and acquires with it where it is to. -/
def State.replyAct (s : State) (t : Nat) (n : Node) (acq : Option (Scope × Nat)) (q : List Act) : Acted :=
  match acq with
  | none =>
    if n.shadow then s.lasts t q id
    else
      match n.reply with
      | some _ => s.lasts t q fun n => { n with reply := none }
      | none => s.orLate t n .hold
  | some (sc, ea) =>
    match s.actObserve n q n.reply fun x s => (s.acquireL1 t sc).lasts t q fun n =>
        { n with reply := none }.acquired s.now sc (some (ea, x)) with
    | .hold => s.orLate t n .hold
    | a => a

/-- RADV's node takes the round that its add has published as its floor (R167). -/
def State.floorAct (s : State) (t : Nat) (n : Node) (k : Nat) (q : List Act) : Acted :=
  match s.actObserve n q n.reply fun x s => s.lasts t q fun n => { n with reply := none, floor := vset n.floor k x } with
  | .hold => s.orLate t n .hold
  | a => a

/-! ### Step 3: tokens, switches, matrix words, engines, counters -/

/-- A send: SEND's token takes the port's tag (R229). A shadow triggers no engine (R381). -/
def State.sendAct (s : State) (t : Nat) (n : Node) (port : Nat) (tok : Token) (ownTag : Bool) : Acted :=
  let tag := vget n.tags port 0
  let tok := if ownTag then tok else { tok with side := (tok.side &&& 0xFFFF0000#32) ||| tag.setWidth 32 }
  if n.shadow && (s.triggerOf (4 * t + port)).isSome then .done s
  else
    match s.sendOut (4 * t + port) tok with
    | some s => .done s
    | none => .hold

/-- RECV slots of a port below a slot that have popped their tokens by now. -/
def Blk.poppedBelow (b : Blk) (port k : Nat) : Nat :=
  (b.effs.filter fun e => e.slot < k && e.acts.any fun a => match a with
    | .popPort q _ => q = port
    | _ => false).length

/-- The pop of the token that a RECV has read (R28): the lower RECVs of its port that fired have popped theirs. -/
def State.popAct (s : State) (t port : Nat) (b : Blk) (k : Nat) : State :=
  match nthTok (s.port (4 * t + port)).toks 0 (b.recvsBelow port k - b.poppedBelow port k) with
  | some (i, _) => (s.popAt (4 * t + port) i).2
  | none => s

/-- CFGSW begins the switch of its region, or joins the one that another node's commit has begun (R349, R426). -/
def State.cfgswAct (s : State) (t : Nat) (n : Node) : State :=
  match s.reg n.region with
  | none => s
  | some r =>
    (s.modNode t fun n => { n with asked := r.step + 1 }).modRegion n.region fun r => { r with switching := true }

/-- Is a matrix word an MFENCE (R307)? -/
def MatWord.isFence (w : MatWord) : Bool := match w.instr with
  | some (.mfence ..) => true
  | _ => false

/-- A matrix word enters the queue of 16 (R262, R299); a register that it drains to is empty until then. -/
def State.matrixAct (s : State) (t : Nat) (n : Node) (w : MatWord) (to_ : Option (BitVec 5)) : Acted :=
  let waits : Bool := match to_ with
    | some v => n.regs.isEmpty (.v v)
    | none => false
  if waits || 16 ≤ n.mat.queue.length then .hold
  else
    .done (s.modNode t fun n =>
      let n := match to_ with
        | some v => { n with regs := n.regs.drain (.v v) }
        | none => n
      { n with mat := { n.mat with queue := n.mat.queue ++ [w] } })

/-- RETAIN at step 3 (R192). -/
def State.retainAct (s : State) (d k ways pa lines : Nat) (ok : Bool) : State :=
  let s := if (s.die d).retain 2 k ≠ 0 then s.retainOff d k else s
  let s := (s.setRetain d 0 k (BitVec.ofNat 64 (pa % 2 ^ 45 / 128 * 128))).setRetain d 1 k (BitVec.ofNat 64 lines)
  if ok then s.retainOn d k ways else s

/-- The launch of a node's region. -/
def State.launchOf (s : State) (n : Node) : Nat := match Tbl.get? n.region s.regions with
  | some r => r.launch
  | none => 0

/-- The ranks of a node's gang that lie on other devices (R209, R364). -/
def State.awayRanks (s : State) (n : Node) : List Nat := match Tbl.get? (s.launchOf n) s.launches with
  | some l => (List.range l.map.length).filter fun r => 4 ≤ (l.map[r]?).getD 0
  | none => []

/-- A command reaches its queue of 64 (R196, R201), with its gang's ranks elsewhere; a shadow's does not (R381). -/
def State.commandAct (s : State) (t : Nat) (n : Node) (e : Nat) (c : Cmd) (q : List Act) : Acted :=
  let d := dieOf t
  let k := dQueue c.words
  let x := s.engQ d e k
  if n.shadow then s.lasts t q id
  else if 64 ≤ x.cmds.length then .hold
  else
    let (id, s) := s.fresh
    let s := s.setEngQ d e k { x with cmds := x.cmds ++ [{ c with id := id, mark := n.mark, launch := s.launchOf n, away := s.awayRanks n }] }
    s.lasts t q fun n => { n with cmdsOut := if c.op = .cfire then n.cmdsOut else n.cmdsOut ++ [id] }

/-- CWAIT holds until its counter has reached the value (R159, R212, R215). -/
def State.cwaitAct (s : State) (t : Nat) (n : Node) (c : CtrRef) (target : Word) (sc : Scope) (acq : Bool) (q : List Act) :
    Acted :=
  let on (x : Word) (s : State) : Acted :=
    let s := if acq then s.acquireL1 t sc else s
    .done (s.modNode t fun n =>
      let n := { n with reply := none }
      if acq then n.acquired s.now sc (some (c.va.toNat, x)) else n.saw c.va.toNat x)
  match s.actObserve n q n.reply fun x s => if x < target then .hold else on x s with
  | .hold =>
    if n.shadow then .hold
    else
      match n.late, n.watch with
      | some (r, _), _ => .own (s.elemStop t r)
      | none, some _ => .hold
      | none, none => .own ((s.watchFor t c.pa target).pollWatch t)
  | a => a

/-- CREAD reads its counter, and the value is on its way to the register, which is empty until it comes; with acq the commit holds
until the register has it (R216). -/
def State.creadAct (s : State) (t : Nat) (n : Node) (c : CtrRef) (sc : Scope) (acq : Bool) (k : BitVec 6) (q : List Act) :
    Acted :=
  let drain (s : State) : State := s.modNode t fun n => { n with regs := n.regs.drain (.g k) }
  let take (x : Word) (s : State) : Acted :=
    if acq then
      .done ((s.acquireL1 t sc).modNode t fun n =>
        { n with regs := n.regs.fill (.g k) (x.setWidth 1024) }.acquired s.now sc (some (c.va.toNat, x)))
    else .done (((drain s).modNode t fun n => n.saw c.va.toNat x).post (.registerValueArrive t (.g k) (x.setWidth 1024)))
  if n.regs.isEmpty (.g k) then .hold
  else if n.shadow then s.actObserve n q none take
  else
    match s.readCounter (dieOf t) n.master c.pa with
    | (.error e, s) => .own (s.stopFor t e (BitVec.ofNat 64 c.pa))
    | (.ok b, s) => s.actObserve n q (some (BitVec.ofNat 64 (Sys2Proof.ofBytes b))) take

/-- The first of counters that is below a value, or an access that fails. -/
def State.firstBelow (s : State) (t : Nat) (n : Node) (target : Nat) : List CtrRef → Except (AccErr × CtrRef) (Option CtrRef) × State
  | [] => (.ok none, s)
  | c :: l =>
    match s.readCounter (dieOf t) n.master c.pa with
    | (.error e, s) => (.error (e, c), s)
    | (.ok b, s) => if Sys2Proof.ofBytes b < target then (.ok (some c), s) else s.firstBelow t n target l

/-- RADV waits until the slot of the round that it publishes is reclaimed: with a watch on a reclaim word that is too low yet (R167,
R212, R220). The words are the round counter and the reclaim words. -/
def State.radvAct (s : State) (t : Nat) (n : Node) (slots : Nat) (words : List CtrRef) : Acted :=
  let stop (e : AccErr) (c : CtrRef) (s : State) : Acted := .own (s.stopFor t e (BitVec.ofNat 64 c.pa))
  match (if n.shadow then [] else words) with
  | [] => .done s
  | p :: l =>
    match n.late, n.reply, n.watch with
    | some (r, _), _, _ => .own (s.elemStop t r)
    | none, some _, _ => .own (s.setNode t { n with reply := none })
    | none, none, some _ => .hold
    | none, none, none =>
      match s.readCounter (dieOf t) n.master p.pa with
      | (.error e, s) => stop e p s
      | (.ok b, s) =>
        let target := Sys2Proof.ofBytes b + 2 - slots
        match s.firstBelow t n target l with
        | (.error (e, c), s) => stop e c s
        | (.ok none, s) => .done s
        | (.ok (some c), s) => .own ((s.watchFor t c.pa (BitVec.ofNat 64 target)).pollWatch t)

/-- A message leaves for the network (R329, R333); a shadow's does not. A second FDONE of a firing is none. -/
def State.netAct (s : State) (t : Nat) (n : Node) (m : NetMsg) (q : List Act) : Acted :=
  let d := s.leaderDie n
  let spent : Bool := match m with
    | .fdone id => !((s.die d).net.slotOpen id)
    | _ => false
  if n.shadow || spent then s.lasts t q id
  else
    match s.netSend d n.ctx m with
    | some s => s.lasts t q id
    | none => .hold

/-- The commit of a NETLD ends once the network has taken it, so that a later block finds the network of its load (R329,
R335; DEDUCED, log 19). -/
def State.netldAct (s : State) (t : Nat) (n : Node) (q : List Act) : Acted :=
  let net := (s.die (s.leaderDie n)).net
  let pending := net.filling.isSome || net.inbox.any fun m => match m with
    | .netld .. => true
    | _ => false
  if pending && !n.shadow then .hold else s.lasts t q id

/-! ### Steps 4 and 5 (R404 to R407, R417, R420) -/

/-- The cause of a trap instruction. -/
def TrapKind.cause : TrapKind → Cause
  | .trap => .trap
  | .sysc => .sysc
  | .bkpt => .bkpt

/-- The successor of a block that transfers. -/
def Node.successor (n : Node) : Word := match n.blk.exit with
  | some (.goto a) => a
  | _ => n.pc

/-- A trap at step 4: the block has committed, and the frame names its successor. BKPT freezes the region, or the task, where
the debugger has asked for it. -/
def State.trapAct (s : State) (t : Nat) (n : Node) (k : TrapKind) (code : BitVec 15) (slot : Nat) : State :=
  let a := n.successor
  let s := s.setNode t { n with blocks := n.blocks + 1 }
  if k = .bkpt && (s.mmioAt 0 (ctxOff n.ctx 6)).getLsbD 0 then
    let r := n.record s.now .bkpt 0 0 0 0
    ((s.modNode t fun n => { n.abandon a with stop := some Stop.breakpoint }).setGate n.region true).modRegion n.region
      fun x => { x with frozen := some ⟨r, false⟩ }
  else s.takeTrap t k.cause slot code.toNat 0 a

/-- Empties an input port of an ended node (R406). -/
def State.flushPort (s : State) (k : Nat) : State :=
  let p := s.port k
  let s := (List.range p.toks.length).foldl (fun s _ => (s.popAt k 0).2) s
  let s := s.setPort k { s.port k with carriers := [], taken := [], bit := 0 }
  p.carriers.foldl (fun s x => s.creditBack x.edge) s

/-- A node has ended: it consumes what reaches it. -/
def State.endNode (s : State) (t : Nat) : State :=
  let s := s.modNode t fun n => { n with
    blk := Blk.empty, issued := false, phase := .ended, blocks := n.blocks + 1, implicitReq := false }
  (List.range 4).foldl (fun s p => s.flushPort (4 * t + p)) s

/-- Does a node stand at work that HALT of another node abandons (R407)? -/
def Node.abandons (n : Node) : Bool := match n.phase with
  | .fetch | .fire => true
  | _ => false

/-- HALT ends every node of its region: blocks that have not begun to commit are abandoned, and sequencers stop. -/
def State.haltRegion (s : State) (h : Nat) : State :=
  let s := s.modRegion h fun r => { r with ending := true }
  let stop (n : Node) : Node := if n.region = h && n.abandons then
      { n.finish with stop := if n.stop = some Stop.walk then none else n.stop } else n
  { s with
    nodes := s.nodes.mapAll fun _ n => stop n
    mts := s.mts.mapAll fun _ m => if m.region = h then { m with
      done := true, implicitReq := m.implicitReq || !m.win.lines.isEmpty || !m.win.mmio.isEmpty } else m }

/-- Step 5: transfer to the successor, or the end of the node. -/
def State.exitAct (s : State) (t : Nat) (n : Node) : State :=
  match n.blk.exit with
  | some (.goto a) => s.setNode t { n.abandon a with blocks := n.blocks + 1, ready := some (n.cyc.toNat + 1) }
  | some .endNode => s.endNode t
  | some .endRegion => (s.endNode t).haltRegion n.region
  | none => s.setNode t (n.abandon n.pc)

/-! ### One act -/

/-- An act of a node's commit, with the acts that follow it. -/
def State.act (s : State) (t : Nat) (n : Node) (q : List Act) (walks : Bool) : Act → Acted
  | .setG k x => s.regAct t (n.regs.gFull.getLsbD k.toNat) fun r => { r with g := vset r.g k.toNat x }
  | .setV k x => s.regAct t (n.regs.vFull.getLsbD k.toNat) fun r => { r with v := vset r.v k.toNat x }
  | .setP k x => s.regAct t (n.regs.pFull.getLsbD k.toNat) fun r => { r with p := vset r.p k.toNat x }
  | .setCur k x => .done (s.modNode t fun n => { n with cur := vset n.cur k x })
  | .store r => s.storeAct t n r q
  | .lda r => s.ldaAct t n r q
  | .sign r => .done (s.modNode t fun n =>
      let (sig, cnt) := addTerms n.red.sig n.red.cnt (storeTerms r.lanes)
      { n with red := { n.red with sig := sig, cnt := cnt } })
  | .relCheck chunks =>
    let (sig, cnt) := addTerms n.red.sig n.red.cnt (actionTerms chunks)
    let n' := { n with red := { n.red with sig := sig, cnt := cnt } }
    if !n.keepsCuts then .own (s.setNode t n'.pass)
    else if !chunks.isEmpty then .own (s.setNode t { n' with phase := .commit (.relCheck [] :: q) })
    else
      match s.relPoint t n.verdict with
      | .done s => .own (s.pass t)
      | a => a
  | .roundWait =>
    if n.shadow then s.lasts t q id
    else (s.roundsReady t n (n.win.roundsOf n)).within t walks fun ok s => if ok then s.lasts t q id else .hold
  | .relPerform => s.performWindow t n q
  | .relDrain => s.orLate t n (if n.outst = 0 && !s.loadsDue t n then s.lasts t q id else .hold)
  | .drainIf pa k => s.lasts t (if n.win.meets pa k then .roundWait :: .relPerform :: q else q) id
  | .ownStore r => s.ownStoreAct t n r q
  | .ownAtom va pa ty op right third ret stream held => s.ownAtomAct t n va pa ty op right third ret stream held q
  | .ownAdd c amount held => s.ownAddAct t n c amount held q
  | .awaitReply acq => s.replyAct t n acq q
  | .floorReply k => s.floorAct t n k q
  | .acquire sc seen => .done ((s.acquireL1 t sc).modNode t fun n => n.acquired s.now sc seen)
  | .saw va x => .done (s.modNode t fun n => n.saw va x)
  | .fenceAcquire sc => .done ((s.acquireL1 t sc).modNode t fun n => n.fenceAcquired s.now sc)
  | .popPort port k => .done (s.popAct t port n.blk k)
  | .send port tok ownTag => s.sendAct t n port tok ownTag
  | .setTag port tag => .done (s.modNode t fun n => { n with tags := vset n.tags port tag })
  | .mts r x => .done (s.sysWrite n r x)
  | .mark => .done (if n.keepsCuts then s.askCut n.region t else s)
  | .cycw x => if x ≤ n.cyc then .done s else .hold
  | .cfgsw => .done (s.cfgswAct t n)
  | .matrix w to_ => s.matrixAct t n w to_
  | .mfence => if n.mat.queue.any fun w => w.own && w.isFence then .hold else .done s
  | .fenceConst => .done ((s.dropConst t).modNode t fun n => { n with win := n.win.aged })
  | .fenceEngines => if n.cmdsOut.isEmpty then .done s else .hold
  | .range op r => s.rangeAct t n op r q
  | .retain k ways pa lines ok => .done (s.retainAct (dieOf t) k ways pa lines ok)
  | .unretain k => .done (s.retainOff (dieOf t) k)
  | .command e c => s.commandAct t n e c q
  | .cwait c target sc acq => s.cwaitAct t n c target sc acq q
  | .cread c sc acq k => s.creadAct t n c sc acq k q
  | .radvWait v l => s.radvAct t n v l
  | .netMsg m => s.netAct t n m q
  | .netldWait => s.netldAct t n q
  | .trap k code slot => .own (s.trapAct t n k code slot)
  | .exit => .own (s.exitAct t n)

/-! ### Implicit releases (R90, R101, R377) -/

/-- A forced release of a node's window at any place, in a region that keeps no cuts. None while it waits. -/
def State.forcedNode (s : State) (t : Nat) (n : Node) : Option State :=
  match (s.roundsReady t n (n.win.roundsOf n)).within t (n.stop = some .walk) fun ok s => if ok then .done s else .hold with
  | .hold => none
  | .own s => some s
  | .done s =>
    match s.winStep t n.master true n.win (fun s f => s.modNode t fun n => { n with win := f n.win }) with
    | some s => some s
    | none => some (s.modNode t fun n => { n with
        implicitReq := false, red := { n.red with sig := 0, cnt := 0, seqNo := n.red.seqNo + 1 } })

/-- What an MT's accesses to round regions stand on: its launch's declarations. -/
def State.mtAsNode (s : State) (t : Nat) (m : Mt) : Node :=
  { Node.start t m.ctx 0 0 with
    assist := m.assist
    rounds := match Tbl.get? m.launch s.launches with
      | some l => l.rounds
      | none => [] }

/-- Changes an MT at work on the release of its window in a way that a rollback leaves as it is: the state saved at that release
changes with it (R389). -/
def State.lastingMt (s : State) (t : Nat) (f : Mt → Mt) : State :=
  let g (o : Mt) : Mt := if o.passed then f o else o
  let s := s.modRegion (s.regionOf t) fun r => { r with confirmed := r.confirmed.map fun (v : Saved) =>
    { v with mts := v.mts.modify t g } }
  { s with mts := s.mts.modify t f }

/-- The release of an MT's window (R377): the cut and the check, the window, and its end. None while it waits. -/
def State.mtRelease (s : State) (t : Nat) (m : Mt) : Option State :=
  let keeps := s.cutKeeping m.region
  if !m.passed then
    if !keeps then some { s with mts := s.mts.set t m.pass }
    else
      match s.relPoint t m.verdict with
      | .hold => none
      | .own s => some s
      | .done s => some (s.pass t)
  else
    let clear (s : State) : State := s.lastingMt t fun m => { m with win := Window.empty, implicitReq := false, passed := false }
    if s.shadowAt t then some (clear s)
    else
      let n := s.mtAsNode t m
      match (s.roundsReady t n (m.win.roundsOf n)).within t (m.stop = some .walk) fun ok s => if ok then .done s else .hold with
      | .hold => none
      | .own s => some s
      | .done s =>
        match s.winStep t m.master false m.win (fun s f => s.lastingMt t fun m => { m with win := f m.win }) with
        | some s => some s
        | none => some (clear s)

/-! ### The steps -/

/-- May a node's commit go on: it runs, or it performs a forced release while a translation holds it? -/
def Node.commits (n : Node) : Bool := n.runs || (!n.gated && n.phase ≠ .ended && n.implicitReq && n.stop = some .walk)

/-- Are the acts that are left those of the node's end alone? -/
def Node.leaves (n : Node) (q : List Act) : Bool := q.length ≤ n.endActs.length && q = n.endActs.drop (n.endActs.length - q.length)

/-- Does a release point wait for the cut in progress? -/
def State.cutHolds (s : State) (n : Node) (a : Act) : Bool := match a with
  | .relCheck _ => (s.reg n.region).any fun r => r.saving.isSome
  | _ => false

/-- The next piece of a node's commit, or of a forced release; none while it waits. A commit that waits in a region that ends
is over (R407). -/
def State.resumeNode (s : State) (t : Nat) (n : Node) : Option State :=
  let forced := if n.implicitReq && !n.keepsCuts then s.forcedNode t n else none
  let again := if n.runs then s.ldaAgain t n else none
  if !n.commits then none
  else if again.isSome then again
  else if forced.isSome then forced
  else
    match n.phase with
    | .commit [] => some (s.setNode t { n with phase := .fetch, implicitReq := false })
    | .commit (a :: q) =>
      match s.act t n q (n.stop = some .walk) a with
      | .done s => some (s.modNode t fun n => { n with phase := .commit q })
      | .own s => some s
      | .hold =>
        if s.endingAt n && !n.leaves (a :: q) && !s.cutHolds n a then some ((s.unwatch t).setNode t { n.finish with watch := none })
        else none
    | .fetch | .fire =>
      if n.implicitReq && n.keepsCuts && (n.phase = .fetch || n.untouched) then
        some (s.setNode t { n.abandon n.pc with phase := .commit [.relCheck [], .roundWait, .relPerform] })
      else none
    | .ended => none

/-- The next piece of a tile's commit or forced release. -/
def State.resumeTile (s : State) (t : Nat) : Option State :=
  match s.node? t, Tbl.get? t s.mts with
  | some n, _ => s.resumeNode t n
  | none, some m => if m.implicitReq && !m.gated && (m.stop.isNone || m.stop = some .walk) then s.mtRelease t m else none
  | none, none => none

/-- COMMIT_STEP_RESUME (R24): the next act of a node's commit, or the next piece of a forced release of a window. -/
def execCommitStepResume (t : Nat) (s : State) : Host.Outcome State Fault Refusal :=
  .next ((s.resumeTile t).getD s)

/-- The acts of a complete block in the order of R24. Those of step 3 that send on timed ports come last in it: as nothing holds them, all
of them fall in one cycle (R440). -/
def Blk.acts (b : Blk) (timed : Nat → Bool) : List Act :=
  let late (a : Act) : Bool := match a with
    | .send p _ _ | .setTag p _ => timed p
    | _ => false
  let key (e : Eff) : Nat := (e.step * 2 ^ 16 + if e.acts ≠ [] && e.acts.all late then 2 ^ 15 else e.key) * 2 ^ 16 + e.slot
  (b.effs.mergeSort fun x y => key x ≤ key y).flatMap (·.acts)

/-- May a node's block commit now: is it complete, and, in a fixed-timing region, has its cycle come (R372)? -/
def State.commitDue (s : State) (n : Node) : Bool :=
  n.phase = .fire && n.runs && !n.issued && n.blk.complete
    && (if n.blk.timed then n.blk.start + n.blk.lastCycle + 1 ≤ n.cyc.toNat
        else !s.fixedAt n || n.blk.start + 1 ≤ n.cyc.toNat)

/-- What follows the effects of a block: transfer, or the node's end. -/
def Node.tail (n : Node) : List Act := match n.blk.exit with
  | some (.goto _) | none => [.exit]
  | some .endNode | some .endRegion => n.endActs

/-- BLOCK_COMMIT (R23, R24, R246): a complete block begins to commit, and its draws are used up. -/
def execBlockCommit (t : Nat) (s : State) : Host.Outcome State Fault Refusal :=
  .next <| match s.node? t with
  | none => s
  | some n =>
    if s.commitDue n then
      s.setNode t { n with
        phase := .commit (n.blk.acts (s.timedPort t false) ++ n.tail)
        srCount := n.srCount + BitVec.ofNat 64 n.blk.drawsAll }
    else s

/-! ### SLOT_FIRE (R20, R374) -/

/-- Has what a slot holds arrived: no sooner than the latencies of R260 say, which are the least ones in elastic mode (R370)? -/
def Node.arrived (n : Node) (k : Nat) : Bool := (n.cyc - BitVec.ofNat 64 (n.blk.slotAt k).arr).toNat < 2 ^ 63

/-- Does a slot of a node's block wait with a predicate that does not match? -/
def Node.anyUnmatched (n : Node) : Bool := n.blk.instrs.any fun p => n.blk.waiting p.1 && n.blk.unmatched p.1 p.2 && n.arrived p.1

/-- May slot k of a node be decided now: its predicate does not match, it can no longer be filled, or every input is there? A
predicate that does not match comes first (R20). In a T block a slot is at its scheduled cycle, filled or not. -/
def Node.slotDue (n : Node) (k : Nat) : Bool :=
  n.phase = .fire && n.runs && !n.issued && n.blk.waiting k &&
    (match n.blk.instr k with
     | none => false
     | some i =>
       if n.blk.timed then n.issueCyc k ≤ n.cyc.toNat
       else if n.anyUnmatched then n.blk.unmatched k i && n.arrived k
       else n.blk.dead k i.accept || ((n.blk.slotAt k).full i.accept && n.arrived k))

/-- SLOT_FIRE (R20, R21, R374): the slot issues, so that the next step runs its instruction; or it is resolved without firing;
or, in a T block, its cycle has passed, or what it needs is not there at its cycle. -/
def execSlotFire (t k : Nat) (s : State) : Host.Outcome State Fault Refusal :=
  .next <| match s.node? t with
  | none => s
  | some n =>
    if !n.slotDue k then s
    else
      match n.blk.instr k with
      | none => s
      | some i =>
        let s : State := { s.setNode t { n with issued := true, slot := k } with focus := t }
        if n.blk.timed && n.issueCyc k ≠ n.cyc.toNat then s.trapHere .timing 0
        else if (n.blk.slotAt k).full i.accept then
          if n.blk.timed && n.issueCyc k < (n.blk.slotAt k).arr then s.trapHere .timing 0 else s
        else if n.blk.unmatched k i || n.blk.dead k i.accept then s.resolve i
        else s.trapHere .timing 0

end Sys2Proof.Machine
end

