-- ==== Sys2Proof/Machine/Control.lean ====
section
/-! DEFINITION. Values within a block (R409), the exit class (R22, R403 to R407), and reads and writes of
registers (R28, R30 to R32, R404, R410). -/

namespace Sys2Proof.Machine

/-! ### Values -/

/-- NULL: a null to each target. -/
def execNull (p : Pred) (t u : Tgt) (s : State) : Host.Outcome State Fault Refusal :=
  let i := Instr.null p t u
  .next (s.fire i fun _ _ => s.emit i .null)

/-- MOV: left unchanged, of the same kind. -/
def execMov (p : Pred) (t u : Tgt) (s : State) : Host.Outcome State Fault Refusal :=
  .next (s.compute (.mov p t u) fun r => r.left.getD .null)

/-- MOVI: the sign-extended immediate. -/
def execMovi (p : Pred) (t : Tgt) (imm : BitVec 15) (s : State) : Host.Outcome State Fault Refusal :=
  .next (s.compute (.movi p t imm) fun _ => .scalar (imm.signExtend 64))

/-- MOVI with a second word: sign-extended or zero-extended. -/
def execMovi32 (p : Pred) (t u : Tgt) (zx : Bool) (imm : Word32) (s : State) : Host.Outcome State Fault Refusal :=
  .next (s.compute (.movi32 p t u zx imm) fun _ => .scalar (if zx then imm.setWidth 64 else imm.signExtend 64))

/-- MOVI.hi: the second word in bits [63:32]. -/
def execMoviHi (p : Pred) (t u : Tgt) (imm : Word32) (s : State) : Host.Outcome State Fault Refusal :=
  .next (s.compute (.moviHi p t u imm) fun _ => .scalar (imm.setWidth 64 <<< 32))

/-! ### Exits -/

/-- Address of the block after a node's block (R13, R404). -/
def Node.following (n : Node) : Word :=
  BitVec.ofNat 64 ((n.pc.toNat + 8 + restBytes n.blk.header + 15) / 16 * 16)

/-- Successor of a displacement in units of 16 bytes (R403). -/
def Node.branch (n : Node) (disp : BitVec 22) : Word := n.pc + disp.signExtend 64 * 16

/-- An exit fires (R22); its register write, if any, is held for step 1. -/
def State.exitAs (s : State) (k : ExitKind) (acts : List Act) : State :=
  match s.here with
  | none => s
  | some n =>
    if n.blk.exit.isSome then s.trapHere .exit 0
    else
      let b := { n.blk with
        exit := some k
        effs := if acts.isEmpty then n.blk.effs else n.blk.effs ++ [⟨n.slot, 1, n.slot, acts⟩] }
      s.putHere (n.fired b .fired)

/-- An exit to an address, which is checked as the slot fires (R405), before a second exit raises its fault (DESIGN CHOICE,
log 58). -/
def State.exitTo (s : State) (a : Word) (acts : List Act) : State :=
  if a.toNat % 16 ≠ 0 then s.trapHere .align a
  else if 2 ^ 56 ≤ a.toNat then s.trapHere .address a
  else s.exitAs (.goto a) acts

/-- EXIT: the node's program, or the task, ends. -/
def execExit (p : Pred) (s : State) : Host.Outcome State Fault Refusal :=
  .next (s.fire (.exit p) fun _ _ => s.exitAs .endNode [])

/-- HALT: the region ends. -/
def execHalt (p : Pred) (s : State) : Host.Outcome State Fault Refusal :=
  .next (s.fire (.halt p) fun _ _ => s.exitAs .endRegion [])

/-- BR: a displacement from the header. -/
def execBr (p : Pred) (disp : BitVec 22) (s : State) : Host.Outcome State Fault Refusal :=
  .next (s.fire (.br p disp) fun n _ => s.exitTo (n.branch disp) [])

/-- BRI: the address at left. -/
def execBri (p : Pred) (s : State) : Host.Outcome State Fault Refusal :=
  .next (s.fire (.bri p) fun _ r => s.exitTo r.l [])

/-- CALL: as BR, and g63 gets the address of the block that follows (R404). -/
def execCall (p : Pred) (disp : BitVec 22) (s : State) : Host.Outcome State Fault Refusal :=
  .next (s.fire (.call p disp) fun n _ => s.exitTo (n.branch disp) [.setG 63 n.following])

/-- CALLI: as BRI, and g63 gets the address of the block that follows (R404). -/
def execCalli (p : Pred) (s : State) : Host.Outcome State Fault Refusal :=
  .next (s.fire (.calli p) fun n r => s.exitTo r.l [.setG 63 n.following])

/-- A general register. -/
def Regs.gAt (r : Regs) (n : Nat) : Word := vget r.g n 0
/-- A vector register. -/
def Regs.vAt (r : Regs) (n : Nat) : Vec := vget r.v n 0
/-- A lane-mask register. -/
def Regs.pAt (r : Regs) (n : Nat) : Word32 := vget r.p n 0

/-- RET: g63 as of the previous commit; it waits while g63 is empty (R404). -/
def execRet (p : Pred) (s : State) : Host.Outcome State Fault Refusal :=
  .next (s.fire (.ret p) fun n _ => if n.regs.gFull.getLsbD 63 then s.exitTo (n.regs.gAt 63) [] else s.retry)

/-! ### Registers -/

/-- A register read (R30, R32): an empty register makes the W form wait and the T form trap. -/
def State.readReg (s : State) (i : Instr) (full trap : Bool) (v : Val) : State :=
  if full then s.emit i v else if trap then s.trapHere .notReady 0 else s.retry

/-- RD: a general register, waiting while it is empty. -/
def execRd (p : Pred) (t u : Tgt) (n : BitVec 6) (s : State) : Host.Outcome State Fault Refusal :=
  let i := Instr.rd p t u n
  .next (s.fire i fun d _ =>
    s.readReg i (d.regs.gFull.getLsbD n.toNat) false (.scalar (d.regs.gAt n.toNat)))

/-- RD.t: a general register, trapping where it is empty. -/
def execRdT (p : Pred) (t u : Tgt) (n : BitVec 6) (s : State) : Host.Outcome State Fault Refusal :=
  let i := Instr.rdT p t u n
  .next (s.fire i fun d _ =>
    s.readReg i (d.regs.gFull.getLsbD n.toNat) true (.scalar (d.regs.gAt n.toNat)))

/-- RDV: a vector register, waiting while it is empty. -/
def execRdv (p : Pred) (t u : Tgt) (n : BitVec 5) (s : State) : Host.Outcome State Fault Refusal :=
  let i := Instr.rdv p t u n
  .next (s.fire i fun d _ =>
    s.readReg i (d.regs.vFull.getLsbD n.toNat) false (.vector (d.regs.vAt n.toNat)))

/-- RDV.t: a vector register, trapping where it is empty. -/
def execRdvT (p : Pred) (t u : Tgt) (n : BitVec 5) (s : State) : Host.Outcome State Fault Refusal :=
  let i := Instr.rdvT p t u n
  .next (s.fire i fun d _ =>
    s.readReg i (d.regs.vFull.getLsbD n.toNat) true (.vector (d.regs.vAt n.toNat)))

/-- RDP: a lane-mask register zero-extended, waiting while it is empty. -/
def execRdp (p : Pred) (t u : Tgt) (n : BitVec 3) (s : State) : Host.Outcome State Fault Refusal :=
  let i := Instr.rdp p t u n
  .next (s.fire i fun d _ =>
    s.readReg i (d.regs.pFull.getLsbD n.toNat) false (.scalar ((d.regs.pAt n.toNat).setWidth 64)))

/-- RDP.t: a lane-mask register zero-extended, trapping where it is empty. -/
def execRdpT (p : Pred) (t u : Tgt) (n : BitVec 3) (s : State) : Host.Outcome State Fault Refusal :=
  let i := Instr.rdpT p t u n
  .next (s.fire i fun d _ =>
    s.readReg i (d.regs.pFull.getLsbD n.toNat) true (.scalar ((d.regs.pAt n.toNat).setWidth 64)))

/-- Does an act write the register that another writes (R28)? -/
def Act.sameReg (a b : Act) : Bool :=
  match a, b with
  | .setG m _, .setG n _ => m = n
  | .setV m _, .setV n _ => m = n
  | .setP m _, .setP n _ => m = n
  | _, _ => false

/-- A register write, held for step 1 (R24); a second one to its register raises the block fault (R28). -/
def State.writeReg (s : State) (n : Node) (a : Act) : State :=
  if n.blk.effs.any fun e => e.acts.any fun b => a.sameReg b then s.trapHere .block 0
  else s.hold 1 n.slot [a]

/-- WR: a general register. -/
def execWr (p : Pred) (n : BitVec 6) (s : State) : Host.Outcome State Fault Refusal :=
  .next (s.fire (.wr p n) fun d r => s.writeReg d (.setG n r.l))

/-- WRV: a vector register. -/
def execWrv (p : Pred) (n : BitVec 5) (s : State) : Host.Outcome State Fault Refusal :=
  .next (s.fire (.wrv p n) fun d r => s.writeReg d (.setV n r.lv))

/-- WRP: bits [31:0] of left to a lane-mask register. -/
def execWrp (p : Pred) (n : BitVec 3) (s : State) : Host.Outcome State Fault Refusal :=
  .next (s.fire (.wrp p n) fun d r => s.writeReg d (.setP n (r.l.setWidth 32)))

end Sys2Proof.Machine
end

