-- ==== Sys2Proof/Machine/Fp.lean ====
section
/-! DEFINITION. The scalar floating-point instructions (R282 to R289). -/

namespace Sys2Proof.Machine

/-- A floating-point result as a scalar: every bit above its format 0 (R269). -/
def fpVal (x : Nat) : Val := .scalar (BitVec.ofNat 64 x)

/-- FADD (R283). -/
def execFadd (p : Pred) (t u : Tgt) (ty : Ty) (md : FMod) (s : State) :
    Host.Outcome State Fault Refusal :=
  .next (s.fire (.fadd p t u ty md) fun n r => s.emit (.fadd p t u ty md) (fpVal (ty.fpAdd md (n.draw n.slot 0) r.l.toNat r.r.toNat)))

/-- FSUB (R283). -/
def execFsub (p : Pred) (t u : Tgt) (ty : Ty) (md : FMod) (s : State) :
    Host.Outcome State Fault Refusal :=
  .next (s.fire (.fsub p t u ty md) fun n r => s.emit (.fsub p t u ty md) (fpVal (ty.fpSub md (n.draw n.slot 0) r.l.toNat r.r.toNat)))

/-- FMUL (R283). -/
def execFmul (p : Pred) (t u : Tgt) (ty : Ty) (md : FMod) (s : State) :
    Host.Outcome State Fault Refusal :=
  .next (s.fire (.fmul p t u ty md) fun n r => s.emit (.fmul p t u ty md) (fpVal (ty.fpMul md (n.draw n.slot 0) r.l.toNat r.r.toNat)))

/-- FDIV (R283). -/
def execFdiv (p : Pred) (t u : Tgt) (ty : Ty) (md : FMod) (s : State) :
    Host.Outcome State Fault Refusal :=
  .next (s.fire (.fdiv p t u ty md) fun n r => s.emit (.fdiv p t u ty md) (fpVal (ty.fpDiv md (n.draw n.slot 0) r.l.toNat r.r.toNat)))

/-- FMA: the third operand at the gate input (R17, R283). -/
def execFma (t u : Tgt) (ty : Ty) (md : FMod) (s : State) :
    Host.Outcome State Fault Refusal :=
  .next (s.fire (.fma t u ty md) fun n r => s.emit (.fma t u ty md) (fpVal (ty.fpFma md (n.draw n.slot 0) r.l.toNat r.r.toNat r.g.toNat)))

/-- FSQRT (R283). -/
def execFsqrt (p : Pred) (t u : Tgt) (ty : Ty) (md : FMod) (s : State) :
    Host.Outcome State Fault Refusal :=
  .next (s.fire (.fsqrt p t u ty md) fun n r => s.emit (.fsqrt p t u ty md) (fpVal (ty.fpSqrt md (n.draw n.slot 0) r.l.toNat)))

/-- FMIN (R284). -/
def execFmin (p : Pred) (t u : Tgt) (ty : Ty) (s : State) :
    Host.Outcome State Fault Refusal :=
  .next (s.compute (.fmin p t u ty) fun r => fpVal (ty.fpMin r.l.toNat r.r.toNat))

/-- FMAX (R284). -/
def execFmax (p : Pred) (t u : Tgt) (ty : Ty) (s : State) :
    Host.Outcome State Fault Refusal :=
  .next (s.compute (.fmax p t u ty) fun r => fpVal (ty.fpMax r.l.toNat r.r.toNat))

/-- FCMP (R285). -/
def execFcmp (p : Pred) (t u : Tgt) (ty : Ty) (c : Cond) (s : State) :
    Host.Outcome State Fault Refusal :=
  .next (s.compute (.fcmp p t u ty c) fun r => .scalar (flag (ty.fpCmp c r.l.toNat r.r.toNat)))

/-- FCVT (R286). -/
def execFcvt (p : Pred) (t u : Tgt) (dty sty : Ty) (md : FMod) (s : State) :
    Host.Outcome State Fault Refusal :=
  .next (s.fire (.fcvt p t u dty sty md) fun n r => s.emit (.fcvt p t u dty sty md) (.scalar (dty.opCvt sty md (n.draw n.slot 0) r.l)))

/-- FCLASS (R287). -/
def execFclass (p : Pred) (t u : Tgt) (ty : Ty) (s : State) :
    Host.Outcome State Fault Refusal :=
  .next (s.compute (.fclass p t u ty) fun r => .scalar (ty.classOf r.l.toNat))

/-- FSGN (R288). -/
def execFsgn (p : Pred) (t u : Tgt) (ty : Ty) (op : SgnOp) (s : State) :
    Host.Outcome State Fault Refusal :=
  .next (s.compute (.fsgn p t u ty op) fun r => fpVal (ty.fpSgn op r.l.toNat r.r.toNat))

/-- EXP2 (R252, R289). -/
def execExp2 (p : Pred) (t u : Tgt) (ty : Ty) (md : FMod) (s : State) :
    Host.Outcome State Fault Refusal :=
  .next (s.fire (.exp2 p t u ty md) fun n r => s.emit (.exp2 p t u ty md) (fpVal (ty.fpExp2 md (n.draw n.slot 0) r.l.toNat)))

/-- LOG2 (R253, R289). -/
def execLog2 (p : Pred) (t u : Tgt) (ty : Ty) (md : FMod) (s : State) :
    Host.Outcome State Fault Refusal :=
  .next (s.fire (.log2 p t u ty md) fun n r => s.emit (.log2 p t u ty md) (fpVal (ty.fpLog2 md (n.draw n.slot 0) r.l.toNat)))

end Sys2Proof.Machine
end

