-- ==== Sys2Proof/Machine/Integer.lean ====
section
/-! DEFINITION. The integer and address instructions (R272 to R281): each emits its result at firing. -/

namespace Sys2Proof.Machine

/-- ADD (R274). -/
def execAdd (p : Pred) (t u : Tgt) (ty : Ty) (sat : Bool) (s : State) :
    Host.Outcome State Fault Refusal :=
  .next (s.compute (.add p t u ty sat) fun r => .scalar (ty.ext (ty.opAdd sat r.l r.r)))

/-- ADD with an immediate (R19, R274). -/
def execAddX (p : Pred) (t u : Tgt) (ty : Ty) (sat : Bool) (imm : Word32) (s : State) :
    Host.Outcome State Fault Refusal :=
  .next (s.compute (.addX p t u ty sat imm) fun r => .scalar (ty.ext (ty.opAdd sat r.l (ty.imm imm))))

/-- ADD, I form: type .n64 and the sign-extended immediate (R273). -/
def execAddI (p : Pred) (t : Tgt) (imm : BitVec 15) (s : State) :
    Host.Outcome State Fault Refusal :=
  .next (s.compute (.addI p t imm) fun r => .scalar (Ty.ext .n64 (Ty.opAdd .n64 false r.l (imm.signExtend 64))))

/-- SUB (R274). -/
def execSub (p : Pred) (t u : Tgt) (ty : Ty) (sat : Bool) (s : State) :
    Host.Outcome State Fault Refusal :=
  .next (s.compute (.sub p t u ty sat) fun r => .scalar (ty.ext (ty.opSub sat r.l r.r)))

/-- SUB with an immediate (R19, R274). -/
def execSubX (p : Pred) (t u : Tgt) (ty : Ty) (sat : Bool) (imm : Word32) (s : State) :
    Host.Outcome State Fault Refusal :=
  .next (s.compute (.subX p t u ty sat imm) fun r => .scalar (ty.ext (ty.opSub sat r.l (ty.imm imm))))

/-- MUL (R274). -/
def execMul (p : Pred) (t u : Tgt) (ty : Ty) (sat : Bool) (s : State) :
    Host.Outcome State Fault Refusal :=
  .next (s.compute (.mul p t u ty sat) fun r => .scalar (ty.ext (ty.opMul sat r.l r.r)))

/-- MUL with an immediate (R19, R274). -/
def execMulX (p : Pred) (t u : Tgt) (ty : Ty) (sat : Bool) (imm : Word32) (s : State) :
    Host.Outcome State Fault Refusal :=
  .next (s.compute (.mulX p t u ty sat imm) fun r => .scalar (ty.ext (ty.opMul sat r.l (ty.imm imm))))

/-- MUL, I form: type .n64 and the sign-extended immediate (R273). -/
def execMulI (p : Pred) (t : Tgt) (imm : BitVec 15) (s : State) :
    Host.Outcome State Fault Refusal :=
  .next (s.compute (.mulI p t imm) fun r => .scalar (Ty.ext .n64 (Ty.opMul .n64 false r.l (imm.signExtend 64))))

/-- MULH (R274). -/
def execMulh (p : Pred) (t u : Tgt) (ty : Ty) (s : State) :
    Host.Outcome State Fault Refusal :=
  .next (s.compute (.mulh p t u ty) fun r => .scalar (ty.ext (ty.opMulh r.l r.r)))

/-- MULH with an immediate (R19, R274). -/
def execMulhX (p : Pred) (t u : Tgt) (ty : Ty) (imm : Word32) (s : State) :
    Host.Outcome State Fault Refusal :=
  .next (s.compute (.mulhX p t u ty imm) fun r => .scalar (ty.ext (ty.opMulh r.l (ty.imm imm))))

/-- DIV (R275). -/
def execDiv (p : Pred) (t u : Tgt) (ty : Ty) (s : State) :
    Host.Outcome State Fault Refusal :=
  .next (s.compute (.div p t u ty) fun r => .scalar (ty.ext (ty.opDiv r.l r.r)))

/-- DIV with an immediate (R19, R275). -/
def execDivX (p : Pred) (t u : Tgt) (ty : Ty) (imm : Word32) (s : State) :
    Host.Outcome State Fault Refusal :=
  .next (s.compute (.divX p t u ty imm) fun r => .scalar (ty.ext (ty.opDiv r.l (ty.imm imm))))

/-- REM (R275). -/
def execRem (p : Pred) (t u : Tgt) (ty : Ty) (s : State) :
    Host.Outcome State Fault Refusal :=
  .next (s.compute (.rem p t u ty) fun r => .scalar (ty.ext (ty.opRem r.l r.r)))

/-- REM with an immediate (R19, R275). -/
def execRemX (p : Pred) (t u : Tgt) (ty : Ty) (imm : Word32) (s : State) :
    Host.Outcome State Fault Refusal :=
  .next (s.compute (.remX p t u ty imm) fun r => .scalar (ty.ext (ty.opRem r.l (ty.imm imm))))

/-- AND (R276). -/
def execAnd (p : Pred) (t u : Tgt) (ty : Ty) (s : State) :
    Host.Outcome State Fault Refusal :=
  .next (s.compute (.and p t u ty) fun r => .scalar (ty.ext (ty.opAnd r.l r.r)))

/-- AND with an immediate (R19, R276). -/
def execAndX (p : Pred) (t u : Tgt) (ty : Ty) (imm : Word32) (s : State) :
    Host.Outcome State Fault Refusal :=
  .next (s.compute (.andX p t u ty imm) fun r => .scalar (ty.ext (ty.opAnd r.l (ty.imm imm))))

/-- AND, I form: type .n64 and the sign-extended immediate (R273). -/
def execAndI (p : Pred) (t : Tgt) (imm : BitVec 15) (s : State) :
    Host.Outcome State Fault Refusal :=
  .next (s.compute (.andI p t imm) fun r => .scalar (Ty.ext .n64 (Ty.opAnd .n64 r.l (imm.signExtend 64))))

/-- OR (R276). -/
def execOr (p : Pred) (t u : Tgt) (ty : Ty) (s : State) :
    Host.Outcome State Fault Refusal :=
  .next (s.compute (.or p t u ty) fun r => .scalar (ty.ext (ty.opOr r.l r.r)))

/-- OR with an immediate (R19, R276). -/
def execOrX (p : Pred) (t u : Tgt) (ty : Ty) (imm : Word32) (s : State) :
    Host.Outcome State Fault Refusal :=
  .next (s.compute (.orX p t u ty imm) fun r => .scalar (ty.ext (ty.opOr r.l (ty.imm imm))))

/-- OR, I form: type .n64 and the sign-extended immediate (R273). -/
def execOrI (p : Pred) (t : Tgt) (imm : BitVec 15) (s : State) :
    Host.Outcome State Fault Refusal :=
  .next (s.compute (.orI p t imm) fun r => .scalar (Ty.ext .n64 (Ty.opOr .n64 r.l (imm.signExtend 64))))

/-- XOR (R276). -/
def execXor (p : Pred) (t u : Tgt) (ty : Ty) (s : State) :
    Host.Outcome State Fault Refusal :=
  .next (s.compute (.xor p t u ty) fun r => .scalar (ty.ext (ty.opXor r.l r.r)))

/-- XOR with an immediate (R19, R276). -/
def execXorX (p : Pred) (t u : Tgt) (ty : Ty) (imm : Word32) (s : State) :
    Host.Outcome State Fault Refusal :=
  .next (s.compute (.xorX p t u ty imm) fun r => .scalar (ty.ext (ty.opXor r.l (ty.imm imm))))

/-- XOR, I form: type .n64 and the sign-extended immediate (R273). -/
def execXorI (p : Pred) (t : Tgt) (imm : BitVec 15) (s : State) :
    Host.Outcome State Fault Refusal :=
  .next (s.compute (.xorI p t imm) fun r => .scalar (Ty.ext .n64 (Ty.opXor .n64 r.l (imm.signExtend 64))))

/-- ANDN (R276). -/
def execAndn (p : Pred) (t u : Tgt) (ty : Ty) (s : State) :
    Host.Outcome State Fault Refusal :=
  .next (s.compute (.andn p t u ty) fun r => .scalar (ty.ext (ty.opAndn r.l r.r)))

/-- ANDN with an immediate (R19, R276). -/
def execAndnX (p : Pred) (t u : Tgt) (ty : Ty) (imm : Word32) (s : State) :
    Host.Outcome State Fault Refusal :=
  .next (s.compute (.andnX p t u ty imm) fun r => .scalar (ty.ext (ty.opAndn r.l (ty.imm imm))))

/-- SHL (R276). -/
def execShl (p : Pred) (t u : Tgt) (ty : Ty) (s : State) :
    Host.Outcome State Fault Refusal :=
  .next (s.compute (.shl p t u ty) fun r => .scalar (ty.ext (ty.opShl r.l r.r)))

/-- SHL with an immediate (R19, R276). -/
def execShlX (p : Pred) (t u : Tgt) (ty : Ty) (imm : Word32) (s : State) :
    Host.Outcome State Fault Refusal :=
  .next (s.compute (.shlX p t u ty imm) fun r => .scalar (ty.ext (ty.opShl r.l (ty.imm imm))))

/-- SHL, I form: type .n64 and the sign-extended immediate (R273). -/
def execShlI (p : Pred) (t : Tgt) (imm : BitVec 15) (s : State) :
    Host.Outcome State Fault Refusal :=
  .next (s.compute (.shlI p t imm) fun r => .scalar (Ty.ext .n64 (Ty.opShl .n64 r.l (imm.signExtend 64))))

/-- SHR (R276). -/
def execShr (p : Pred) (t u : Tgt) (ty : Ty) (s : State) :
    Host.Outcome State Fault Refusal :=
  .next (s.compute (.shr p t u ty) fun r => .scalar (ty.ext (ty.opShr r.l r.r)))

/-- SHR with an immediate (R19, R276). -/
def execShrX (p : Pred) (t u : Tgt) (ty : Ty) (imm : Word32) (s : State) :
    Host.Outcome State Fault Refusal :=
  .next (s.compute (.shrX p t u ty imm) fun r => .scalar (ty.ext (ty.opShr r.l (ty.imm imm))))

/-- SHR, I form: type .n64 and the sign-extended immediate (R273). -/
def execShrI (p : Pred) (t : Tgt) (imm : BitVec 15) (s : State) :
    Host.Outcome State Fault Refusal :=
  .next (s.compute (.shrI p t imm) fun r => .scalar (Ty.ext .n64 (Ty.opShr .n64 r.l (imm.signExtend 64))))

/-- SAR (R276). -/
def execSar (p : Pred) (t u : Tgt) (ty : Ty) (s : State) :
    Host.Outcome State Fault Refusal :=
  .next (s.compute (.sar p t u ty) fun r => .scalar (ty.ext (ty.opSar r.l r.r)))

/-- SAR with an immediate (R19, R276). -/
def execSarX (p : Pred) (t u : Tgt) (ty : Ty) (imm : Word32) (s : State) :
    Host.Outcome State Fault Refusal :=
  .next (s.compute (.sarX p t u ty imm) fun r => .scalar (ty.ext (ty.opSar r.l (ty.imm imm))))

/-- SAR, I form: type .n64 and the sign-extended immediate (R273). -/
def execSarI (p : Pred) (t : Tgt) (imm : BitVec 15) (s : State) :
    Host.Outcome State Fault Refusal :=
  .next (s.compute (.sarI p t imm) fun r => .scalar (Ty.ext .n64 (Ty.opSar .n64 r.l (imm.signExtend 64))))

/-- ROT (R276). -/
def execRot (p : Pred) (t u : Tgt) (ty : Ty) (s : State) :
    Host.Outcome State Fault Refusal :=
  .next (s.compute (.rot p t u ty) fun r => .scalar (ty.ext (ty.opRot r.l r.r)))

/-- ROT with an immediate (R19, R276). -/
def execRotX (p : Pred) (t u : Tgt) (ty : Ty) (imm : Word32) (s : State) :
    Host.Outcome State Fault Refusal :=
  .next (s.compute (.rotX p t u ty imm) fun r => .scalar (ty.ext (ty.opRot r.l (ty.imm imm))))

/-- CLZ: the count as an unsigned value (R277). -/
def execClz (p : Pred) (t u : Tgt) (ty : Ty) (s : State) :
    Host.Outcome State Fault Refusal :=
  .next (s.compute (.clz p t u ty) fun r => .scalar (BitVec.ofNat 64 (ty.opClz r.l)))

/-- POPC: the count as an unsigned value (R277). -/
def execPopc (p : Pred) (t u : Tgt) (ty : Ty) (s : State) :
    Host.Outcome State Fault Refusal :=
  .next (s.compute (.popc p t u ty) fun r => .scalar (BitVec.ofNat 64 (ty.opPopc r.l)))

/-- EXT (R277). -/
def execExt (p : Pred) (t u : Tgt) (ty : Ty) (s : State) :
    Host.Outcome State Fault Refusal :=
  .next (s.compute (.ext p t u ty) fun r => .scalar (ty.ext (ty.opExt r.l)))

/-- MIN (R278). -/
def execMin (p : Pred) (t u : Tgt) (ty : Ty) (s : State) :
    Host.Outcome State Fault Refusal :=
  .next (s.compute (.min p t u ty) fun r => .scalar (ty.ext (ty.opMin r.l r.r)))

/-- MIN with an immediate (R19, R278). -/
def execMinX (p : Pred) (t u : Tgt) (ty : Ty) (imm : Word32) (s : State) :
    Host.Outcome State Fault Refusal :=
  .next (s.compute (.minX p t u ty imm) fun r => .scalar (ty.ext (ty.opMin r.l (ty.imm imm))))

/-- MAX (R278). -/
def execMax (p : Pred) (t u : Tgt) (ty : Ty) (s : State) :
    Host.Outcome State Fault Refusal :=
  .next (s.compute (.max p t u ty) fun r => .scalar (ty.ext (ty.opMax r.l r.r)))

/-- MAX with an immediate (R19, R278). -/
def execMaxX (p : Pred) (t u : Tgt) (ty : Ty) (imm : Word32) (s : State) :
    Host.Outcome State Fault Refusal :=
  .next (s.compute (.maxX p t u ty imm) fun r => .scalar (ty.ext (ty.opMax r.l (ty.imm imm))))

/-- CMP (R278). -/
def execCmp (p : Pred) (t u : Tgt) (ty : Ty) (c : Cond) (s : State) :
    Host.Outcome State Fault Refusal :=
  .next (s.compute (.cmp p t u ty c) fun r => .scalar (ty.opCmp c r.l r.r))

/-- CMP with an immediate (R19, R278). -/
def execCmpX (p : Pred) (t u : Tgt) (ty : Ty) (c : Cond) (imm : Word32) (s : State) :
    Host.Outcome State Fault Refusal :=
  .next (s.compute (.cmpX p t u ty c imm) fun r => .scalar (ty.opCmp c r.l (ty.imm imm)))

/-- SEL: the third operand at the gate input (R17, R279). -/
def execSel (t u : Tgt) (ty : Ty) (s : State) :
    Host.Outcome State Fault Refusal :=
  .next (s.compute (.sel t u ty) fun r => .scalar (ty.ext (ty.opSel r.l r.r r.g)))

/-- SEL with an immediate right value (R279). -/
def execSelX (t u : Tgt) (ty : Ty) (imm : Word32) (s : State) :
    Host.Outcome State Fault Refusal :=
  .next (s.compute (.selX t u ty imm) fun r => .scalar (ty.ext (ty.opSel r.l (ty.imm imm) r.g)))

/-- BFX (R280). -/
def execBfx (p : Pred) (t u : Tgt) (ty : Ty) (s : State) :
    Host.Outcome State Fault Refusal :=
  .next (s.compute (.bfx p t u ty) fun r => .scalar (ty.opBfx r.l r.r))

/-- BFX with an immediate control word (R280). -/
def execBfxX (p : Pred) (t u : Tgt) (ty : Ty) (imm : Word32) (s : State) :
    Host.Outcome State Fault Refusal :=
  .next (s.compute (.bfxX p t u ty imm) fun r => .scalar (ty.opBfx r.l (ty.imm imm)))

/-- BFI: the control word at the gate input (R17, R280). -/
def execBfi (t u : Tgt) (ty : Ty) (s : State) :
    Host.Outcome State Fault Refusal :=
  .next (s.compute (.bfi t u ty) fun r => .scalar (opBfi r.l r.r r.g))

/-- BFI with an immediate inserted value (R280). -/
def execBfiX (t u : Tgt) (ty : Ty) (imm : Word32) (s : State) :
    Host.Outcome State Fault Refusal :=
  .next (s.compute (.bfiX t u ty imm) fun r => .scalar (opBfi r.l (ty.imm imm) r.g))

/-- LEA (R281). -/
def execLea (p : Pred) (t u : Tgt) (ty : Ty) (sc : BitVec 4) (s : State) :
    Host.Outcome State Fault Refusal :=
  .next (s.compute (.lea p t u ty sc) fun r => .scalar (ty.opLea sc.toNat r.l r.r))

/-- LEA with an immediate index (R281). -/
def execLeaX (p : Pred) (t u : Tgt) (ty : Ty) (sc : BitVec 4) (imm : Word32) (s : State) :
    Host.Outcome State Fault Refusal :=
  .next (s.compute (.leaX p t u ty sc imm) fun r => .scalar (ty.opLea sc.toNat r.l (ty.imm imm)))

end Sys2Proof.Machine
end

