-- ==== Sys2Proof/Machine/Outside.lean ====
section
/-! DEFINITION. What comes from outside the module (R54 to R68, R80, R125, R126, R369, R391, R398, R401, R402, R447, R454 to
R457): the hosts' snoops and requests, peers, the chain source, errors, power, failures, the management port. Requests
are served at once; an answer is handed out. -/

namespace Sys2Proof.Machine

/-! ### Host snoops (R58, R428) -/

/-- Is a local line host memory behind a link trained as CXL? -/
def State.snooped (s : State) (line : Nat) : Bool :=
  match s.homeOf 0 (128 * line) with
  | .proxy l _ => s.hostUp l && s.hostIsCxl l
  | _ => false

/-- The answer to a snoop of a line. -/
def State.snoopAnswer (s : State) (line : Nat) : State := s.hand (.answer line 0)

/-- SNP_DATA: S copies of the device stay, and the host keeps S. -/
def execSnpData (line : Nat) (s : State) : Host.Outcome State Fault Refusal :=
  .next (if s.snooped line then (s.setHostLine line .s).snoopAnswer line else s)

/-- SNP_CUR: no state changes. -/
def execSnpCur (line : Nat) (s : State) : Host.Outcome State Fault Refusal :=
  .next (if s.snooped line then s.snoopAnswer line else s)

/-- The host's words of a line from one address on: each stays or is what the host has written, which is free. -/
def State.hostWords (s : State) (pa : Nat) : Nat → State
  | 0 => s
  | n + 1 => (s.hostWord pa).hostWords (pa + 8) n

/-- SNP_INV: every copy of the line leaves the module before the answer; the host owns the line and may write it. A
watched line is then read again, and its watches tested. -/
def execSnpInv (line : Nat) (s : State) : Host.Outcome State Fault Refusal :=
  .next (
    if !s.snooped line then s
    else
      let pa := s.global (128 * line)
      let s := (((s.dropLine (pa / 128)).setHostLine line .m).snoopAnswer line).hostWords pa 16
      if s.watched pa then (s.proxyWatch pa).notifyRange pa 128
      else s)

/-! ### Requests of hosts, peers and the management port -/

/-- Does an access reach an MMIO target otherwise than as one aligned access of 8 bytes (R450)? -/
def State.mmioBad (s : State) (d pa n : Nat) : Bool :=
  (n ≠ 8 || pa % 8 ≠ 0) && (pieces pa n (n / 128 + 2)).any fun p => match s.home d p.1 with
    | .mmio _ _ => true
    | _ => false

/-- A read of n bytes at an address, at the homes of its lines, or one MMIO register. -/
def State.outsideRead (s : State) (d : Nat) (m : Master) (pa n : Nat) : State :=
  if s.mmioBad d pa n then s.hand .refusedAnswer
  else
  match s.homeReadAll d m false (pieces pa n (n / 128 + 2)) with
  | (.ok b, s) => s.hand (.answer (Sys2Proof.ofBytes b) n)
  | (.error _, s) => s.hand .refusedAnswer

/-- Writes bytes piece by piece at their homes; a refused piece ends it. -/
def State.outsidePut (s : State) (d : Nat) (m : Master) : List (Nat × Nat) → List Byte → State
  | [], _ => s.hand (.answer 0 0)
  | (pa, n) :: l, b =>
    match s.homeWrite d m pa (b.take n) with
    | (.ok _, s) => s.outsidePut d m l (b.drop n)
    | (.error _, s) => s.hand .refusedAnswer

/-- A write at an address: one MMIO register, or bytes at their homes. -/
def State.outsideWrite (s : State) (d : Nat) (m : Master) (pa : Nat) (b : List Byte) : State :=
  if s.mmioBad d pa b.length then s.hand .refusedAnswer
  else
  match s.home d pa with
  | .mmio _ _ =>
    match s.regWrite d m pa b.length (BitVec.ofNat 64 (Sys2Proof.ofBytes b)) with
    | (.ok _, s) => s.hand (.answer 0 0)
    | (.error _, s) => s.hand .refusedAnswer
  | _ => s.outsidePut d m (pieces pa b.length (b.length / 128 + 2)) b

/-- How an atomic or counter operation from outside ends. -/
def outsideDone (r : Except AccErr (Nat × Nat) × State) (n : Nat) : State := match r with
  | (.ok v, s) => s.hand (.answer v.1 n)
  | (.error _, s) => s.hand .refusedAnswer

/-- A request from outside at an address, for a master that enters at a die (R63, R69). -/
def State.outside (s : State) (d : Nat) (m : Master) (pa : Nat) (op : ExtOp) : State :=
  match op with
  | .read n => s.outsideRead d m pa n
  | .write b => s.outsideWrite d m pa b
  | .atomic ty op r x =>
    if pa % ty.bytes = 0 then outsideDone (s.atomicAt d m pa ty op r x false) ty.bytes else s.hand .refusedAnswer
  | .ordered ty op r x stream seqNo =>
    if pa % ty.bytes = 0 then
      s.orderArrive ⟨⟨m, 1024 * d, 0, pa, ty, op, r, x, none, false⟩, stream, seqNo, 0, true, false⟩
    else s.hand .refusedAnswer
  | .counterAdd x => if pa % 8 = 0 then outsideDone (s.counterAt d m pa x) 8 else s.hand .refusedAnswer

/-- The master of a host's request (R59): context 0, or the context of a PASID. -/
def hostMaster (pasid : Option (BitVec 12)) : Master := ⟨pasid.getD 0, 5⟩

/-- The local address that an offset of a BAR reaches (R55). -/
def barAddr (bar off : Nat) : Option Nat :=
  if bar = 0 then (if off < 2 ^ 38 then some (0x1FC000000000 + off) else none)
  else if bar = 2 then (if off < 2 ^ 45 then some off else none)
  else if bar = 4 then (if off < 2 ^ 32 then some (0x1F8000000000 + off) else none)
  else none

/-- What a host may ask over PCI Express (R54, R55): reads, writes, and a 64-bit compare-and-swap or fetch-add, which
wraps. -/
def hostAsks (op : ExtOp) : Option ExtOp := match op with
  | .atomic ty .add r x => if ty = .n64 || ty = .s64 then some (.atomic .s64 .add r x) else none
  | .atomic ty .cas r x => if ty = .n64 || ty = .s64 then some (.atomic .s64 .cas r x) else none
  | .atomic .. | .ordered .. | .counterAdd _ => none
  | op => some op

/-- A request past the end of what BAR2 reaches: the host gets an Unsupported Request, and the target records an access
fault (R55). -/
def State.pastBar (s : State) (d : Nat) (m : Master) (a : Nat) : State :=
  (s.hand .refusedAnswer).report d ⟨.access, 0, false, m.ctx, 1024 * d, 0, BitVec.ofNat 64 (s.global a), 0, 0, 0, s.now⟩

/-- HOST_BAR_REQUEST (R55, R59, R447): a request through a BAR of a host link. -/
def execHostBarRequest (link bar off : Nat) (pasid : Option (BitVec 12)) (op : ExtOp) (s : State) :
    Host.Outcome State Fault Refusal :=
  .next (
    let d := proxyDie link
    if !s.hostUp link then s
    else
      match barAddr bar off, hostAsks op with
      | some a, some op =>
        if bar = 2 && 0x1E8000000000 ≤ a then s.pastBar d (hostMaster pasid) a
        else if bar = 0 && !(s.mmioAt 0 0x08).getLsbD 12 then s.hand .refusedAnswer
        else s.outside d (hostMaster pasid) (s.global a) op
      | _, _ => s.hand .refusedAnswer)

/-- HOST_CXL_MEM_REQUEST (R55, R59): the host reads or writes device memory, whose home records it as a sharer of a line that it
reads. -/
def execHostCxlMemRequest (link off : Nat) (pasid : Option (BitVec 12)) (op : ExtOp) (s : State) :
    Host.Outcome State Fault Refusal :=
  .next (
    let d := proxyDie link
    let pa := s.global off
    let hbm := off < 0x8000000000
    if !s.hostUp link || !s.hostIsCxl link then s
    else if !hbm && !(0x1F8000000000 ≤ off && off < 0x1F8100000000) then s.hand .refusedAnswer
    else
      match op with
      | .read n =>
        let t := s.outsideRead d (hostMaster pasid) pa n
        if t.out.getLast? ≠ some .refusedAnswer then
          (pieces off n (n / 128 + 2)).foldl (fun s p => s.hostShares (p.1 / 128)) t
        else t
      | .write b =>
        let s := (pieces off b.length (b.length / 128 + 2)).foldl (fun s p => s.hostDrops (p.1 / 128)) s
        s.outsideWrite d (hostMaster pasid) pa b
      | _ => s.hand .refusedAnswer)

/-! ### Peers (R62 to R65) -/

/-- A request for a system device that a peer has sent (R66, R460): this module's own is served here, any other goes on by
`peer.sroute`, under its own master. -/
def State.forwardSystem (s : State) (d : Nat) (m : Master) (dev a : Nat) (op : ExtOp) : State :=
  if dev = field (s.mmioAt 0 0x80).toNat 30 16 then s.outside d m (s.global a) op
  else
    let ask (need : Nat) (f : Nat → State → State) : State := match s.permitAway m dev a need with
      | (some p, s) => f p s
      | (none, s) => s.hand .refusedAnswer
    match op with
    | .read n => ask 1 fun p s =>
        (s.hand (.peer p m (systemAddr dev a) op)).hand (.answer (Sys2Proof.ofBytes (Memory.read s.mem (s.awayKey dev a) n)) n)
    | .write b => ask 2 fun p s =>
        ({ s with mem := Memory.write s.mem (s.awayKey dev a) b }.hand (.peer p m (systemAddr dev a) op)).hand (.answer 0 0)
    | _ => s.hand .refusedAnswer

/-- PEER_FLIT_RECEIVE: a flit whose CRC fails is sent again by the link, and one that its port has already taken is
discarded; the next one in order is served here, or goes on by this module's routes. An address from 2^60 on names a system
device. -/
def execPeerFlitReceive (port seq : Nat) (crcOk : Bool) (m : Master) (pa : Nat) (op : ExtOp) (s : State) :
    Host.Outcome State Fault Refusal :=
  .next (
    let due := (Tbl.get? port s.peerSeq).getD 0
    if !crcOk || seq ≠ due || (s.mmioAt 0 0x08).getLsbD (16 + port) then s
    else
      let s := { s with peerSeq := s.peerSeq.set port (due + 1) }
      if 2 ^ 60 ≤ pa then s.forwardSystem (port / 4 % 4) m (pa / 2 ^ 45 % 2 ^ 15) (pa % 2 ^ 45) op
      else s.outside (port / 4 % 4) m (pa % 2 ^ 54) op)

/-- Is a message an atomic, a counter add or an ordered atomic of a tile to an address? -/
def isAtomTo (t pa : Nat) (i : Instr) : Bool := match i with
  | .atomicAtHome r => r.tile = t && r.pa = pa
  | .counterAddAtHome r => r.tile = t && r.pa = pa
  | .orderedAtomicArrival r | .atomoRetryResend r => r.req.tile = t && r.req.pa = pa
  | _ => false

/-- A late fault of an MT (R384). -/
def State.mtLate (s : State) (t : Nat) (r : FaultRec) : State :=
  { s with mts := s.mts.modify t fun m => if m.late.isSome then m else { m with late := some (r, none) } }

/-- A request whose node waits for no answer to it any more. -/
def orphanReq (r : AtomReq) (t : Nat) : AtomReq := { r with tile := 1024 * dieOf t + 1, ret := none, held := false }

/-- The timed-out atomics of a tile have executed at their home exactly once or not at all, which is free (R65); an ordered one does so
in the order of its stream (R63, R116). -/
def State.atomsOut (s : State) (t pa : Nat) : State :=
  let (mine, rest) := s.agenda.partition (isAtomTo t pa)
  mine.foldl (fun s i =>
    let (c, s) := s.pick 2
    if c = 0 then s
    else
      match i with
      | .atomicAtHome r => (s.atomicAt (dieOf t) r.m r.pa r.ty r.op r.right r.third false).2
      | .counterAddAtHome r => (s.counterAt (dieOf t) r.m r.pa r.amount).2
      | .orderedAtomicArrival r | .atomoRetryResend r => s.post (.orderedAtomicArrival { r with req := orphanReq r.req t })
      | _ => s) { s with agenda := rest }

/-- Exactly once or not at all, which is free (R65). -/
def State.onceOrNot (s : State) (f : State → State) : State :=
  let (k, s) := s.pick 2
  if k = 0 then s else f s

/-- A timed-out completion add of an engine (R65). -/
def State.addOut (s : State) (d e q : Nat) (c : Cmd) : State :=
  s.onceOrNot fun s => (s.engAdd d e q c (dCctr c.words) c.amount).2

/-- The context of a software queue. -/
def State.queueCtx (s : State) (q : Nat) : BitVec 12 := ((s.qEntry q).map (·.ctx)).getD 0

/-- The timed-out completion of a launch of a queue: its status word was stored, and its counter add is over (R65, R359). -/
def State.launchOut (s : State) (d q pa : Nat) : State :=
  let c := s.queueCtx q
  let at_ (x : Launch) : Bool := s.physAt d c (pCctr x.words) = some pa
  match s.launches.find? fun p => !p.2.foreign && p.2.queue = q && p.2.die = d && s.launchOver p.1 p.2 && pCctr p.2.words ≠ 0 && at_ p.2 with
  | some p => { s.onceOrNot (fun s => (s.counterAt d ⟨c, 6⟩ pa 1).2) with launches := s.launches.erase p.1 }
  | none => s

/-- The timed-out add of a counter-add port: its token is over (R65). -/
def State.portAddOut (s : State) (t pa : Nat) : State :=
  match (List.range 4).find? fun p => s.portAddAt t p = some pa with
  | some p =>
    let n := ((s.portAddNext t p).map (·.2)).getD 0
    (s.onceOrNot fun s => (s.counterAt (dieOf t) ⟨s.ctxOfTile t, 0⟩ pa n).2).portAddGone t p
  | none => s

/-- The timed-out add of a network to its wave counter (R65, R326). -/
def State.waveOut (s : State) (d pa : Nat) : State :=
  match (s.die d).net.waveCtr with
  | some (c, ctx) => if c.pa = pa then s.onceOrNot fun s => (s.counterAt d ⟨ctx, 4⟩ pa 1).2 else s
  | none => s

/-- Is a message a value for a register of a tile? -/
def isValueTo (t : Nat) (i : Instr) : Bool := match i with
  | .registerValueArrive u _ _ => u = t
  | _ => false

/-- The request of a node that has timed out, where it is an LDA whose value was on its way: it is made again on resumption. A store
stays in the window, from which its release goes on, and an MT's read stays unanswered (R384). Which it is, is free (log 51). -/
def State.ldaOut (s : State) (t : Nat) : Option Instr × State :=
  let l := (List.range s.agenda.length).filter fun k => (s.agenda[k]?).any (isValueTo t)
  if l.isEmpty then (none, s)
  else
    let (c, s) := s.pick (l.length + 1)
    match l[c]? with
    | some k => (s.agenda[k]?, { s with agenda := s.agenda.eraseIdx k })
    | none => (none, s)

/-- PEER_REQUEST_TIMEOUT (R65, R384): a request to a peer that has no response within 50 µs ends with the link-timeout fault of
its requester. -/
def execPeerRequestTimeout (r : Requester) (pa : Nat) (atom : Bool) (s : State) : Host.Outcome State Fault Refusal :=
  .next (
    let detail : Word32 := if atom then BitVec.ofNat 32 (2 ^ 31) else 0
    let a : Word := BitVec.ofNat 64 pa
    if pa / 2 ^ 45 = s.dom then s
    else
      match r with
      | .node t =>
        let (i, s) := if atom then (none, s.atomsOut t pa) else s.ldaOut t
        s.modNode t fun n => if n.late.isSome then n else { n with late := some (n.record s.now .linkTimeout 1 a detail 0, i) }
      | .matrix t => s.modNode t fun n =>
        if n.mat.faulted.isSome then n
        else { n with mat := { n.mat with faulted := some (n.record s.now .linkTimeout 1 a detail 0) } }
      | .mt t => (if atom then s.portAddOut t pa else s).mtLate t (s.elemRecord t .linkTimeout 1 a detail 0)
      | .engine d e q =>
        match (s.engQ d e q).work with
        | some c =>
          let s := if atom then s.addOut d e q c else s
          s.engHaltWith d e q c .linkTimeout 1 a detail
        | none => s
      | .network d => (if atom then s.waveOut d pa else s).netHaltWith d .linkTimeout pa detail
      | .launch d q =>
        if atom then (s.launchOut d q pa).report d ⟨.linkTimeout, 1, false, s.queueCtx q, 1024 * d, 0, a, detail, 0, 0, s.now⟩
        else
        (s.report d ⟨.linkTimeout, 1, false, s.queueCtx q, 1024 * d, 0, a, detail, 0, 0, s.now⟩).setQueue d q
          { s.queueAt d q with aborted := some (pa / 65536) }
      | .taskRing d => s.report d ⟨.linkTimeout, 1, false, 0, 1024 * d, 0, a, detail, 0, 0, s.now⟩
      | .nobody => s)

/-- PEER_PORT_DOWN (R454). -/
def execPeerPortDown (port : Nat) (s : State) : Host.Outcome State Fault Refusal :=
  .next (if port < 16 then s.setMmio 0 0x08 (s.mmioAt 0 0x08 ||| BitVec.ofNat 64 (2 ^ (16 + port))) else s)

/-- HOST_LINK_DOWN (R454). -/
def execHostLinkDown (link : Nat) (s : State) : Host.Outcome State Fault Refusal :=
  .next (if link < 2 then s.setMmio 0 0x08 (s.mmioAt 0 0x08 &&& ~~~BitVec.ofNat 64 (2 ^ (14 + link))) else s)

/-- Is a local line homed on a second-tier port (R53)? -/
def onPort (port ln : Nat) : Bool := 0x8000000000 ≤ 128 * ln && 128 * ln < 0x1E8000000000 && portOf (128 * ln) = port

/-- T2_PORT_FAILURE (R61, R108, R454): a second-tier port stops responding. Its lines leave the L2, which recalls them from every L1;
every later access to a granule homed on it is an uncorrectable error, and the module is degraded. -/
def execT2PortFailure (port : Nat) (s : State) : Host.Outcome State Fault Refusal :=
  .next (
    if port < 8 then
      let s := (((s.die (port / 2)).l2.filter fun p => onPort port p.1).map (·.1)).foldl (fun s ln => s.l2Evict (port / 2) ln) s
      s.setMmio 0 0x08 (s.mmioAt 0 0x08 ||| BitVec.ofNat 64 (2 ^ (32 + port) + 2 ^ 4))
    else s)

/-! ### The chain tick (R67, R68) -/

/-- CHAIN_SYNC_EXCHANGE: before its first lock the module may set its tick forward in one step; afterwards it only changes its
rate. An exchange renews the lock. The spec does not say whether the device that is the chain's source counts as locked itself: it locks
by an exchange alone, like every other (DESIGN CHOICE, log 64). -/
def execChainSyncExchange (source : Word) (s : State) : Host.Outcome State Fault Refusal :=
  .next (
    let first := !s.locked && s.sinceSync = 0
    let now := if first && s.now.toNat < source.toNat then source else s.now
    { s with now := now, locked := true, sinceSync := 0 })

/-- CHAIN_SYNC_LOSS: no exchange has succeeded for 10 ms; a free die records the event (log 5). -/
def execChainSyncLoss (s : State) : Host.Outcome State Fault Refusal :=
  .next (
    if s.locked && 10000000 ≤ s.sinceSync then
      let (d, s) := { s with locked := false }.pick 4
      s.event d 0x0A 0 0 0 0
    else s)

/-! ### Errors (R80, R125, R391) -/

/-- Drops a clean copy of a line: the words of an L1 in E or S, a constant line, a line of an instruction cache or of an RDC, whose
next access fetches it again (R125). A dirty word of an L1 stays. -/
def State.dropClean (s : State) (t k : Nat) : State :=
  let l := s.l1 t k
  (s.setL1 t k { l with e := 0, s := 0 }).setL1 t (constKey k) L1Line.empty

/-- UNCORRECTABLE_ERROR: an element's error is one of its region; a line of memory is poisoned; an engine queue halts. An error that
its code corrects, or that strikes a clean copy, is counted alone (R80, R125). -/
def execUncorrectableError (site : ErrSite) (s : State) : Host.Outcome State Fault Refusal :=
  .next <| match site with
  | .tile t => match s.node? t with
    | some _ => s.poisonNode t 0
    | none => s.elemStop t (s.elemRecord t .uncorrectable 2 0 0 0)
  | .memory k =>
    let w := k / 128 * 16
    { s with poison := s.poison ++ ((List.range 16).map (w + ·)).filter fun p => !s.poison.contains p }
  | .engine d e q => match (s.engQ d e q).work with
    | some c => s.engHalt d e q c .uncorrectable 1 0
    | none => s
  | .cleanL1 t k => (s.dropClean t k).event (dieOf t) 0x02 0 t 0 0
  | .cleanCode t k => (s.setCache t { s.cache t with ic := codeGone (s.cache t).ic fun l => l = k }).event (dieOf t) 0x02 0 t 0 0
  | .cleanRdc d k => (s.modDie d fun x => { x with rdc := copiesGone x.rdc fun l => l = k }).event d 0x02 0 0 0 0
  | .corrected d n => s.event d 0x02 0 0 (BitVec.ofNat 64 n) 0

/-! ### Clocks, power, heat (R369, R455, R456) -/

/-- A patch of a die. -/
def Die.patch (x : Die) (p : Nat) : Patch := x.patches.getD p ⟨0, [], 0, 0⟩

/-- Eighths of a period that the stretches of a patch's last 1,024 cycles hold. -/
def Patch.used (x : Patch) : Nat := x.recent.foldl (fun a r => a + r.2) 0

/-- Has the next cycle of a patch been lengthened already? -/
def Patch.stretched (x : Patch) : Bool := x.recent.any fun r => r.1 = 0

/-- DROOP_STRETCH: the next cycle of an elastic patch is lengthened by 1/8 to 4/8, within 256 periods in any 1,024 cycles; a stretch of
3/8 or more writes an event, and a lesser one is counted. Droop stretches come before a ceiling's lengthening, which takes what they
leave and shows in no state (R456). -/
def execDroopStretch (d p eighths : Nat) (s : State) : Host.Outcome State Fault Refusal :=
  .next (
    let x := (s.die d).patch p
    if eighths = 0 || 4 < eighths || 0 < x.pinned || x.stretched || 2048 < x.used + eighths then s
    else
      let x := { x with recent := (0, eighths) :: x.recent, count := x.count + 1 }
      let s := s.modDie d fun y => { y with patches := y.patches.set p x, stretches := y.stretches + b2n (eighths < 3) }
      if 3 ≤ eighths then s.event d 0x09 0 0 0 0 else s)

/-- Steps of a ceiling from nominal down to 1.64 GHz: the seventh is cut short. -/
def floorSteps : Nat := 7

/-- The patches of a die (R2). -/
def diePatches : List Nat := List.range 64

/-- Changes the ceiling of every elastic patch of the module. What of the budget of R369 the stretches of a window leave is the
ceiling's: it takes nothing from them. -/
def State.ceilings (s : State) (f : Nat → Nat) : State :=
  { s with dies := s.dies.map fun x => { x with patches := diePatches.foldl (fun l p =>
      let y := x.patch p
      if 0 < y.pinned then l
      else
        let z := { y with below := f y.below }
        if z = ⟨0, [], 0, 0⟩ then l.erase p else l.set p z) x.patches } }

/-- Has every elastic patch reached its floor? -/
def State.allFloor (s : State) : Bool :=
  s.dies.toList.all fun x => diePatches.all fun p => 0 < (x.patch p).pinned || floorSteps ≤ (x.patch p).below

/-- A thermal trip (R456): every clock stops, trip is set, and the event recorders freeze with a fatal event. -/
def State.trip (s : State) : State :=
  let s := s.setMmio 0 0x08 (s.mmioAt 0 0x08 ||| BitVec.ofNat 64 (2 ^ 40))
  { s.fatal with clocksStopped := true }

/-- POWER_CEILING_ADJUST (R455, R456): every 10 µs the power and the temperature are taken, and every elastic ceiling is lowered or
raised by one step; `floorMs` counts the spells of 10 µs through which all have stood at the floor, and at 110 °C the module trips. -/
def execPowerCeilingAdjust (watts celsius : Nat) (s : State) : Host.Outcome State Fault Refusal :=
  .next (
    let lim := (s.mmioAt 0 0x18).toNat
    let s := (s.setMmio 0 0x20 (BitVec.ofNat 64 (watts % 65536))).setMmio 0 0x28 (BitVec.ofNat 64 (celsius % 256))
    let above := lim < watts || 100 < celsius
    let stood := s.allFloor
    let s :=
      if above then s.ceilings fun b => Nat.min floorSteps (b + 1)
      else if 100 * watts < 98 * lim && celsius ≤ 95 then s.ceilings fun b => b - 1
      else s
    let low := s.dies.toList.any fun x => diePatches.any fun p => 0 < (x.patch p).below
    let h := s.mmioAt 0 0x08
    let bit : Word := BitVec.ofNat 64 (2 ^ 13)
    let s := s.setMmio 0 0x08 (if low then h ||| bit else h &&& ~~~bit)
    let s := { s with floorMs := if stood && s.allFloor then s.floorMs + 1 else 0 }
    if 110 ≤ celsius then s.trip else s)

/-- THERMAL_TRIP: at 110 °C the module trips. -/
def execThermalTrip (s : State) : Host.Outcome State Fault Refusal := .next s.trip

/-! ### Failure of a die (R126, R398) -/

/-- The regions that run other replicas of a region on dies that have not failed. -/
def State.survivors (s : State) (h : Nat) : List Nat :=
  match s.reg h with
  | none => []
  | some r => (s.regions.filter fun p =>
      let x := p.2
      p.1 ≠ h && x.launch = r.launch && x.rank = r.rank && x.isTask = r.isTask && !s.dieDead x.die
        && (!r.isTask || (match r.elems, x.elems with
          | t :: _, u :: _ => s.groupOf t = s.groupOf u
          | _, _ => false))).map (·.1)

/-- A region with an element on the failed die ends: the other two of three go on as a pair, led by the lower where the
leader has gone; otherwise it is aborted. -/
def State.lostRegion (s : State) (h : Nat) : State :=
  match s.reg h with
  | none => s
  | some r =>
    match s.survivors h with
    | a :: b :: _ =>
      let rank (k : Nat) : Nat := ((s.reg k).map (·.replica)).getD 0
      let lead := if rank a < rank b then a else b
      let s :=
        if s.leads h then
          let s := s.setLead lead true
          s.moveReports [a, b] ((s.reg lead).map (·.die) |>.getD 0)
        else s
      if r.isTask then s.endTask h else s.endRegion h
    | _ => s.abortRegion h

/-- The copies in L1s and RDCs of the lines that a test names go; a pin of the RDC stays (R123, R126). -/
def State.copiesDrop (s : State) (f : Nat → Bool) : State :=
  { s with dies := s.dies.map fun x => { x with
    rdc := copiesGone x.rdc fun k => f (k * 128)
    tiles := x.tiles.mapAll fun _ c => { c with l1 := c.l1.filter fun p => !f (p.1 % 2 ^ 50 * 128) } } }

/-- DIE_FAILURE: the lines homed on the die are lost, the other dies drop their L1 and RDC copies, and the module is degraded. -/
def execDieFailure (d : Nat) (s : State) : Host.Outcome State Fault Refusal :=
  .next (
    if 4 ≤ d || s.dieDead d then s
    else
      let s := s.setMmio 0 0x08 (s.mmioAt 0 0x08 ||| BitVec.ofNat 64 (2 ^ d + 2 ^ 4))
      let s := s.copiesDrop fun a => match s.home 0 a with
        | .slice h _ => h = d
        | _ => false
      let hs := (s.regions.filter fun p => p.2.elems.any fun t => dieOf t = d).map (·.1)
      hs.foldl (fun s h => s.lostRegion h) s)

/-! ### Alarm, reset, management port (R401, R447, R457) -/

/-- SECURITY_ALARM: a source raises the alarm; a failed debug unlock only with the third in a row, with none between
that succeeded. -/
def execSecurityAlarm (src : AlarmSrc) (s : State) : Host.Outcome State Fault Refusal :=
  .next <| match src with
  | .tamper => s.alarm 7
  | .glitch => s.alarm 6
  | .privRefusal => s.alarm 5
  | .debugUnlock =>
    if 2 ≤ s.debugFails then { s with debugFails := 0 }.alarm 4 else { s with debugFails := s.debugFails + 1 }
  | .debugUnlocked => { s with debugFails := 0 }

/-- RESET: the module's reset pin. -/
def execReset (s : State) : Host.Outcome State Fault Refusal := .next s.rebooted

/-- The master of the management port (R457). -/
def mgmtMaster : Master := ⟨0, 7⟩

/-- The address of an offset of the MMIO window. -/
def State.mmioAddr (s : State) (off : Nat) : Nat := s.global (0x1FC000000000 + off % 2 ^ 38)

/-- MGMT_MMIO_READ. -/
def execMgmtMmioRead (off : Nat) (s : State) : Host.Outcome State Fault Refusal :=
  .next (s.outsideRead (off / 2 ^ 36 % 4) mgmtMaster (s.mmioAddr off) 8)

/-- MGMT_MMIO_WRITE. -/
def execMgmtMmioWrite (off : Nat) (x : Word) (s : State) : Host.Outcome State Fault Refusal :=
  .next (
    match s.regWrite (off / 2 ^ 36 % 4) mgmtMaster (s.mmioAddr off) 8 x with
    | (.ok _, s) => s.hand (.answer 0 0)
    | (.error _, s) => s.hand .refusedAnswer)

/-- MCTP_CONTROL_MESSAGE: the endpoint answers a control message. -/
def execMctpControlMessage (cmd : Byte) (s : State) : Host.Outcome State Fault Refusal := .next (s.hand (.mctp cmd))

end Sys2Proof.Machine
end

