-- ==== Sys2Proof/Machine/VecAlu.lean ====
section
/-! DEFINITION. Vector computations (R259, R290 to R298) and the orders of R250. -/

namespace Sys2Proof

/-- Lane i as a number. -/
def laneN (v : Vec) (i : Nat) : Nat := (lane v i).toNat

/-- Lane i as an operand of the scalar computation at its width. -/
def laneW (v : Vec) (i : Nat) : Word := (lane v i).setWidth 64

/-- The vector whose lane i holds the number f i. -/
def ofLaneNats (f : Nat → Nat) : Vec := ofLanes fun i => BitVec.ofNat 32 (f i)

/-- The operation of VRED and VSCAN on two elements (R250). -/
def Ty.redStep (t : Ty) (op : RedOp) (a b : Nat) : Nat :=
  let x : Word := BitVec.ofNat 64 a
  let y : Word := BitVec.ofNat 64 b
  if t.isInt then
    match op with
    | .add => (t.opAdd false x y).toNat
    | .min => (t.opMin x y).toNat
    | .max => (t.opMax x y).toNat
  else
    match op with
    | .add => t.fpAdd rne 0 a b
    | .min => t.fpMin a b
    | .max => t.fpMax a b

/-- The identity with which an inactive lane enters (R250). -/
def Ty.redUnit (t : Ty) (op : RedOp) : Nat :=
  if t.isInt then
    match op with
    | .add => 0
    | .min => (t.wrap t.hi).toNat
    | .max => (t.wrap t.lo).toNat
  else
    match op with
    | .add => t.signBit
    | .min => t.maxFin + 1
    | .max => t.maxFin + 1 + t.signBit

/-- The lanes that enter, element by element (R295). -/
def Ty.redLanes (t : Ty) (op : RedOp) (v : Vec) (mask : Word) : List Nat :=
  (List.range 32).map fun i => if mask.getLsbD i then laneN v i % 2 ^ t.width else t.redUnit op

/-- One level of the balanced tree of R250. -/
def pairUp (f : Nat → Nat → Nat) : List Nat → List Nat
  | a :: b :: t => f a b :: pairUp f t
  | l => l

/-- VRED (R250, R295): five levels reduce 32 lanes to one. -/
def Ty.vecRed (t : Ty) (op : RedOp) (v : Vec) (mask : Word) : Nat :=
  let f := t.redStep op
  (pairUp f (pairUp f (pairUp f (pairUp f (pairUp f (t.redLanes op v mask)))))).headD 0

/-- One step of the scan of R250 at distance d. -/
def scanStep (f : Nat → Nat → Nat) (d : Nat) (y : List Nat) : List Nat :=
  (List.range 32).map fun i => if d ≤ i then f (y.getD (i - d) 0) (y.getD i 0) else y.getD i 0

/-- A floating-point result that is NaN is its format's canonical NaN (R241); an integer stays. -/
def Ty.canon (t : Ty) (x : Nat) : Nat := if !t.isInt && (t.dec x).isNan then t.nanBits else x

/-- VSCAN (R250, R295); lane 0, which nothing is combined with, is a result too (R241). -/
def Ty.vecScan (t : Ty) (op : RedOp) (v : Vec) (mask : Word) : Vec :=
  let f := t.redStep op
  let y := scanStep f 16 (scanStep f 8 (scanStep f 4 (scanStep f 2 (scanStep f 1 (t.redLanes op v mask)))))
  ofLaneNats fun i => t.canon (y.getD i 0)

/-- VIOP: each lane as the scalar instruction of the same name computes it at width w (R298). -/
def Ty.vop (t : Ty) (op : VOp) (l r : Word) : Nat :=
  match op with
  | .add => (t.opAdd false l r).toNat
  | .sub => (t.opSub false l r).toNat
  | .mul => (t.opMul false l r).toNat
  | .and => (t.opAnd l r).toNat
  | .or => (t.opOr l r).toNat
  | .xor => (t.opXor l r).toNat
  | .andn => (t.opAndn l r).toNat
  | .shl => (t.opShl l r).toNat
  | .shr => (t.opShr l r).toNat
  | .sar => (t.opSar l r).toNat
  | .min => (t.opMin l r).toNat
  | .max => (t.opMax l r).toNat
  | .popc => t.opPopc l
  | .clz => t.opClz l
  | .mulh => (t.opMulh l r).toNat

/-- The mask of the lanes of which a relation holds (R292). -/
def maskOf (f : Nat → Bool) : Word :=
  BitVec.ofNat 64 ((List.range 32).foldr (fun i a => b2n (f i) + 2 * a) 0)

/-- VCMP (R292). -/
def Ty.vecCmp (t : Ty) (c : Cond) (l r : Vec) : Word :=
  maskOf fun i =>
    if t.isInt then c.holdsInt (t.val (laneW l i)) (t.val (laneW r i))
    else t.fpCmp c (laneN l i) (laneN r i)

/-- VSEL: whole lanes (R292). -/
def vecSel (l r : Vec) (mask : Word) : Vec := ofLanes fun i => if mask.getLsbD i then lane l i else lane r i

/-- VSHUF (R296). -/
def vecShuf (l r : Vec) : Vec := ofLanes fun i => lane l (laneN r i % 32)

/-- The width of a type's element in VBCAST, VLUT and token lanes: .e2m1 counts as 8 bits (R290). -/
def Ty.laneWidth (t : Ty) : Nat := if t = .e2m1 then 8 else t.width

/-- VBCAST (R296). -/
def Ty.vecBcast (t : Ty) (x : Word) : Vec := ofLaneNats fun _ => x.toNat % 2 ^ t.laneWidth

/-- VLUT: entries packed in the right vector from bit 0 (R296). -/
def Ty.vecLut (t : Ty) (l r : Vec) : Vec :=
  let w := t.laneWidth
  ofLaneNats fun i => r.toNat / 2 ^ (w * (laneN l i % (1024 / w))) % 2 ^ w

end Sys2Proof
end

