-- ==== Sys2Proof/Machine/Vector.lean ====
section
/-! DEFINITION. The vector instructions (R290 to R298). -/

namespace Sys2Proof

/-- VRED's result as a scalar: out() for an integer, bits above 0 for a float (R295). -/
def Ty.redOut (t : Ty) (x : Nat) : Word :=
  if t.isInt then t.ext (BitVec.ofNat t.width x) else BitVec.ofNat 64 x

end Sys2Proof

namespace Sys2Proof.Machine

open Sys2Proof

/-- A vector result from what each lane holds (R290). -/
def lanesVal (f : Nat → Nat) : Val := .vector (ofLaneNats f)

/-- VADD (R291). -/
def execVadd (p : Pred) (t u : Tgt) (ty : Ty) (md : FMod) (s : State) :
    Host.Outcome State Fault Refusal :=
  .next (s.fire (.vadd p t u ty md) fun n r => s.emit (.vadd p t u ty md) (lanesVal fun i => ty.fpAdd md (n.draw n.slot i) (laneN r.lv i) (laneN r.rv i)))

/-- VSUB (R291). -/
def execVsub (p : Pred) (t u : Tgt) (ty : Ty) (md : FMod) (s : State) :
    Host.Outcome State Fault Refusal :=
  .next (s.fire (.vsub p t u ty md) fun n r => s.emit (.vsub p t u ty md) (lanesVal fun i => ty.fpSub md (n.draw n.slot i) (laneN r.lv i) (laneN r.rv i)))

/-- VMUL (R291). -/
def execVmul (p : Pred) (t u : Tgt) (ty : Ty) (md : FMod) (s : State) :
    Host.Outcome State Fault Refusal :=
  .next (s.fire (.vmul p t u ty md) fun n r => s.emit (.vmul p t u ty md) (lanesVal fun i => ty.fpMul md (n.draw n.slot i) (laneN r.lv i) (laneN r.rv i)))

/-- VFMA: the third operand at the gate input (R17, R291). -/
def execVfma (t u : Tgt) (ty : Ty) (md : FMod) (s : State) :
    Host.Outcome State Fault Refusal :=
  .next (s.fire (.vfma t u ty md) fun n r => s.emit (.vfma t u ty md) (lanesVal fun i => ty.fpFma md (n.draw n.slot i) (laneN r.lv i) (laneN r.rv i) (laneN r.gv i)))

/-- VMIN (R291). -/
def execVmin (p : Pred) (t u : Tgt) (ty : Ty) (s : State) :
    Host.Outcome State Fault Refusal :=
  .next (s.compute (.vmin p t u ty) fun r => lanesVal fun i => ty.fpMin (laneN r.lv i) (laneN r.rv i))

/-- VMAX (R291). -/
def execVmax (p : Pred) (t u : Tgt) (ty : Ty) (s : State) :
    Host.Outcome State Fault Refusal :=
  .next (s.compute (.vmax p t u ty) fun r => lanesVal fun i => ty.fpMax (laneN r.lv i) (laneN r.rv i))

/-- VCMP (R292). -/
def execVcmp (p : Pred) (t u : Tgt) (ty : Ty) (c : Cond) (s : State) :
    Host.Outcome State Fault Refusal :=
  .next (s.compute (.vcmp p t u ty c) fun r => .scalar (ty.vecCmp c r.lv r.rv))

/-- VSEL: the mask at the gate input (R17, R292). -/
def execVsel (t u : Tgt) (ty : Ty) (s : State) :
    Host.Outcome State Fault Refusal :=
  .next (s.compute (.vsel t u ty) fun r => .vector (vecSel r.lv r.rv r.g))

/-- VCVT (R293). -/
def execVcvt (p : Pred) (t u : Tgt) (dty sty : Ty) (md : FMod) (s : State) :
    Host.Outcome State Fault Refusal :=
  .next (s.fire (.vcvt p t u dty sty md) fun n r => s.emit (.vcvt p t u dty sty md) (lanesVal fun i => dty.opCvtLane sty md (n.draw n.slot i) (laneW r.lv i)))

/-- VEXP2 (R252, R294). -/
def execVexp2 (p : Pred) (t u : Tgt) (ty : Ty) (md : FMod) (s : State) :
    Host.Outcome State Fault Refusal :=
  .next (s.fire (.vexp2 p t u ty md) fun n r => s.emit (.vexp2 p t u ty md) (lanesVal fun i => ty.fpExp2 md (n.draw n.slot i) (laneN r.lv i)))

/-- VLOG2 (R253, R294). -/
def execVlog2 (p : Pred) (t u : Tgt) (ty : Ty) (md : FMod) (s : State) :
    Host.Outcome State Fault Refusal :=
  .next (s.fire (.vlog2 p t u ty md) fun n r => s.emit (.vlog2 p t u ty md) (lanesVal fun i => ty.fpLog2 md (n.draw n.slot i) (laneN r.lv i)))

/-- VRCP (R254, R294). -/
def execVrcp (p : Pred) (t u : Tgt) (ty : Ty) (md : FMod) (s : State) :
    Host.Outcome State Fault Refusal :=
  .next (s.fire (.vrcp p t u ty md) fun n r => s.emit (.vrcp p t u ty md) (lanesVal fun i => ty.fpRcp md (n.draw n.slot i) (laneN r.lv i)))

/-- VRSQ (R255, R294). -/
def execVrsq (p : Pred) (t u : Tgt) (ty : Ty) (md : FMod) (s : State) :
    Host.Outcome State Fault Refusal :=
  .next (s.fire (.vrsq p t u ty md) fun n r => s.emit (.vrsq p t u ty md) (lanesVal fun i => ty.fpRsq md (n.draw n.slot i) (laneN r.lv i)))

/-- VRED (R250, R295). -/
def execVred (p : Pred) (t u : Tgt) (ty : Ty) (op : RedOp) (s : State) :
    Host.Outcome State Fault Refusal :=
  .next (s.compute (.vred p t u ty op) fun r => .scalar (ty.redOut (ty.vecRed op r.lv r.r)))

/-- VSCAN (R250, R295). -/
def execVscan (p : Pred) (t u : Tgt) (ty : Ty) (op : RedOp) (s : State) :
    Host.Outcome State Fault Refusal :=
  .next (s.compute (.vscan p t u ty op) fun r => .vector (ty.vecScan op r.lv r.r))

/-- VSHUF (R296). -/
def execVshuf (p : Pred) (t u : Tgt) (s : State) :
    Host.Outcome State Fault Refusal :=
  .next (s.compute (.vshuf p t u) fun r => .vector (vecShuf r.lv r.rv))

/-- VBCAST (R296). -/
def execVbcast (p : Pred) (t u : Tgt) (ty : Ty) (s : State) :
    Host.Outcome State Fault Refusal :=
  .next (s.compute (.vbcast p t u ty) fun r => .vector (ty.vecBcast r.l))

/-- VSCALE (R297). -/
def execVscale (p : Pred) (t u : Tgt) (ty : Ty) (s : State) :
    Host.Outcome State Fault Refusal :=
  .next (s.compute (.vscale p t u ty) fun r => lanesVal fun i => ty.fpScale (laneN r.lv i) (laneN r.rv i))

/-- VLUT (R296). -/
def execVlut (p : Pred) (t u : Tgt) (ty : Ty) (s : State) :
    Host.Outcome State Fault Refusal :=
  .next (s.compute (.vlut p t u ty) fun r => .vector (ty.vecLut r.lv r.rv))

/-- VIOP (R298). -/
def execViop (p : Pred) (t u : Tgt) (ty : Ty) (op : VOp) (s : State) :
    Host.Outcome State Fault Refusal :=
  .next (s.compute (.viop p t u ty op) fun r => lanesVal fun i => ty.vop op (laneW r.lv i) (laneW r.rv i))

end Sys2Proof.Machine
end

