-- ==== Sys2Proof/Machine/Dispatch.lean ====
section
/-! DEFINITION. One arm per constructor of Instr: the direct call of its meaning. -/

namespace Sys2Proof.Machine

open Sys2Proof

/-- The effect of one instruction or step. -/
def exec (i : Instr) (s : State) : Host.Outcome State Fault Refusal :=
  match i with
  | .null p t u => Sys2Proof.Machine.execNull p t u s
  | .mov p t u => Sys2Proof.Machine.execMov p t u s
  | .movi p t imm => Sys2Proof.Machine.execMovi p t imm s
  | .movi32 p t u zx imm => Sys2Proof.Machine.execMovi32 p t u zx imm s
  | .moviHi p t u imm => Sys2Proof.Machine.execMoviHi p t u imm s
  | .exit p => Sys2Proof.Machine.execExit p s
  | .br p disp => Sys2Proof.Machine.execBr p disp s
  | .bri p => Sys2Proof.Machine.execBri p s
  | .call p disp => Sys2Proof.Machine.execCall p disp s
  | .calli p => Sys2Proof.Machine.execCalli p s
  | .ret p => Sys2Proof.Machine.execRet p s
  | .halt p => Sys2Proof.Machine.execHalt p s
  | .rd p t u n => Sys2Proof.Machine.execRd p t u n s
  | .rdT p t u n => Sys2Proof.Machine.execRdT p t u n s
  | .rdv p t u n => Sys2Proof.Machine.execRdv p t u n s
  | .rdvT p t u n => Sys2Proof.Machine.execRdvT p t u n s
  | .rdp p t u n => Sys2Proof.Machine.execRdp p t u n s
  | .rdpT p t u n => Sys2Proof.Machine.execRdpT p t u n s
  | .wr p n => Sys2Proof.Machine.execWr p n s
  | .wrv p n => Sys2Proof.Machine.execWrv p n s
  | .wrp p n => Sys2Proof.Machine.execWrp p n s
  | .recv p t u port => Sys2Proof.Machine.execRecv p t u port s
  | .send p port => Sys2Proof.Machine.execSend p port s
  | .sendt p port => Sys2Proof.Machine.execSendt p port s
  | .tagof p t u port => Sys2Proof.Machine.execTagof p t u port s
  | .settag p port => Sys2Proof.Machine.execSettag p port s
  | .edgeset p port => Sys2Proof.Machine.execEdgeset p port s
  | .add p t u ty sat => Sys2Proof.Machine.execAdd p t u ty sat s
  | .addX p t u ty sat imm => Sys2Proof.Machine.execAddX p t u ty sat imm s
  | .addI p t imm => Sys2Proof.Machine.execAddI p t imm s
  | .sub p t u ty sat => Sys2Proof.Machine.execSub p t u ty sat s
  | .subX p t u ty sat imm => Sys2Proof.Machine.execSubX p t u ty sat imm s
  | .mul p t u ty sat => Sys2Proof.Machine.execMul p t u ty sat s
  | .mulX p t u ty sat imm => Sys2Proof.Machine.execMulX p t u ty sat imm s
  | .mulI p t imm => Sys2Proof.Machine.execMulI p t imm s
  | .mulh p t u ty => Sys2Proof.Machine.execMulh p t u ty s
  | .mulhX p t u ty imm => Sys2Proof.Machine.execMulhX p t u ty imm s
  | .div p t u ty => Sys2Proof.Machine.execDiv p t u ty s
  | .divX p t u ty imm => Sys2Proof.Machine.execDivX p t u ty imm s
  | .rem p t u ty => Sys2Proof.Machine.execRem p t u ty s
  | .remX p t u ty imm => Sys2Proof.Machine.execRemX p t u ty imm s
  | .and p t u ty => Sys2Proof.Machine.execAnd p t u ty s
  | .andX p t u ty imm => Sys2Proof.Machine.execAndX p t u ty imm s
  | .andI p t imm => Sys2Proof.Machine.execAndI p t imm s
  | .or p t u ty => Sys2Proof.Machine.execOr p t u ty s
  | .orX p t u ty imm => Sys2Proof.Machine.execOrX p t u ty imm s
  | .orI p t imm => Sys2Proof.Machine.execOrI p t imm s
  | .xor p t u ty => Sys2Proof.Machine.execXor p t u ty s
  | .xorX p t u ty imm => Sys2Proof.Machine.execXorX p t u ty imm s
  | .xorI p t imm => Sys2Proof.Machine.execXorI p t imm s
  | .andn p t u ty => Sys2Proof.Machine.execAndn p t u ty s
  | .andnX p t u ty imm => Sys2Proof.Machine.execAndnX p t u ty imm s
  | .shl p t u ty => Sys2Proof.Machine.execShl p t u ty s
  | .shlX p t u ty imm => Sys2Proof.Machine.execShlX p t u ty imm s
  | .shlI p t imm => Sys2Proof.Machine.execShlI p t imm s
  | .shr p t u ty => Sys2Proof.Machine.execShr p t u ty s
  | .shrX p t u ty imm => Sys2Proof.Machine.execShrX p t u ty imm s
  | .shrI p t imm => Sys2Proof.Machine.execShrI p t imm s
  | .sar p t u ty => Sys2Proof.Machine.execSar p t u ty s
  | .sarX p t u ty imm => Sys2Proof.Machine.execSarX p t u ty imm s
  | .sarI p t imm => Sys2Proof.Machine.execSarI p t imm s
  | .rot p t u ty => Sys2Proof.Machine.execRot p t u ty s
  | .rotX p t u ty imm => Sys2Proof.Machine.execRotX p t u ty imm s
  | .clz p t u ty => Sys2Proof.Machine.execClz p t u ty s
  | .popc p t u ty => Sys2Proof.Machine.execPopc p t u ty s
  | .min p t u ty => Sys2Proof.Machine.execMin p t u ty s
  | .minX p t u ty imm => Sys2Proof.Machine.execMinX p t u ty imm s
  | .max p t u ty => Sys2Proof.Machine.execMax p t u ty s
  | .maxX p t u ty imm => Sys2Proof.Machine.execMaxX p t u ty imm s
  | .cmp p t u ty c => Sys2Proof.Machine.execCmp p t u ty c s
  | .cmpX p t u ty c imm => Sys2Proof.Machine.execCmpX p t u ty c imm s
  | .sel t u ty => Sys2Proof.Machine.execSel t u ty s
  | .selX t u ty imm => Sys2Proof.Machine.execSelX t u ty imm s
  | .ext p t u ty => Sys2Proof.Machine.execExt p t u ty s
  | .bfx p t u ty => Sys2Proof.Machine.execBfx p t u ty s
  | .bfxX p t u ty imm => Sys2Proof.Machine.execBfxX p t u ty imm s
  | .bfi t u ty => Sys2Proof.Machine.execBfi t u ty s
  | .bfiX t u ty imm => Sys2Proof.Machine.execBfiX t u ty imm s
  | .lea p t u ty sc => Sys2Proof.Machine.execLea p t u ty sc s
  | .leaX p t u ty sc imm => Sys2Proof.Machine.execLeaX p t u ty sc imm s
  | .fadd p t u ty md => Sys2Proof.Machine.execFadd p t u ty md s
  | .fsub p t u ty md => Sys2Proof.Machine.execFsub p t u ty md s
  | .fmul p t u ty md => Sys2Proof.Machine.execFmul p t u ty md s
  | .fma t u ty md => Sys2Proof.Machine.execFma t u ty md s
  | .fdiv p t u ty md => Sys2Proof.Machine.execFdiv p t u ty md s
  | .fsqrt p t u ty md => Sys2Proof.Machine.execFsqrt p t u ty md s
  | .fmin p t u ty => Sys2Proof.Machine.execFmin p t u ty s
  | .fmax p t u ty => Sys2Proof.Machine.execFmax p t u ty s
  | .fcmp p t u ty c => Sys2Proof.Machine.execFcmp p t u ty c s
  | .fcvt p t u dty sty md => Sys2Proof.Machine.execFcvt p t u dty sty md s
  | .fclass p t u ty => Sys2Proof.Machine.execFclass p t u ty s
  | .fsgn p t u ty op => Sys2Proof.Machine.execFsgn p t u ty op s
  | .exp2 p t u ty md => Sys2Proof.Machine.execExp2 p t u ty md s
  | .log2 p t u ty md => Sys2Proof.Machine.execLog2 p t u ty md s
  | .vadd p t u ty md => Sys2Proof.Machine.execVadd p t u ty md s
  | .vsub p t u ty md => Sys2Proof.Machine.execVsub p t u ty md s
  | .vmul p t u ty md => Sys2Proof.Machine.execVmul p t u ty md s
  | .vfma t u ty md => Sys2Proof.Machine.execVfma t u ty md s
  | .vmin p t u ty => Sys2Proof.Machine.execVmin p t u ty s
  | .vmax p t u ty => Sys2Proof.Machine.execVmax p t u ty s
  | .vcmp p t u ty c => Sys2Proof.Machine.execVcmp p t u ty c s
  | .vsel t u ty => Sys2Proof.Machine.execVsel t u ty s
  | .vcvt p t u dty sty md => Sys2Proof.Machine.execVcvt p t u dty sty md s
  | .vexp2 p t u ty md => Sys2Proof.Machine.execVexp2 p t u ty md s
  | .vlog2 p t u ty md => Sys2Proof.Machine.execVlog2 p t u ty md s
  | .vrcp p t u ty md => Sys2Proof.Machine.execVrcp p t u ty md s
  | .vrsq p t u ty md => Sys2Proof.Machine.execVrsq p t u ty md s
  | .vred p t u ty op => Sys2Proof.Machine.execVred p t u ty op s
  | .vscan p t u ty op => Sys2Proof.Machine.execVscan p t u ty op s
  | .vshuf p t u => Sys2Proof.Machine.execVshuf p t u s
  | .vbcast p t u ty => Sys2Proof.Machine.execVbcast p t u ty s
  | .vscale p t u ty => Sys2Proof.Machine.execVscale p t u ty s
  | .vlut p t u ty => Sys2Proof.Machine.execVlut p t u ty s
  | .viop p t u ty op => Sys2Proof.Machine.execViop p t u ty op s
  | .mcfg p => Sys2Proof.Machine.execMcfg p s
  | .mzero p acc => Sys2Proof.Machine.execMzero p acc s
  | .mma p acc => Sys2Proof.Machine.execMma p acc s
  | .mlda p acc => Sys2Proof.Machine.execMlda p acc s
  | .mdrain p acc oty toReg => Sys2Proof.Machine.execMdrain p acc oty toReg s
  | .msteer p => Sys2Proof.Machine.execMsteer p s
  | .mfence p => Sys2Proof.Machine.execMfence p s
  | .ld p t w a => Sys2Proof.Machine.execLd p t w a s
  | .ldv p t w a k => Sys2Proof.Machine.execLdv p t w a k s
  | .ldk p t w a vec k => Sys2Proof.Machine.execLdk p t w a vec k s
  | .st p w a => Sys2Proof.Machine.execSt p w a s
  | .stv p w a k => Sys2Proof.Machine.execStv p w a k s
  | .ldvg p t w a k sc => Sys2Proof.Machine.execLdvg p t w a k sc s
  | .stvs p w a k stride => Sys2Proof.Machine.execStvs p w a k stride s
  | .lda p w a toV n => Sys2Proof.Machine.execLda p w a toV n s
  | .ldb p t w a k => Sys2Proof.Machine.execLdb p t w a k s
  | .ldn p t w a k => Sys2Proof.Machine.execLdn p t w a k s
  | .atom w a op re n => Sys2Proof.Machine.execAtom w a op re n s
  | .atomo p w a op sel stream => Sys2Proof.Machine.execAtomo p w a op sel stream s
  | .fence p scope acq rel k e => Sys2Proof.Machine.execFence p scope acq rel k e s
  | .pref p w a level => Sys2Proof.Machine.execPref p w a level s
  | .tlbpf p w a level => Sys2Proof.Machine.execTlbpf p w a level s
  | .ipf p w a level => Sys2Proof.Machine.execIpf p w a level s
  | .ipin p w a level => Sys2Proof.Machine.execIpin p w a level s
  | .iunpin p w a level => Sys2Proof.Machine.execIunpin p w a level s
  | .retain p w a k ways => Sys2Proof.Machine.execRetain p w a k ways s
  | .unretain p w a k => Sys2Proof.Machine.execUnretain p w a k s
  | .cwb p w a deep => Sys2Proof.Machine.execCwb p w a deep s
  | .cinv p w a kind => Sys2Proof.Machine.execCinv p w a kind s
  | .cpy p e => Sys2Proof.Machine.execCpy p e s
  | .cpym p e => Sys2Proof.Machine.execCpym p e s
  | .carm p e => Sys2Proof.Machine.execCarm p e s
  | .cdisarm p e => Sys2Proof.Machine.execCdisarm p e s
  | .cfire p e => Sys2Proof.Machine.execCfire p e s
  | .gath p e => Sys2Proof.Machine.execGath p e s
  | .scat p e => Sys2Proof.Machine.execScat p e s
  | .collAr p e fp32 => Sys2Proof.Machine.execCollAr p e fp32 s
  | .collRs p e fp32 => Sys2Proof.Machine.execCollRs p e fp32 s
  | .collAg p e fp32 => Sys2Proof.Machine.execCollAg p e fp32 s
  | .cadd p scope acq rel => Sys2Proof.Machine.execCadd p scope acq rel s
  | .cwait p scope acq => Sys2Proof.Machine.execCwait p scope acq s
  | .cread p scope acq n => Sys2Proof.Machine.execCread p scope acq n s
  | .cpoll p t u scope acq => Sys2Proof.Machine.execCpoll p t u scope acq s
  | .rngaw p t u scope => Sys2Proof.Machine.execRngaw p t u scope s
  | .rngrel p scope => Sys2Proof.Machine.execRngrel p scope s
  | .radv p scope => Sys2Proof.Machine.execRadv p scope s
  | .rrecl p scope => Sys2Proof.Machine.execRrecl p scope s
  | .rsetc p => Sys2Proof.Machine.execRsetc p s
  | .barr p scope => Sys2Proof.Machine.execBarr p scope s
  | .wmasr p => Sys2Proof.Machine.execWmasr p s
  | .wmret p => Sys2Proof.Machine.execWmret p s
  | .wmmod p => Sys2Proof.Machine.execWmmod p s
  | .wmrd p t u => Sys2Proof.Machine.execWmrd p t u s
  | .cswave p => Sys2Proof.Machine.execCswave p s
  | .fdone p => Sys2Proof.Machine.execFdone p s
  | .scset p => Sys2Proof.Machine.execScset p s
  | .scget p t u => Sys2Proof.Machine.execScget p t u s
  | .netld p => Sys2Proof.Machine.execNetld p s
  | .csrd p t u => Sys2Proof.Machine.execCsrd p t u s
  | .trap p code => Sys2Proof.Machine.execTrap p code s
  | .sysc p code => Sys2Proof.Machine.execSysc p code s
  | .bkpt p code => Sys2Proof.Machine.execBkpt p code s
  | .mfs p t r => Sys2Proof.Machine.execMfs p t r s
  | .mts p r => Sys2Proof.Machine.execMts p r s
  | .mark p => Sys2Proof.Machine.execMark p s
  | .sigchk p => Sys2Proof.Machine.execSigchk p s
  | .rndr p t u => Sys2Proof.Machine.execRndr p t u s
  | .cycw p => Sys2Proof.Machine.execCycw p s
  | .cfgsw p => Sys2Proof.Machine.execCfgsw p s
  | .blockFetch t => Sys2Proof.Machine.execBlockFetch t s
  | .slotFire t n => Sys2Proof.Machine.execSlotFire t n s
  | .blockCommit t => Sys2Proof.Machine.execBlockCommit t s
  | .commitStepResume t => Sys2Proof.Machine.execCommitStepResume t s
  | .registerValueArrive t r x => Sys2Proof.Machine.execRegisterValueArrive t r x s
  | .atomicAtHome r => Sys2Proof.Machine.execAtomicAtHome r s
  | .counterAddAtHome r => Sys2Proof.Machine.execCounterAddAtHome r s
  | .orderedAtomicArrival r => Sys2Proof.Machine.execOrderedAtomicArrival r s
  | .atomoRetryResend r => Sys2Proof.Machine.execAtomoRetryResend r s
  | .counterWatchRepoll t => Sys2Proof.Machine.execCounterWatchRepoll t s
  | .hostCounterPoll key => Sys2Proof.Machine.execHostCounterPoll key s
  | .faultRecordDeferred die ring => Sys2Proof.Machine.execFaultRecordDeferred die ring s
  | .mtPortRequest t port => Sys2Proof.Machine.execMtPortRequest t port s
  | .mtStartToken t => Sys2Proof.Machine.execMtStartToken t s
  | .sequencerElement t => Sys2Proof.Machine.execSequencerElement t s
  | .mtRandomRequest t port => Sys2Proof.Machine.execMtRandomRequest t port s
  | .mtOrderedUpdate t port => Sys2Proof.Machine.execMtOrderedUpdate t port s
  | .engineChunk die eng => Sys2Proof.Machine.execEngineChunk die eng s
  | .engineCompletionAdd die eng queue => Sys2Proof.Machine.execEngineCompletionAdd die eng queue s
  | .cpymDeliver die eng queue => Sys2Proof.Machine.execCpymDeliver die eng queue s
  | .carmArm die eng queue => Sys2Proof.Machine.execCarmArm die eng queue s
  | .templateTrigger die eng queue => Sys2Proof.Machine.execTemplateTrigger die eng queue s
  | .coalesceIndex die eng queue => Sys2Proof.Machine.execCoalesceIndex die eng queue s
  | .collectiveExecute die eng => Sys2Proof.Machine.execCollectiveExecute die eng s
  | .tokenArrive edge => Sys2Proof.Machine.execTokenArrive edge s
  | .loopBoundEntry b => Sys2Proof.Machine.execLoopBoundEntry b s
  | .loopBoundExit b => Sys2Proof.Machine.execLoopBoundExit b s
  | .tokenBarrierFire t => Sys2Proof.Machine.execTokenBarrierFire t s
  | .steerTokenPop t port => Sys2Proof.Machine.execSteerTokenPop t port s
  | .px8FrameDecode t port => Sys2Proof.Machine.execPx8FrameDecode t port s
  | .counterAddPortToken t port => Sys2Proof.Machine.execCounterAddPortToken t port s
  | .operandTokenEnter t port => Sys2Proof.Machine.execOperandTokenEnter t port s
  | .matrixWordStart t => Sys2Proof.Machine.execMatrixWordStart t s
  | .mmaOccupancyEnd t => Sys2Proof.Machine.execMmaOccupancyEnd t s
  | .mmaComplete t => Sys2Proof.Machine.execMmaComplete t s
  | .drainTokenSend t => Sys2Proof.Machine.execDrainTokenSend t s
  | .fetchLineArrive t => Sys2Proof.Machine.execFetchLineArrive t s
  | .networkDeltaArrival die => Sys2Proof.Machine.execNetworkDeltaArrival die s
  | .networkScsetArrival die => Sys2Proof.Machine.execNetworkScsetArrival die s
  | .networkCswaveArrival die => Sys2Proof.Machine.execNetworkCswaveArrival die s
  | .networkFdoneArrival die => Sys2Proof.Machine.execNetworkFdoneArrival die s
  | .netldLoad die => Sys2Proof.Machine.execNetldLoad die s
  | .queueSlotRotate die => Sys2Proof.Machine.execQueueSlotRotate die s
  | .packetChoose die => Sys2Proof.Machine.execPacketChoose die s
  | .gangReserve launch die => Sys2Proof.Machine.execGangReserve launch die s
  | .gangAckDeadline launch => Sys2Proof.Machine.execGangAckDeadline launch s
  | .gangGo launch die => Sys2Proof.Machine.execGangGo launch die s
  | .gangStartTick launch die => Sys2Proof.Machine.execGangStartTick launch die s
  | .taskPacketEmit launch => Sys2Proof.Machine.execTaskPacketEmit launch s
  | .taskDispatch die => Sys2Proof.Machine.execTaskDispatch die s
  | .waitPacketSatisfied die queue => Sys2Proof.Machine.execWaitPacketSatisfied die queue s
  | .packetComplete launch => Sys2Proof.Machine.execPacketComplete launch s
  | .elementSwitch t => Sys2Proof.Machine.execElementSwitch t s
  | .assizeCompare die group => Sys2Proof.Machine.execAssizeCompare die group s
  | .assizeReportTimeout die group => Sys2Proof.Machine.execAssizeReportTimeout die group s
  | .replicaResync t => Sys2Proof.Machine.execReplicaResync t s
  | .forwardedValueArrive t key x => Sys2Proof.Machine.execForwardedValueArrive t key x s
  | .elementSave t => Sys2Proof.Machine.execElementSave t s
  | .regionClockGate h => Sys2Proof.Machine.execRegionClockGate h s
  | .regionSilence h => Sys2Proof.Machine.execRegionSilence h s
  | .deadlockTrap h => Sys2Proof.Machine.execDeadlockTrap h s
  | .tlbInvComplete die => Sys2Proof.Machine.execTlbInvComplete die s
  | .homeReadRequest m t line first count => Sys2Proof.Machine.execHomeReadRequest m t line first count s
  | .ownershipRequest t line first count => Sys2Proof.Machine.execOwnershipRequest t line first count s
  | .evictionWriteback t line => Sys2Proof.Machine.execEvictionWriteback t line s
  | .rdcFill m die line round => Sys2Proof.Machine.execRdcFill m die line round s
  | .counterWatchNotify key => Sys2Proof.Machine.execCounterWatchNotify key s
  | .snpData line => Sys2Proof.Machine.execSnpData line s
  | .snpCur line => Sys2Proof.Machine.execSnpCur line s
  | .snpInv line => Sys2Proof.Machine.execSnpInv line s
  | .hostBarRequest link bar off pasid op => Sys2Proof.Machine.execHostBarRequest link bar off pasid op s
  | .hostCxlMemRequest link off pasid op => Sys2Proof.Machine.execHostCxlMemRequest link off pasid op s
  | .peerFlitReceive port seq crcOk m pa op => Sys2Proof.Machine.execPeerFlitReceive port seq crcOk m pa op s
  | .peerRequestTimeout r pa wasAtomic => Sys2Proof.Machine.execPeerRequestTimeout r pa wasAtomic s
  | .t2PortFailure port => Sys2Proof.Machine.execT2PortFailure port s
  | .chainSyncExchange source => Sys2Proof.Machine.execChainSyncExchange source s
  | .chainSyncLoss => Sys2Proof.Machine.execChainSyncLoss s
  | .pageWalk die ctx page kind cls r => Sys2Proof.Machine.execPageWalk die ctx page kind cls r s
  | .uncorrectableError site => Sys2Proof.Machine.execUncorrectableError site s
  | .lqDoorbell die queue => Sys2Proof.Machine.execLqDoorbell die queue s
  | .gangRelease launch die => Sys2Proof.Machine.execGangRelease launch die s
  | .gangAbort launch die => Sys2Proof.Machine.execGangAbort launch die s
  | .droopStretch die patch eighths => Sys2Proof.Machine.execDroopStretch die patch eighths s
  | .powerCeilingAdjust watts celsius => Sys2Proof.Machine.execPowerCeilingAdjust watts celsius s
  | .thermalTrip => Sys2Proof.Machine.execThermalTrip s
  | .dieFailure die => Sys2Proof.Machine.execDieFailure die s
  | .securityAlarm src => Sys2Proof.Machine.execSecurityAlarm src s
  | .reset => Sys2Proof.Machine.execReset s
  | .modReset => Sys2Proof.Machine.execModReset s
  | .accPurge die target => Sys2Proof.Machine.execAccPurge die target s
  | .accInval die target => Sys2Proof.Machine.execAccInval die target s
  | .atabPurge die => Sys2Proof.Machine.execAtabPurge die s
  | .atabInval die => Sys2Proof.Machine.execAtabInval die s
  | .accBaseWrite die target x => Sys2Proof.Machine.execAccBaseWrite die target x s
  | .atabBaseWrite die x => Sys2Proof.Machine.execAtabBaseWrite die x s
  | .hbmMapWrite x => Sys2Proof.Machine.execHbmMapWrite x s
  | .trRootWrite ctx x => Sys2Proof.Machine.execTrRootWrite ctx x s
  | .tlbInvAll die x => Sys2Proof.Machine.execTlbInvAll die x s
  | .tlbInvPage die x => Sys2Proof.Machine.execTlbInvPage die x s
  | .tfqResume die x => Sys2Proof.Machine.execTfqResume die x s
  | .tfqFail die x => Sys2Proof.Machine.execTfqFail die x s
  | .fltResume die x => Sys2Proof.Machine.execFltResume die x s
  | .fltRollback die x => Sys2Proof.Machine.execFltRollback die x s
  | .fltAbort die x => Sys2Proof.Machine.execFltAbort die x s
  | .spillGrant die x => Sys2Proof.Machine.execSpillGrant die x s
  | .spillRefuse die x => Sys2Proof.Machine.execSpillRefuse die x s
  | .preSave die x => Sys2Proof.Machine.execPreSave die x s
  | .preRestore die x => Sys2Proof.Machine.execPreRestore die x s
  | .evThaw die => Sys2Proof.Machine.execEvThaw die s
  | .secAlarmSrcClear x => Sys2Proof.Machine.execSecAlarmSrcClear x s
  | .secAlarmActWrite x => Sys2Proof.Machine.execSecAlarmActWrite x s
  | .healthTripClear x => Sys2Proof.Machine.execHealthTripClear x s
  | .pwrLimWrite x => Sys2Proof.Machine.execPwrLimWrite x s
  | .ringEnableWrite die ring x => Sys2Proof.Machine.execRingEnableWrite die ring x s
  | .ctxSatClear ctx x => Sys2Proof.Machine.execCtxSatClear ctx x s
  | .mmioRegisterWrite m off size x => Sys2Proof.Machine.execMmioRegisterWrite m off size x s
  | .mgmtMmioRead off => Sys2Proof.Machine.execMgmtMmioRead off s
  | .mgmtMmioWrite off x => Sys2Proof.Machine.execMgmtMmioWrite off x s
  | .mctpControlMessage cmd => Sys2Proof.Machine.execMctpControlMessage cmd s
  | .lqSlotWrite die slot x => Sys2Proof.Machine.execLqSlotWrite die slot x s
  | .peerPortDown port => Sys2Proof.Machine.execPeerPortDown port s
  | .hostLinkDown link => Sys2Proof.Machine.execHostLinkDown link s

end Sys2Proof.Machine
end

