-- ==== Sys2Proof/Machine/Sched.lean ====
section
/-! DEFINITION. What a step runs: the instruction of the slot that has issued, or one of the steps that are due, a free choice
where several are (log 4); and how time passes between steps (R235, R369 to R374, R385, R392; log 5). -/

namespace Sys2Proof.Machine

/-- The running slot's instruction, where a slot has issued: `some none` where its words decode to none. -/
def State.current (s : State) : Option (Option Instr) :=
  match s.here with
  | none => none
  | some n => if n.issued && n.runs then some (n.blk.instr n.slot) else none

/-- Takes the k-th entry out of the agenda. -/
def State.takeAgenda (s : State) (k : Nat) : State := { s with agenda := s.agenda.eraseIdx k }

/-- A block that holds the words of one instruction at slot 0, and a following EXIT. -/
def Blk.single (w x : Word32) : Blk :=
  let two := takesTwo w
  { Blk.empty with
    header := BitVec.ofNat 64 (2 ^ 60 * 10 + 2 ^ 55 * (if two then 2 else 1) + 2 ^ 52)
    words := if two then [w, x, 0x03000000#32] else [w, 0x03000000#32] }

/-! ### Messages in flight -/

/-- What must stay in order: messages of one tile to one address, and what comes for one register. -/
def orderKey : Instr → Option (Nat × Nat)
  | .atomicAtHome r => some (r.tile, r.pa)
  | .counterAddAtHome r => some (r.tile, r.pa)
  | .registerValueArrive t (.g n) _ => some (t, 2 ^ 60 + n.toNat)
  | .registerValueArrive t (.v n) _ => some (t, 2 ^ 60 + 64 + n.toNat)
  | _ => none

/-- May a message be taken: is the register that it fills empty? -/
def State.landable (s : State) (i : Instr) : Bool := match i with
  | .registerValueArrive t r _ => match s.node? t with
    | some n => n.regs.isEmpty r || n.phase = .ended
    | none => true
  | _ => true

/-- The entries of the agenda that may be taken, with their places; `seen` are the keys that earlier entries hold. -/
def State.mailFrom (s : State) : List Instr → Nat → List (Nat × Nat) → List (Nat × Instr)
  | [], _, _ => []
  | i :: l, k, seen =>
    match orderKey i with
    | some key =>
      if seen.contains key then s.mailFrom l (k + 1) seen
      else if s.landable i then (k, i) :: s.mailFrom l (k + 1) (key :: seen)
      else s.mailFrom l (k + 1) (key :: seen)
    | none => (k, i) :: s.mailFrom l (k + 1) seen

/-! ### Steps of an element -/

/-- Has a cut reached an element where it may save? It then does nothing else (R387). -/
def State.pausing (s : State) (t : Nat) : Bool :=
  match s.reg (s.regionOf t) with
  | some r => (match r.saving with
    | some v => !v.has t && s.mayPause t && !s.ended t && s.headsMarked t v.num
    | none => false)
  | none => false

/-- Does a block that stopped before a marker still find one (R387)? -/
def State.stillMarked (s : State) (t : Nat) (n : Node) : Bool :=
  n.atMarker && (List.range 4).any fun p => (s.headTok (4 * t + p)).any fun x => x.tok.isMarker

/-- Steps of a node's program. -/
def State.programSteps (s : State) (t : Nat) (n : Node) : List Instr :=
  let more := if (s.resumeTile t).isSome then [Instr.commitStepResume t] else []
  if !n.runs || s.pausing t then more
  else
    match n.phase with
    | .fetch => if s.stillMarked t n || s.leaving t then more else .blockFetch t :: more
    | .fire =>
      (if s.commitDue n then [.blockCommit t] else []) ++ (((List.range 32).filter n.slotDue).map fun k => .slotFire t k) ++ more
    | _ => more

/-- Steps whose cycle a fixed-timing region counts (R372). -/
def State.countedSteps (s : State) (t : Nat) : List Instr :=
  match s.node? t with
  | some n =>
    (match n.drainDue with
     | some (k, y) => if n.regs.isEmpty (.v k) then [.registerValueArrive t (.v k) y] else []
     | none => [])
    ++ [.matrixWordStart t, .mmaOccupancyEnd t, .mmaComplete t, .drainTokenSend t]
    ++ (List.range 4).flatMap fun p => [.operandTokenEnter t p, .steerTokenPop t p]
  | none => (List.range 4).flatMap fun p => [.mtPortRequest t p, .mtRandomRequest t p, .steerTokenPop t p]

/-- The other steps of an element. -/
def State.freeSteps (s : State) (t : Nat) : List Instr :=
  let both : List Instr := [.elementSave t, .elementSwitch t, .replicaResync t, .tokenBarrierFire t]
    ++ (List.range 4).flatMap fun p => [.counterAddPortToken t p, .px8FrameDecode t p]
  match s.node? t with
  | some n =>
    let polls : List Instr := match n.watch with
      | some w => if w.held then [.hostCounterPoll w.pa] else [.counterWatchRepoll t]
      | none => (n.sleeping.filter fun w => w.held).map fun w => .hostCounterPoll w.pa
    .fetchLineArrive t :: polls ++ both
  | none =>
    let more := if (s.resumeTile t).isSome then [Instr.commitStepResume t] else []
    more ++ [.mtStartToken t, .sequencerElement t] ++ ((List.range 4).map fun p => .mtOrderedUpdate t p) ++ both

/-! ### Steps of units -/

/-- Steps of a region's controller, its edges and its loop bounds. -/
def State.regionSteps (s : State) (h : Nat) : List Instr :=
  [.regionClockGate h, .regionSilence h, .deadlockTrap h]
  ++ (s.edges.filter fun e => e.2.region = h).map (fun e => .tokenArrive e.1)
  ++ (s.bounds.filter fun b => b.2.region = h).flatMap fun b => [.loopBoundEntry b.1, .loopBoundExit b.1]

/-- Steps of a die's engines. -/
def State.engineSteps (s : State) (d : Nat) : List Instr :=
  (s.die d).engines.flatMap fun p =>
    let e := p.1 / 8
    let q := p.1 % 8
    [.engineChunk d e, .engineCompletionAdd d e q, .cpymDeliver d e q, .carmArm d e q, .templateTrigger d e q,
      .coalesceIndex d e q, .collectiveExecute d e]

/-- Steps of a die's network; while a producer of tasks stalls it takes nothing (R452). -/
def State.netSteps (s : State) (d : Nat) : List Instr :=
  if s.taskStall d then []
  else [.networkDeltaArrival d, .networkScsetArrival d, .networkCswaveArrival d, .networkFdoneArrival d, .netldLoad d]

/-- Steps of a die's launch controller, rings and comparisons. -/
def State.dieSteps (s : State) (d : Nat) : List Instr :=
  (if (s.die d).slots.isEmpty then [] else .packetChoose d :: (s.die d).slots.map fun p => .waitPacketSatisfied d p.2)
  ++ (if (s.die d).queues.isEmpty then [] else [.queueSlotRotate d])
  ++ (if (s.die d).tasks.isEmpty then [] else [.taskDispatch d])
  ++ ((s.die d).reports.flatMap fun p => [.assizeCompare d p.1, .assizeReportTimeout d p.1])
  ++ (((List.range 3).filter fun r => s.ringDue d r).map fun r => .faultRecordDeferred d r)
  ++ s.engineSteps d ++ s.netSteps d

/-- Steps of a launch whose tick decides when they come (R364). -/
def Launch.tickSteps (l : Launch) (id : Nat) : List Instr :=
  .gangAckDeadline id :: (l.gang.filter fun g => g.die < 4).map fun g => .gangStartTick id g.die

/-- The other steps of a launch. -/
def Launch.otherSteps (l : Launch) (id : Nat) : List Instr :=
  if l.foreign then [.packetComplete id]
  else [.taskPacketEmit id, .packetComplete id] ++ l.gang.flatMap fun g =>
    if 4 ≤ g.die then [.gangReserve id g.die, .gangStartTick id g.die] else [.gangReserve id g.die]

/-- Everything that may be due, beside what the agenda holds. -/
def State.allSteps (s : State) : List Instr :=
  s.nodes.flatMap (fun p => s.programSteps p.1 p.2 ++ s.countedSteps p.1 ++ s.freeSteps p.1)
  ++ s.mts.flatMap (fun p => s.countedSteps p.1 ++ s.freeSteps p.1)
  ++ s.regions.flatMap (fun p => s.regionSteps p.1)
  ++ s.launches.flatMap (fun p => p.2.tickSteps p.1 ++ p.2.otherSteps p.1)
  ++ (List.range 4).flatMap s.dieSteps

/-- Does the instruction of a slot that has issued do something, or does the slot wait as before? -/
def State.acted (s u : State) (t : Nat) : Bool :=
  match u.current with
  | some (some i) =>
    (match exec i u with
     | .next v =>
       let k := ((s.node? t).map (·.slot)).getD 0
       { v.modNode t fun n => { n with slot := k } with focus := s.focus } ≠ s
     | _ => true)
  | _ => true

/-- A step is due where it does something; a slot may issue where its instruction does. -/
def State.does (s : State) (i : Instr) : Bool := match exec i s with
  | .next u => u ≠ s && (match i with
      | .slotFire t _ => s.acted u t
      | _ => true)
  | _ => true

/-- Tokens whose cycle on a timed edge has come, with what a loop bound does at them: they are there before anything else happens in
the cycle (R235, R374, R441; DEDUCED, log 5). -/
def State.landing (s : State) : List Instr :=
  (s.edges.filter fun e => e.2.timed.isSome).flatMap fun e =>
    (.tokenArrive e.1 :: (s.boundsAt e.2.dst).flatMap fun b => [.loopBoundEntry b.1, .loopBoundExit b.1]).filter s.does

/-- A steer token that has reached the head of a port is popped at once; of several of an element the one on the lowest port
comes last (R234). -/
def State.steering (s : State) : List Instr :=
  (s.nodes.map (·.1) ++ s.mts.map (·.1)).flatMap fun t =>
    (((List.range 4).reverse.map fun p => Instr.steerTokenPop t p).filter s.does).take 1

/-- Steps that come before every other. -/
def State.atOnce (s : State) : List Instr := if s.landing.isEmpty then s.steering else s.landing

/-- What is due: steps, and entries of the agenda with their places. -/
def State.offers (s : State) : List (Option Nat × Instr) :=
  if !s.atOnce.isEmpty then s.atOnce.map fun i => (none, i)
  else
  (s.mailFrom s.agenda 0 []).map (fun p => (some p.1, p.2)) ++ (s.allSteps.filter s.does).map fun i => (none, i)

/-- Takes what a free choice picks among what is due. -/
def State.runOffer (s : State) : Host.Outcome State Fault Refusal :=
  match s.offers with
  | [] => .next s
  | o :: l =>
    let (k, s) := s.pick (o :: l).length
    match ((o :: l)[k]?).getD o with
    | (some j, i) => exec i (s.takeAgenda j)
    | (none, i) => exec i s

/-! ### While clocks stand -/

/-- What is served while every clock stands (R402, R456, R457): the management port, and reset. -/
def servedStopped : Instr → Bool
  | .mgmtMmioRead .. | .mgmtMmioWrite .. | .mctpControlMessage .. | .reset => true
  | _ => false

/-- What is served during bring-up: the same, and a host's access, which is refused (R447, R457). -/
def servedEarly : Instr → Bool
  | .hostBarRequest .. => true
  | i => servedStopped i

/-- A step of bring-up: one of the messages that are served is taken, or the next step of R447 is done; a free choice. -/
def State.bringStep (s : State) : Host.Outcome State Fault Refusal :=
  let l := (List.range s.agenda.length).filterMap fun k => (s.agenda[k]?).bind fun i => if servedEarly i then some (k, i) else none
  let (c, s) := s.pick (l.length + 1)
  match l[c]? with
  | some (k, i) => exec i (s.takeAgenda k)
  | none => .next s.bringOn

/-! ### What follows at once -/

/-- Has a region come to its end (R406): every CT node has ended, and its MTs have answered what they accepted? -/
def State.regionOver (s : State) (h : Nat) (r : Region) : Bool :=
  let ns := s.nodes.filter fun p => p.2.region = h
  r.live && !r.gated && ns ≠ [] && (ns.all fun p => p.2.phase = .ended)
    && (s.mts.all fun p => p.2.region ≠ h || ((p.2.portQ.all fun q => q.2 = []) && p.2.fly.all fun q => q.2 = []))
    && s.ports.all fun p => s.regionOf (p.1 / 4) ≠ h || (p.2.adds.isEmpty && p.2.due.isEmpty)

/-- A region whose nodes have ended releases what its MTs still hold, and then ends; a task leaves its CT. -/
def State.closeRegion (s : State) (h : Nat) (r : Region) : State :=
  if !s.regionOver h r then s
  else if s.mts.any fun p => p.2.region = h && p.2.win ≠ Window.empty then
    { s with mts := s.mts.mapAll fun _ m =>
        if m.region = h && m.win ≠ Window.empty then { m with implicitReq := true } else m }
  else if r.isTask then s.endTask h
  else s.endRegion h

/-- Regions that have come to their end leave, saves that have waited for answers are completed, and invalidations whose
windows have performed end (R90). -/
def State.sweep (s : State) : State :=
  let s := (s.regions.foldl (fun s p => s.closeRegion p.1 p.2) s).evict
  (List.range 4).foldl (fun s d => s.after (execTlbInvComplete d s)) s

/-! ### Walkers -/

/-- One of the walkers at work reads its next entry, or none does: a free choice (R88; PAGE_WALK). -/
def State.walkOn (s : State) : State :=
  let l := (List.range 4).flatMap fun d =>
    (((s.die d).misses.filter fun m => m.why.isNone).take 64).map fun m => (d, m.ctx, m.page)
  if l.isEmpty then s
  else
    let (k, s) := s.pick (l.length + 1)
    match l[k]? with
    | some (d, c, p) => s.walkStep d c p
    | none => s

/-- An abort of a gang reaches one of its members, or none does: a free choice (R365; GANG_ABORT). -/
def State.abortLands (s : State) : State :=
  let l := s.launches.flatMap fun p => (p.2.gang.filter fun g => g.abort).map fun g => (p.1, g.die)
  if l.isEmpty then s
  else
    let (k, s) := s.pick (l.length + 1)
    match l[k]? with
    | some (id, d) => s.after (execGangAbort id d s)
    | none => s

/-! ### Others' writes -/

/-- May another agent write the 8-byte word at an address by itself: at another device, or in host memory of which this module
holds no copy and no watch (R57, R173)? -/
def State.othersWord (s : State) (pa : Nat) : Bool :=
  2 ^ 60 ≤ pa || (match s.home 0 pa with
    | .peer _ => true
    | .proxy l _ => !s.hostIsCxl l || (s.dropLine (pa / 128) = s && !s.watched (pa / 128 * 128))
    | _ => false)

/-- Up to n words that others write, one after another, each a free word at a free address (R173; log 22): a host that writes has
taken the line. -/
def State.othersWrite (s : State) : Nat → State
  | 0 => s
  | n + 1 =>
    let pa := 8 * Config.freeNat s.free
    let x := Config.freeWord (s.free + 1)
    let s := { s with free := s.free + 2 }
    let s := if !s.othersWord pa then s
      else
        let s := s.poke (if 2 ^ 60 ≤ pa then pa else s.key pa) 8 x.toNat
        match s.home 0 pa with
        | .peer _ => s.notify pa
        | .proxy l _ => if s.hostIsCxl l then s.setHostLine (pa % 2 ^ 45 / 128) .m else s
        | _ => s
    s.othersWrite n

/-! ### Time -/

/-- Must something of a fixed-timing region still happen in its present cycle: of a T block, of a commit, whose acts fall in one cycle
(R425, R440), of the fetch of the next block (R442), or of what R372 counts (R371, R374)? -/
def State.cycleOpen (s : State) (h : Nat) : Bool :=
  (s.nodes.any fun p => p.2.region = h && !p.2.gated &&
    (((p.2.blk.timed || p.2.phase ≠ .fire) && (s.programSteps p.1 p.2).any s.does) || (s.countedSteps p.1).any s.does))
  || (s.mts.any fun p => p.2.region = h && (s.countedSteps p.1).any s.does)
  || s.edges.any fun e => e.2.region = h && e.2.timed.isSome && (s.does (.tokenArrive e.1)
    || (s.boundsAt e.2.dst).any fun b => s.does (.loopBoundEntry b.1) || s.does (.loopBoundExit b.1))

/-- Cycles that pass for a region: in a fixed-timing region one, once its present cycle is done; else a free number. A gated
region's clock stands. -/
def State.cyclesOf (s : State) (k : Nat) (h : Nat) (r : Region) : Nat :=
  if r.gated then 0
  else if r.fixed then (if s.cycleOpen h then 0 else 1)
  else Config.freeNat (s.free + k)

/-- A region's cycles, and its counts of cycles without movement (R385, R392): the first of these runs while an element stands with a fault, the second while no
request is outstanding. -/
def State.counts (s : State) (h : Nat) (r : Region) (c : Nat) : Region :=
  let stopped := (s.faultIn h).isSome || (s.nodes.any fun p => p.2.region = h && p.2.late.isSome)
    || s.mts.any fun p => p.2.region = h && p.2.late.isSome
  { r with
    cyc := r.cyc + c
    still := if stopped then r.still + c else 0
    quiet := if s.busy h then 0 else r.quiet + c }

/-- The ticks at which something is decided: a gang's deadline and start, and a missing report (R364, R379). -/
def State.dueTicks (s : State) : List Nat :=
  s.launches.flatMap (fun p => if p.2.gang.isEmpty || p.2.status.isSome then [] else [p.2.tickT - 2000, p.2.tickT])
  ++ (List.range 4).flatMap fun d => (s.die d).reports.flatMap fun p => p.2.map fun r => r.tick.toNat + 1000000

/-- Must something still happen at the present tick? -/
def State.tickOpen (s : State) : Bool :=
  (s.launches.any fun p => (p.2.tickSteps p.1).any s.does)
  || (List.range 4).any fun d => (s.die d).reports.any fun p => s.does (.assizeReportTimeout d p.1)

/-- Ticks that pass: a free number, which stops where something is decided. -/
def State.ticksOn (s : State) : Nat :=
  if s.tickOpen then 0
  else
    let want := Config.freeNat s.free
    let want := if s.locked then Nat.min want (10000000 - s.sinceSync) else want
    (s.dueTicks.filter fun x => s.now.toNat < x).foldl (fun a x => Nat.min a (x - s.now.toNat)) want

/-- An element whose request has failed stands still once nothing of it is due and no token of its region has moved for 64
cycles, even without a release (R385). -/
def State.stopLate (s : State) : State :=
  let long (h : Nat) : Bool := (s.reg h).any fun r => 64 ≤ r.still
  let idle (t : Nat) (n : Node) : Bool := !(s.programSteps t n).any s.does
  { s with
    nodes := s.nodes.mapAll fun t n => match n.late with
      | some (r, _) => if n.stop.isNone && long n.region && idle t n then { n with stop := some (.fault r) } else n
      | none => n
    mts := s.mts.mapAll fun t m => match m.late with
      | some (r, _) => if m.stop.isNone && long m.region && !(s.countedSteps t ++ s.freeSteps t).any s.does then
          { m with stop := some (.fault r) } else m
      | none => m }

/-- The die and the patch of a tile (R2, R369). -/
def patchOf (t : Nat) : Nat × Nat := (dieOf t, t % 1024 / 32 / 4 + 8 * (t % 32 / 4))

/-- The cycles that pass for a patch: those of the fixed-timing region that pins it, or a free number (R369 to R371). -/
def State.patchCycles (s : State) (own : Nat → Nat) (base : Nat) (p : Nat × Nat) : Nat :=
  match s.regions.find? fun r => r.2.fixed && r.2.live && !r.2.gated && r.2.patches.contains p with
  | some r => own r.1
  | none => Config.freeNat (base + 64 * p.1 + p.2)

/-- Ages of the stretches of a patch as its cycles pass: those of the last 1,024 cycles count (R369). -/
def Patch.aged (p : Patch) (c : Nat) : Patch :=
  { p with recent := (p.recent.map fun x => (x.1 + c, x.2)).filter fun x => x.1 < 1024 }

/-- Time passes (log 5): the counts run, a walker may read its next entry, and others write. -/
def State.elapse (s : State) : State :=
  let t := s.ticksOn
  let cs : List (Nat × Region × Nat) := (List.range s.regions.length).zipWith (fun k (p : Nat × Region) => (p.1, p.2, s.cyclesOf (k + 1) p.1 p.2)) s.regions
  let rs : Tbl Region := cs.map fun c => (c.1, s.counts c.1 c.2.1 c.2.2)
  let own (h : Nat) : Nat := match cs.find? fun c => c.1 = h with
    | some c => c.2.2
    | none => 0
  let fixed (h : Nat) : Bool := (s.reg h).any fun r => r.fixed
  let base := s.free + s.regions.length + 1
  let ns := s.nodes.mapAll fun t n =>
    let c := if fixed n.region then own n.region else if n.gated then 0 else s.patchCycles own base (patchOf t)
    { n with cyc := n.cyc + BitVec.ofNat 64 c }
  let ps (d : Nat) (l : Tbl Patch) : Tbl Patch :=
    (l.mapAll fun k p => p.aged (s.patchCycles own base (d, k))).filter fun p => p.2 ≠ ⟨0, [], 0, 0⟩
  let s := { s with
    regions := rs
    nodes := ns
    dies := s.dies.zipWith (fun (x : Die) (d : Fin 4) => { x with patches := ps d.val x.patches }) (Vector.ofFn fun d => d)
    now := s.now + BitVec.ofNat 64 t
    sinceSync := if s.locked then s.sinceSync + t else s.sinceSync
    free := base + 256 }
  let k := Config.freeNat (s.free + 1)
  let s := { s with free := s.free + 2 }
  ((s.after (execChainSyncLoss s)).walkOn.abortLands).othersWrite k

end Sys2Proof.Machine
end

