-- ==== Sys2Proof/Machine/Step.lean ====
section
/-! DEFINITION. One step of the machine, and where the next instruction is fetched. -/

namespace Sys2Proof.Machine

/-- A step while the clocks are stopped: the first message of the management port, or reset, is taken. -/
def State.stoppedStep (s : State) : Host.Outcome State Fault Refusal :=
  match listFind servedStopped s.agenda 0 with
  | some (k, i) => exec i (s.takeAgenda k)
  | none => .fault .clocksStopped

/-- One step: bring-up goes on where it is not over; else the slot that has issued executes; else what follows at once is done, time
passes, and one of the steps that are due is taken. -/
def step (s : State) : Host.Outcome State Fault Refusal :=
  if s.clocksStopped then s.stoppedStep
  else if s.bringUp.isSome then s.bringStep
  else
    match s.current with
    | some (some i) => exec i s
    | some none => .next (s.trapHere .illegal 0)
    | none => s.sweep.stopLate.elapse.runOffer

/-- The state with an instruction as the one that the node at the focus has issued from slot 0 of its
block (log 8). -/
def State.withFetchWord (s : State) (nbits w : Nat) : State :=
  let v := w % 2 ^ nbits
  let n := (s.here).getD (Node.start s.focus 0 0 0)
  { s with bringUp := none }.putHere { n with
    blk := Blk.single (BitVec.ofNat 32 v) (BitVec.ofNat 32 (v / 2 ^ 32))
    phase := .fire
    issued := true
    slot := 0
    stop := none
    gated := false }

end Sys2Proof.Machine
end

