-- ==== Sys2Proof/Certificates/Slice0/Obligations.lean ====
section
/-! DEFINITION. The statements for the provers: what the instructions and steps do, what they leave alone, and where they
complete. -/

namespace Sys2Proof.Claims

open Sys2Proof.Machine

/-! ### What the statements are written with -/

/-- The slot that a node runs. -/
abbrev cur (n : Node) : SlotRt := n.blk.slotAt n.slot

/-- Node n runs a slot that holds no null, and the predicate of instruction i, if it has one, matches (R18, R20, R21). -/
structure Fires (s : State) (n : Node) (i : Instr) : Prop where
  here : s.here = some n
  noNull : (cur n).hasNull = false
  pred : i.pred = .always ∨ i.pred.matches (cur n).g = true

/-- The node after its slot has fired with a value delivered: b is its block with the value at the consumers' inputs. -/
def delivered (n : Node) (b : Blk) : Node := { n with blk := b.mark n.slot .fired, issued := false }

/-- The node after its slot has fired and holds acts for a step of the commit (R24). -/
def holding (n : Node) (step key : Nat) (acts : List Act) : Node :=
  { n with
    blk := ({ n.blk with effs := n.blk.effs ++ [⟨n.slot, step, key, acts⟩] } : Blk).mark n.slot .fired
    issued := false }

/-- Wherever instruction i fires and its targets have room, exec answers the state in which v stands at the targets, at the
cycle of issue plus the latency, and nothing else has changed. -/
def Gives (i : Instr) (v : Node → SlotRt → Val) : Prop :=
  ∀ (s : State) (n : Node) (b : Blk), Fires s n i →
    n.blk.deliver (v n (cur n)) (n.issueCyc n.slot + Config.latency i) i.targets = .ok b →
    exec i s = .next (s.putHere (delivered n b))

/-- Wherever instruction i fires under the condition c, exec answers the state in which the slot holds acts for a step of the
commit, under a key, and nothing else has changed. -/
def Holds (i : Instr) (c : State → Node → SlotRt → Prop) (step : Nat) (key : Node → Nat)
    (acts : State → Node → SlotRt → List Act) : Prop :=
  ∀ (s : State) (n : Node), Fires s n i → c s n (cur n) →
    exec i s = .next (s.putHere (holding n step (key n) (acts s n (cur n))))

/-- Wherever instruction i fires under the condition c, exec answers the state in which the node has taken the precise trap of a
cause with an address (R27, R417). -/
def Traps (i : Instr) (c : State → Node → SlotRt → Prop) (cause : Cause) (addr : Node → SlotRt → Word) : Prop :=
  ∀ (s : State) (n : Node), Fires s n i → c s n (cur n) →
    exec i s = .next (s.takeTrap s.focus cause n.slot 0 (addr n (cur n)) n.pc)

/-- No condition. -/
def free (_ : State) (_ : Node) (_ : SlotRt) : Prop := True

/-- An integer result: saturated where it is to be, then out() (R268, R274). -/
def intOut (ty : Ty) (sat : Bool) (x : Int) : Val := .scalar (ty.out (if sat then ty.clamp x else x))

/-- A result of w bits, emitted by out() (R268). -/
def bitsOut (ty : Ty) (x : BitVec ty.width) : Val := .scalar (ty.ext x)

/-- The right operand of an I form (R273). -/
def sx (imm : BitVec 15) : Word := imm.signExtend 64

/-- A floating-point scalar: the bits of its format, 0 above (R269). -/
def fp (x : Nat) : Val := .scalar (BitVec.ofNat 64 x)

/-- A vector by lanes. -/
def byLane (f : Nat → Nat) : Val := .vector (ofLaneNats f)

/-- The shift amount of R276. -/
def amt (ty : Ty) (r : Word) : Nat := r.toNat % ty.width

/-- The low bits of an operand (R276). -/
def lo (ty : Ty) (x : Word) : BitVec ty.width := x.setWidth ty.width

end Sys2Proof.Claims

open Sys2Proof Sys2Proof.Machine Sys2Proof.Claims

/-! ### Words and steps -/

/-- Words that the spec prints decode to the instructions it prints beside them (R403, R409, R411, R415, R420, R421, and the
encodings after R281, R283, R286). -/
def Obligations.DecodesPrintedWords : Prop :=
  decode 0x043FFFFF#32 0 = .ok (.br .always (-1)) ∧
  decode 0x05C00000#32 0 = .ok (.bri .onTrue) ∧
  decode 0x06000004#32 0 = .ok (.call .always 4) ∧
  decode 0x07000000#32 0 = .ok (.calli .always) ∧
  decode 0x08000000#32 0 = .ok (.ret .always) ∧
  decode 0x03000000#32 0 = .ok (.exit .always) ∧
  decode 0xEB000000#32 0 = .ok (.halt .always) ∧
  decode 0x20128061#32 0 = .ok (.add .always 0x25 0 .s32 true) ∧
  decode 0x201280E0#32 0x000186A0#32 = .ok (.addX .always 0x25 0 .s32 false 100000#32) ∧
  decode 0x3D128003#32 0 = .ok (.shrI .always 0x25 3) ∧
  decode 0x37128063#32 0 = .ok (.lea .always 0x25 0 .s32 3) ∧
  decode 0x32328035#32 0 = .ok (.cmp .always 0x65 0 .n64 .ge) ∧
  decode 0x43128082#32 0 = .ok (.fma 0x25 0 .f32 ⟨.rz, false⟩) ∧
  decode 0x483280A6#32 0 = .ok (.fcmp .always 0x65 0 .f16 .uo) ∧
  decode 0x491280B1#32 0x00000008#32 = .ok (.fcvt .always 0x25 0 .e4m3 .f32 ⟨.rne, true⟩) ∧
  decode 0x191280C2#32 0 = .ok (.recv .always 0x25 0 2) ∧
  decode 0x1A0000C1#32 0 = .ok (.send .always 1) ∧
  decode 0xE90000C0#32 0 = .ok (.edgeset .always 0) ∧
  decode 0xE2128101#32 0 = .ok (.mfs .always 0x25 0x101) ∧
  decode 0xE3000300#32 0 = .ok (.mts .always 0x300) ∧
  decode 0xE0000005#32 0 = .ok (.trap .always 5) ∧
  decode 0xE100000C#32 0 = .ok (.sysc .always 12) ∧
  decode 0xE6128000#32 0 = .ok (.rndr .always 0x25 0)

/-- While the clocks run and bring-up is over, a node at the focus whose slot has issued, and whose words there decode to an instruction, makes the
step be exec of that instruction, with no time passing. -/
def Obligations.StepRunsIssuedInstruction : Prop :=
  ∀ (s : State) (n : Node) (i : Instr), s.clocksStopped = false → s.bringUp = none → s.here = some n → n.issued = true →
    n.runs = true →
    n.blk.isSlot n.slot = true → decode (n.blk.word n.slot) (n.blk.word (n.slot + 1)) = .ok i → step s = exec i s

/-- Decoding the words of a well-formed instruction gives it back, with every operand at every value; the word after an
instruction of one word does not matter. -/
def Obligations.DecodeOfEncodeIsSame : Prop :=
  ∀ (i : Instr) (w : Word32) (x : Option Word32) (y : Word32), i.wf = true → encode i = some (w, x) →
    decode w (x.getD y) = .ok i

/-- What the decoder accepts is a well-formed instruction whose own words are those that were read, so that every reserved field
is refused. -/
def Obligations.AcceptedWordsAreTheirEncoding : Prop :=
  ∀ (w x : Word32) (i : Instr), decode w x = .ok i →
    i.wf = true ∧ ∃ y, encode i = some (w, y) ∧ (y = none ∨ y = some x)

/-! ### Values -/

/-- val(), out() and sat() of R268 for the integer types, in exact integers. -/
def Obligations.OperandHelpersOfIntegers : Prop :=
  ∀ (ty : Ty) (x : Word) (v : Int), ty.isInt = true →
    ty.val x = (if ty.isSigned then Int.bmod x.toNat (2 ^ ty.width) else (x.toNat % 2 ^ ty.width : Nat)) ∧
    (ty.isSigned = true → (ty.out v).toInt = Int.bmod v (2 ^ ty.width)) ∧
    (ty.isSigned = false → ((ty.out v).toNat : Int) = v % (2 ^ ty.width : Nat)) ∧
    ty.clamp v = min (max v (if ty.isSigned then -(2 ^ (ty.width - 1) : Nat) else 0))
      (if ty.isSigned then (2 ^ (ty.width - 1) : Nat) - 1 else (2 ^ ty.width : Nat) - 1)

/-- ADD, SUB, MUL and MULH in every form (R273, R274). -/
def Sys2Proof.Claims.AddSubMulResults : Prop :=
  ∀ (p : Pred) (t u : Tgt) (ty : Ty) (sat : Bool) (imm : Word32) (k : BitVec 15),
    Gives (.add p t u ty sat) (fun _ r => intOut ty sat (ty.val r.l + ty.val r.r)) ∧
    Gives (.addX p t u ty sat imm) (fun _ r => intOut ty sat (ty.val r.l + ty.val (ty.imm imm))) ∧
    Gives (.addI p t k) (fun _ r => intOut .n64 false (Ty.val .n64 r.l + Ty.val .n64 (sx k))) ∧
    Gives (.sub p t u ty sat) (fun _ r => intOut ty sat (ty.val r.l - ty.val r.r)) ∧
    Gives (.subX p t u ty sat imm) (fun _ r => intOut ty sat (ty.val r.l - ty.val (ty.imm imm))) ∧
    Gives (.mul p t u ty sat) (fun _ r => intOut ty sat (ty.val r.l * ty.val r.r)) ∧
    Gives (.mulX p t u ty sat imm) (fun _ r => intOut ty sat (ty.val r.l * ty.val (ty.imm imm))) ∧
    Gives (.mulI p t k) (fun _ r => intOut .n64 false (Ty.val .n64 r.l * Ty.val .n64 (sx k))) ∧
    Gives (.mulh p t u ty) (fun _ r => intOut ty false ((ty.val r.l * ty.val r.r) / (2 ^ ty.width : Nat))) ∧
    Gives (.mulhX p t u ty imm) (fun _ r => intOut ty false ((ty.val r.l * ty.val (ty.imm imm)) / (2 ^ ty.width : Nat)))

/-- DIV and REM in both forms: a divisor of 0 gives −1 and the dividend (R275). -/
def Sys2Proof.Claims.DivRemResults : Prop :=
  ∀ (p : Pred) (t u : Tgt) (ty : Ty) (imm : Word32),
    let q (a b : Int) : Int := if b = 0 then -1 else Int.tdiv a b
    let rm (a b : Int) : Int := if b = 0 then a else a - Int.tdiv a b * b
    Gives (.div p t u ty) (fun _ r => intOut ty false (q (ty.val r.l) (ty.val r.r))) ∧
    Gives (.divX p t u ty imm) (fun _ r => intOut ty false (q (ty.val r.l) (ty.val (ty.imm imm)))) ∧
    Gives (.rem p t u ty) (fun _ r => intOut ty false (rm (ty.val r.l) (ty.val r.r))) ∧
    Gives (.remX p t u ty imm) (fun _ r => intOut ty false (rm (ty.val r.l) (ty.val (ty.imm imm))))

/-- ADD, SUB, MUL, MULH, DIV and REM in every form (R273 to R275). -/
def Obligations.IntegerArithmeticResults : Prop := Sys2Proof.Claims.AddSubMulResults ∧ Sys2Proof.Claims.DivRemResults

/-- AND, OR, XOR and ANDN in every form (R273, R276). -/
def Sys2Proof.Claims.LogicResults : Prop :=
  ∀ (p : Pred) (t u : Tgt) (ty : Ty) (imm : Word32) (k : BitVec 15),
    Gives (.and p t u ty) (fun _ r => bitsOut ty (lo ty r.l &&& lo ty r.r)) ∧
    Gives (.andX p t u ty imm) (fun _ r => bitsOut ty (lo ty r.l &&& lo ty (ty.imm imm))) ∧
    Gives (.andI p t k) (fun _ r => .scalar (r.l &&& sx k)) ∧
    Gives (.or p t u ty) (fun _ r => bitsOut ty (lo ty r.l ||| lo ty r.r)) ∧
    Gives (.orX p t u ty imm) (fun _ r => bitsOut ty (lo ty r.l ||| lo ty (ty.imm imm))) ∧
    Gives (.orI p t k) (fun _ r => .scalar (r.l ||| sx k)) ∧
    Gives (.xor p t u ty) (fun _ r => bitsOut ty (lo ty r.l ^^^ lo ty r.r)) ∧
    Gives (.xorX p t u ty imm) (fun _ r => bitsOut ty (lo ty r.l ^^^ lo ty (ty.imm imm))) ∧
    Gives (.xorI p t k) (fun _ r => .scalar (r.l ^^^ sx k)) ∧
    Gives (.andn p t u ty) (fun _ r => bitsOut ty (lo ty r.l &&& ~~~(lo ty r.r))) ∧
    Gives (.andnX p t u ty imm) (fun _ r => bitsOut ty (lo ty r.l &&& ~~~(lo ty (ty.imm imm))))

/-- SHL, SHR, SAR and ROT in every form: the amount is right mod w, SAR fills with the top bit of the w, ROT turns toward bit
w − 1 (R273, R276). -/
def Sys2Proof.Claims.ShiftRotateResults : Prop :=
  ∀ (p : Pred) (t u : Tgt) (ty : Ty) (imm : Word32) (k : BitVec 15),
    Gives (.shl p t u ty) (fun _ r => bitsOut ty (lo ty r.l <<< amt ty r.r)) ∧
    Gives (.shlX p t u ty imm) (fun _ r => bitsOut ty (lo ty r.l <<< amt ty (ty.imm imm))) ∧
    Gives (.shlI p t k) (fun _ r => .scalar (r.l <<< amt .n64 (sx k))) ∧
    Gives (.shr p t u ty) (fun _ r => bitsOut ty (lo ty r.l >>> amt ty r.r)) ∧
    Gives (.shrX p t u ty imm) (fun _ r => bitsOut ty (lo ty r.l >>> amt ty (ty.imm imm))) ∧
    Gives (.shrI p t k) (fun _ r => .scalar (r.l >>> amt .n64 (sx k))) ∧
    Gives (.sar p t u ty) (fun _ r => bitsOut ty ((lo ty r.l).sshiftRight (amt ty r.r))) ∧
    Gives (.sarX p t u ty imm) (fun _ r => bitsOut ty ((lo ty r.l).sshiftRight (amt ty (ty.imm imm)))) ∧
    Gives (.sarI p t k) (fun _ r => .scalar (r.l.sshiftRight (amt .n64 (sx k)))) ∧
    Gives (.rot p t u ty) (fun _ r => bitsOut ty ((lo ty r.l).rotateLeft (amt ty r.r))) ∧
    Gives (.rotX p t u ty imm) (fun _ r => bitsOut ty ((lo ty r.l).rotateLeft (amt ty (ty.imm imm))))

/-- The logic and shift instructions in every form (R273, R276). -/
def Obligations.LogicShiftResults : Prop := Sys2Proof.Claims.LogicResults ∧ Sys2Proof.Claims.ShiftRotateResults

/-- CLZ counts the zeros above the highest one bit among the w low bits, POPC the one bits among them, EXT extends (R277). -/
def Sys2Proof.Claims.CountExtendResults : Prop :=
  ∀ (p : Pred) (t u : Tgt) (ty : Ty),
    let x (r : SlotRt) : Nat := r.l.toNat % 2 ^ ty.width
    Gives (.clz p t u ty) (fun _ r => .scalar (BitVec.ofNat 64 (ty.width - (if x r = 0 then 0 else (x r).log2 + 1)))) ∧
    Gives (.popc p t u ty)
      (fun _ r => .scalar (BitVec.ofNat 64 ((List.range ty.width).filter fun k => (x r).testBit k).length)) ∧
    Gives (.ext p t u ty) (fun _ r => intOut ty false (ty.val r.l))

/-- MIN, MAX, CMP and SEL in both forms (R278, R279). -/
def Obligations.CompareSelectResults : Prop :=
  ∀ (p : Pred) (t u : Tgt) (ty : Ty) (c : Cond) (imm : Word32), c ≠ .uo → c ≠ .or →
    let rel (a b : Int) : Prop := match c with
      | .eq => a = b
      | .ne => a ≠ b
      | .lt => a < b
      | .le => a ≤ b
      | .gt => a > b
      | _ => a ≥ b
    Gives (.min p t u ty) (fun _ r => intOut ty false (min (ty.val r.l) (ty.val r.r))) ∧
    Gives (.minX p t u ty imm) (fun _ r => intOut ty false (min (ty.val r.l) (ty.val (ty.imm imm)))) ∧
    Gives (.max p t u ty) (fun _ r => intOut ty false (max (ty.val r.l) (ty.val r.r))) ∧
    Gives (.maxX p t u ty imm) (fun _ r => intOut ty false (max (ty.val r.l) (ty.val (ty.imm imm)))) ∧
    (∀ v : Node → SlotRt → Word, (∀ n r, (rel (ty.val r.l) (ty.val r.r) → v n r = 1) ∧
      (¬ rel (ty.val r.l) (ty.val r.r) → v n r = 0)) → Gives (.cmp p t u ty c) (fun n r => .scalar (v n r))) ∧
    (∀ v : Node → SlotRt → Word, (∀ n r, (rel (ty.val r.l) (ty.val (ty.imm imm)) → v n r = 1) ∧
      (¬ rel (ty.val r.l) (ty.val (ty.imm imm)) → v n r = 0)) → Gives (.cmpX p t u ty c imm) (fun n r => .scalar (v n r))) ∧
    Gives (.sel t u ty) (fun _ r => intOut ty false (if r.g.getLsbD 0 then ty.val r.l else ty.val r.r)) ∧
    Gives (.selX t u ty imm) (fun _ r => intOut ty false (if r.g.getLsbD 0 then ty.val r.l else ty.val (ty.imm imm)))

/-- BFX, BFI and LEA in both forms (R280, R281). -/
def Sys2Proof.Claims.FieldAddressResults : Prop :=
  ∀ (p : Pred) (t u : Tgt) (ty : Ty) (sc : BitVec 4) (imm : Word32),
    let pos (c : Word) : Nat := c.toNat % 64
    let len (c : Word) : Nat := min (c.toNat / 256 % 128) (64 - pos c)
    let f (l c : Word) : Nat := l.toNat / 2 ^ pos c % 2 ^ len c
    let get (l c : Word) : Val := .scalar (if len c = 0 then 0
      else if ty.isSigned then BitVec.ofInt 64 (Int.bmod (f l c) (2 ^ len c)) else BitVec.ofNat 64 (f l c))
    let m (c : Word) : Word := BitVec.ofNat 64 ((2 ^ len c - 1) * 2 ^ pos c)
    let put (l r c : Word) : Val := .scalar ((l &&& ~~~(m c)) ||| ((r <<< pos c) &&& m c))
    let at_ (l r : Word) : Val := .scalar (BitVec.ofInt 64 (l.toNat + ty.val r * 2 ^ sc.toNat))
    Gives (.bfx p t u ty) (fun _ r => get r.l r.r) ∧
    Gives (.bfxX p t u ty imm) (fun _ r => get r.l (ty.imm imm)) ∧
    Gives (.bfi t u ty) (fun _ r => put r.l r.r r.g) ∧
    Gives (.bfiX t u ty imm) (fun _ r => put r.l (ty.imm imm) r.g) ∧
    Gives (.lea p t u ty sc) (fun _ r => at_ r.l r.r) ∧
    Gives (.leaX p t u ty sc imm) (fun _ r => at_ r.l (ty.imm imm))

/-- CLZ, POPC, EXT, the bit fields and LEA in every form (R277, R280, R281). -/
def Obligations.CountFieldAddressResults : Prop := Sys2Proof.Claims.CountExtendResults ∧ Sys2Proof.Claims.FieldAddressResults

/-- The scalar arithmetic forms round once the exact sum, difference, product, quotient or root of what their operands stand for;
the draw is that of the slot (R246, R271, R283). -/
def Obligations.FloatArithmeticResults : Prop :=
  ∀ (p : Pred) (t u : Tgt) (ty : Ty) (md : FMod),
    let rnd (n : Node) (v : FVal) : Val := fp (ty.rnd md (n.draw n.slot 0) false v)
    let a (r : SlotRt) : FVal := ty.dec r.l.toNat
    let b (r : SlotRt) : FVal := ty.dec r.r.toNat
    let c (r : SlotRt) : FVal := ty.dec r.g.toNat
    let down : Bool := md.rnd = .rd
    Gives (.fadd p t u ty md) (fun n r => rnd n ((a r).add down (b r))) ∧
    Gives (.fsub p t u ty md) (fun n r => rnd n ((a r).add down (b r).neg)) ∧
    Gives (.fmul p t u ty md) (fun n r => rnd n ((a r).mul (b r))) ∧
    Gives (.fma t u ty md) (fun n r => rnd n (((a r).mul (b r)).add down (c r))) ∧
    Gives (.fdiv p t u ty md) (fun n r => rnd n ((a r).div (b r))) ∧
    Gives (.fsqrt p t u ty md) (fun n r => rnd n (a r).sqrt)

/-- FMIN, FMAX, FCMP, FCVT, FCLASS and FSGN (R284 to R288). -/
def Sys2Proof.Claims.FloatCompareResults : Prop :=
  ∀ (p : Pred) (t u : Tgt) (ty sty : Ty) (md : FMod) (c : Cond) (op : SgnOp),
    let a (r : SlotRt) : FVal := ty.dec r.l.toNat
    let b (r : SlotRt) : FVal := ty.dec r.r.toNat
    let top : Nat := 2 ^ (ty.width - 1)
    Gives (.fmin p t u ty) (fun _ r => fp (if (a r).isNan || (b r).isNan then ty.nanBits
      else if fpBelow (b r) (a r) then r.r.toNat % 2 ^ ty.width else r.l.toNat % 2 ^ ty.width)) ∧
    Gives (.fmax p t u ty) (fun _ r => fp (if (a r).isNan || (b r).isNan then ty.nanBits
      else if fpBelow (a r) (b r) then r.r.toNat % 2 ^ ty.width else r.l.toNat % 2 ^ ty.width)) ∧
    Gives (.fcmp p t u ty c) (fun _ r => .scalar (if c.holdsFp (a r) (b r) then 1 else 0)) ∧
    Gives (.fcvt p t u ty sty md) (fun n r => .scalar (ty.opCvt sty md (n.draw n.slot 0) r.l)) ∧
    Gives (.fclass p t u ty) (fun _ r => .scalar (ty.classOf r.l.toNat)) ∧
    Gives (.fsgn p t u ty op) (fun _ r => fp (if (a r).isNan then ty.nanBits
      else r.l.toNat % top + top * (match op with
        | .cps => r.r.toNat / top % 2
        | .neg => 1 - r.l.toNat / top % 2
        | .xsg => (r.l.toNat / top + r.r.toNat / top) % 2
        | .abs => 0)))

/-- FCMP's relations on what the operands stand for: an unordered pair satisfies `.ne` and `.uo` alone, an ordered one `.or` (R285). -/
def Sys2Proof.Claims.FloatRelations : Prop :=
  ∀ a b : FVal,
    let uo : Bool := a.isNan || b.isNan
    Cond.holdsFp .uo a b = uo ∧ Cond.holdsFp .or a b = !uo ∧
    (uo = true → Cond.holdsFp .eq a b = false ∧ Cond.holdsFp .ne a b = true ∧ Cond.holdsFp .lt a b = false
      ∧ Cond.holdsFp .le a b = false ∧ Cond.holdsFp .gt a b = false ∧ Cond.holdsFp .ge a b = false) ∧
    (uo = false → Cond.holdsFp .ne a b = !Cond.holdsFp .eq a b ∧ Cond.holdsFp .ge a b = !Cond.holdsFp .lt a b
      ∧ Cond.holdsFp .le a b = !Cond.holdsFp .gt a b ∧ Cond.holdsFp .gt a b = Cond.holdsFp .lt b a)

/-- The scalar forms that compare, convert and classify, and the relations that FCMP takes (R284 to R288). -/
def Obligations.FloatCompareConvertResults : Prop := Sys2Proof.Claims.FloatCompareResults ∧ Sys2Proof.Claims.FloatRelations

/-- The functions of one operand, scalar and by lane; lane i of a vector form takes draw i of its slot (R251 to R255, R289,
R294). -/
def Obligations.FunctionResults : Prop :=
  ∀ (p : Pred) (t u : Tgt) (ty : Ty) (md : FMod),
    let out (n : Node) (i : Nat) (v : FVal) : Nat := finish ty md (n.draw n.slot i) v
    Gives (.exp2 p t u ty md) (fun n r => fp (out n 0 (exp2Val (ty.dec r.l.toNat)))) ∧
    Gives (.log2 p t u ty md) (fun n r => fp (out n 0 (log2Val (ty.dec r.l.toNat)))) ∧
    Gives (.vexp2 p t u ty md) (fun n r => byLane fun i => out n i (exp2Val (ty.dec (laneN r.lv i)))) ∧
    Gives (.vlog2 p t u ty md) (fun n r => byLane fun i => out n i (log2Val (ty.dec (laneN r.lv i)))) ∧
    Gives (.vrcp p t u ty md) (fun n r => byLane fun i => out n i (rcpVal (ty.dec (laneN r.lv i)))) ∧
    Gives (.vrsq p t u ty md) (fun n r => byLane fun i => out n i (rsqVal (ty.dec (laneN r.lv i))))

/-- The vector arithmetic forms do in each lane what the scalar form does (R291, R293, R297). -/
def Obligations.VectorArithmeticResults : Prop :=
  ∀ (p : Pred) (t u : Tgt) (ty sty : Ty) (md : FMod),
    let rnd (n : Node) (i : Nat) (v : FVal) : Nat := ty.rnd md (n.draw n.slot i) false v
    let a (r : SlotRt) (i : Nat) : FVal := ty.dec (laneN r.lv i)
    let b (r : SlotRt) (i : Nat) : FVal := ty.dec (laneN r.rv i)
    let c (r : SlotRt) (i : Nat) : FVal := ty.dec (laneN r.gv i)
    let down : Bool := md.rnd = .rd
    Gives (.vadd p t u ty md) (fun n r => byLane fun i => rnd n i ((a r i).add down (b r i))) ∧
    Gives (.vsub p t u ty md) (fun n r => byLane fun i => rnd n i ((a r i).add down (b r i).neg)) ∧
    Gives (.vmul p t u ty md) (fun n r => byLane fun i => rnd n i ((a r i).mul (b r i))) ∧
    Gives (.vfma t u ty md) (fun n r => byLane fun i => rnd n i (((a r i).mul (b r i)).add down (c r i))) ∧
    Gives (.vmin p t u ty) (fun _ r => byLane fun i => ty.fpMin (laneN r.lv i) (laneN r.rv i)) ∧
    Gives (.vmax p t u ty) (fun _ r => byLane fun i => ty.fpMax (laneN r.lv i) (laneN r.rv i)) ∧
    Gives (.vcvt p t u ty sty md)
      (fun n r => byLane fun i => ty.opCvtLane sty md (n.draw n.slot i) ((lane r.lv i).setWidth 64)) ∧
    Gives (.vscale p t u ty) (fun _ r => byLane fun i => ty.fpScale (laneN r.lv i) (laneN r.rv i))

/-- The vector forms that compare, select, reduce, scan, move and compute in integers (R250, R292, R295, R296, R298). -/
def Sys2Proof.Claims.VectorMoveResults : Prop :=
  ∀ (p : Pred) (t u : Tgt) (ty : Ty) (c : Cond) (red : RedOp) (op : VOp),
    Gives (.vcmp p t u ty c) (fun _ r => .scalar (maskOf fun i =>
      if ty.isInt then c.holdsInt (ty.val ((lane r.lv i).setWidth 64)) (ty.val ((lane r.rv i).setWidth 64))
      else c.holdsFp (ty.dec (laneN r.lv i)) (ty.dec (laneN r.rv i)))) ∧
    Gives (.vsel t u ty) (fun _ r => .vector (ofLanes fun i => if r.g.getLsbD i then lane r.lv i else lane r.rv i)) ∧
    Gives (.vred p t u ty red) (fun _ r => .scalar (ty.redOut (ty.vecRed red r.lv r.r))) ∧
    Gives (.vscan p t u ty red) (fun _ r => .vector (ty.vecScan red r.lv r.r)) ∧
    Gives (.vshuf p t u) (fun _ r => .vector (ofLanes fun i => lane r.lv (laneN r.rv i % 32))) ∧
    Gives (.vbcast p t u ty) (fun _ r => byLane fun _ => r.l.toNat % 2 ^ ty.laneWidth) ∧
    Gives (.vlut p t u ty) (fun _ r => byLane fun i =>
      r.rv.toNat / 2 ^ (ty.laneWidth * (laneN r.lv i % (1024 / ty.laneWidth))) % 2 ^ ty.laneWidth) ∧
    Gives (.viop p t u ty op)
      (fun _ r => byLane fun i => ty.vop op ((lane r.lv i).setWidth 64) ((lane r.rv i).setWidth 64))

/-- Lane i of a vector made lane by lane holds what was put there, for each of the 32 (R29, R290). -/
def Sys2Proof.Claims.LanesReadBack : Prop :=
  ∀ (f : Nat → Word32) (i : Nat), i < 32 → lane (ofLanes f) i = f i

/-- The vector forms that compare, select, reduce, scan, move and compute in integers, and what a lane of a vector reads as (R29, R250, R290, R292, R295, R296, R298). -/
def Obligations.VectorMoveReduceResults : Prop := Sys2Proof.Claims.VectorMoveResults ∧ Sys2Proof.Claims.LanesReadBack

/-- NULL, MOV and the MOVI forms; and a register read of a full register, by either of its two forms (R32, R409, R410). -/
def Sys2Proof.Claims.MoveResults : Prop :=
  ∀ (p : Pred) (t u : Tgt) (k : BitVec 15) (zx : Bool) (imm : Word32) (g : BitVec 6) (v : BitVec 5) (m : BitVec 3),
    let reads (i : Instr) (full : Node → Bool) (x : Node → Val) : Prop :=
      ∀ (s : State) (n : Node) (b : Blk), Fires s n i → full n = true →
        n.blk.deliver (x n) (n.issueCyc n.slot + Config.latency i) i.targets = .ok b →
        exec i s = .next (s.putHere (delivered n b))
    Gives (.null p t u) (fun _ _ => .null) ∧
    Gives (.mov p t u) (fun _ r => r.left.getD .null) ∧
    Gives (.movi p t k) (fun _ _ => .scalar (sx k)) ∧
    Gives (.movi32 p t u zx imm) (fun _ _ => .scalar (if zx then imm.setWidth 64 else imm.signExtend 64)) ∧
    Gives (.moviHi p t u imm) (fun _ _ => .scalar (imm ++ 0#32)) ∧
    reads (.rd p t u g) (fun n => n.regs.gFull.getLsbD g.toNat) (fun n => .scalar (n.regs.gAt g.toNat)) ∧
    reads (.rdT p t u g) (fun n => n.regs.gFull.getLsbD g.toNat) (fun n => .scalar (n.regs.gAt g.toNat)) ∧
    reads (.rdv p t u v) (fun n => n.regs.vFull.getLsbD v.toNat) (fun n => .vector (n.regs.vAt v.toNat)) ∧
    reads (.rdvT p t u v) (fun n => n.regs.vFull.getLsbD v.toNat) (fun n => .vector (n.regs.vAt v.toNat)) ∧
    reads (.rdp p t u m) (fun n => n.regs.pFull.getLsbD m.toNat) (fun n => .scalar ((n.regs.pAt m.toNat).setWidth 64)) ∧
    reads (.rdpT p t u m) (fun n => n.regs.pFull.getLsbD m.toNat) (fun n => .scalar ((n.regs.pAt m.toNat).setWidth 64))

/-- A read of an empty register: RD, RDV and RDP leave the slot waiting, and RD.t, RDV.t and RDP.t trap (R32). -/
def Sys2Proof.Claims.EmptyRegisterReads : Prop :=
  ∀ (p : Pred) (t u : Tgt) (g : BitVec 6) (v : BitVec 5) (m : BitVec 3),
    let waits (i : Instr) (full : Node → Bool) : Prop := ∀ (s : State) (n : Node), Fires s n i → full n = false →
      n.blk.timed = false → exec i s = .next (s.putHere { n with issued := false })
    waits (.rd p t u g) (fun n => n.regs.gFull.getLsbD g.toNat) ∧
    waits (.rdv p t u v) (fun n => n.regs.vFull.getLsbD v.toNat) ∧
    waits (.rdp p t u m) (fun n => n.regs.pFull.getLsbD m.toNat) ∧
    Traps (.rdT p t u g) (fun _ n _ => n.regs.gFull.getLsbD g.toNat = false) .notReady (fun _ _ => 0) ∧
    Traps (.rdvT p t u v) (fun _ n _ => n.regs.vFull.getLsbD v.toNat = false) .notReady (fun _ _ => 0) ∧
    Traps (.rdpT p t u m) (fun _ n _ => n.regs.pFull.getLsbD m.toNat = false) .notReady (fun _ _ => 0)

/-- NULL, the moves, and the register reads, of full and of empty registers (R32, R409, R410). -/
def Obligations.MoveAndReadResults : Prop := Sys2Proof.Claims.MoveResults ∧ Sys2Proof.Claims.EmptyRegisterReads

/-- WR, WRV, WRP and RSETC hold their write for step 1 of the commit (R24, R221, R410). -/
def Sys2Proof.Claims.RegisterWritesAreHeld : Prop :=
  ∀ (p : Pred) (g : BitVec 6) (v : BitVec 5) (m : BitVec 3),
    let once (a : Act) (n : Node) : Prop := (n.blk.effs.any fun e => e.acts.any fun b => a.sameReg b) = false
    let own (n : Node) : Nat := n.slot
    Holds (.wr p g) (fun _ n r => once (.setG g r.l) n) 1 own (fun _ _ r => [.setG g r.l]) ∧
    Holds (.wrv p v) (fun _ n r => once (.setV v r.lv) n) 1 own (fun _ _ r => [.setV v r.lv]) ∧
    Holds (.wrp p m) (fun _ n r => once (.setP m (r.l.setWidth 32)) n) 1 own (fun _ _ r => [.setP m (r.l.setWidth 32)]) ∧
    Holds (.rsetc p) (fun _ n r => r.l.toNat < 64 ∧ (Tbl.get? r.l.toNat n.rounds).isSome = true) 1 own
      (fun _ _ r => [.setCur r.l.toNat r.r])

/-- A second write to a register that fires in a block traps as a block fault, and RSETC of an undeclared region as a round
trap (R28, R219). -/
def Sys2Proof.Claims.RegisterWriteTraps : Prop :=
  ∀ (p : Pred) (g : BitVec 6) (v : BitVec 5) (m : BitVec 3),
    let twice (a : Act) (n : Node) : Prop := (n.blk.effs.any fun e => e.acts.any fun b => a.sameReg b) = true
    Traps (.wr p g) (fun _ n r => twice (.setG g r.l) n) .block (fun _ _ => 0) ∧
    Traps (.wrv p v) (fun _ n r => twice (.setV v r.lv) n) .block (fun _ _ => 0) ∧
    Traps (.wrp p m) (fun _ n r => twice (.setP m (r.l.setWidth 32)) n) .block (fun _ _ => 0) ∧
    Traps (.rsetc p) (fun _ n r => 64 ≤ r.l.toNat ∨ Tbl.get? r.l.toNat n.rounds = none) .round (fun _ _ => 0)

/-- WR, WRV, WRP and RSETC: what they hold, and when they trap (R24, R28, R219, R221, R410). -/
def Obligations.RegisterWrites : Prop := Sys2Proof.Claims.RegisterWritesAreHeld ∧ Sys2Proof.Claims.RegisterWriteTraps

/-- The exits: where no exit has fired and the successor is a block's address, the exit is noted with its successor; CALL and
CALLI hold their write of g63 for step 1, and RET reads g63 where it is full (R22, R403, R404). -/
def Sys2Proof.Claims.ExitsNoteTheirSuccessor : Prop :=
  ∀ (p : Pred) (disp : BitVec 22),
    let leaves (i : Instr) (ok : Node → SlotRt → Prop) (k : Node → SlotRt → ExitKind) (acts : Node → List Act) : Prop :=
      ∀ (s : State) (n : Node), Fires s n i → n.blk.exit = none → ok n (cur n) →
        exec i s = .next (s.putHere { n with
          blk := ({ n.blk with
            exit := some (k n (cur n))
            effs := n.blk.effs ++ (if (acts n).isEmpty then [] else [⟨n.slot, 1, n.slot, acts n⟩]) } : Blk).mark n.slot .fired
          issued := false })
    let place (a : Word) : Prop := a.toNat % 16 = 0 ∧ a.toNat < 2 ^ 56
    let target (n : Node) : Word := n.pc + disp.signExtend 64 * 16
    leaves (.exit p) (fun _ _ => True) (fun _ _ => .endNode) (fun _ => []) ∧
    leaves (.halt p) (fun _ _ => True) (fun _ _ => .endRegion) (fun _ => []) ∧
    leaves (.br p disp) (fun n _ => place (target n)) (fun n _ => .goto (target n)) (fun _ => []) ∧
    leaves (.bri p) (fun _ r => place r.l) (fun _ r => .goto r.l) (fun _ => []) ∧
    leaves (.call p disp) (fun n _ => place (target n)) (fun n _ => .goto (target n)) (fun n => [.setG 63 n.following]) ∧
    leaves (.calli p) (fun _ r => place r.l) (fun _ r => .goto r.l) (fun n => [.setG 63 n.following]) ∧
    leaves (.ret p) (fun n _ => n.regs.gFull.getLsbD 63 = true ∧ place (n.regs.gAt 63)) (fun n _ => .goto (n.regs.gAt 63))
      (fun _ => [])

/-- A successor with a bit of [3:0] set raises the alignment fault as the slot fires, and one with a bit of [63:56] set the address
fault; both are precise (R405). -/
def Sys2Proof.Claims.SuccessorChecks : Prop :=
  ∀ (p : Pred) (disp : BitVec 22),
    let target (n : Node) : Word := n.pc + disp.signExtend 64 * 16
    let both (i : Instr) (ok : Node → Prop) (a : Node → SlotRt → Word) : Prop :=
      Traps i (fun _ n r => ok n ∧ (a n r).toNat % 16 ≠ 0) .align a ∧
      Traps i (fun _ n r => ok n ∧ (a n r).toNat % 16 = 0 ∧ 2 ^ 56 ≤ (a n r).toNat) .address a
    both (.br p disp) (fun _ => True) (fun n _ => target n) ∧
    both (.bri p) (fun _ => True) (fun _ r => r.l) ∧
    both (.call p disp) (fun _ => True) (fun n _ => target n) ∧
    both (.calli p) (fun _ => True) (fun _ r => r.l) ∧
    both (.ret p) (fun n => n.regs.gFull.getLsbD 63 = true) (fun n _ => n.regs.gAt 63)

/-- A second exit of a block that fires raises the exit fault (R22). -/
def Sys2Proof.Claims.SecondExitTraps : Prop :=
  ∀ (p : Pred) (disp : BitVec 22),
    let place (a : Word) : Prop := a.toNat % 16 = 0 ∧ a.toNat < 2 ^ 56
    let target (n : Node) : Word := n.pc + disp.signExtend 64 * 16
    let second (i : Instr) (ok : Node → SlotRt → Prop) : Prop :=
      Traps i (fun _ n r => n.blk.exit ≠ none ∧ ok n r) .exit (fun _ _ => 0)
    second (.exit p) (fun _ _ => True) ∧ second (.halt p) (fun _ _ => True) ∧
    second (.br p disp) (fun n _ => place (target n)) ∧ second (.bri p) (fun _ r => place r.l) ∧
    second (.call p disp) (fun n _ => place (target n)) ∧ second (.calli p) (fun _ r => place r.l) ∧
    second (.ret p) (fun n _ => n.regs.gFull.getLsbD 63 = true ∧ place (n.regs.gAt 63))

/-- The exits: what they note, the checks of a successor, and the exit fault of a second one that fires (R22, R403 to R405). That the
successor of a second exit is checked before the exit fault is the model's choice (log 58). -/
def Obligations.Exits : Prop :=
  Sys2Proof.Claims.ExitsNoteTheirSuccessor ∧ Sys2Proof.Claims.SuccessorChecks ∧ Sys2Proof.Claims.SecondExitTraps


/-! ### Ports, memory and engines -/

namespace Sys2Proof.Claims

open Sys2Proof.Machine

/-- The node with acts held for a step of the commit by its slot, which has not fired yet. -/
def also (n : Node) (step key : Nat) (acts : List Act) : Blk :=
  if acts.isEmpty then n.blk else { n.blk with effs := n.blk.effs ++ [⟨n.slot, step, key, acts⟩] }

/-- Wherever instruction i fires and c relates the state and a state t that an access of the slot leaves, exec answers t with
the value delivered and acts held for a step of the commit; the value stands at the targets at the cycle of issue plus the
latency. -/
def Yields (i : Instr) (step : Nat) (key : Node → Nat) (c : State → Node → SlotRt → State → Val → List Act → Prop) : Prop :=
  ∀ (s t : State) (n : Node) (b : Blk) (v : Val) (acts : List Act), Fires s n i → c s n (cur n) t v acts →
    (also n step (key n) acts).deliver v (n.issueCyc n.slot + Config.latency i) i.targets = .ok b →
    exec i s = .next (t.putHere (delivered n b))

/-- Wherever instruction i fires and c relates the state and a state t that an access of the slot leaves, exec answers t with
acts held for a step of the commit. -/
def HoldsVia (i : Instr) (step : Nat) (key : Node → Nat) (c : State → Node → SlotRt → State → List Act → Prop) : Prop :=
  ∀ (s t : State) (n : Node) (acts : List Act), Fires s n i → c s n (cur n) t acts →
    exec i s = .next (t.putHere (holding n step (key n) acts))

/-- The slot itself, as the key of what it holds for step 3 (R24). -/
def own (n : Node) : Nat := n.slot

/-- A token that RECV may take stands at a position of an input port that the node's step uses (R225, R231, R412). -/
def Arrived (s : State) (n : Node) (port pos : Nat) (tok : Token) : Prop :=
  s.usesIn n port = true ∧ s.isCaddPort n.tile port = false ∧ tok.isMarker = false ∧ ¬ (tok.kind = 1 ∧ tok.sub < 3) ∧
    ∃ k x, nthTok (s.port (4 * n.tile + port)).toks 0 pos = some (k, x) ∧ x.tok = tok ∧ s.barred (4 * n.tile + port) x = false

/-- The token that SEND and SENDT describe: the payload from left, the sideband from right (R413). -/
def sentTok (r : SlotRt) : Token := ⟨(r.left.getD .null).vec, r.r.setWidth 32⟩

/-- The token that leaves: a data token's elements beyond its count are zero (R224). -/
def sentAs (k : Token) : Token :=
  if k.kind = 0 then ⟨BitVec.ofNat 1024 (k.payload.toNat % 2 ^ (1024 / fmtMax k.fmt * (k.count + 1))), k.side⟩ else k

/-- May a program send it? Not a marker, no control token but an iteration end, no count above the format's maximum, no fmt or
count on another kind than data, and right[18:16] zero (R413). -/
def MaySend (k : Token) : Prop :=
  k.kind ≠ 2 ∧ (k.kind = 1 → k.payload.toNat % 256 = 3) ∧ (k.kind = 0 → k.count < fmtMax k.fmt) ∧
    (k.kind ≠ 0 → k.fmt = 0 ∧ k.count = 0) ∧ k.side.toNat / 2 ^ 16 % 8 = 0

/-- The effective address of R174. -/
def ea (left : Word) (off : BitVec 10) (scale : Nat) : Word := left + off.signExtend 64 * BitVec.ofNat 64 scale

/-- Every lane is aligned to its size and below 2^56 (R176). -/
def Sound (l : List LaneAt) : Prop := ∀ x ∈ l, x.va % x.size = 0 ∧ x.va < 2 ^ 56

/-- The lanes i that the mask leaves active, each of es bytes at its address (R181, R183). -/
def lanesAt (n : Node) (k : LaneMask) (es : Nat) (addr : Nat → Word) : List LaneAt :=
  ((List.range 32).filter fun i => !k.m || (n.regs.pAt k.p.toNat).getLsbD i).map fun i => ⟨i, (addr i).toNat, es⟩

/-- The vector of a masked load: an active lane's raw bytes extended, 0 elsewhere (R181). -/
def loaded (ty : Ty) (m : Tbl Vec) (l : List LaneAt) : Val :=
  .vector (ofLanes fun i => match l.find? fun x => x.ix = i with
    | some x => (ty.ext (BitVec.ofNat ty.width (laneRaw m x))).setWidth 32
    | none => 0)

/-- What a load leaves for the commit: its acquire with the round counters that it observed, or these alone for a later FENCE
(R153, R154, R171). -/
def acquires (a : Attr) (seen : List (Nat × Word)) : List Act :=
  if a.ord.acq then (if seen = [] then [.acquire a.scope none] else seen.map fun x => .acquire a.scope (some x))
  else seen.map fun x => .saw x.1 x.2

/-- The store of lanes that a slot holds (R182): the low bytes of each, and its release where the order says so. -/
def storing (lsid : Nat) (a : Attr) (l : List LaneAt) (pas : List Nat) (val : Nat → Nat) : List Act :=
  storeActs ⟨lsid, (l.zip pas).map fun x => ⟨x.1.va, x.2, x.1.size, val x.1.ix % 2 ^ (8 * x.1.size)⟩, a.pol,
    if a.ord.rel then some a.scope else none⟩

/-- What becomes of a state when the leader of a redundant node observes a value (R380): it is forwarded under the slot's name. A
node without redundant execution forwards nothing. -/
def seen (s : State) (n : Node) (x : Vec) : State := s.forward n (n.fwdKey 0) x

/-- The same for a load, whose value is forwarded where a page of it is shared-volatile (R97, R380). -/
def seenIf (sv : Bool) (s : State) (n : Node) (x : Vec) : State := if sv then seen s n x else s

/-- The eight words of a descriptor among the lines that were read (R198). -/
def descOf (m : Tbl Vec) (va : Word) : List Word :=
  (List.range 8).map fun k => BitVec.ofNat 64 (laneRaw m ⟨k, va.toNat + 8 * k, 8⟩)

/-- The lines of a descriptor. -/
def descLines (va : Word) : Tbl Word32 := lanesByLine ((List.range 8).map fun k => (⟨k, va.toNat + 8 * k, 8⟩ : LaneAt))

end Sys2Proof.Claims

open Sys2Proof Sys2Proof.Machine Sys2Proof.Claims

/-- The port instructions: RECV delivers the payload of the token at the place that R28 gives it and pops at step 3, TAGOF
delivers the sideband of the first; SEND, SENDT, SETTAG and EDGESET hold theirs for step 3 (R411 to R414). -/
def Sys2Proof.Claims.PortInstructions : Prop :=
  ∀ (p : Pred) (t u : Tgt) (port : BitVec 2),
    Yields (.recv p t u port) 3 own (fun s n _ t v acts => s = t ∧ acts = [.popPort port.toNat n.slot] ∧
      ∃ k, Arrived s n port.toNat (n.blk.recvsBelow port.toNat n.slot) k ∧ v = .vector k.payload) ∧
    Yields (.tagof p t u port) 3 own (fun s n _ t v acts => s = t ∧ acts = [] ∧
      ∃ k, Arrived s n port.toNat 0 k ∧ v = .scalar (k.side.setWidth 64)) ∧
    Holds (.send p port) (fun s n r => s.usesOut n port.toNat = true ∧ MaySend (sentTok r)) 3 own
      (fun _ _ r => [.send port.toNat (sentAs (sentTok r)) false]) ∧
    Holds (.sendt p port) (fun s n r => s.usesOut n port.toNat = true ∧ MaySend (sentTok r)) 3 own
      (fun _ _ r => [.send port.toNat (sentAs (sentTok r)) true]) ∧
    Holds (.settag p port) (fun s n _ => s.usesOut n port.toNat = true) 3 own
      (fun _ _ r => [.setTag port.toNat (r.l.setWidth 16)]) ∧
    Holds (.edgeset p port) (fun s n _ => s.usesOut n port.toNat = true ∧ s.timedPort n.tile false port.toNat = false) 3 own
      (fun _ _ r => [.send port.toNat (ctlToken 4 (r.l.toNat % 256) 0) false])

/-- A port that the step does not use traps as a configuration fault, as does EDGESET on a timed port; a token that a program may
not send traps as a block fault (R411, R413, R414). -/
def Sys2Proof.Claims.PortTraps : Prop :=
  ∀ (p : Pred) (t u : Tgt) (port : BitVec 2),
    let noIn (i : Instr) : Prop := Traps i (fun s n _ => s.usesIn n port.toNat = false) .config (fun _ _ => 0)
    let noOut (i : Instr) : Prop := Traps i (fun s n _ => s.usesOut n port.toNat = false) .config (fun _ _ => 0)
    noIn (.recv p t u port) ∧ noIn (.tagof p t u port) ∧ noOut (.send p port) ∧ noOut (.sendt p port) ∧
    noOut (.settag p port) ∧ noOut (.edgeset p port) ∧
    Traps (.edgeset p port) (fun s n _ => s.timedPort n.tile false port.toNat = true) .config (fun _ _ => 0) ∧
    Traps (.send p port) (fun s n r => s.usesOut n port.toNat = true ∧ ¬ MaySend (sentTok r)) .block (fun _ _ => 0) ∧
    Traps (.sendt p port) (fun s n r => s.usesOut n port.toNat = true ∧ ¬ MaySend (sentTok r)) .block (fun _ _ => 0)

/-- The port instructions: what they deliver and hold, and when they trap (R411 to R414). -/
def Obligations.Ports : Prop := Sys2Proof.Claims.PortInstructions ∧ Sys2Proof.Claims.PortTraps

/-- LD, LDV, LDK and LDVG of a node that is no shadow: once every store of a lower LSID has fired or been resolved, the lanes' raw
bytes, extended, are delivered, and an acquire is held for the commit (R174, R176, R178, R181, R183). -/
def Obligations.LoadsDeliver : Prop :=
  ∀ (p : Pred) (t : Tgt) (w : MOff) (a : Attr) (k : LaneMask) (sc : BitVec 2),
    let lsid := w.lsid.toNat
    let es := a.ty.bytes
    let key (_ : Node) : Nat := lsid
    let lines (s : State) (n : Node) (way : LoadWay) (l : List LaneAt) (m : Tbl Vec) (sv : Bool) (t : State) : Prop :=
      n.shadow = false ∧ n.blk.storesDone lsid = true ∧ Sound l ∧ s.loadLines s.focus n lsid way (lanesByLine l) = .ok (m, sv) t
    let one (s : State) (n : Node) (r : SlotRt) (way : LoadWay) (t : State) (v : Val) (acts : List Act) : Prop :=
      let at_ : Word := ea r.l w.off es
      ∃ m sv t1 x, lines s n way [⟨0, at_.toNat, es⟩] m sv t1 ∧
        x = a.ty.ext (BitVec.ofNat a.ty.width (laneRaw m ⟨0, at_.toNat, es⟩)) ∧ t = seenIf sv t1 n (x.setWidth 1024) ∧
        v = .scalar x ∧ acts = acquires a (n.countersIn [⟨0, at_.toNat, es⟩] m)
    let row (n : Node) (r : SlotRt) : List LaneAt := lanesAt n k es fun i => ea r.l w.off (32 * es) + BitVec.ofNat 64 (i * es)
    let all (s : State) (n : Node) (way : LoadWay) (l : List LaneAt) (t : State) (v : Val) (acts : List Act) : Prop :=
      (k.m = true → n.regs.pFull.getLsbD k.p.toNat = true) ∧
      ∃ m sv t1, lines s n way l m sv t1 ∧ v = loaded a.ty m l ∧ t = seenIf sv t1 n v.vec ∧ acts = acquires a (n.countersIn l m)
    Yields (.ld p t w a) 2 key (fun s n r t v acts =>
      ∃ e s1, s.xlateNode s.focus n (ea r.l w.off es) .read = (.ok e, s1) ∧
        s1.isMmio (e.phys (ea r.l w.off es).toNat) = false ∧ one s1 n r (.ordinary a.pol) t v acts) ∧
    Yields (.ldk p t w a false k) 2 key (fun s n r t v acts => one s n r .const t v acts) ∧
    Yields (.ldk p t w a true k) 2 key (fun s n r t v acts =>
      (ea r.l w.off (32 * es)).toNat % (32 * es) = 0 ∧ all s n .const (row n r) t v acts) ∧
    Yields (.ldv p t w a k) 2 key (fun s n r t v acts =>
      (ea r.l w.off (32 * es)).toNat % (32 * es) = 0 ∧ all s n (.ordinary a.pol) (row n r) t v acts) ∧
    Yields (.ldvg p t w a k sc) 2 key (fun s n r t v acts =>
      all s n (.ordinary a.pol) (lanesAt n k es fun i => ea r.l w.off es + (lane r.rv i).signExtend 64 <<< sc.toNat) t v acts)

/-- LDB and LDN of a node that is no shadow deliver the extended bytes of the round's slot that the access chose; LDB's value is
always forwarded (R169, R170, R185, R380). -/
def Sys2Proof.Claims.RoundLoadsDeliver : Prop :=
  ∀ (p : Pred) (t : Tgt) (w : MOff) (a : Attr) (k : BitVec 6),
    let lsid := w.lsid.toNat
    let es := a.ty.bytes
    let at_ (r : SlotRt) : Word := ea r.l w.off es
    let ends (n : Node) (y : RoundGot) (sv : Bool) (t1 t : State) (v : Val) (acts : List Act) : Prop :=
      ∃ x, x = a.ty.ext (BitVec.ofNat a.ty.width (laneRaw [(y.va / 128, y.line)] ⟨0, y.va, es⟩)) ∧
        t = seenIf sv t1 n (x.setWidth 1024) ∧ v = .scalar x ∧
        acts = acquires a (n.countersIn [⟨0, y.va, es⟩] [(y.va / 128, y.line)])
    let ready (n : Node) (r : SlotRt) (g : RoundRegion) : Prop :=
      n.shadow = false ∧ (at_ r).toNat % es = 0 ∧ (at_ r).toNat < 2 ^ 56 ∧ n.blk.storesDone lsid = true ∧
        Tbl.get? k.toNat n.rounds = some g ∧ g.base ≤ (at_ r).toNat ∧ (at_ r).toNat < g.base + g.len
    Yields (.ldb p t w a k) 2 (fun _ => lsid) (fun s n r t v acts =>
      ∃ g y t1, ready n r g ∧ r.r.toNat ≤ 65535 ∧
        s.loadBounded s.focus n lsid k.toNat g (at_ r).toNat es (if r.r.toNat = 65535 then none else some r.r.toNat) a.pol
          = .ok y t1 ∧ ends n y (y.sv || n.repMode ≠ 1) t1 t v acts) ∧
    Yields (.ldn p t w a k) 2 (fun _ => lsid) (fun s n r t v acts =>
      ∃ g y t1, ready n r g ∧ s.loadExact s.focus n lsid k.toNat g (at_ r).toNat es r.r.toNat a.pol = .ok y t1 ∧
        ends n y y.sv t1 t v acts)

/-- LD of an MMIO register, which has eight bytes: where no store of the node waits for it, the register's value is delivered
(R6, R450). -/
def Sys2Proof.Claims.MmioLoadsDeliver : Prop :=
  ∀ (p : Pred) (t : Tgt) (w : MOff) (a : Attr),
    let at_ (r : SlotRt) : Word := ea r.l w.off a.ty.bytes
    Yields (.ld p t w a) 2 (fun _ => w.lsid.toNat) (fun s n r t v acts =>
      ∃ e s1 b t1 h off, n.shadow = false ∧ n.blk.storesDone w.lsid.toNat = true ∧ a.ty.bytes = 8 ∧ (at_ r).toNat % 8 = 0 ∧
        s.xlateNode s.focus n (at_ r) .read = (.ok e, s1) ∧ s1.isMmio (e.phys (at_ r).toNat) = true ∧
        s1.home (dieOf n.tile) (e.phys (at_ r).toNat) = .mmio h off ∧ off % 8 = 0 ∧
        s1.permit (dieOf n.tile) n.master (e.phys (at_ r).toNat) 1 = (true, t1) ∧ b = t1.mmioRead h off ∧
        n.blk.storesBelow w.lsid.toNat = [] ∧ n.win.mmio = [] ∧ t = seenIf e.sv t1 n (b.setWidth 1024) ∧ v = .scalar b ∧
        acts = acquires a [])

/-- LDB, LDN, and LD of an MMIO register (R6, R169, R170, R185, R450). -/
def Obligations.RoundAndMmioLoads : Prop := Sys2Proof.Claims.RoundLoadsDeliver ∧ Sys2Proof.Claims.MmioLoadsDeliver

/-- ST, STV and STVS: sound lanes that are translated for writing are held for step 2 under their LSID with the low bytes of the
data (R174, R176, R177, R182, R183). -/
def Obligations.StoresAreHeld : Prop :=
  ∀ (p : Pred) (w : MOff) (a : Attr) (k : LaneMask) (stride : BitVec 16),
    let lsid := w.lsid.toNat
    let es := a.ty.bytes
    let put (s : State) (n : Node) (l : List LaneAt) (val : Nat → Nat) (t : State) (acts : List Act) : Prop :=
      Sound l ∧ ∃ pas, s.xlateLanes s.focus n l = .ok pas t ∧ acts = storing lsid a l pas val
    let full (n : Node) : Prop := k.m = true → n.regs.pFull.getLsbD k.p.toNat = true
    HoldsVia (.st p w a) 2 (fun _ => lsid) (fun s n r t acts =>
      put s n [⟨0, (ea r.l w.off es).toNat, es⟩] (fun _ => r.r.toNat) t acts) ∧
    HoldsVia (.stv p w a k) 2 (fun _ => lsid) (fun s n r t acts =>
      full n ∧ (ea r.l w.off (32 * es)).toNat % (32 * es) = 0 ∧
        put s n (lanesAt n k es fun i => ea r.l w.off (32 * es) + BitVec.ofNat 64 (i * es)) (fun i => (lane r.rv i).toNat) t acts) ∧
    HoldsVia (.stvs p w a k stride) 2 (fun _ => lsid) (fun s n r t acts =>
      full n ∧ put s n (lanesAt n k es fun i => ea r.l w.off es + stride.signExtend 64 * BitVec.ofNat 64 i)
        (fun i => (lane r.rv i).toNat) t acts)

/-- LDA, ATOM and ATOMO: an aligned address that is translated is held for step 2 under its LSID; a release acts before the
atomic, and the commit waits for the answer where the atomic acquires or releases (R184, R186 to R188). -/
def Obligations.AtomicsAreHeld : Prop :=
  ∀ (p : Pred) (w : MOff) (a : Attr) (op : AtomOp) (re toV : Bool) (k : BitVec 6) (sel : BitVec 3) (stream : BitVec 16),
    let lsid := w.lsid.toNat
    let atom (i : Instr) (es : Nat) (third : SlotRt → Word) (ret : Option (BitVec 6)) (st : Option (BitVec 16)) : Prop :=
      HoldsVia i 2 (fun _ => lsid) (fun s n r t acts =>
        let at_ : Word := ea r.l w.off es
        let hold := a.ord.rel || a.ord.acq
        ∃ e, at_.toNat % es = 0 ∧ s.xlateNode s.focus n at_ .write = (.ok e, t) ∧
          acts = relActs n a.ord.rel (actionChunks i at_ r.r ++ (if op = .cas then [(at_, third r)] else [])) ++
            [.drainIf (e.phys at_.toNat) es, .ownAtom at_.toNat (e.phys at_.toNat) a.ty op r.r (third r) ret st hold] ++
            (if hold then [.awaitReply (if a.ord.acq then some (a.scope, at_.toNat) else none)] else []))
    HoldsVia (.lda p w a toV k) 2 (fun _ => lsid) (fun s n r t acts =>
      let es := (if toV then 32 else 1) * a.ty.bytes
      let at_ : Word := ea r.l w.off es
      ∃ e, at_.toNat % es = 0 ∧ s.xlateNode s.focus n at_ .read = (.ok e, t) ∧
        acts = [.lda ⟨at_.toNat, e.phys at_.toNat, e.sv, a.ty, toV, a.pol, if toV then .v (k.setWidth 5) else .g k⟩]) ∧
    atom (.atom w a op re k) a.ty.bytes (fun r => r.g) (if re then some k else none) none ∧
    atom (.atomo p w a op sel stream) 4 (fun _ => 0)
      (if sel = 0 then none else some (BitVec.ofNat 6 (55 + sel.toNat))) (some stream)

/-- An access whose address is not a multiple of its size traps as an alignment fault before any translation, and an aligned one at
or above 2^56 as an address fault, both with the effective address (R81, R176). -/
def Obligations.MemoryAddressTraps : Prop :=
  ∀ (p : Pred) (t : Tgt) (w : MOff) (a : Attr) (k : LaneMask) (g : BitVec 6) (op : AtomOp) (re : Bool) (sel : BitVec 3)
    (stream : BitVec 16),
    let es := a.ty.bytes
    let full (n : Node) : Prop := k.m = true → n.regs.pFull.getLsbD k.p.toNat = true
    let done (n : Node) : Prop := n.blk.storesDone w.lsid.toNat = true
    let any (_ : Node) : Prop := True
    let align (i : Instr) (sz : Nat) (ok : Node → Prop) : Prop :=
      Traps i (fun _ n r => ok n ∧ (ea r.l w.off sz).toNat % sz ≠ 0) .align (fun _ r => ea r.l w.off sz)
    let high (i : Instr) (sz : Nat) (ok : Node → Prop) : Prop :=
      Traps i (fun _ n r => ok n ∧ (ea r.l w.off sz).toNat % sz = 0 ∧ 2 ^ 56 ≤ (ea r.l w.off sz).toNat) .address
        (fun _ r => ea r.l w.off sz)
    align (.ld p t w a) es any ∧ high (.ld p t w a) es done ∧
    align (.ldk p t w a false k) es any ∧ high (.ldk p t w a false k) es done ∧
    align (.ldk p t w a true k) (32 * es) full ∧ align (.ldv p t w a k) (32 * es) full ∧
    align (.ldb p t w a g) es any ∧ high (.ldb p t w a g) es any ∧
    align (.ldn p t w a g) es any ∧ high (.ldn p t w a g) es any ∧
    align (.st p w a) es any ∧ high (.st p w a) es any ∧ align (.stv p w a k) (32 * es) full ∧
    align (.lda p w a false g) es any ∧ high (.lda p w a false g) es any ∧
    align (.lda p w a true g) (32 * es) any ∧ high (.lda p w a true g) (32 * es) any ∧
    align (.atom w a op re g) es any ∧ high (.atom w a op re g) es any ∧
    align (.atomo p w a op sel stream) 4 any ∧ high (.atomo p w a op sel stream) 4 any

/-- FENCE, the hints and the pins, the cache operations, RETAIN and UNRETAIN are held for step 3; FENCE's release acts first, and
a range is at most 16 MiB (R156, R189 to R194). -/
def Obligations.FencesAndHintsAreHeld : Prop :=
  ∀ (p : Pred) (sc : Scope) (acq rel fk fe : Bool) (w : MOff) (a : Attr) (level : Bool) (kind : InvKind) (k : BitVec 3)
    (ways : BitVec 4),
    let range (op : RangeOp) (len : SlotRt → Nat) (lv : Bool) (_ : State) (_ : Node) (r : SlotRt) : List Act :=
      [.range op ⟨ea r.l w.off 1, BitVec.ofNat 64 (len r), lv, a.pol⟩]
    let one (_ : SlotRt) : Nat := 1
    let upTo (r : SlotRt) : Nat := min r.r.toNat (2 ^ 24)
    Holds (.fence p sc acq rel fk fe) free 3 own (fun _ n _ =>
      (if rel then relActs n true [] else []) ++ (if fe then [.fenceEngines] else []) ++
        (if acq then [.fenceAcquire sc] else []) ++ (if fk then [.fenceConst] else [])) ∧
    Holds (.pref p w a level) free 3 own (range .pref one level) ∧
    Holds (.tlbpf p w a level) free 3 own (range .tlbpf one level) ∧
    Holds (.ipf p w a level) free 3 own (range .ipf upTo level) ∧
    Holds (.ipin p w a level) free 3 own (range .ipin upTo level) ∧
    Holds (.iunpin p w a level) free 3 own (range .iunpin upTo level) ∧
    Holds (.cwb p w a level) free 3 own (range .cwb upTo level) ∧
    Holds (.cinv p w a kind) (fun _ n _ => kind = .code → n.priv = true) 3 own (range (.cinv kind) upTo false) ∧
    Holds (.unretain p w a k) (fun s n _ => s.ownsWindow (dieOf n.tile) k.toNat n.ctx = true) 3 own
      (fun _ _ _ => [.unretain k.toNat]) ∧
    HoldsVia (.retain p w a k ways) 3 own (fun s n r t acts =>
      let at_ : Word := ea r.l w.off 1
      ∃ e lines ok, s.ownsWindow (dieOf n.tile) k.toNat n.ctx = true ∧ s.xlateNode s.focus n at_ .read = (.ok e, t) ∧
        (let len := min r.r.toNat (e.va + e.size - at_.toNat)
         lines = if len = 0 then 0 else (e.phys at_.toNat + len - 1) / 128 + 1 - e.phys at_.toNat / 128) ∧
        acts = [.retain k.toNat ways.toNat (e.phys at_.toNat) lines ok] ∧
        (ok = true ↔ e.phys at_.toNat / 2 ^ 45 = t.dom ∧ (e.phys at_.toNat % 2 ^ 45 < 512000000000 ∨
          (0x8000000000 ≤ e.phys at_.toNat % 2 ^ 45 ∧ e.phys at_.toNat % 2 ^ 45 < 0x1E8000000000)) ∧ r.r ≠ 0))

/-- What is for privileged nodes, and what is for a retention window's owner, traps as a privilege fault otherwise; a privileged
access to a register of the privileged range, where none is assigned, traps as illegal (R35, R118, R192, R194, R352). -/
def Obligations.PrivilegeTraps : Prop :=
  ∀ (p : Pred) (t : Tgt) (w : MOff) (a : Attr) (k : BitVec 3) (ways : BitVec 4) (r : BitVec 12),
    let foreign (s : State) (n : Node) (_ : SlotRt) : Prop := s.ownsWindow (dieOf n.tile) k.toNat n.ctx = false
    Traps (.cinv p w a .code) (fun _ n _ => n.priv = false) .privilege (fun _ _ => 0) ∧
    Traps (.retain p w a k ways) foreign .privilege (fun _ _ => 0) ∧
    Traps (.unretain p w a k) foreign .privilege (fun _ _ => 0) ∧
    (0x400 ≤ r.toNat → r.toNat ≤ 0x417 → r.toNat % 8 = k.toNat → Traps (.mts p r) foreign .privilege (fun _ _ => 0)) ∧
    (0xF00 ≤ r.toNat →
      Traps (.mfs p t r) (fun _ n _ => n.priv = false) .privilege (fun _ _ => 0) ∧
      Traps (.mts p r) (fun _ n _ => n.priv = false) .privilege (fun _ _ => 0) ∧
      Traps (.mfs p t r) (fun _ n _ => n.priv = true) .illegal (fun _ _ => 0) ∧
      Traps (.mts p r) (fun _ n _ => n.priv = true) .illegal (fun _ _ => 0))

/-- The engine instructions: a descriptor of 64 aligned bytes is read as the slot fires, its checks made, and the command held for
step 3 behind a release point; CFIRE and CDISARM take their queue from left (R196 to R209). -/
def Sys2Proof.Claims.EngineCommandsAreHeld : Prop :=
  ∀ (p : Pred) (e : BitVec 4) (fp32 : Bool),
    let desc (i : Instr) (eng : Nat) (op : EngOp) (ok : State → Node → List Word → Bool) : Prop :=
      HoldsVia i 3 own (fun s n r t acts => ∃ m sv, r.l.toNat % 64 = 0 ∧ r.l.toNat < 2 ^ 56 ∧
        s.loadLines s.focus n 0 (.ordinary .normal) (descLines r.l) = .ok (m, sv) t ∧ ok t n (descOf m r.l) = true ∧
        acts = .sign (descStore r.l (descOf m r.l)) :: relActs n false [] ++ [.command eng (n.cmd op (descOf m r.l))])
    let queue (i : Instr) (eng : Nat) (op : EngOp) (c : SlotRt → Prop) (rep : SlotRt → Word) : Prop :=
      Holds i (fun _ _ r => r.l.toNat ≤ 7 ∧ c r) 3 own
        (fun _ n r => relActs n false [] ++ [.command eng (n.cmd op [0, 0, r.l <<< 40, 0, rep r, 0, 0, 0])])
    desc (.cpy p e) e.toNat .cpy (fun _ _ w => cpyOk w) ∧
    desc (.cpym p e) e.toNat .cpym (fun s n w => s.cpymOk n w) ∧
    desc (.carm p e) e.toNat .carm (fun _ _ w => carmOk w) ∧
    desc (.gath p e) e.toNat .gath (fun s n w => s.gathOk n w) ∧
    desc (.scat p e) e.toNat .scat (fun s n w => s.gathOk n w) ∧
    desc (.collAr p e fp32) (16 + e.toNat % 4) (.coll 0 fp32) (fun _ _ w => collOk w 0) ∧
    desc (.collRs p e fp32) (16 + e.toNat % 4) (.coll 1 fp32) (fun _ _ w => collOk w 1) ∧
    desc (.collAg p e false) (16 + e.toNat % 4) (.coll 2 false) (fun _ _ w => collOk w 2) ∧
    queue (.cfire p e) e.toNat .cfire (fun _ => True) (fun _ => 0) ∧
    queue (.cdisarm p e) e.toNat .cdisarm (fun r => r.r.toNat % 8 = 0) (fun r => r.r)

/-- The engine instructions trap: a descriptor address that is not a multiple of 64 as an alignment fault, one at or above 2^56 as
an address fault, a queue above 7 and COLL.ag with the output bit as a command fault (R197, R200, R209). -/
def Sys2Proof.Claims.EngineTraps : Prop :=
  ∀ (p : Pred) (e : BitVec 4) (fp32 : Bool),
    let both (i : Instr) : Prop :=
      Traps i (fun _ _ r => r.l.toNat % 64 ≠ 0) .align (fun _ r => r.l) ∧
      Traps i (fun _ _ r => r.l.toNat % 64 = 0 ∧ 2 ^ 56 ≤ r.l.toNat) .address (fun _ r => r.l)
    both (.cpy p e) ∧ both (.cpym p e) ∧ both (.carm p e) ∧ both (.gath p e) ∧ both (.scat p e) ∧
    both (.collAr p e fp32) ∧ both (.collRs p e fp32) ∧ both (.collAg p e false) ∧
    Traps (.collAg p e true) free .command (fun _ r => r.l) ∧
    Traps (.cfire p e) (fun _ _ r => 7 < r.l.toNat) .command (fun _ _ => 0) ∧
    Traps (.cdisarm p e) (fun _ _ r => 7 < r.l.toNat) .command (fun _ _ => 0)

/-- The engine instructions: what they hold, and when they trap (R196 to R209). -/
def Obligations.EngineInstructions : Prop := Sys2Proof.Claims.EngineCommandsAreHeld ∧ Sys2Proof.Claims.EngineTraps

/-! ### Counters, rounds, the network, the matrix and the system -/

/-- CADD, CWAIT, CREAD, RNGREL, RADV, RRECL and BARR are held for step 3: a release stands before the add that is its own write,
and RADV of a region with ovr = 1 checks the reclaim words as it fires (R211 to R222). -/
def Sys2Proof.Claims.CounterOperationsAreHeld : Prop :=
  ∀ (p : Pred) (sc : Scope) (acq rel : Bool) (k : BitVec 6),
    let reads (i : Instr) (act : SlotRt → CtrRef → Act) : Prop := HoldsVia i 3 own (fun s n r t acts =>
      ∃ c s1, s.counterRef n r.l .read = .ok c s1 ∧ s1.counterReadable n c = (true, t) ∧ acts = [act r c])
    let region (n : Node) (r : SlotRt) (g : RoundRegion) : Prop := r.l.toNat < 64 ∧ Tbl.get? r.l.toNat n.rounds = some g
    let adv (n : Node) (r : SlotRt) (c : CtrRef) : List Act :=
      relActs n true (actionChunks (.radv p sc) c.va 0) ++ [.ownAdd c 1 true, .floorReply r.l.toNat]
    HoldsVia (.cadd p sc acq rel) 3 own (fun s n r t acts => ∃ c, s.counterRef n r.l .write = .ok c t ∧
      acts = relActs n rel (actionChunks (.cadd p sc acq rel) c.va r.r) ++ [.ownAdd c r.r (acq || rel)] ++
        (if acq || rel then [.awaitReply (if acq then some (sc, c.va.toNat) else none)] else [])) ∧
    reads (.cwait p sc acq) (fun r c => .cwait c r.r sc acq) ∧
    reads (.cread p sc acq k) (fun _ c => .cread c sc acq k) ∧
    HoldsVia (.rngrel p sc) 3 own (fun s n r t acts => ∃ c, r.l.toNat % 32 = 0 ∧
      s.counterRef n (if r.r.getLsbD 63 then r.l + 8 else r.l) .write = .ok c t ∧
      acts = relActs n true (actionChunks (.rngrel p sc) c.va r.r) ++ [.ownAdd c 1 true, .awaitReply none]) ∧
    HoldsVia (.radv p sc) 3 own (fun s n r t acts => ∃ g c s1 l, region n r g ∧ g.ovr = false ∧
      s.counterRef n (BitVec.ofNat 64 g.rctr) .write = .ok c s1 ∧ s1.readRefs n g.words = .ok l t ∧ acts = .radvWait g.slots l :: adv n r c) ∧
    HoldsVia (.radv p sc) 3 own (fun s n r t acts => ∃ g c s1 s2 pr m, region n r g ∧ g.ovr = true ∧
      s.counterRef n (BitVec.ofNat 64 g.rctr) .write = .ok c s1 ∧ s1.readRound s1.focus n g = .ok pr s2 ∧
      s2.readReclaim s2.focus n g (g.nr + 1) = .ok m t ∧ pr.2 + 2 ≤ m.1 + g.slots ∧ acts = adv n r c) ∧
    HoldsVia (.rrecl p sc) 3 own (fun s n r t acts => ∃ g c,
      let j := r.l.toNat / 2 ^ 8 % 2 ^ 6
      r.l.toNat / 2 ^ 6 % 4 = 0 ∧ r.l.toNat < 2 ^ 14 ∧ Tbl.get? (r.l.toNat % 64) n.rounds = some g ∧ j ≤ g.nr ∧
      s.counterRef n (BitVec.ofNat 64 (g.rcl + 8 * j)) .write = .ok c t ∧
      acts = relActs n true (actionChunks (.rrecl p sc) c.va r.r) ++
        [.ownAtom c.va.toNat c.pa .n64 .max r.r 0 none none true, .awaitReply none]) ∧
    HoldsVia (.barr p sc) 3 own (fun s n r t acts => ∃ c, s.counterRef n r.l .write = .ok c t ∧
      acts = relActs n true (actionChunks (.barr p sc) r.l r.r) ++ [.ownAdd c 1 true, .awaitReply none, .cwait c r.r sc true])

/-- CPOLL of a node that is no shadow delivers 1 where the counter is at least right, and without .acq keeps what it shows of a round
counter for a later FENCE (R154); RNGAW delivers the address of slot n of its
ring once the other side's counter gives the slot to this side (R164, R216, R217). -/
def Sys2Proof.Claims.CounterReadsDeliver : Prop :=
  ∀ (p : Pred) (t u : Tgt) (sc : Scope) (acq : Bool),
    Yields (.cpoll p t u sc acq) 3 own (fun s n r t v acts => ∃ pa x sv t1, n.shadow = false ∧ r.l.toNat % 8 = 0 ∧
      s.readWord s.focus n r.l = .ok (pa, x, sv) t1 ∧ t = seen t1 n ((BitVec.ofNat 64 x).setWidth 1024) ∧
      v = .scalar (if r.r ≤ BitVec.ofNat 64 x then 1 else 0) ∧
      acts = if acq then [.acquire sc (some (r.l.toNat, BitVec.ofNat 64 x))]
        else if n.rounds.any (fun g => g.2.rctr = r.l.toNat) then [.saw r.l.toNat (BitVec.ofNat 64 x)] else []) ∧
    Yields (.rngaw p t u sc) 3 own (fun s n r t v acts => ∃ m sv s1 base size count pa x sw t1,
      let va := r.l.toNat + 16
      let consumer := r.r.getLsbD 63
      let pos := r.r.toNat % 2 ^ 63
      let ca : Word := if consumer then r.l else r.l + 8
      n.shadow = false ∧ r.l.toNat % 32 = 0 ∧
      s.loadLines s.focus n 0 (.ordinary .normal) (lanesByLine [⟨0, va, 8⟩, ⟨1, va + 8, 8⟩]) = .ok (m, sv) s1 ∧
      ringOf (laneRaw m ⟨0, va, 8⟩) (laneRaw m ⟨1, va + 8, 8⟩) = some (base, size, count) ∧
      s1.readWord s1.focus n ca = .ok (pa, x, sw) t1 ∧ x < 2 ^ 64 ∧ (if consumer then pos < x else pos < x + count) ∧
      t = seen t1 n ((BitVec.ofNat 64 x).setWidth 1024) ∧
      v = .scalar (BitVec.ofNat 64 (base + pos % count * size)) ∧ acts = [.acquire sc (some (ca.toNat, BitVec.ofNat 64 x))])

/-- The counter, ring, round and barrier instructions (R164, R211 to R222). -/
def Obligations.CounterInstructions : Prop := Sys2Proof.Claims.CounterOperationsAreHeld ∧ Sys2Proof.Claims.CounterReadsDeliver

/-- The Scruple instructions of an owner's node that is no shadow: the deltas, CSWAVE, FDONE, SCSET and NETLD are held for step 3
as messages behind a release, and WMRD, SCGET and CSRD deliver what the network answers (R309, R328 to R337). That the commit of a
NETLD waits for the end of the load is the model's reading (log 20). -/
def Obligations.ScrupleInstructions : Prop :=
  ∀ (p : Pred) (t u : Tgt),
    let net (s : State) (n : Node) : Net := (s.die (dieOf n.tile)).net
    let mine (s : State) (n : Node) : Prop := n.shadow = false ∧ (net s n).owner = some n.ctx
    let msg (n : Node) (ops : List Word) (m : NetMsg) : List Act :=
      .sign (operandStore ops) :: relActs n true [] ++ [.netMsg m]
    let sends (i : Instr) (c : State → Node → SlotRt → Prop) (acts : Node → SlotRt → List Act) : Prop :=
      HoldsVia i 3 own (fun s n r t a => c s n r ∧ t = seen s n 0 ∧ a = acts n r)
    let delta (i : Instr) (ops : SlotRt → List Word) (x : SlotRt → Delta) (image : Bool) : Prop :=
      sends i (fun s n r => mine s n ∧ (x r).wid < 2 ^ (net s n).wmn ∧ (image = true → (x r).cls ≠ 0) ∧
        n.afterFdone (net s n) = false) (fun n r => msg n (ops r) (.delta n.tile n.firing (x r)))
    let reads (i : Instr) (ok : State → Node → SlotRt → Prop) (m : Node → SlotRt → NetM Vec) (out : Vec → Val) : Prop :=
      Yields i 3 own (fun s n r t v acts => ∃ x t1, mine s n ∧ ok s n r ∧ (net s n).frozen = false ∧
        (m n r).run s = .ok (x, t1) ∧ t1.here = some n ∧ t = seen t1 n x ∧ v = out x ∧ acts = [])
    delta (.wmasr p) (fun r => vecWords r.lv) (fun r => .assert r.lv) true ∧
    delta (.wmret p) (fun r => [r.l]) (fun r => .retract (r.l.setWidth 32)) false ∧
    delta (.wmmod p) (fun r => vecWords r.lv) (fun r => .modify r.lv) true ∧
    sends (.scset p) (fun s n _ => mine s n) (fun n r => msg n [r.l, r.r] (.scset r.l r.r)) ∧
    sends (.fdone p) (fun s n _ => mine s n ∧ ∃ id, n.firing = some id ∧ (net s n).slotOpen id = true ∧
      (∀ e ∈ n.blk.effs, ∀ a ∈ e.acts, a.isFdone = false ∧ (n.slot < e.slot → a.isDelta = false)))
      (fun n _ => msg n [] (.fdone (n.firing.getD 0))) ∧
    HoldsVia (.cswave p) 3 own (fun s n r t acts => ∃ c, mine s n ∧ r.l.toNat % 8 = 0 ∧ 1 ≤ r.r.toNat ∧ r.r.toNat ≤ 64 ∧
      (seen s n 0).counterRef n r.l .write = .ok c t ∧ acts = msg n [r.l, r.r] (.cswave n.tile c n.ctx r.r.toNat)) ∧
    sends (.netld p) (fun s n r => n.shadow = false ∧ (∀ c, (net s n).owner = some c → c = n.ctx ∨ n.priv = true) ∧
      (r.l = 0 ∨ r.r.toNat % 64 = 0)) (fun n r => msg n [r.l, r.r] (.netld n.ctx n.assist r.l r.r) ++ [.netldWait]) ∧
    reads (.wmrd p t u) (fun s n r => r.l.toNat % 2 ^ 32 < 2 ^ (net s n).wmn)
      (fun n r => do return BitVec.ofNat 1024 (← netEntry (dieOf n.tile) (r.l.toNat % 2 ^ 32))) .vector ∧
    reads (.scget p t u) (fun _ _ _ => True) (fun n r => netScget (dieOf n.tile) r.l r.r) (fun x => .scalar (x.setWidth 64)) ∧
    Yields (.csrd p t u) 3 own (fun s n r t v acts => ∃ x, mine s n ∧ (net s n).frozen = false ∧
      (net s n).csrd r.l = some x ∧ t = seen s n (BitVec.ofNat 1024 (x % 2 ^ 64)) ∧ v = .scalar (BitVec.ofNat 64 x) ∧ acts = [])

/-- The matrix instructions: the word enters the queue at step 3 with its operands; MDRAIN to a register also names the register
that the commit marks empty, and MFENCE holds the commit until it has started (R299 to R307). -/
def Obligations.MatrixWordsAreHeld : Prop :=
  ∀ (p : Pred) (acc : BitVec 2) (oty : Ty) (w : Word32) (x : Option Word32),
    let word (i : Instr) (l r : SlotRt → Option Word) (to_ : SlotRt → Option (BitVec 5)) (more : List Act) : Prop :=
      encode i = some (w, x) → Holds i free 3 own (fun _ _ o => .matrix ⟨w, l o, r o, true, []⟩ (to_ o) :: more)
    let nothing (_ : SlotRt) : Option Word := none
    let noReg (_ : SlotRt) : Option (BitVec 5) := none
    word (.mcfg p) (fun o => some o.l) (fun o => some o.r) noReg [] ∧
    word (.mzero p acc) nothing nothing noReg [] ∧
    word (.mma p acc) (fun o => some o.l) (fun o => some o.r) noReg [] ∧
    word (.mlda p acc) (fun o => some o.l) (fun o => some o.r) noReg [] ∧
    word (.mdrain p acc oty false) nothing nothing noReg [] ∧
    word (.mdrain p acc oty true) (fun o => some o.l) nothing (fun o => some (o.l.extractLsb' 8 5)) [] ∧
    word (.msteer p) (fun o => some o.l) nothing noReg [] ∧
    word (.mfence p) nothing nothing noReg [.mfence]

/-- TRAP, SYSC and BKPT are held for step 4, one for a block, but that a SYSC without a system handler traps as it fires; MTS, MARK, SIGCHK, CYCW and CFGSW for step 3; MFS delivers the
register, and RNDR a value that nothing constrains, at a node that is no shadow (R415 to R426). -/
def Obligations.SystemInstructions : Prop :=
  ∀ (p : Pred) (t u : Tgt) (code : BitVec 15) (r : BitVec 12),
    let first (_ : State) (n : Node) (_ : SlotRt) : Prop := ∀ e ∈ n.blk.effs, e.step ≠ 4
    let second (_ : State) (n : Node) (_ : SlotRt) : Prop := ∃ e ∈ n.blk.effs, e.step = 4
    let traps (i : Instr) (k : TrapKind) : Prop :=
      Holds i first 4 own (fun _ n _ => [.trap k code n.slot]) ∧ Traps i second .block (fun _ _ => 0)
    let handler (s : State) (n : Node) : Word := s.mmioAt 0 (0x128000 + 8 * n.ctx.toNat)
    traps (.trap p code) .trap ∧ traps (.bkpt p code) .bkpt ∧
    Holds (.sysc p code) (fun s n r => first s n r ∧ handler s n ≠ 0) 4 own (fun _ n _ => [.trap .sysc code n.slot]) ∧
    (∀ (s : State) (n : Node), Fires s n (.sysc p code) → first s n (cur n) → handler s n = 0 →
      exec (.sysc p code) s = .next (s.takeTrap s.focus .sysc n.slot code.toNat 0 n.pc)) ∧
    Traps (.sysc p code) second .block (fun _ _ => 0) ∧
    (r.toNat < 0xF00 → Yields (.mfs p t r) 3 own (fun s n _ t v acts =>
      n.shadow = false ∧ v = .scalar (s.sysRead n r) ∧ acts = [] ∧
      t = seenIf (r = 0x101 || (r = 0x100 && !s.fixedAt n)) s n ((s.sysRead n r).setWidth 1024))) ∧
    (r.toNat < 0xF00 → Holds (.mts p r) (fun s n _ => 0x400 ≤ r.toNat → r.toNat ≤ 0x417 →
      s.ownsWindow (dieOf n.tile) (r.toNat % 8) n.ctx = true) 3 own (fun _ _ o => [.mts r o.l])) ∧
    Holds (.mark p) free 3 own (fun _ _ _ => [.mark]) ∧
    Holds (.sigchk p) free 3 own (fun _ _ _ => [.relCheck [], .roundWait, .relPerform]) ∧
    Yields (.rndr p t u) 3 own (fun s n _ t v acts => n.shadow = false ∧ v = .scalar (Config.freeWord s.free) ∧ acts = [] ∧
      t = seen { s with free := s.free + 1 } n ((Config.freeWord s.free).setWidth 1024)) ∧
    Holds (.cycw p) (fun s n o => s.fixedAt n = true → n.cyc ≤ o.l) 3 own (fun _ _ o => [.cycw o.l]) ∧
    Traps (.cycw p) (fun s n o => s.fixedAt n = true ∧ o.l < n.cyc) .timing (fun _ _ => 0) ∧
    Holds (.cfgsw p) (fun s n _ => n.task = none ∧ ∃ g, Tbl.get? n.region s.regions = some g ∧ g.switching = false ∧
      g.step < 65535) 3 own (fun _ _ _ => [.cfgsw]) ∧
    Traps (.cfgsw p) (fun _ n _ => n.task ≠ none) .config (fun _ _ => 0)

/-! ### What holds of every instruction, and of the node's steps -/

namespace Sys2Proof.Claims

open Sys2Proof.Machine

/-- Is i an instruction of a block, with words of its own, and no event of the machine? -/
def Coded (i : Instr) : Prop := (encode i).isSome = true

/-- The state in which the running slot has been decided: the exit fault, where every exit of the block is decided and none has
fired (R22), else the node's new place. -/
def decided (s : State) (n : Node) (i : Instr) (m : Node) : State :=
  if i.isExit = true ∧ m.blk.noExit = true then s.takeTrap s.focus .exit n.slot 0 0 n.pc else s.putHere m

/-- Does i neither reach memory nor a unit outside its node as its slot fires, nor share a value with another replica? -/
def quiet : Instr → Bool
  | .mfs .. | .rndr .. | .cpoll .. | .rngaw .. | .cadd .. | .cwait .. | .cread .. | .rngrel .. | .radv .. | .rrecl .. | .barr ..
  | .ld .. | .ldv .. | .ldk .. | .ldvg .. | .ldb .. | .ldn .. | .st .. | .stv .. | .stvs .. | .lda .. | .atom .. | .atomo ..
  | .retain .. | .cpy .. | .cpym .. | .carm .. | .gath .. | .scat .. | .collAr .. | .collRs .. | .collAg ..
  | .wmasr .. | .wmret .. | .wmmod .. | .wmrd .. | .cswave .. | .csrd .. | .fdone .. | .scset .. | .scget .. | .netld .. => false
  | i => (encode i).isSome

/-- Does i read the network's tables in memory as its slot fires? -/
def readsNetwork : Instr → Bool
  | .wmrd .. | .scget .. => true
  | _ => false

/-- What every step of an instruction keeps: memory in its canonical form, and each node under its own tile. -/
def Inv (s : State) : Prop := Memory.wf s.mem = true ∧ ∀ k n, s.node? k = some n → n.tile = k

end Sys2Proof.Claims

open Sys2Proof Sys2Proof.Machine Sys2Proof.Claims

/-- Taking a trap: with a handler and act = 0 the frame is saved, act is set and the handler's block is next; under act = 1 the
node freezes with a record of prec 0b11, and without a handler with one of prec 0b00. Nothing else of the state changes (R27,
R416, R417, R419). The cause recorded is the trap's own, but that of a SYSC without a handler is the privilege trap (R419). -/
def Obligations.TrapTaken : Prop :=
  ∀ (s : State) (t : Nat) (n : Node) (c : Cause) (slot code : Nat) (addr epc : Word), s.node? t = some n →
    slot < 256 → code < 2 ^ 15 →
    let vec : Word := if c = .sysc then s.mmioAt 0 (0x128000 + 8 * n.ctx.toNat) else n.tr.vec
    let info : Word := if c = .align ∨ c = .address ∨ c = .access then addr else 0
    let own : Cause := if c = .sysc ∧ vec = 0 then .privilege else c
    let frozen (cause : Cause) (prec : BitVec 2) (a pc : Word) : State := s.setNode t { n with
      blk := Blk.empty, issued := false, phase := .fetch, pc := pc, ready := none
      stop := some (.fault ⟨cause, prec, false, n.ctx, n.tile, n.region, a, 0, n.cfgSeq, 0, s.now⟩) }
    (n.tr.act = false → vec ≠ 0 → s.takeTrap t c slot code addr epc = s.setNode t { n with
      blk := Blk.empty, issued := false, phase := .fetch, pc := vec, ready := none, sysEntry := decide (c = .sysc)
      tr := { n.tr with
        epc := epc
        cause := BitVec.ofNat 64 (c.code + 2 ^ 8 * slot + (if c = .sysc then 2 ^ 16 else 0) + 2 ^ 32 * code)
        addr := info
        act := true } }) ∧
    (n.tr.act = true → s.takeTrap t c slot code addr epc = frozen own 3 info epc) ∧
    (n.tr.act = false → vec = 0 → s.takeTrap t c slot code addr epc = frozen own 0 info epc)

/-- Every instruction settles on a null, which goes to its targets, and is resolved without firing where its predicate does not
match; an owed slot that is resolved so raises the block fault, and where the last exit is decided without an exit the exit
fault is raised (R20 to R23). That a null settles the slot whatever its predicate, and that a predicate that does not match resolves it
before its inputs are all there, is the model's choice (log 58). -/
def Obligations.NullSettlesAndUnmatchedResolves : Prop :=
  ∀ (i : Instr) (s : State) (n : Node), Coded i → s.here = some n →
    ((cur n).hasNull = true → ∀ b, n.blk.deliver .null (n.issueCyc n.slot + Config.latency i) i.targets = .ok b →
      exec i s = .next (decided s n i { n with blk := b.mark n.slot .settled, issued := false })) ∧
    ((cur n).hasNull = false → i.pred ≠ .always → i.pred.matches (cur n).g = false →
      exec i s = .next (if n.blk.owed n.slot = true then s.takeTrap s.focus .block n.slot 0 0 n.pc
        else decided s n i { n with blk := n.blk.mark n.slot .resolved, issued := false }))

/-- An instruction that reaches neither memory nor a unit outside its node changes, whatever happens, nothing but its own node,
and of that only its block, where it goes on, and its trap frame: no register and no byte (R24, R27). -/
def Obligations.QuietInstructionsStayInTheirSlot : Prop :=
  ∀ (i : Instr) (s : State) (n : Node), quiet i = true → s.here = some n →
    ∃ m, exec i s = .next (s.putHere m) ∧ m.issued = false ∧
      m = { n with
        blk := m.blk, issued := m.issued, phase := m.phase, pc := m.pc, tr := m.tr, sysEntry := m.sysEntry, stop := m.stop
        atMarker := m.atMarker, ready := m.ready } ∧
      m.tr.vec = n.tr.vec ∧ m.tr.scr = n.tr.scr

/-- An instruction that reads no network and does not come to wait for a translation changes, as its slot fires, no byte of
memory, no other node, and of its own node no register and no store that waits: all of that is left to the commit (R24). -/
def Obligations.InstructionsStoreNothingAsTheyFire : Prop :=
  ∀ (i : Instr) (s t : State) (n m : Node), Coded i → readsNetwork i = false → s.here = some n → exec i s = .next t →
    t.here = some m → m.stop ≠ some .walk →
    t.mem = s.mem ∧ t.poison = s.poison ∧ t.mts = s.mts ∧ t.edges = s.edges ∧ t.ports = s.ports ∧
    (∀ k, k ≠ s.focus → t.node? k = s.node? k) ∧
    m.regs = n.regs ∧ m.cur = n.cur ∧ m.win = n.win ∧ m.red = n.red ∧ m.mat = n.mat ∧ m.mode = n.mode ∧ m.tags = n.tags

/-- The step of every instruction keeps memory in its canonical form and each node under its own tile, whatever the instruction
meets. -/
def Obligations.InstructionStepsKeepInvariant : Prop :=
  ∀ (s t : State), Inv s → (∃ i, s.current = some (some i)) → s.clocksStopped = false → s.bringUp = none →
    step s = .next t → Inv t

/-- What reset leaves (R393, R447, R448, R455): no node, region, launch or edge, memory that reads 0, empty caches and
directories, an empty network, clocks that run, `mod.health` ready, `pwr.lim` at 4000 W, and `dl.wait` at 26. The values that the
spec does not give are the model's (logs 2 and 3). -/
def Obligations.ResetState : Prop :=
  let s := State.reset
  Inv s ∧ s.nodes = [] ∧ s.mts = [] ∧ s.edges = [] ∧ s.regions = [] ∧ s.launches = [] ∧ s.agenda = [] ∧ s.poison = [] ∧
  (∀ k, Memory.get k s.mem = 0) ∧ s.clocksStopped = false ∧ s.keysErased = false ∧
  (s.mmioAt 0 0x08).getLsbD 12 = true ∧ s.mmioAt 0 0x18 = 4000 ∧ (s.mmioAt 0 0x10).getLsbD 1 = false ∧
  ∀ d, d < 4 → s.mmioAt d 0x10080 = 26 ∧ (s.die d).l2 = [] ∧ (s.die d).dir = [] ∧ (s.die d).rdc = [] ∧ (s.die d).tlb = [] ∧
    (s.die d).tiles = [] ∧ (s.die d).engines = [] ∧ (s.die d).net.owner = none ∧ (s.die d).evFrozen = false

/-- BLOCK_COMMIT of a complete block outside fixed timing: the acts of its slots stand in the order of the commit's steps, in a
step in the order of their keys (LSIDs in step 2, slots elsewhere), but that what is sent on timed ports comes last, before what follows
them, and the draws are used up (R23, R24, R246, R440). That every slot of the block must have been decided is the model's reading (log 6). -/
def Obligations.BlockCommitOrdersEffects : Prop :=
  ∀ (s : State) (t : Nat) (n : Node), s.node? t = some n → n.phase = .fire → n.runs = true → n.issued = false →
    n.blk.complete = true → n.blk.timed = false → s.fixedAt n = false →
    (∀ e ∈ n.blk.effs, e.key < 2 ^ 15 ∧ e.slot < 2 ^ 16) →
    let late (a : Act) : Bool := match a with
      | .send p _ _ | .setTag p _ => s.timedPort t false p
      | _ => false
    let key (e : Eff) : Nat := if e.acts ≠ [] && e.acts.all late then 2 ^ 15 else e.key
    ∃ l : List Eff, l.Perm n.blk.effs ∧
      l.Pairwise (fun e f => e.step < f.step ∨ (e.step = f.step ∧ (key e < key f ∨ (key e = key f ∧ e.slot ≤ f.slot)))) ∧
      exec (.blockCommit t) s = .next (s.setNode t { n with
        phase := .commit (l.flatMap (fun e => e.acts) ++ n.tail)
        srCount := n.srCount + BitVec.ofNat 64 n.blk.drawsAll })

/-- A delivered value stands at every input that a target names, and every other input, every slot's state and the rest of the
block are as before; a target whose input holds a value already is an error (R17, R20). That this error names the slot that holds the
position is the model's choice (DESIGN CHOICE, log 58). -/
def Obligations.DeliveredValuesFillInputs : Prop :=
  ∀ (b c : Blk) (v : Val) (cyc : Nat) (ts : List Tgt), b.deliver v cyc ts = .ok c →
    (∀ t ∈ ts, tgtCode t ≠ 0 → (c.slotAt (tgtSlot t)).input (tgtCode t) = some v ∧
      (b.slotAt (tgtSlot t)).input (tgtCode t) = none ∧ cyc ≤ (c.slotAt (tgtSlot t)).arr) ∧
    (∀ (k : Nat) (x : BitVec 2), x ≠ 0 → (∀ t ∈ ts, ¬ (tgtSlot t = k ∧ tgtCode t = x)) →
      (c.slotAt k).input x = (b.slotAt k).input x) ∧
    (∀ k, (c.slotAt k).st = (b.slotAt k).st) ∧ c = { b with slots := c.slots } ∧
    ∀ (k : Nat) (t : Tgt), k = tgtSlot t → tgtCode t ≠ 0 → (b.slotAt k).input (tgtCode t) ≠ none →
      b.deliver v cyc (t :: ts) = .error k

/-- An ordinary load of a line homed on the node's own die, outside the round regions, gives memory's bytes with the node's store
window laid over them and over that the block's own stores of a lower LSID; the lookup changes no byte (R25, R98, R101). -/
def Obligations.OwnDieLoadsSeeWindowAndBlock : Prop :=
  ∀ (s s1 u : State) (t : Nat) (n : Node) (lsid vk sl : Nat) (w : Word32) (p : Policy) (e : TlbEnt) (v : Vec) (sv : Bool),
    let k := e.phys (vk * 128) / 128
    s.xlateNode t n (BitVec.ofNat 64 (vk * 128)) .read = (.ok e, s1) → s1.home (dieOf t) (k * 128) = .slice (dieOf t) sl →
    n.slotOf (vk * 128) = none → s.loadVirt t n lsid vk w (.ordinary p) = .ok (v, sv) u →
    v = layStores k (n.win.lay k (s.lineAt k)) (n.blk.storesBelow lsid) ∧ sv = e.sv ∧ u.mem = s.mem ∧ u.nodes = s.nodes

/-- A write that its home on this module accepts reads back as it was written, every other byte reads as before, and memory stays
in its canonical form; a write that is refused changes no byte (R56, R106). -/
def Obligations.HomeWritesReadBack : Prop :=
  ∀ (s t : State) (d : Nat) (m : Master) (pa : Nat) (b : List Byte) (r : Except AccErr Unit), Memory.wf s.mem = true →
    s.homeWrite d m pa b = (r, t) →
    (r = .ok () → Memory.read t.mem (s.key pa) b.length = b ∧ Memory.wf t.mem = true ∧
      ∀ a, (a < s.key pa ∨ s.key pa + b.length ≤ a) → Memory.get a t.mem = Memory.get a s.mem) ∧
    (r ≠ .ok () → t.mem = s.mem)

/-- A counter add at its home leaves min(old + a, 2^64 − 1) there, sets the context's saturation bit exactly where the sum passes
2^64 − 1, and changes no other byte (R114, R157, R158). -/
def Obligations.CounterAddsSaturate : Prop :=
  ∀ (s t : State) (d : Nat) (m : Master) (pa : Nat) (a : Word) (x : Nat × Nat), Memory.wf s.mem = true →
    s.counterAt d m pa a = (.ok x, t) →
    let old := s.peek (s.key pa) 8
    x = (old, min (old + a.toNat) (2 ^ 64 - 1)) ∧ t.peek (s.key pa) 8 = min (old + a.toNat) (2 ^ 64 - 1) ∧
    (∀ k, (k < s.key pa ∨ s.key pa + 8 ≤ k) → Memory.get k t.mem = Memory.get k s.mem) ∧
    (2 ^ 64 ≤ old + a.toNat → m.ctx.toNat ∈ t.satFlags) ∧ (old + a.toNat < 2 ^ 64 → t.satFlags = s.satFlags)

/-- A value at a counter wakes every node whose held watch waits for no more than that, and hands it the value; a node that waits for more, or
for another counter, stays as it is; the watches of sleeping slots are answered alike (R159, R169, R212). -/
def Obligations.WatchesWakeAtTheirValue : Prop :=
  ∀ (s : State) (pa k : Nat) (n : Node) (w : Watch), s.node? k = some n → n.watch = some w → (∀ p ∈ s.nodes, p.1 = k → p.2 = n) →
    let v : Word := BitVec.ofNat 64 (s.peek (s.key pa) 8)
    let m : Node := n.answered pa v
    (w.held = true → w.pa = pa → w.target ≤ v →
      (s.notify pa).node? k = some { m with watch := none, reply := some v }) ∧
    (w.held = false ∨ w.pa ≠ pa ∨ v < w.target → (s.notify pa).node? k = some m) ∧ (s.notify pa).mem = s.mem ∧
    m = { n with blk := { n.blk with sleep := m.blk.sleep } } ∧
    ∀ j, Tbl.get? j m.blk.sleep = (Tbl.get? j n.blk.sleep).map fun w =>
      if w.pa = pa ∧ w.target ≤ v then { w with held := false } else w

/-- An address at or above 2^56 translates for nobody; where no buffer holds the page, a page with a pending fault is joined by the
request, a walk that has ended in a fault leaves a pending fault with the requester waiting, and a request of a context without a root
waits for a walk, which ends in a fault of cause 5 (R81, R82, R85, R88, R92). -/
def Obligations.TranslationFaultsArePending : Prop :=
  ∀ (s : State) (d : Nat) (tile : Option Nat) (c : BitVec 12) (va : Word) (kind : AccKind) (cls : BitVec 3) (assist : Word)
    (r : Requester), d < 4 →
    let go := s.xlate d tile c va kind cls assist r
    let page := va.toNat / 65536
    (2 ^ 56 ≤ va.toNat → go = (.error .addr, s.reissued d r)) ∧
    (va.toNat < 2 ^ 56 → ∀ e, s.tlbFind d tile c va.toNat kind = some e → go.1 = .ok e ∧ go.2.mem = s.mem) ∧
    (va.toNat < 2 ^ 56 → s.tlbFind d tile c va.toNat kind = none →
      (∀ p, s.pendingAt d c page = some p →
        go.1 = .error .fault ∧ ∃ q, go.2.pendingAt d c page = some q ∧ q.count = p.count + 1 ∧ r ∈ q.waiters) ∧
      (s.pendingAt d c page = none →
        let ended : Option Miss := (s.die d).misses.find? fun m => m.why.isSome && m.awaits c page ⟨r, kind⟩
        (∀ m why, ended = some m → m.why = some why → (s.die d).pend.length < 256 →
          go.1 = .error .fault ∧ ∃ q, go.2.pendingAt d c page = some q ∧ q.cause = why.1 ∧ q.count = 1 ∧ q.waiters = [r]) ∧
        ((s.mmioAt 0 (0x100000 + 8 * c.toNat)).getLsbD 63 = false →
          (ended = none → ((s.die d).misses.filter fun m => m.why.isNone).length < 4160 → go.1 = .error .fault ∧ go.2.mem = s.mem ∧
            ∃ m ∈ (go.2.die d).misses, m.ctx = c ∧ m.page = page ∧ m.why = none ∧ ⟨r, kind⟩ ∈ m.waiters) ∧
          ∀ m, (s.die d).walking c page = some m → m.at_ = none → m.stale = false →
            { m with why := some (5, 0, 0) } ∈ ((s.walkStep d c page).die d).misses)))

/-- While the clocks are stopped a step does nothing but serve the management port and resets: with none of those it is the stop
that the model names, and with no reset and no register write among them the clocks stay stopped, and no node, region, byte or tick
changes (R402, R456, R457). -/
def Obligations.StoppedClocksServeTheManagementPort : Prop :=
  ∀ (s t : State), s.clocksStopped = true →
    ((∀ i ∈ s.agenda, servedStopped i = false) → step s = .fault .clocksStopped) ∧
    ((∀ i ∈ s.agenda, i ≠ .reset ∧ ∀ off x, i ≠ .mgmtMmioWrite off x) → step s = .next t →
      t.clocksStopped = true ∧ t.nodes = s.nodes ∧ t.mts = s.mts ∧ t.regions = s.regions ∧ t.mem = s.mem ∧ t.now = s.now ∧
      ∀ i ∈ t.agenda, i ∈ s.agenda)

/-- A shadow takes the leader's `chain.now`, random bits and network values: its slot waits until the forwarded value has come and
then delivers that (R329, R380, R424). -/
def Obligations.ShadowsTakeForwardedValues : Prop :=
  ∀ (p : Pred) (t u : Tgt),
    let takes (i : Instr) (out : Vec → Val) : Prop := ∀ (s : State) (n : Node) (b : Blk), Fires s n i → n.shadow = true →
      (n.forwarded (n.fwdKey 0) = none → n.forwarded (n.fwdKey 1) = none → n.blk.timed = false →
        exec i s = .next (s.putHere { n with issued := false })) ∧
      ∀ y, n.forwarded (n.fwdKey 0) = some y → n.forwarded (n.fwdKey 1) = none →
        n.blk.deliver (out y) (n.issueCyc n.slot + Config.latency i) i.targets = .ok b →
        exec i s = .next (s.putHere (delivered n b))
    let word (y : Vec) : Val := .scalar (y.setWidth 64)
    takes (.mfs p t 0x101) word ∧ takes (.rndr p t u) word ∧ takes (.csrd p t u) word ∧ takes (.scget p t u) word ∧
    takes (.wmrd p t u) .vector

/-! ### The events: where each completes, and with what -/

namespace Sys2Proof.Claims

open Sys2Proof.Machine

/-- Event e, at a state where c holds, answers the state that f gives. -/
def Does (e : Instr) (c : State → Prop) (f : State → State) : Prop := ∀ s : State, c s → exec e s = .next (f s)

/-- Event e, at a state where c holds, answers a state of which r holds. -/
def Ends (e : Instr) (c : State → Prop) (r : State → State → Prop) : Prop := ∀ s : State, c s → ∃ t, exec e s = .next t ∧ r s t

/-- A node whose commit is at an act, with no forced release and no refused LDA to make again. -/
def At (s : State) (t : Nat) (n : Node) (a : Act) (q : List Act) : Prop :=
  s.node? t = some n ∧ n.runs = true ∧ n.phase = .commit (a :: q) ∧ n.implicitReq = false ∧ n.again = []

/-- The node of tile t, changed. -/
def upd (s : State) (t : Nat) (f : Node → Node) : State := s.modNode t f

/-- A node's request that has been answered with a value. -/
def answeredTo (held : Bool) (x : Word) (n : Node) : Node :=
  { n with outst := n.outst - 1, reply := if held then some x else n.reply }

/-- The state after a home has applied an operation of n bytes of a tile's node, which s was before: what the node's fetches note of it
is the node's own, and copies on the node's path that are older are gone (R155, R266). -/
def applied (s u : State) (t pa n : Nat) : State := (u.mine t s).ownChange t pa n

/-- The value that an atomic returns, of the width of its type and zero-extended (R186). -/
def oldOf (r : AtomReq) (x : Nat) : Word := BitVec.ofNat 64 (x % 2 ^ r.ty.width)

/-- The acts of a commit (R24): what COMMIT_STEP_RESUME answers at each of them, and when it waits. -/
def CommitActs : Prop :=
  ∀ (s : State) (t : Nat) (n : Node) (q : List Act),
    let gives (a : Act) (u : State) : Prop := At s t n a q → exec (.commitStepResume t) s = .next u
    let waits (a : Act) : Prop := At s t n a q → s.endingAt n = false → exec (.commitStepResume t) s = .next s
    let on (u : State) : State := upd u t fun n => { n with phase := .commit q }
    let lasts (u : State) (f : Node → Node) : State := u.lasting t fun n => { f n with phase := .commit q }
    -- step 1: registers
    (∀ (k : BitVec 6) (x : Word),
      (n.regs.gFull.getLsbD k.toNat = true → gives (.setG k x)
        (s.setNode t { n with regs := { n.regs with g := n.regs.g.set k.toNat x k.isLt }, phase := .commit q })) ∧
      (n.regs.gFull.getLsbD k.toNat = false → waits (.setG k x))) ∧
    (∀ (k : BitVec 5) (x : Vec),
      (n.regs.vFull.getLsbD k.toNat = true → gives (.setV k x)
        (s.setNode t { n with regs := { n.regs with v := n.regs.v.set k.toNat x k.isLt }, phase := .commit q })) ∧
      (n.regs.vFull.getLsbD k.toNat = false → waits (.setV k x))) ∧
    (∀ (k : BitVec 3) (x : Word32),
      (n.regs.pFull.getLsbD k.toNat = true → gives (.setP k x)
        (s.setNode t { n with regs := { n.regs with p := n.regs.p.set k.toNat x k.isLt }, phase := .commit q })) ∧
      (n.regs.pFull.getLsbD k.toNat = false → waits (.setP k x))) ∧
    (∀ (k : Nat) (x : Word), gives (.setCur k x) (on (upd s t fun n => { n with cur := vset n.cur k x }))) ∧
    -- step 2: stores, and a release at its homes
    (∀ r : StoreReq, At s t n (.store r) q → s.winPrefix n.win true r.pol r.lanes = r.lanes.length →
      ∃ u m, exec (.commitStepResume t) s = .next u ∧ u.mem = s.mem ∧ u.node? t = some m ∧ m.win = s.winEnter n.win r.lanes r.pol ∧
        m.phase = .commit q ∧ m.regs = n.regs ∧ (m.red.sig, m.red.cnt) = addTerms n.red.sig n.red.cnt (storeTerms r.lanes)) ∧
    (∀ (i k : Nat) (x : WinLine) (s0 s1 : State), n.shadow = false → s.pick n.win.lines.length = (i, s0) →
      n.win.lines[i]? = some (k, x) →
      ((s0.lasting t fun n => { n with win := { n.win with lines := n.win.lines.erase k } }).modRegion (s0.regionOf t)
        fun r => { r with quiet := 0 }).performLine t k n.master true x = (.ok (), s1) →
      gives .relPerform s1) ∧
    (n.shadow = false → n.win.lines = [] → n.win.mmio = [] → gives .relPerform (lasts s id)) ∧
    (n.shadow = true → gives .relPerform (lasts s fun n => { n with win := Window.empty })) ∧
    -- step 2: requests that leave
    (∀ (va pa : Nat) (ty : Ty) (op : AtomOp) (x y : Word) (held : Bool),
      let r : AtomReq := ⟨n.master, t, va, pa, ty, op, x, y, none, held⟩
      let sent (i : Instr) : State := lasts (s.post i) fun n => { n with outst := n.outst + 1, reply := none }
      n.shadow = false →
        gives (.ownAtom va pa ty op x y none none held) (sent (.atomicAtHome r)) ∧
        ∀ k, gives (.ownAtom va pa ty op x y none (some k) held)
          (sent (.orderedAtomicArrival ⟨r, k, x.extractLsb' 32 32, 0, false, false⟩))) ∧
    (∀ (c : CtrRef) (x : Word) (held : Bool),
      (n.shadow = false → gives (.ownAdd c x held) (lasts (s.post (.counterAddAtHome ⟨n.master, t, c.va.toNat, c.pa, x, held⟩))
        fun n => { n with outst := n.outst + 1, reply := none })) ∧
      (n.shadow = true → gives (.ownAdd c x held) (lasts s id))) ∧
    -- step 3: tokens, tags, system registers, matrix words, commands, messages
    (∀ (p k i : Nat) (x : PortTok),
      nthTok (s.port (4 * t + p)).toks 0 (n.blk.recvsBelow p k - n.blk.poppedBelow p k) = some (i, x) →
      gives (.popPort p k) (on (s.popAt (4 * t + p) i).2)) ∧
    (∀ (p : Nat) (k : Token),
      let tagged : Token := { k with side := (k.side &&& 0xFFFF0000#32) ||| (vget n.tags p 0).setWidth 32 }
      (n.shadow = true → s.triggerOf (4 * t + p) ≠ none → gives (.send p k true) (on s)) ∧
      (n.shadow = false ∨ s.triggerOf (4 * t + p) = none →
        (∀ u, s.sendOut (4 * t + p) k = some u → gives (.send p k true) (on u)) ∧
        (∀ u, s.sendOut (4 * t + p) tagged = some u → gives (.send p k false) (on u)) ∧
        (s.sendOut (4 * t + p) k = none → waits (.send p k true)))) ∧
    (∀ (p : Nat) (x : BitVec 16), gives (.setTag p x) (on (upd s t fun n => { n with tags := vset n.tags p x }))) ∧
    (∀ x : Word, n.tile = t →
      gives (.mts 0x300 x) (on (s.setNode t { n with tr := { n.tr with vec := x &&& 0x00FFFFFFFFFFFFF0 } })) ∧
      (x.getLsbD 0 = true → gives (.mts 0x304 x) (on s)) ∧
      (x.getLsbD 0 = false → gives (.mts 0x304 x) (on (s.setNode t { n with tr := { n.tr with act := false }, sysEntry := false }))) ∧
      gives (.mts 0x305 x) (on (s.setNode t { n with tr := { n.tr with scr := vset n.tr.scr 0 x } })) ∧
      gives (.mts 0x306 x) (on (s.setNode t { n with tr := { n.tr with scr := vset n.tr.scr 1 x } })) ∧
      gives (.mts 0x307 x) (on (s.setNode t { n with tr := { n.tr with scr := vset n.tr.scr 2 x } })) ∧
      gives (.mts 0x308 x) (on (s.setNode t { n with tr := { n.tr with scr := vset n.tr.scr 3 x } }))) ∧
    (∀ w : MatWord,
      (n.mat.queue.length < 16 → gives (.matrix w none)
        (on (upd s t fun n => { n with mat := { n.mat with queue := n.mat.queue ++ [w] } }))) ∧
      (∀ v : BitVec 5, n.mat.queue.length < 16 → n.regs.vFull.getLsbD v.toNat = true → gives (.matrix w (some v))
        (on (upd s t fun n => { n with regs := n.regs.drain (.v v), mat := { n.mat with queue := n.mat.queue ++ [w] } }))) ∧
      (16 ≤ n.mat.queue.length → waits (.matrix w none))) ∧
    (∀ (e : Nat) (c : Cmd), At s t n (.command e c) q → n.shadow = false → dieOf t < 4 →
      let k := dQueue c.words
      ((s.engQ (dieOf t) e k).cmds.length < 64 → ∃ u id, exec (.commitStepResume t) s = .next u ∧ u.mem = s.mem ∧
        (u.engQ (dieOf t) e k).cmds = (s.engQ (dieOf t) e k).cmds ++
          [{ c with id := id, mark := n.mark, launch := s.launchOf n, away := s.awayRanks n }]) ∧
      (64 ≤ (s.engQ (dieOf t) e k).cmds.length → s.endingAt n = false → exec (.commitStepResume t) s = .next s)) ∧
    (∀ m : NetMsg, n.shadow = false → (∀ id, m = .fdone id → (s.die (s.leaderDie n)).net.slotOpen id = true) →
      (∀ u, s.netSend (s.leaderDie n) n.ctx m = some u → gives (.netMsg m) (lasts u id)) ∧
      (s.netSend (s.leaderDie n) n.ctx m = none → waits (.netMsg m))) ∧
    -- steps 4 and 5
    (∀ (k : TrapKind) (code : BitVec 15) (slot : Nat) (a : Word), n.blk.exit = some (.goto a) →
      let u := s.setNode t { n with blocks := n.blocks + 1 }
      (k ≠ .bkpt ∨ (s.mmioAt 0 (ctxOff n.ctx 6)).getLsbD 0 = false →
        gives (.trap k code slot) (u.takeTrap t k.cause slot code.toNat 0 a)) ∧
      ((s.mmioAt 0 (ctxOff n.ctx 6)).getLsbD 0 = true → gives (.trap .bkpt code slot)
        (((upd u t fun n => { n.abandon a with stop := some .breakpoint }).setGate n.region true).modRegion n.region fun x =>
          { x with frozen := some ⟨{ n with blocks := n.blocks + 1 }.record s.now .bkpt 0 0 0 0, false⟩ }))) ∧
    (∀ a : Word, n.blk.exit = some (.goto a) → gives .exit (s.setNode t { n with
      blk := Blk.empty, issued := false, phase := .fetch, pc := a, blocks := n.blocks + 1, ready := some (n.cyc.toNat + 1) })) ∧
    (n.blk.exit = some .endNode → gives .exit (s.endNode t)) ∧
    (n.blk.exit = some .endRegion → gives .exit ((s.endNode t).haltRegion n.region))

end Sys2Proof.Claims

open Sys2Proof Sys2Proof.Machine Sys2Proof.Claims

/-- BLOCK_FETCH, SLOT_FIRE, COMMIT_STEP_RESUME and the arrival of values. A block whose bytes are there and that passes the checks
of R15 may fire its slots; a slot that has what it accepts, no sooner than it arrives, issues; each act of a commit is done, in a step of
its own: a register write waits while the register is empty, a store enters the window, a release performs the window line by line at
its homes, atomics and counter adds leave, tokens are popped and sent, MTS writes its register, matrix words, engine commands and network
messages enter their queues or wait for room, TRAP, SYSC and BKPT trap, and an exit transfers, ends the node or ends the region; a value
fills its empty register (R13, R15, R20, R24, R31, R101, R102, R152, R229, R380, R381, R404, R407, R416, R420). That a commit works off
one act a step is the model's choice (log 5). -/
def Obligations.NodeSteps : Prop :=
  (∀ (s s1 s2 : State) (t : Nat) (n m : Node) (hb rest : List Byte) (x y : Bool),
    let h : Word := BitVec.ofNat 64 (Sys2Proof.ofBytes hb)
    let b := Blk.ofBytes h rest (s2.fixedAt n) (n.ready.getD (if n.blocks = 0 then n.cyc.toNat else n.cyc.toNat + 1))
    s.node? t = some n → n.phase = .fetch → n.runs = true → s.endingAt n = false → n.pc.toNat % 16 = 0 →
    s.fetchCode t n n.pc.toNat 8 = .ok (hb, x) s1 → headerBad h = false →
    s1.fetchCode t n (n.pc.toNat + 8) (restBytes h) = .ok (rest, y) s2 → s2.node? t = some m →
    b.check (s2.fixedAt n) (s2.timedPort t) = none → b.privBad = [] → (b.timed = true → x = true ∧ y = true) →
    exec (.blockFetch t) s = .next (s2.setNode t { m with blk := b, phase := .fire, issued := false })) ∧
  (∀ (s : State) (t k : Nat) (n : Node) (i : Instr), s.node? t = some n → n.phase = .fire → n.runs = true → n.issued = false →
    n.blk.waiting k = true → n.blk.instr k = some i → (n.blk.slotAt k).full i.accept = true → n.arrived k = true →
    n.blk.timed = false → (n.anyUnmatched = true → n.blk.unmatched k i = true) →
    exec (.slotFire t k) s = .next { s.setNode t { n with issued := true, slot := k } with focus := t }) ∧
  CommitActs ∧
  (∀ (s : State) (t : Nat) (n : Node) (r : DstReg) (x : Vec), s.node? t = some n → n.phase ≠ .ended → n.regs.isEmpty r = true →
    n.drainDue = none →
    exec (.registerValueArrive t r x) s = .next ((s.fillSaved t r x).setNode t { n with regs := n.regs.fill r x })) ∧
  (∀ (s : State) (t : Nat) (n : Node) (k : FwdKey) (x : Vec), s.node? t = some n → Tbl.get? t s.mts = none →
    exec (.forwardedValueArrive t k x) s =
      .next (s.setNode t { n with fwd := (n.fwd.filter fun p => p.1 ≠ k) ++ [(k, x)] }))

/-- Atomics, counter adds, ordered atomics and watches at their homes: a request that its home accepts is applied and answered; an
ordered atomic with the right to its address whose number is the expected one is applied at once, then the buffered ones whose turn has
come, one whose number is not yet due waits in its buffer, and one 2^31 or more ahead is an ordered-atomic fault; a poll that finds the
value ends the wait (R114 to R117, R157, R177, R186, R188, R212, R428). What host memory holds at a poll is free: that a poll puts a free
word there first is the model's choice (log 22). -/
def Obligations.HomeEvents : Prop :=
  (∀ (s s1 : State) (r : AtomReq) (v : Nat × Nat), r.ret = none →
    s.atomicAt (dieOf r.tile) r.m r.pa r.ty r.op r.right r.third false = (.ok v, s1) →
    exec (.atomicAtHome r) s = .next (upd (applied s s1 r.tile r.pa r.ty.bytes) r.tile (answeredTo r.held (oldOf r v.2)))) ∧
  (∀ (s s1 : State) (r : AtomReq) (v : Nat × Nat) (g : BitVec 6) (k : FwdKey) (n : Node), r.ret = some (g, k) →
    s.atomicAt (dieOf r.tile) r.m r.pa r.ty r.op r.right r.third false = (.ok v, s1) →
    let u := applied s s1 r.tile r.pa r.ty.bytes
    u.node? r.tile = some n → n.repMode = 1 →
    exec (.atomicAtHome r) s = .next ((u.setNode r.tile (answeredTo r.held (oldOf r v.2) n)).post
      (.registerValueArrive r.tile (.g g) ((oldOf r v.1).setWidth 1024)))) ∧
  (∀ (s s1 : State) (r : CtrReq) (v : Nat × Nat), s.counterAt (dieOf r.tile) r.m r.pa r.amount = (.ok v, s1) →
    exec (.counterAddAtHome r) s = .next (upd (applied s s1 r.tile r.pa 8) r.tile (answeredTo r.held (BitVec.ofNat 64 v.2)))) ∧
  (∀ (s0 s : State) (r : OrdReq) (d sl : Nat),
    let took : OrdReq := { r with accepted := true }
    let gap := (r.seqNo - s.expected d took).toNat
    let s1 := s.touch (s.key (s.streamAt d r.req.m.ctx r.stream))
    let gives (u : State) : Prop := exec (.orderedAtomicArrival r) s0 = .next u ∧ exec (.atomoRetryResend r) s0 = .next u
    (r.accepted = true ∧ s = s0) ∨ (r.accepted = false ∧ s0.permit (dieOf r.req.tile) r.req.m r.req.pa 3 = (true, s)) →
    s.orderHome r.req = some (d, sl) → (s.mmioAt d (0x10928 + 8 * r.req.m.ctx.toNat)).getLsbD 0 = true →
    (gap = 0 → gives ((s1.orderApply d took).orderDrain d took 64)) ∧
    (∀ (s2 : State) (v : Nat × Nat), gap = 0 → s1.orderAtom took = (.ok v, s2) →
      let u := (s2.devWrite (s2.streamAt d r.req.m.ctx r.stream) 4 (s2.expected d took + 1).toNat).orderDone took v
      (u.die d).aoBuf = [] → gives u) ∧
    (gap ≠ 0 → gap < 2 ^ 31 → ((s1.die d).aoBuf.filter fun q => s1.orderHome q.req = some (d, sl)).length < 63 →
      gives (s1.modDie d fun x => { x with aoBuf := x.aoBuf ++ [took] })) ∧
    (∀ n : Node, 2 ^ 31 ≤ gap → r.remote = false → s1.node? r.req.tile = some n → n.late = none →
      gives (s1.setNode r.req.tile { n with late := some (n.record s1.now .orderedAtomic 1 (BitVec.ofNat 64 r.req.pa) 0 0,
        some (.orderedAtomicArrival took)) }))) ∧
  (∀ (s s1 : State) (t : Nat) (n : Node) (w : Watch) (b : List Byte), s.node? t = some n → n.watch = some w → w.held = false →
    s.readCounter (dieOf t) n.master w.pa = (.ok b, s1) → w.target ≤ BitVec.ofNat 64 (Sys2Proof.ofBytes b) →
    Ends (.counterWatchRepoll t) (fun u => u = s) (fun _ u => u.mem = s.mem ∧ ∃ m, u.node? t = some m ∧ m.watch = none ∧
      m.reply = some (BitVec.ofNat 64 (Sys2Proof.ofBytes b)) ∧ m.phase = n.phase ∧ m.regs = n.regs)) ∧
  (∀ key, Does (.counterWatchNotify key) (fun _ => True) (fun s => s.notify (key / 8 * 8))) ∧
  (∀ key l, Does (.hostCounterPoll key) (fun s => s.proxyOf key = some (l, false) ∧ s.hostUp l = true)
    (fun s => ((s.hand (.host l 5 (key / 8 * 8 % 2 ^ 45 / 128))).hostWord (key / 8 * 8)).notify (key / 8 * 8)))

/-- Directory and RDC requests, page walks, deferred records and the end of an invalidation: a span read for an L1 is valid there, a span
owned is in M there and in no other state, an evicted line is gone, a returned line is in the RDC slice, and a walker reads one entry:
the walk goes on, ends in a page, or ends in a fault (R85, R88 to R93, R106, R109). -/
def Obligations.CacheAndTranslationEvents : Prop :=
  (∀ (m : Master) (t ln f c : Nat), 1 ≤ c → f + c ≤ 32 → t < 4096 →
    let k (s : State) : Nat := s.dom * 2 ^ 38 + ln
    let own (s : State) : Prop := s.ownLine (dieOf t) (s.global (ln * 128)) = true
    let w := spanMask f c
    Ends (.homeReadRequest m t ln f c)
      (fun s => own s ∧ ∃ v s1, s.homeLine (dieOf t) m (k s) w false false = (.ok v, s1) ∧ s1.ownLine (dieOf t) (s1.global (ln * 128)) = true)
      (fun s u => w &&& ~~~(u.l1 t (k s)).valid = 0 ∧ u.mem = s.mem ∧ u.nodes = s.nodes) ∧
    Ends (.ownershipRequest t ln f c) own
      (fun s u => let l := u.l1 t (k s); w &&& ~~~l.m = 0 ∧ w &&& (l.o ||| l.e ||| l.s) = 0 ∧ u.mem = s.mem ∧ u.nodes = s.nodes) ∧
    Ends (.evictionWriteback t ln) (fun _ => True)
      (fun s u => (u.l1 t (k s)).valid = 0 ∧ u.mem = s.mem ∧ u.nodes = s.nodes)) ∧
  (∀ (m : Master) (d ln : Nat), d < 4 → Ends (.rdcFill m d ln none)
    (fun s => s.farLine d (ln * 128) = true ∧ ∃ v s1, s.homeLine d m ln (BitVec.allOnes 32) false true = (.ok v, s1) ∧ s1.rdcFits d ln = true)
    (fun s u => (∃ l, Tbl.get? ln (u.die d).rdc = some l ∧ l.valid = BitVec.allOnes 32 ∧ l.data = s.lineAt ln ∧
      l.stamp.isRound = false) ∧ u.mem = s.mem ∧ u.nodes = s.nodes)) ∧
  (∀ (s : State) (d : Nat) (c : BitVec 12) (page : Nat) (kind : AccKind) (cls : BitVec 3) (r : Requester) (m : Miss) (l table : Nat),
    let va := page * 65536
    let u := s.readEntry d va table l
    let noted (s : State) (m2 : Miss) : State :=
      s.modDie d fun x => { x with misses := modMiss (fun y => y = m) (fun _ => [m2]) x.misses }
    (s.die d).walking c page = some m → m.stale = false → m.at_ = some (l, table) →
    (∀ n, u.entryAt c va table l = .next n →
      exec (.pageWalk d c page kind cls r) s = .next (noted (u.walkNote d c va l n) { m with at_ := some (l - 1, n) })) ∧
    (∀ e w, u.entryAt c va table l = .page e w →
      exec (.pageWalk d c page kind cls r) s = .next ((u.missPage d e l w).tlbFill d none e)) ∧
    (∀ why, u.entryAt c va table l = .fault why →
      exec (.pageWalk d c page kind cls r) s = .next (noted u { m with why := some why }))) ∧
  (∀ (d : Nat) (r : FaultRec) (l : List FaultRec) (fill k : Nat),
    Does (.faultRecordDeferred d 2) (fun s => (s.die d).fltDefer = r :: l ∧ s.ringRoom d 2 = some (fill, k) ∧ l = [] )
      (fun s => (s.ringPut d 2 fill k r.words).modDie d fun x => { x with fltDefer := l })) ∧
  (∀ d : Nat, d < 4 → Does (.tlbInvComplete d)
    (fun s => (s.die d).tlbBusy = true ∧ (s.die d).tlbHeld = [] ∧ (∀ p ∈ s.mts, dieOf p.1 = d → p.2.implicitReq = false) ∧
      (∀ p ∈ s.nodes, dieOf p.1 = d → p.2.implicitReq = false ∧ p.2.commitUses (s.die d).tlbReq = false) ∧
      s.requestsUse d (s.die d).tlbReq = false ∧
      (∀ q ∈ (s.die d).engines, ∀ f ∈ q.2.fly, ∀ a, f.name = some a → tlbNames (s.die d).tlbReq a.1 a.2 = false) ∧
      ∀ m ∈ (s.die d).misses, m.stale = false)
    (fun s => s.setDie d { s.die d with tlbBusy := false }))

/-- Memory tiles. The start token starts a streaming walk; a data token enters its port's queue of 16; a random request is read into
its stream's reorder buffer of 64, and the oldest answer leaves on the output port of its number; an update applied as it arrives leaves
its queue, an early one waits in the reorder buffer, and the awaited one passes a full buffer; a walk reads its elements into a buffer of
64, packs them and sends full tokens; a port's counter add is made, once its cut is confirmed in a region that keeps cuts; a PX8 frame
becomes a token of scales and one of elements (R127, R131 to R136, R236, R256, R346, R381, R387). Model's choices: an answer's port and
its sideband (log 33), an update's number and the place of a carrier's bits (log 35), a port's add in the MT's or CT's own step and a
position that is read or sent first (log 36). -/
def Obligations.MemoryTileEvents : Prop :=
  (∀ (s : State) (t : Nat) (m : Mt), Tbl.get? t s.mts = some m → s.acts t = true →
    (m.mode = .streaming → m.started = false →
      exec (.mtStartToken t) s = .next (s.putMt { m with started := true, mark := s.now.toNat / 1024 })) ∧
    (∀ (p : Nat) (x : PortTok),
      let q := m.portQ.getD p []
      m.mode ≠ .streaming → m.done = false → s.headTok (4 * t + p) = some x → x.tok.kind = 0 → s.isCaddPort t p = false →
      q.length < 16 → (m.mode = .random → x.tok.fmt = 7) →
      exec (.mtPortRequest t p) s = .next ((s.popAt (4 * t + p) 0).2.putMt { m with
        portQ := m.portQ.set p (q ++ [⟨x.tok, (s.popAt (4 * t + p) 0).2.regionCyc m.region⟩]) })) ∧
    (m.mode = .random → ∀ p : Nat,
      (∀ (q : MtReq) (l : List MtReq) (w : List Word32) (m1 : Mt) (s1 : State), m.tile = t → m.fly.getD p [] = [] →
        m.portQ.getD p [] = q :: l →
        s.randomWords m (s.isGlobalPort t p) q.tok (List.range (q.tok.count + 1)) = (some (w, m1), s1) →
        exec (.mtRandomRequest t p) s = .next (s1.putMt { m1.served p with
          fly := m1.fly.set p (m1.fly.getD p [] ++ [⟨⟨ofLanes fun i => (w[i]?).getD 0, q.tok.side⟩, q.at_⟩]) })) ∧
      (∀ (r : MtReq) (l : List MtReq) (u : State), m.tile = t → m.fly.getD p [] = r :: l → (m.portQ.getD p [] = [] ∨ 63 ≤ l.length) →
        (s.timedPort t true p = true → r.at_ + 4 ≤ s.regionCyc m.region) → s.sendOut (4 * t + p) r.tok = some u →
        exec (.mtRandomRequest t p) s =
          .next (u.putMt { m with fly := if l.isEmpty then m.fly.erase p else m.fly.set p l })) ∧
      (∀ (k : Nat) (u : State), s.randomSend m p ≠ s → s.randomRead m p ≠ s → s.pick 2 = (k, u) →
        exec (.mtRandomRequest t p) s = .next (if k = 0 then u.randomSend m p else u.randomRead m p))) ∧
    (∀ (p : Nat) (q : MtReq) (l : List MtReq), m.mode = .ordered → m.portQ.getD p [] = q :: l → m.waiting.getD p [] = [] →
      (∀ (m1 : Mt) (s1 : State), m.arrival = true → s.applyUpdates m (Config.updates q.tok.payload q.tok.count) = (some m1, s1) →
        exec (.mtOrderedUpdate t p) s = .next (s1.putMt (m1.served p))) ∧
      (let ahead := (q.tok.tag.toNat + 65536 - m.expected.getD p 0) % 65536
       m.arrival = false → 0 < ahead → ahead ≤ 63 →
        exec (.mtOrderedUpdate t p) s = .next (s.putMt { m.served p with
          waiting := m.waiting.set p [(q.tok.tag.toNat, q.tok)] }))) ∧
    (∀ (p k : Nat) (q r : MtReq) (l : List MtReq) (m1 : Mt) (s1 : State),
      let e := m.expected.getD p 0
      let ahead (n : Nat) : Nat := (n + 65536 - e) % 65536
      m.mode = .ordered → m.arrival = false → m.portQ.getD p [] = q :: l → 63 ≤ (m.waiting.getD p []).length →
      (∀ x ∈ m.waiting.getD p [], x.1 ≠ e ∧ ahead x.1 ≤ 63) → 0 < ahead q.tok.tag.toNat → ahead q.tok.tag.toNat ≤ 63 →
      listFind (fun (r : MtReq) => r.tok.tag.toNat = e) (q :: l) 0 = some (k, r) →
      s.applyUpdates m (Config.updates r.tok.payload r.tok.count) = (some m1, s1) →
      exec (.mtOrderedUpdate t p) s = .next (s1.putMt { m1.servedAt p k with
        expected := (m1.servedAt p k).expected.set p ((e + 1) % 65536) })) ∧
    (m.mode = .streaming → m.started = true → m.done = false → m.implicitReq = false → m.seqWrites = false →
      (∀ x : SeqAct, s.seqDue m = [x] → exec (.sequencerElement t) s = .next (s.seqDo m x)) ∧
      (∀ (x y : SeqAct) (l : List SeqAct) (k : Nat) (u : State), s.seqDue m = x :: y :: l → s.pick (l.length + 2) = (k, u) →
        exec (.sequencerElement t) s = .next (u.seqDo m (((x :: y :: l)[k]?).getD x))) ∧
      (∀ (b : List Byte) (m1 : Mt), m.issued = false → m.seqGlobal = false →
        m.buf.length + (pieces m.seqAddr m.seqTy.bytes 3).length ≤ 64 →
        s.spadRead m (pieces m.seqAddr m.seqTy.bytes 3) = .ok (b, m1) →
        let held : Mt := { m1 with buf := m1.buf ++ [⟨m.seqAddr, b.length, some b⟩] }
        s.seqDo m .issue = s.putMt held.walked.packedUp) ∧
      (∀ (b : List Byte) (m1 : Mt) (i a n : Nat) (s1 : State), m.buf[i]? = some ⟨a, n, none⟩ →
        s.mtRead m m.seqPolicy [(a, n)] = (some b, s1) →
        let had : Mt := { m with buf := m.buf.set i ⟨a, n, some b⟩ }
        s.seqDo m (.answer i) = s1.putMt had.packedUp) ∧
      (∀ u : State, m.pack.length = 128 → s.sendOut (4 * m.tile + m.seqPort) (seqToken m.seqTy m.pack) = some u →
        let sent : Mt := { m with pack := [] }
        s.seqDo m .send = u.putMt sent.packedUp))) ∧
  (∀ (s : State) (t p : Nat) (va amount : Word) (x : PortTok),
    let key := 4 * t + p
    let n : Word := if amount = 0 then (lane x.tok.payload 0).setWidth 64 else amount
    s.acts t = true →
    (∀ (va n : Word) (l : List (Word × Word)) (e : TlbEnt) (v : Nat × Nat) (s1 s2 : State), (s.port key).due = (va, n) :: l →
      s.shadowAt t = false → va.toNat % 8 = 0 →
      s.xlate (dieOf t) (some t) (s.ctxOfTile t) va .write 0 (s.tileAssist t).1 (s.tileAssist t).2 = (.ok e, s1) →
      s1.counterAt (dieOf t) ⟨s.ctxOfTile t, 0⟩ (e.phys va.toNat) n = (.ok v, s2) → (s2.port key).due = (va, n) :: l →
      exec (.counterAddPortToken t p) s = .next (s2.modPort key fun p => { p with due := l })) ∧
    ((s.port key).due = [] → s.caddOf t p = some (va, amount) → s.headTok key = some x → x.tok.kind = 0 → s.barred key x = false →
      (s.keeps t = true → exec (.counterAddPortToken t p) s =
        .next (((s.popAt key 0).2.modPort key fun p => { p with adds := p.adds ++ [(va, n)] }).askCut (s.regionOf t) t)) ∧
      (∀ (e : TlbEnt) (v : Nat × Nat) (s1 s2 : State), s.keeps t = false → s.shadowAt t = false → va.toNat % 8 = 0 →
        s.xlate (dieOf t) (some t) (s.ctxOfTile t) va .write 0 (s.tileAssist t).1 (s.tileAssist t).2 = (.ok e, s1) →
        s1.counterAt (dieOf t) ⟨s.ctxOfTile t, 0⟩ (e.phys va.toNat) n = (.ok v, s2) → (s2.port key).due = [] →
        exec (.counterAddPortToken t p) s = .next (s2.popAt key 0).2))) ∧
  (∀ (s : State) (t p : Nat) (x : PortTok) (l : List PortTok), (s.port (4 * t + p)).carriers = x :: l → s.acts t = true →
    (x.tok.isMarker = true → exec (.px8FrameDecode t p) s = .next ((s.setPort (4 * t + p) { s.port (4 * t + p) with
      toks := (s.port (4 * t + p)).toks ++ [x], carriers := l }).creditBack x.edge)) ∧
    (l = [] → x.tok.kind = 0 → x.tok.fmt = 7 → (s.port (4 * t + p)).taken = [] →
      (∀ y ∈ (s.port (4 * t + p)).toks, y.tok.isMarker = false) →
      (∀ (sc es : List Nat) (j : Nat), (∀ y, Tbl.get? x.edge s.edges = some y → s.buffered x.edge y + 2 ≤ y.depth) →
        px8Frame [x.tok.payload] (s.port (4 * t + p)).bit = .ok (sc, es, j) →
        let out : List PortTok := [⟨x.edge, px8Token 6 sc x.tok.tag⟩, ⟨x.edge, px8Token 3 es x.tok.tag⟩]
        (j < 1024 → exec (.px8FrameDecode t p) s = .next (s.setPort (4 * t + p) { s.port (4 * t + p) with
          toks := (s.port (4 * t + p)).toks ++ out, bit := j })) ∧
        (j = 1024 → exec (.px8FrameDecode t p) s = .next ((s.setPort (4 * t + p) { s.port (4 * t + p) with
          toks := (s.port (4 * t + p)).toks ++ out, carriers := [], bit := 0 }).creditBack x.edge))) ∧
      (px8Frame [x.tok.payload] (s.port (4 * t + p)).bit = .error .more →
        exec (.px8FrameDecode t p) s = .next ((s.setPort (4 * t + p) { s.port (4 * t + p) with
          carriers := [], taken := [x] }).creditBack x.edge))))

/-- Tokens and edges. The next token of an edge enters the buffer of its port; a tag enters a loop bound that has room and leaves it at
an iteration end, where a port ends both each sees it; a barrier with one control token of a tag at each of its ports moves past the tag; a steer token sets
`edge.steer`; a packed token enters its operand buffer (R226 to R231, R234, R265). -/
def Obligations.TokenEvents : Prop :=
  let brings (s : State) (e : Nat) (x : Edge) (k : LinkTok) (l : List LinkTok) : Prop :=
    Tbl.get? e s.edges = some x ∧ x.link = k :: l ∧ s.inEdges x.dst = [(e, x)] ∧ x.timed = none ∧ x.spilling = false ∧
      x.dst < hiddenPort ∧ s.isPx8 x.dst = false ∧ s.acts (x.dst / 4) = true ∧ s.ended (x.dst / 4) = false ∧ k.tok.bad = false
  let brought (s u : State) (e : Nat) (x : Edge) (k : LinkTok) (l : List LinkTok) : Prop :=
    (u.port x.dst).toks = (s.port x.dst).toks ++ [⟨e, k.tok⟩] ∧ u.edges = s.edges.set e { x with link := l } ∧
      u.nodes = s.nodes ∧ u.mts = s.mts ∧ u.mem = s.mem
  (∀ (e : Nat) (x : Edge) (k : LinkTok) (l : List LinkTok), Ends (.tokenArrive e)
    (fun s => brings s e x k l ∧ s.boundsAt x.dst = []) (fun s u => brought s u e x k l ∧ u.bounds = s.bounds)) ∧
  (∀ (b c e : Nat) (y z : Bound) (x : Edge) (k : LinkTok) (l : List LinkTok),
    Ends (.loopBoundEntry b)
      (fun s => Tbl.get? b s.bounds = some y ∧ s.boundsAt x.dst = [(b, y)] ∧ x.dst = y.entry ∧ x.dst ≠ y.exit ∧ brings s e x k l ∧
        k.tok.inLoop = true ∧ k.tok.tag ∉ y.tags ∧ y.tags.length < y.k)
      (fun s u => brought s u e x k l ∧ Tbl.get? b u.bounds = some { y with tags := y.tags ++ [k.tok.tag] }) ∧
    Ends (.loopBoundExit b)
      (fun s => Tbl.get? b s.bounds = some y ∧ s.boundsAt x.dst = [(b, y)] ∧ x.dst = y.exit ∧ x.dst ≠ y.entry ∧ brings s e x k l ∧
        k.tok.isCtl 3 = true ∧ k.tok.tag ∈ y.tags)
      (fun s u => brought s u e x k l ∧ Tbl.get? b u.bounds = some { y with tags := y.tags.filter fun t => t ≠ k.tok.tag }) ∧
    Ends (.loopBoundExit b)
      (fun s => Tbl.get? b s.bounds = some y ∧ Tbl.get? c s.bounds = some z ∧ b ≠ c ∧ s.boundsAt x.dst = [(b, y), (c, z)] ∧
        x.dst = y.exit ∧ x.dst ≠ y.entry ∧ x.dst = z.entry ∧ x.dst ≠ z.exit ∧ brings s e x k l ∧ k.tok.isCtl 3 = true ∧
        k.tok.tag ∈ y.tags ∧ k.tok.tag ∉ z.tags ∧ z.tags.length < z.k)
      (fun s u => brought s u e x k l ∧ Tbl.get? b u.bounds = some { y with tags := y.tags.filter fun t => t ≠ k.tok.tag } ∧
        Tbl.get? c u.bounds = some { z with tags := z.tags ++ [k.tok.tag] })) ∧
  (∀ (t key : Nat) (b : TBar) (tag : BitVec 16), Ends (.tokenBarrierFire t)
    (fun s => s.barsOf t = [(key, b)] ∧ s.acts t = true ∧ s.barFault t b = none ∧ s.barTag t b = some tag)
    (fun s u => Tbl.get? key u.tbars = some { b with phase := tag + 1 } ∧ u.nodes = s.nodes ∧ u.mem = s.mem)) ∧
  (∀ (t p : Nat) (x : PortTok) (n : Node), Does (.steerTokenPop t p)
    (fun s => s.headTok (4 * t + p) = some x ∧ x.tok.kind = 3 ∧ s.acts t = true ∧ s.node? t = some n)
    (fun s => upd (s.popAt (4 * t + p) 0).2 t fun m => { m with
      steer := x.tok.payload.setWidth 3
      steerOld := if n.steered then n.steerOld else some (n.cyc, n.steer) })) ∧
  (∀ (t p : Nat) (b : Bool) (ty : Ty) (x : PortTok) (n : Node),
    let c := x.tok.count + 1
    let bytes := tyBytes ty c
    Does (.operandTokenEnter t p)
      (fun s => s.headTok (4 * t + p) = some x ∧ s.node? t = some n ∧ s.acts t = true ∧ x.tok.kind = 0 ∧ fmtTy x.tok.fmt = some ty ∧
        n.mat.takes b p = true ∧ n.mat.takes (!b) p = false ∧ c % 4 = 0 ∧ bytes ≤ (n.mat.buf b).free)
      (fun s => upd (s.popAt (4 * t + p) 0).2 t fun n => { n with mat := n.mat.setBuf b { n.mat.buf b with
        prod := (n.mat.buf b).prod + BitVec.ofNat 32 bytes
        blocks := (n.mat.buf b).blocks ++ blocksOf ty x.tok.payload.toNat (s.popAt (4 * t + p) 0).1 false (c / 4) } }))

/-- The matrix array. A word at the head of the queue starts; an MMA at the end of its occupancy frees its operands and its sums come ten
cycles later, added into its accumulator; a drain's token leaves by its route; a fetched line is noted, and the last one fills the
accumulator (R249, R261 to R267). -/
def Obligations.MatrixEvents : Prop :=
  (∀ (t : Nat) (n : Node) (w : MatWord) (l : List MatWord) (p : Pred) (a : BitVec 2), Does (.matrixWordStart t)
    (fun s => s.node? t = some n ∧ n.gated = false ∧ n.mat.faulted = none ∧ n.mat.fetchWait = false ∧ n.mat.queue = w :: l ∧
      w.instr = some (.mzero p a) ∧ n.mat.accIdle n.cyc.toNat w.acc = true ∧ n.mat.mma.all (fun r => r.occupied) = true)
    (fun s => s.setNode t { n with mat := { n.mat with
      queue := l, acc := n.mat.acc.keep fun e _ => decide (e / 4096 ≠ w.acc)
      zeros := (n.mat.zeros.filter fun r => decide (n.cyc.toNat < r.until_)) ++ [{ MatRun.begin w with until_ := n.cyc.toNat + 1 }] } })) ∧
  (∀ (t : Nat) (n : Node) (r : MatRun), Does (.mmaOccupancyEnd t)
    (fun s => s.node? t = some n ∧ n.gated = false ∧ n.mat.mma = some r ∧ r.occupied = true ∧ r.until_ ≤ n.cyc.toNat ∧
      matSrc n.mat.cfg false ≠ 2 ∧ matSrc n.mat.cfg true ≠ 2)
    (fun s =>
      let bytes (l : List OpBlock) : BitVec 32 := BitVec.ofNat 32 (l.foldl (fun a x => a + tyBytes x.ty 4 + if x.covered then 1 else 0) 0)
      let eat (b : OpBuf) (l : List OpBlock) : OpBuf := { b with blocks := b.blocks.drop l.length, cons := b.cons + bytes l }
      s.setNode t { n with mat := { n.mat with
        bufA := eat n.mat.bufA r.a, bufB := eat n.mat.bufB r.b, mma := none
        tail := n.mat.tail ++ [{ r with until_ := r.until_ + 10 }] } })) ∧
  (∀ (t : Nat) (n : Node) (r : MatRun) (l : List MatRun), Does (.mmaComplete t)
    (fun s => s.node? t = some n ∧ n.gated = false ∧ n.mat.tail = r :: l ∧ r.until_ ≤ n.cyc.toNat ∧ r.pins = [])
    (fun s => s.setNode t { n with mat := { n.mat with
      tail := l, acc := mmaAcc n.mat.acc r.w.acc (r.a.length / 64) r.a r.b } })) ∧
  (∀ (s s1 : State) (t : Nat) (n : Node) (r : MatRun) (l : List MatRun) (p : Nat), s.node? t = some n → n.gated = false →
    n.mat.faulted = none → n.mat.drains = r :: l → r.w.left = none → r.until_ ≤ n.cyc.toNat →
    (r.route = some p ∨ (r.route = none ∧ n.routeOf n.steerNow.toNat = some p)) →
    s.sendOut (4 * t + p) (r.drainTok r.w.oty r.sent (vget n.tags p 0)) = some s1 →
    exec (.drainTokenSend t) s = .next (upd s1 t fun n2 => { n2 with mat := { n2.mat with
      drains := putRun r (if 4096 ≤ (r.sent + 1) * drainPer r.w.oty then none
        else some { r with sent := r.sent + 1, route := some p, until_ := n.cyc.toNat + 1 }) n2.mat.drains } })) ∧
  (∀ (s s1 : State) (t vk : Nat) (n : Node) (r : MatRun) (v : Vec) (pin : Option Nat) (l : List Nat) (o : List MatRun),
    s.node? t = some n → n.gated = false → n.mat.fetchWait = false → n.mat.faulted = none → n.mat.mma = none →
    n.mat.loads = r :: o → r.lines = vk :: l → s.matFetch t n r.w.seen vk = (some (v, pin), s1) →
    let q : MatRun := { r with lines := l, got := r.got.set vk v, pins := pin.toList ++ r.pins }
    exec (.fetchLineArrive t) s = .next (if l = [] then
        (upd s1 t fun n => { n with mat := { n.mat with
          loads := putRun q none n.mat.loads, acc := loadAcc n.mat.acc q.w q.got } }).unpinFetch (dieOf t) q.pins
      else upd s1 t fun n => { n with mat := { n.mat with loads := putRun q (some q) n.mat.loads } }))

/-- The engines. What an engine does next is a free choice of what it may do: a chunk of a copy begins with the pieces of lines that it
moves, each piece is read and sent to the destination, and each word sent comes to stand there in a step of its own, so that words change
in any order before the completion add (R137, R141, R437, R391); work that has moved and landed all it has to adds its amount to its
counter and leaves its queue, CDISARM disarms its queue and reports the count; a template is armed, triggered by a waiting trigger, and an
index token gives a gather its rows; a matrix copy's bytes enter the operand buffer, then its word the queue; a collective whose ranks
agree reads every input and gives every rank its output to write (R140, R143 to R149, R202 to R210). Model's choices: a chunk's pieces
move one by one in a free order (log 17); a collective reads every input in one step, and ranks of other devices agree by a free choice
(log 24). -/
def Obligations.EngineEvents : Prop :=
  (∀ (s : State) (d e : Nat),
    let moves := s.engMoves d e
    let chosen (j : Nat) (u : State) : Prop := moves.length = 1 ∧ j = 0 ∧ u = s ∨ 1 < moves.length ∧ s.pick moves.length = (j, u)
    ∀ (j : Nat) (u : State), chosen j u →
      (∀ q i, moves[j]? = some (.land q i) → exec (.engineChunk d e) s = .next (u.engLand d e q i)) ∧
      (∀ q c, moves[j]? = some (.blend q c) → exec (.engineChunk d e) s = .next (u.blend d e q c)) ∧
      (∀ q, moves[j]? = some (.chunk q) → exec (.engineChunk d e) s = .next (u.chunkStep d e q))) ∧
  (∀ (s : State) (d e q : Nat) (c : Cmd),
    let x := s.engQ d e q
    s.engMoves d e = [.chunk q] → x.armed = none → x.cmds.head? = some c → c.op = .cpy →
    (let upTo := Nat.min (c.moved / 4096 * 4096 + 4096) (dLen c.words)
     x.left = [] → c.moved < dLen c.words →
      exec (.engineChunk d e) s = .next ((s.modDie d fun y => { y with rot := y.rot.set e ((q + 1) % 8) }).setEngQ d e q
        { x with left := linesFrom (dDst c.words) c.moved (upTo - c.moved) 34, upTo := upTo })) ∧
    (∀ (s0 s1 s2 : State) (j off n : Nat) (b : List Byte),
      s.pick x.left.length = (j, s0) → x.left[j]? = some (off, n) →
      s0.engReads d e q c (dSspace c.words) (dSdev c.words) (linesOf (dSrc c.words + off) n) = (.ok b, s1) →
      let data := (wordsFrom (dDst c.words) off n (n + 1)).flatMap fun w =>
        (Tbl.get? w.1 x.got).getD ((b.drop (w.1 - off)).take w.2)
      s1.engPut d e q c off (dDst c.words + off) data (fun _ => true) = (.ok (), s2) →
      let y := s2.engQ d e q
      let z : EngQueue := { y with
        left := y.left.filter fun p => p.1 ≠ off, got := y.got.filter fun p => !(off ≤ p.1 && p.1 < off + n) }
      exec (.engineChunk d e) s = .next (s2.setEngQ d e q (if z.left ≠ [] then z else z.progress z.upTo)))) ∧
  (∀ (s : State) (d e q j : Nat) (f : EngFly) (pa : Nat),
    let x := s.engQ d e q
    let u := (s.setEngQ d e q { x with fly := x.fly.eraseIdx j }).landBytes d pa f.data
    s.engMoves d e = [.land q j] → x.fly[j]? = some f → f.pa = some pa →
    exec (.engineChunk d e) s = .next
      (if f.whole && !(x.fly.eraseIdx j).any (fun g => g.key / 8 = f.key / 8) then u.lift (f.key / 8 * 8) 8 else u)) ∧
  (∀ (s s1 : State) (d e q : Nat) (c : Cmd) (a : Armed) (l : List Cmd) (r : Except EngErr Unit),
    let x := s.engQ d e q
    let off := s.setEngQ d e q { x with armed := none, cmds := { c with moved := a.done } :: l }
    x.cmds = c :: l → c.op = .cdisarm → x.armed = some a → a.live = false → x.runs = true →
    (a.done = 0 → exec (.engineCompletionAdd d e q) s = .next (off.engDrop d e q)) ∧
    (a.done ≠ 0 → dword c.words 4 ≠ 0 → off.engAdd d e q c (dword c.words 4) (BitVec.ofNat 64 a.done) = (r, s1) →
      exec (.engineCompletionAdd d e q) s = .next (match r with
        | .ok _ => s1.engDrop d e q
        | .error y => s1.engFail d e q c (BitVec.ofNat 64 (dword c.words 4)) y))) ∧
  (∀ (s s1 : State) (d e q : Nat) (c : Cmd),
    let x := s.engQ d e q
    x.armed = none → x.cmds.head? = some c → x.runs = true →
    (c.op = .cpy → dLen c.words ≤ c.moved → dAmount c.words ≠ 0 → x.fly.any (fun f => f.live) = false →
      s.engAdd d e q c (dCctr c.words) (dAmount c.words) = (.ok (), s1) →
      exec (.engineCompletionAdd d e q) s = .next (s1.engDrop d e q)) ∧
    (c.op = .carm → exec (.carmArm d e q) s = .next ((s.engDrop d e q).setEngQ d e q { (s.engDrop d e q).engQ d e q with
      armed := some ⟨{ c with moved := 0 }, 0, 0, 0, false⟩ })) ∧
    (∀ n : Node, c.op = .cpym → x.landed = false → s.cpymTarget c = some n → n.gated = false → dLen c.words ≤ c.moved →
      (x.got ≠ [] → dLen c.words ≤ (n.mat.buf (bitAt (dDst c.words) 12)).free →
        exec (.cpymDeliver d e q) s = .next ((upd s n.tile fun n => { n with
          mat := n.mat.copyIn (bitAt (dDst c.words) 12) (x.got.flatMap fun p => p.2) }).setEngQ d e q { x with got := [] })) ∧
      (x.got = [] → n.mat.queue.length < 16 → n.matrixNext = false →
        exec (.cpymDeliver d e q) s = .next ((upd s n.tile fun n => { n with mat := { n.mat with
          queue := n.mat.queue ++ [⟨BitVec.ofNat 32 (dword c.words 6), none, none, false, []⟩] } }).setEngQ d e q
            { x with landed := true }))) ∧
    (∀ (k : PortTok),
      let t := dCoalesce c.words
      let key := 4 * t + dPort c.words
      let u := (s.popAt key 0).2
      s.headTok key = some k → c.op.isRows = true → x.rows + x.idx.length < dLen c.words → s.acts t = true → k.tok.kind = 0 →
      k.tok.fmt = 7 →
      exec (.coalesceIndex d e q) s = .next (u.setEngQ d e q { u.engQ d e q with idx := (u.engQ d e q).idx ++
        (((List.range (k.tok.count + 1)).map fun i => (lane k.tok.payload i).toInt).take
          (dLen c.words - (u.engQ d e q).rows - (u.engQ d e q).idx.length)) }))) ∧
  (∀ (s : State) (d e q : Nat) (a : Armed), (s.engQ d e q).armed = some a → (s.engQ d e q).cmds = [] → (s.engQ d e q).runs = true →
    a.live = false → 0 < a.waiting →
    exec (.templateTrigger d e q) s = .next (s.setEngQ d e q { s.engQ d e q with
      armed := some { a with waiting := a.waiting - 1, begun := a.begun + 1, live := true } })) ∧
  (∀ (s s0 s1 : State) (d e op : Nat) (fp32 : Bool) (c : Cmd) (ranks : List (Option (Nat × Nat × Nat × Cmd))) (ins : List (List Byte)),
    let all := s.collOf c.launch (dTag c.words)
    s.collNext d (16 + e) = some c → c.op = .coll op fp32 → (∀ p ∈ all, collAgree c p.2.2.2 = true) → collRanks all c = some ranks →
    ((∀ r ∈ ranks, r ≠ none) ∧ s0 = s ∨ (∃ r ∈ ranks, r = none) ∧ s.pick 3 = (1, s0)) →
    s0.collRead (dLen c.words) ranks = (some ins, s1) → exec (.collectiveExecute d e) s = .next (s1.collWrite op fp32 ins ranks))

/-- The Scruple network. While a wave is open a delta of a firing task waits in its slot and every other delta, and a score, is held;
otherwise a delta and a score are judged at once. CSWAVE takes a wave from the conflict set and puts a task record for each of its slots;
a wave that finds no activation closes at once, and one FDONE of several leaves the wave open; with every FDONE counted the wave's
buffered deltas are applied one by one, and it closes. The wave counter's add, once due, is made once. NETLD without an image leaves the
network unloaded, with the status of the last load (R324 to R326, R332 to R335).

Logs 19 and 20 hold what is the model's here: heap room of 64 bytes a token and a stamp suffices (DESIGN CHOICE), the load's status on an
unload (DEDUCED), one entry of working memory a step (DEDUCED), and the wave counter's address translated at its add (DESIGN CHOICE). -/
def Obligations.NetworkEvents : Prop :=
  ∀ d : Nat, d < 4 →
    let net (s : State) : Net := (s.die d).net
    let head (s : State) (m : NetMsg) (l : List NetMsg) : Prop := (net s).inbox = m :: l ∧ (net s).runs = true ∧ (net s).filling = none ∧
      (net s).owner ≠ none
    let pop (m : NetM Unit) (s : State) := ((netMod d fun n => { n with inbox := n.inbox.drop 1 }) >>= fun _ => m).run s
    let kept (s u : State) : Prop := u.mem = s.mem ∧ u.nodes = s.nodes
    let fits (s : State) : Prop := 64 * ((net s).tokens.length + (net s).stamps.length) ≤ (net s).heapsz.toNat
    (∀ t id x l, Ends (.networkDeltaArrival d) (fun s => head s (.delta t (some id) x) l ∧ (net s).open_ = true ∧
      (net s).allDone = false) (fun s u => kept s u ∧
      net u = { net s with inbox := l, wave := (net s).wave.map fun w => if w.id = id then { w with deltas := w.deltas ++ [x] } else w })) ∧
    (∀ t x l, Ends (.networkDeltaArrival d) (fun s => head s (.delta t none x) l ∧ (net s).open_ = true ∧
      (net s).allDone = false) (fun s u => kept s u ∧
      net u = { net s with inbox := l, held := (net s).held ++ [.delta t none x] })) ∧
    (∀ t f x l s1, Does (.networkDeltaArrival d) (fun s => head s (.delta t f x) l ∧ (net s).open_ = false ∧
      fits s ∧ pop (netDelta d x) s = .ok ((), s1))
      (fun _ => s1.netSettle d)) ∧
    (∀ h key l, Ends (.networkScsetArrival d) (fun s => head s (.scset h key) l ∧ (net s).open_ = true) (fun s u => kept s u ∧
      net u = { net s with inbox := l, held := (net s).held ++ [.scset h key] })) ∧
    (∀ h key l s1, Does (.networkScsetArrival d) (fun s => head s (.scset h key) l ∧ (net s).open_ = false ∧
      pop (netScset d h key) s = .ok ((), s1) ∧ fits s1) (fun _ => s1.netSettle d)) ∧
    (∀ t c ctx limit l, Ends (.networkCswaveArrival d) (fun s => head s (.cswave t c ctx limit) l ∧ (net s).acts = [] ∧ l ≠ [] ∧ fits s)
      (fun s u => kept s u ∧ net u = { net s with
        inbox := l, wave := [], waveCtr := some (c, ctx), open_ := false, closed := (net s).closed + 1 })) ∧
    (∀ t c ctx limit l s1, Does (.networkCswaveArrival d) (fun s =>
      let n : Net := { net s with inbox := l }
      let acc := n.form limit
      let slots := (List.range acc.length).filterMap fun k => (acc[k]?).map fun a =>
        (⟨s.nextId + k, a.1 / 65536, a.2, [], false⟩ : WaveSlot)
      head s (.cswave t c ctx limit) l ∧ acc ≠ [] ∧ fits s ∧
      (netFirings d 0 slots).run ({ s with nextId := s.nextId + acc.length }.modNet d fun _ => { n with
        acts := n.acts.filter fun p => !(acc.map fun (a : Nat × Activation) => a.1).contains p.1
        wave := slots, waveCtr := some (c, ctx), open_ := true }) = .ok ((), s1)) (fun _ => s1.netSettle d)) ∧
    (∀ id l, Ends (.networkFdoneArrival d) (fun s => (net s).inbox = .fdone id :: l ∧ (net s).runs = true ∧ (net s).filling = none ∧
      (net s).open_ = true ∧
      ∃ w ∈ (net s).wave, w.done = false ∧ w.id ≠ id) (fun s u => kept s u ∧
      net u = { net s with inbox := l, wave := (net s).wave.map fun w => if w.id = id then { w with done := true } else w })) ∧
    Ends (.networkFdoneArrival d) (fun s => (net s).runs = true ∧ (net s).allDone = true ∧ (∀ w ∈ (net s).wave, w.deltas = []) ∧
      (net s).held ++ (net s).inbox ≠ []) (fun s u => kept s u ∧ net u = { net s with
        open_ := false, closed := (net s).closed + 1, inbox := (net s).held ++ (net s).inbox, held := [] }) ∧
    (∀ a x left s1, Does (.networkFdoneArrival d) (fun s => (net s).runs = true ∧ (net s).allDone = true ∧
      firstDelta (net s).wave = some (a, x, left) ∧ fits s ∧ (netBuffered d a x left).run s = .ok ((), s1)) (fun _ => s1)) ∧
    (∀ c ctx pa v s1 s2, Does (.networkFdoneArrival d) (fun s => (net s).runs = true ∧ (net s).waveCtr = some (c, ctx) ∧
      (net s).addDue = true ∧ (netXlate d c.va.toNat .write).run s = .ok (pa, s1) ∧ s1.counterAt d ⟨ctx, 4⟩ pa 1 = (.ok v, s2))
      (fun _ => s2.modNet d fun n => { n with waveCtr := none })) ∧
    (∀ i s1, Does (.netldLoad d) (fun s => (net s).filling = some i ∧ (net s).runs = true ∧ fits s ∧ (netFill d i).run s = .ok ((), s1))
      (fun _ => s1.netSettle d)) ∧
    (∀ ctx assist block l, Ends (.netldLoad d) (fun s => (net s).inbox = .netld ctx assist 0 block :: l ∧ (net s).runs = true ∧
      (net s).filling = none) (fun s u => kept s u ∧ net u = { Net.reset with status := (net s).status, inbox := l }))

/-- Queues, packets and tasks. A doorbell makes its queue active on the die of its entry; the host gives a slot to a queue that it maps;
an active queue takes a free slot; a malformed head is consumed and completes with reason 0x8, and a head that passes its checks and can be
placed is consumed and its launch begins; a satisfied wait packet is consumed; a finished launch without a completion counter leaves; a
tasks packet emits its next record; a record starts its task on a free CT, or leaves its queue with a fault record where its template is
not resident (R344, R356 to R363, R366, R367, R384). A record of a task that has ended in every replica leaves the queue with no effect,
and the fault record of a bad one has prec 0 and names the die's tile 0: the model's (DEDUCED, log 32). -/
def Obligations.LaunchEvents : Prop :=
  (∀ (d q : Nat) (e : QEntry), e.die < 4 → Ends (.lqDoorbell d q) (fun s => s.qEntry q = some e) (fun s u =>
    u.queueAt e.die q = { s.queueAt e.die q with active := true } ∧ u.mem = s.mem ∧ u.nodes = s.nodes)) ∧
  (∀ (d k : Nat) (x : Word), let q := x.toNat % 2 ^ 16
    Ends (.lqSlotWrite d k x) (fun s => d < 4 ∧ k < 256 ∧ x.getLsbD 63 = true ∧ s.hostMaps q = true ∧ Tbl.get? k (s.die d).slots = none)
      (fun s u => Tbl.get? k (u.die d).slots = some q ∧ (u.queueAt d q).slot = some k ∧ u.mem = s.mem ∧ u.nodes = s.nodes)) ∧
  (∀ (d q k : Nat), Ends (.queueSlotRotate d)
    (fun s => d < 4 ∧ s.unmapped d = [q] ∧ ((List.range 256).find? fun k => s.slotFree d k) = some k)
    (fun s u => Tbl.get? k (u.die d).slots = some q ∧ (u.queueAt d q).slot = some k ∧ u.mem = s.mem ∧ u.nodes = s.nodes)) ∧
  (∀ (s s1 : State) (d : Nat) (h : Head), (s.mmioAt 0 0x100D8).getLsbD 0 = true → s.launchesHeld = false →
    s.heads d (s.die d).slots = ([h], s1) → s1.eligible d h false = true → s1.locked = true → s1.unplaced d = [] →
    (s1.queueAt d h.q).aborted = none → (pMalformed h.words = true → exec (.packetChoose d) s = .next (s1.refuse d h 3 8)) ∧
    (∀ (s2 s5 : State) (c : Check), pMalformed h.words = false → pKind h.words ≠ 3 → pRed h.words = 1 →
      (lCheck (s1.forQueue d h.q h.e) h.words (s1.ctxReg h.e.ctx 1) (s1.ctxReg h.e.ctx 8) (s1.resident d h)).run s1 = .ok (c, s2) →
      s2.now.toNat ≤ pDeadline h.words ∨ pLate h.words = true →
      let begun (u : State) (map : List Nat) (gang : List GangMember) (tick : Nat) : Prop := ∃ id l, Tbl.get? id u.launches = some l ∧
        l.queue = h.q ∧ l.words = h.words ∧ l.ctx = h.e.ctx ∧ l.map = map ∧ l.gang = gang ∧ l.tickT = tick ∧ l.status = none ∧
        (u.queueAt d h.q).last = some id
      let counts (s4 : State) : Prop := (lAdd (s4.forQueue d h.q h.e) h.e.consumed 1).run s4 = .ok ((), s5)
      (∀ (s3 : State) (t : Option Template) (rounds : Tbl RoundRegion), c = .tasks t rounds → s2.freeCts d ≠ [] →
        s2.residentOn (tmplKey h.e.ctx (pTmpl h.words)) t [d] = some s3 → counts (s3.pickWords 6).2.pickWord.2 →
        ∃ u, exec (.packetChoose d) s = .next u ∧ begun u [d] [] 0) ∧
      (∀ (recs : List (List CfgRec)) (seqs : List (Tbl (List Word))) (map : List Nat) (bin : List Word) (rounds : Tbl RoundRegion),
        c = .gang recs seqs map bin rounds →
        (∀ x ∈ map, x < 4 →
          let l := { s2.newLaunch d h rounds with recs := recs, seqs := seqs, map := map }
          (s2.reserveAll 0 l x (l.onDie x)).1.isSome = true) →
        let T := s2.startTick (s2.ctxReg h.e.ctx 2) 20000
        counts T.2 → ∃ u, exec (.packetChoose d) s = .next u ∧
          begun u map (map.eraseDups.map fun x => ⟨x, false, false, false, false, false⟩) T.1 ∧
          ((s2.ctxReg h.e.ctx 2).getLsbD 6 = false → T.1 = s2.now.toNat + 20000)))) ∧
  (∀ (s s1 s2 s3 : State) (d q n v : Nat) (e : QEntry) (w : List Word),
    let u := s.tableRead q
    let lf := u.forQueue d q e
    (s.mmioAt 0 0x100D8).getLsbD 0 = true → s.qEntry q = some e → (s.queueAt d q).slot ≠ none → (s.queueAt d q).waiting = false →
    (s.queueAt d q).aborted = none → e.die = d → (lHead lf e).run u = .ok (some (n, w), s1) → pKind w = 3 → pMalformed w = false →
    u.eligible d ⟨q, e, n, w⟩ false = true → (lCounter lf (pImage w)).run s1 = .ok (v, s2) →
    (pWord w 3 ≤ v → (lAdd lf e.consumed 1).run s2 = .ok ((), s3) →
      exec (.waitPacketSatisfied d q) s = .next (s3.setQueue d q { s3.queueAt d q with last := none, watch := none })) ∧
    (v < pWord w 3 → (lWatch lf (pImage w)).run s2 = .ok ((), s3) → exec (.waitPacketSatisfied d q) s = .next s3)) ∧
  (∀ (id : Nat) (l : Launch), Does (.packetComplete id) (fun s => Tbl.get? id s.launches = some l ∧ s.launchOver id l = true ∧
    (s.queueAt l.die l.queue).waiting = false ∧ pCctr l.words = 0) (fun s => { s with launches := s.launches.erase id })) ∧
  (∀ (id d : Nat) (l : Launch), d < 4 → Ends (.taskPacketEmit id)
    (fun s => Tbl.get? id s.launches = some l ∧ pKind l.words = 2 ∧ l.map = [d] ∧ l.emitted ≤ pCount l.words ∧
      (s.die d).onDie = (s.die d).tasks.length ∧ (s.die d).ovf = 0 ∧ (s.die d).onDie < 4096)
    (fun s u => (∃ r, (u.die d).tasks = (s.die d).tasks ++ [r] ∧ r.ctx = l.ctx ∧ r.w1 = (l.words[4]?).getD 0 ∧ r.w0.toNat =
        field (pWord l.words 3) 63 32 * 2 ^ 32 + (field (pWord l.words 3) 31 0 + l.emitted) % 2 ^ 32) ∧
      (u.die d).onDie = (s.die d).onDie + 1 ∧ Tbl.get? id u.launches = some { l with emitted := l.emitted + 1 } ∧ u.mem = s.mem)) ∧
  (∀ (d : Nat) (r : TaskRec) (l : List TaskRec),
    let top (s : State) : Prop := (s.die d).tasks = r :: l ∧ s.settleDue d = false ∧ 0 < (s.die d).onDie
    let pop (s : State) : State := s.modDie d fun x => { x with tasks := l, onDie := x.onDie - 1 }
    Does (.taskDispatch d) (fun s => top s ∧ r.cancelled = true) pop ∧
    Does (.taskDispatch d) (fun s => top s ∧ r.cancelled = false ∧ r.launch = none ∧
      Tbl.get? (tmplKey r.ctx (field r.w0.toNat 63 48)) (s.die d).tmpls = none)
      (fun s => (pop s).report d ⟨.taskRecord, 0, false, r.ctx, 1024 * d, 0, 0, 0, 0, 0, s.now⟩) ∧
    (∀ (s s1 : State) (e : List Word) (k : Nat), d < 4 → top s → r.cancelled = false → s.taskEntry d r = some e → s.freeCts d ≠ [] →
      s.pick (s.freeCts d).length = (k, s1) →
      ∃ u n t, exec (.taskDispatch d) s = .next u ∧ (s.freeCts d)[k]? = some t ∧ u.node? t = some n ∧ n.task ≠ none ∧ n.ctx = r.ctx ∧
        n.pc = BitVec.ofNat 64 (pWord e 0) ∧ n.regs.g = taskRegs e r Regs.start.g ∧ (u.die d).tasks = l))

/-- The two phases of a gang. A die whose regions fit reserves them and acknowledges, in time if it is T − 2,000 or before; with every
acknowledgement go is sent at the deadline, else the attempt repeats with a later T, and the eighth fails with reason 0x1; a release frees
the die's reservation; a die with go starts at T, and one without sends abort to every member; a member that receives abort stops its
regions, and with the last one's the packet is aborted with reason 0x2 (R364, R365). That a gang of another device's controller is
acknowledged whenever it is reserved, and is forgotten when nothing of it is reserved, is the model's (DESIGN CHOICE, log 64). -/
def Obligations.GangEvents : Prop :=
  ∀ (id d : Nat) (l : Launch) (g : GangMember),
    let has (s : State) : Prop := Tbl.get? id s.launches = some l
    let part (s : State) : Prop := has s ∧ l.member d = some g ∧ l.status = none
    let deadline (s : State) : Prop := has s ∧ l.foreign = false ∧ l.status = none ∧ l.gang ≠ [] ∧ l.tickT ≤ s.now.toNat + 2000 ∧
      s.goSent id l = false ∧ ∀ m ∈ l.gang, m.started = false
    let less (s u : State) (hs : List Nat) : Prop := ∀ h, u.reg h = if h ∈ hs then none else s.reg h
    (∀ (s s1 : State) (hs : List Nat), part s → g.reserved = false → d < 4 → s.reserveAll id l d (l.onDie d) = (some hs, s1) →
      exec (.gangReserve id d) s = .next ((s1.modMember id d fun g =>
        { g with reserved := true, acked := decide (s.now.toNat + 2000 ≤ l.tickT) || l.foreign }).tellGang 0 id d)) ∧
    Does (.gangAckDeadline id) (fun s => deadline s ∧ ∀ m ∈ l.gang, m.acked = true)
      (fun s => { s with agenda := s.agenda ++ l.gang.map fun m => .gangGo id m.die }) ∧
    Ends (.gangAckDeadline id) (fun s => deadline s ∧ (∃ m ∈ l.gang, m.acked = false) ∧ (∀ m ∈ l.gang, s.reservedOn id m.die = []))
      (fun s u => u.mem = s.mem ∧ ∃ y, Tbl.get? id u.launches = some y ∧ (∀ m ∈ y.gang, m.reserved = false ∧ m.acked = false) ∧
        (7 ≤ l.attempt → y.status = some (4, 1)) ∧
        (l.attempt < 7 → y.status = none ∧ y.attempt = l.attempt + 1 ∧
          (l.assist.getLsbD 6 = false → y.tickT = s.now.toNat + 20000 * 2 ^ (l.attempt + 1)))) ∧
    Ends (.gangGo id d) (fun s => has s) (fun s u => Tbl.get? id u.launches = some { l with gang := l.gang.map fun m =>
      if m.die = d ∧ m.acked = true then { m with go := true } else m } ∧ u.mem = s.mem ∧ u.regions = s.regions) ∧
    Ends (.gangRelease id d) (fun _ => True) (fun s u => less s u (s.reservedOn id d) ∧ (s.reservedOn id d = [] → u.mem = s.mem) ∧
      let gang := l.gang.map fun m => if m.die = d then { m with reserved := false, acked := false } else m
      (has s → Tbl.get? id u.launches =
        if l.foreign = true ∧ ∀ m ∈ gang, m.reserved = false then none else some { l with gang := gang })) ∧
    (let due (s : State) : Prop := part s ∧ l.tickT ≤ s.now.toNat ∧ g.acked = true ∧ g.started = false
     Does (.gangStartTick id d) (fun s => due s ∧ g.go = true ∧ d < 4)
       (fun s => ((s.reservedOn id d).foldl (fun s h => s.startRegion h) s).modMember id d fun g => { g with started := true }) ∧
     Ends (.gangStartTick id d) (fun s => due s ∧ g.go = false ∧ l.foreign = false) (fun s u => u.mem = s.mem ∧ u.regions = s.regions ∧
       u.nodes = s.nodes ∧ Tbl.get? id u.launches = some { l with gang := l.gang.map fun m =>
         { m with acked := m.acked && m.die != d, abort := m.abort || !s.aborting id } })) ∧
    Ends (.gangAbort id d) (fun s => has s ∧ l.member d ≠ none) (fun s u =>
      let gang : List GangMember := l.gang.map fun m => if m.die = d then ⟨d, false, false, false, true, false⟩ else m
      less s u ((s.regions.filter fun p => p.2.launch = id && p.2.die = d && !p.2.isTask).map (·.1)) ∧
      Tbl.get? id u.launches = some { l with
        gang := gang, status := if gang.any fun m => m.abort then l.status else l.status.or (some (4, 2)) })

/-- Regions and replicas. An element at the end of its step takes up the next one; an element that may save joins its region's cut; a
faulted region that has stood still for 64 cycles is gated and its record written; a silent region asks its host for a spill queue, or
stands in a deadlock trap; reports of every replica that agree pass, and a missing one after 1 ms differs; a voted-out replica copies its
leader's cut (R350, R379, R385, R387, R392, R393). That the records of a silent region name the tile of its full buffer, and go to that
tile's die, is the model's (DEDUCED, log 25). -/
def Obligations.RegionEvents : Prop :=
  (∀ (s : State) (t : Nat) (r : Region),
    let h := s.regionOf t
    s.reg h = some r →
    (s.maySwitch t = true →
      exec (.elementSwitch t) s = .next (((((((s.popDrains t).sendAll t (ctlToken 2 0 0)).leaveIns t).leaveOuts t).leaveBounds t
        r.step).enterStep r h t (r.step + 1)).switchDone h)) ∧
    (∀ v : Saved, s.staleMarker t = none → s.maySave t = true → r.saving = some v → s.insOf t = [] → s.outsOf t = [] →
      Ends (.elementSave t) (fun u => u = s) (fun _ u => u.mem = s.mem ∧ ∃ s1 : State,
        s1.regions = s.regions.set h { r with saving := some (s.saveElem t v) } ∧ u = s1.cutComplete h))) ∧
  (∀ (h : Nat) (r : Region) (x : FaultRec), Does (.regionClockGate h)
    (fun s => s.reg h = some r ∧ r.rolling = false ∧ r.gated = false ∧ 64 ≤ r.still ∧ s.faultIn h = some x ∧ x.cause ≠ .uncorrectable)
    (fun s => ((s.setGate h true).report (dieOf x.tile) x).modRegion h fun r => { r with frozen := some ⟨x, true⟩ })) ∧
  (∀ (h : Nat) (r : Region), Does (.regionSilence h)
    (fun s => s.reg h = some r ∧ s.silent h = true ∧ r.spillEdge = none ∧ (s.assistOf h).getLsbD 3 = true)
    (fun s => (s.report (dieOf (s.silentTile h r)) (s.ctlRecord h r .spill (s.silentTile h r))).modRegion h fun r =>
      { r with spillAsked := true })) ∧
  (∀ (h : Nat) (r : Region), Does (.deadlockTrap h)
    (fun s => s.reg h = some r ∧ s.silent h = true ∧ r.spillEdge ≠ none)
    (fun s => s.freezeRegion h (s.ctlRecord h r .deadlock (s.silentTile h r)))) ∧
  (∀ (s : State) (d g t u : Nat) (a b : Report),
    let both : Prop := (s.die d).reports.getD g [] = [a, b] ∧ s.jury t = [t, u] ∧ a.tile = t ∧ b.tile = u ∧ t ≠ u ∧
      s.awayOf t = [] ∧ s.queuedOf t = 0
    let s1 := s.modDie d fun x => { x with reports := x.reports.erase g }
    (both → a.sig = b.sig → a.cnt = b.cnt → a.seqNo = b.seqNo → s1.queuedOf t = 0 →
      exec (.assizeCompare d g) s = .next ((s1.acquit t).acquit u)) ∧
    ((s.die d).reports.getD g [] = [a] → a.tile = t → s.jury t = [t, u] → t ≠ u → a.tick.toNat + 1000000 ≤ s.now.toNat →
      exec (.assizeReportTimeout d g) s = .next (s1.differ g a.seqNo [t, u]))) ∧
  (∀ (t l : Nat), Does (.replicaResync t) (fun s => s.resyncDue t = true ∧ s.leaderOf (s.regionOf t) = some l)
    (fun s => s.resync (s.regionOf t) l))


/-- Orders of the host's tools. A resumption ends a pending fault and its requests retry, a failed one aborts them; a frozen region goes
on, returns to its cut or ends; a granted queue stands behind the chosen buffer, and a refusal is a deadlock; a pre-empted region's clock
is gated at once; a restore of no area fails, and one of an area that fits takes its place up (R95, R96, R386, R389, R392, R394 to R396).
Which words make an area whole and where a granted queue's words go (log 21), that `flt.ctl` works on any die (log 40) and which place an
area fits (log 43) are the model's (DEDUCED). -/
def Obligations.HostToolEvents : Prop :=
  ∀ (d : Nat) (x : Word), d < 4 →
    let h := ctlHandle x
    let c : BitVec 12 := x.extractLsb' 40 12
    let page := x.toNat % 2 ^ 40
    let left (s : State) : List PendFault := (s.die d).pend.filter fun q => !(q.ctx = c && q.page = page)
    let frozen (s : State) (g : Region) (r : FaultRec) : Prop :=
      ctlEngine x = false ∧ h ≠ 0 ∧ s.reg h = some g ∧ ∃ b, g.frozen = some ⟨r, b⟩
    (∀ (t : Nat) (n : Node) (p : PendFault), Ends (.tfqResume d x)
      (fun s => s.pendingAt d c page = some p ∧ p.waiters = [.node t] ∧ (s.die d).unrec = [] ∧ s.node? t = some n ∧ n.stop = some .walk)
      (fun s u => u.node? t = some { n with stop := none } ∧ (u.die d).pend = left s ∧ u.mem = s.mem)) ∧
    (∀ (t : Nat) (p : PendFault), Does (.tfqFail d x)
      (fun s => s.pendingAt d c page = some p ∧ p.waiters = [.node t] ∧ s.hasElem t = true)
      (fun s => let u := s.modDie d fun y => { y with pend := left s }
        (u.report (dieOf t) (u.elemRecord t .translationAbort 3 (BitVec.ofNat 64 (page * 65536)) 0 0)).abortRegion (u.regionOf t))) ∧
    (∀ (g : Region) (r : FaultRec),
      Ends (.fltResume d x) (fun s => frozen s g r ∧ r.resumes = true) (fun s u => u.mem = s.mem ∧
        u.reg h = some { g with gated := false, frozen := none, still := 0, quiet := 0 } ∧
        ∀ t n, s.node? t = some n → u.node? t = some (if n.region = h then (n.thaw r).1 else n)) ∧
      Does (.fltRollback d x) (fun s => frozen s g r ∧ r.cause = .deadlock ∧ s.mayRollBack h = true)
        (fun s => ((s.beginRollback h).modRegion h fun g => { g with frozen := none }).modRegion h fun g => { g with rollDie := d }) ∧
      Does (.fltAbort d x) (fun s => frozen s g r) (fun s => s.abortRegion h)) ∧
    (∀ (g : Region),
      let asks (s : State) : Prop := s.reg h = some g ∧ g.spillAsked = true ∧ g.die = d
      (∀ e : Nat × Edge, Ends (.spillGrant d x)
        (fun s => asks s ∧ firstBuffer g (s.fullEdges h) = some e ∧ Tbl.get? e.1 s.edges = some e.2) (fun s u => u.mem = s.mem ∧
          Tbl.get? e.1 u.edges = some { e.2 with spilling := true, credits := e.2.credits + 4096 } ∧
          u.reg h = some { g with
            spillEdge := some e.1, spillAsked := false, spillPool := false, quiet := 0, spillAt := field x.toNat 53 20 * 2 ^ 20 })) ∧
      Does (.spillRefuse d x) asks (fun s => (s.modRegion h fun g => { g with spillAsked := false }).freezeRegion h
        (s.ctlRecord h g .deadlock (s.silentTile h g))) ∧
      Ends (.preSave d x) (fun s => s.reg h = some g ∧ g.live = true ∧ g.evicting = none) (fun s u => u.mem = s.mem ∧
        u.reg h = some { g with gated := true, still := 0, quiet := 0, evicting := some (d, (s.dieReg d 0xA0).toNat) } ∧
        ∀ t n, s.node? t = some n → u.node? t = some (if n.region = h then { n with gated := true } else n))) ∧
    Does (.preRestore d x) (fun s => s.saveAt (s.preAddr d) = none) (fun s => s.modDie d fun y => { y with preFail := true }) ∧
    (∀ (k : Nat) (a : SaveArea),
      let X := field x.toNat 25 21
      let Y := field x.toNat 20 16
      Does (.preRestore d x) (fun s => s.saveAt (s.preAddr d) = some (k, a) ∧ s.mayRestore a h X Y = true)
        (fun s => (s.modDie d fun y => { y with preFail := false }).restoreIn k d a h X Y) ∧
      Does (.preRestore d x) (fun s => s.saveAt (s.preAddr d) = some (k, a) ∧ s.mayRestore a h X Y = false)
        (fun s => s.modDie d fun y => { y with preFail := true }))

/-- Writes of MMIO registers with an action. Rights entries and copies are dropped; a base takes effect at its target; `hbm.map` is written
unless its lock is set; an invalidation drops its entries, or is held; bits are cleared by writing 1; the power limit is bounded; and an
aligned write of 8 bytes that its target permits reaches its register (R73 to R75, R77, R82, R89, R93, R123, R158, R400, R401, R449 to
R455). A purged RDC line that code pins stays for the code alone, since only IUNPIN, CINV and reset end a pin. That a new base
discards the cached rights, and that act is still taken in the write that sets the lock, is the model's (DEDUCED, log 44). -/
def Obligations.RegisterWriteEvents : Prop :=
  ∀ (d : Nat) (x : Word), d < 4 →
    let same (s u : State) : Prop := u.mem = s.mem ∧ u.nodes = s.nodes
    let reg (o : Nat) (s u : State) (y : Word) : Prop := u.mmioAt 0 o = y ∧ same s u
    let drops (f : State → Nat → Bool) (s u : State) : Prop := same s u ∧ ∀ k, k < 4 → ∀ p ∈ (u.die k).rdc, f s (p.1 * 128) = true →
      p.2.valid = 0 ∧ p.2.code.isSome = true
    let base : Word := x &&& BitVec.ofNat 64 (bits 53 17)
    (∀ t, Ends (.accPurge d t) (fun _ => True) (drops fun s a => s.checksAddr d t a)) ∧
    Ends (.atabPurge d) (fun _ => True) (drops fun s a => targets.any fun t => s.checksAddr d t a) ∧
    (∀ t, Ends (.accInval d t) (fun _ => True) (fun s u =>
      same s u ∧ (u.die d).rights = (s.die d).rights.filter fun p => p.1 / 32768 ≠ t)) ∧
    Ends (.atabInval d) (fun _ => True) (fun s u => same s u ∧ (u.die d).rights = []) ∧
    (∀ t, Ends (.accBaseWrite d t x) (fun _ => okAcc t = true) (fun s u => same s u ∧ u.mmioAt d (accOff t + 128) = base ∧
      (base ≠ 0 → t ∈ (u.die d).switched) ∧ ∀ p ∈ (u.die d).rights, p.1 / 32768 ≠ t)) ∧
    Ends (.atabBaseWrite d x) (fun _ => True) (fun s u => same s u ∧ ∀ t ∈ targets, u.mmioAt d (accOff t + 128) = base) ∧
    (Ends (.hbmMapWrite x) (fun s => (s.mmioAt 0 0x10).getLsbD 1 = false) (fun s u => reg 0x10 s u (x &&& 1)) ∧
      Does (.hbmMapWrite x) (fun s => (s.mmioAt 0 0x10).getLsbD 1 = true) id) ∧
    (∀ c : BitVec 12, Ends (.trRootWrite c x) (fun _ => True) (fun s u =>
      same s u ∧ u.ctxReg c 0 = x &&& BitVec.ofNat 64 (bits 63 63 + bits 53 20))) ∧
    (let inv (e : Instr) (y : Word) : Prop :=
       Ends e (fun s => (s.die d).tlbBusy = true) (fun s u => same s u ∧ (u.die d).tlbHeld = (s.die d).tlbHeld ++ [y]) ∧
       Ends e (fun s => (s.die d).tlbBusy = false) (fun s u => u.mem = s.mem ∧ (u.die d).tlbBusy = true ∧
         (u.die d).tlb = (s.die d).tlb.filter (fun e => !tlbMatch y e.ctx e.va e.size) ∧
         ∀ w ∈ (u.die d).walk, w.ctx ≠ y.extractLsb' 40 12)
     inv (.tlbInvAll d x) (x ||| BitVec.ofNat 64 (2 ^ 63)) ∧ inv (.tlbInvPage d x) (x &&& ~~~BitVec.ofNat 64 (2 ^ 63))) ∧
    (∀ r, r < 3 → Does (.ringEnableWrite d r x) (fun s => (s.die d).fltDefer = [] ∧ (s.die d).pend = [])
      (fun s => s.mmioKeep d (0x10000 + (ringRegs r).1) x)) ∧
    Ends (.evThaw d) (fun _ => True) (fun s u => same s u ∧ (u.die d).evFrozen = false ∧ (u.die d).events = (s.die d).events) ∧
    Ends (.secAlarmSrcClear x) (fun _ => True) (fun s u => reg 0x30 s u (s.mmioAt 0 0x30 &&& ~~~(x &&& 0xF0))) ∧
    (Does (.secAlarmActWrite x) (fun s => (s.mmioAt 0 0x30).getLsbD 3 = true) id ∧
      Ends (.secAlarmActWrite x) (fun s => (s.mmioAt 0 0x30).getLsbD 3 = false ∧ x.toNat % 4 ≠ 3) (fun s u =>
        reg 0x30 s u ((s.mmioAt 0 0x30 &&& 0xF0) ||| (x &&& 8) ||| (x &&& 3)))) ∧
    Ends (.healthTripClear x) (fun _ => True) (fun s u =>
      reg 0x08 s u (s.mmioAt 0 0x08 &&& ~~~(x &&& BitVec.ofNat 64 (2 ^ 40)))) ∧
    Ends (.pwrLimWrite x) (fun _ => True) (fun s u => reg 0x18 s u (BitVec.ofNat 64
      (if x.toNat % 65536 < 1000 then 1000 else if 4000 < x.toNat % 65536 then 4000 else x.toNat % 65536))) ∧
    (∀ c : BitVec 12, Ends (.ctxSatClear c x) (fun _ => x.getLsbD 0 = true) (fun s u =>
      same s u ∧ u.satFlags = s.satFlags.filter fun k => k ≠ c.toNat)) ∧
    (∀ (m : Master) (off k o : Nat) (s s1 : State),
      let die := off / 2 ^ 36 % 4
      let pa := s.global (0x1FC000000000 + off % 2 ^ 38)
      s.home die pa = .mmio k o → s.permit die m pa 2 = (true, s1) → o % 8 = 0 →
      exec (.mmioRegisterWrite m off 8 x) s = .next (s1.mmioWrite k o x))

/-- What hosts, peers and the management port ask. A snoop is answered, after the copies have gone where it invalidates; a permitted read
is answered with the bytes at its homes, and a write of the management port is done; a flit is taken in order, once, if its CRC holds, and served here
or sent on by this module's routes; a request without a response is a link-timeout fault of its node; a reset leaves no node, region or
launch, and the module not ready (R54 to R65, R447, R448, R450, R457). Free words of the host at a line that it owns (log 22), the physical address in
an imprecise record (log 25), what memory a reset keeps and that its first step may fail (log 45), the host as a sharer of what it reads
(log 50) and what a resumption makes again (log 51) are the model's. -/
def Obligations.OutsideEvents : Prop :=
  let same (s u : State) : Prop := u.mem = s.mem ∧ u.nodes = s.nodes
  (∀ line : Nat,
    Ends (.snpData line) (fun s => s.snooped line = true) (fun s u =>
      same s u ∧ u.hostLine line = .s ∧ u.out = s.out ++ [.answer line 0]) ∧
    Does (.snpCur line) (fun s => s.snooped line = true) (fun s => { s with out := s.out ++ [.answer line 0] }) ∧
    (∀ u : State, Does (.snpInv line) (fun s => s.snooped line = true ∧ u = (((s.dropLine (s.global (128 * line) / 128)).setHostLine line
        .m).hand (.answer line 0)).hostWords (s.global (128 * line)) 16 ∧ u.watched (s.global (128 * line)) = false) (fun _ => u))) ∧
  (∀ (s s1 : State) (link off n : Nat) (c : Option (BitVec 12)) (b : List Byte),
    let read (pa : Nat) : Prop := s.homeReadAll (proxyDie link) (hostMaster c) false (pieces pa n (n / 128 + 2)) = (.ok b, s1)
    let told : State := s1.hand (.answer (Sys2Proof.ofBytes b) n)
    s.hostUp link = true → s.mmioBad (proxyDie link) (s.global off) n = false → read (s.global off) →
    (off < 0x1E8000000000 → exec (.hostBarRequest link 2 off c (.read n)) s = .next told) ∧
    (s.hostIsCxl link = true → off < 0x8000000000 ∨ (0x1F8000000000 ≤ off ∧ off < 0x1F8100000000) →
      exec (.hostCxlMemRequest link off c (.read n)) s =
        .next ((pieces off n (n / 128 + 2)).foldl (fun u p => u.hostShares (p.1 / 128)) told))) ∧
  (∀ (port k : Nat) (m : Master) (pa : Nat) (op : ExtOp),
    Does (.peerFlitReceive port k false m pa op) (fun _ => True) id ∧
    Does (.peerFlitReceive port k true m pa op) (fun s => (Tbl.get? port s.peerSeq).getD 0 ≠ k) id ∧
    Does (.peerFlitReceive port k true m pa op)
      (fun s => (Tbl.get? port s.peerSeq).getD 0 = k ∧ (s.mmioAt 0 0x08).getLsbD (16 + port) = false)
      (fun s => let u := { s with peerSeq := s.peerSeq.set port (k + 1) }
        if pa < 2 ^ 60 then u.outside (port / 4 % 4) m (pa % 2 ^ 54) op
        else u.forwardSystem (port / 4 % 4) m (pa / 2 ^ 45 % 2 ^ 15) (pa % 2 ^ 45) op)) ∧
  (∀ (t pa : Nat) (n : Node), Ends (.peerRequestTimeout (.node t) pa false)
    (fun s => s.node? t = some n ∧ n.late = none ∧ pa / 2 ^ 45 ≠ s.dom ∧
      ∀ i ∈ s.agenda, isValueTo t i = false) (fun s u => u.mem = s.mem ∧
      u.node? t = some { n with late := some (n.record s.now .linkTimeout 1 (BitVec.ofNat 64 pa) 0 0, none) })) ∧
  (∀ (s s1 : State) (off : Nat),
    let d := off / 2 ^ 36 % 4
    let pa := s.global (0x1FC000000000 + off % 2 ^ 38)
    (∀ b, off % 8 = 0 → s.homeReadAll d ⟨0, 7⟩ false (pieces pa 8 2) = (.ok b, s1) →
      exec (.mgmtMmioRead off) s = .next (s1.hand (.answer (Sys2Proof.ofBytes b) 8))) ∧
    (∀ x, s.regWrite d ⟨0, 7⟩ pa 8 x = (.ok (), s1) → exec (.mgmtMmioWrite off x) s = .next (s1.hand (.answer 0 0)))) ∧
  (∀ b : Byte, Does (.mctpControlMessage b) (fun _ => True) (fun s => { s with out := s.out ++ [.mctp b] })) ∧
  (let fresh (e : Instr) : Prop := Ends e (fun _ => True) (fun s u => u.nodes = [] ∧ u.mts = [] ∧ u.regions = [] ∧ u.launches = [] ∧
    u.edges = [] ∧ u.agenda = [] ∧ u.clocksStopped = false ∧ u.bringUp.isSome = true ∧
    u.mmioAt 0 0x08 = s.mmioAt 0 0x08 &&& BitVec.ofNat 64 (2 ^ 40) ∧ u.mem = s.mem.filter fun c => keptMem c.1)
   fresh .reset ∧ fresh .modReset)

/-- Errors, clocks and failures. A failed port or die, a link or port that goes down, marks `mod.health`; an exchange sets the tick forward
before the first lock, and never after it; a poisoned line holds 16 words; a droop lengthens a cycle within its budget; over the limit
every elastic patch steps down; a trip stops every clock; an alarm sets its source (R61, R67, R68, R80, R126, R369, R398, R401, R454 to
R456). That a lock that was lost counts as a first one had is the model's (log 52), as is the budget over the last 1,024 cycles of a patch
that runs at its own rate (log 53). -/
def Obligations.FailureEvents : Prop :=
  let health (s u : State) (bits : Nat) : Prop := u.mmioAt 0 0x08 = s.mmioAt 0 0x08 ||| BitVec.ofNat 64 bits ∧ u.mem = s.mem
  (∀ p, p < 8 → Ends (.t2PortFailure p) (fun _ => True) (fun s u => health s u (2 ^ (32 + p) + 2 ^ 4) ∧
    ∀ q ∈ (u.die (p / 2)).l2, 128 * q.1 < 0x8000000000 ∨ 0x1E8000000000 ≤ 128 * q.1 ∨ portOf (128 * q.1) ≠ p)) ∧
  (∀ p, p < 16 → Ends (.peerPortDown p) (fun _ => True) (fun s u => health s u (2 ^ (16 + p)))) ∧
  (∀ l, l < 2 → Ends (.hostLinkDown l) (fun _ => True) (fun s u =>
    u.mmioAt 0 0x08 = s.mmioAt 0 0x08 &&& ~~~BitVec.ofNat 64 (2 ^ (14 + l)) ∧ u.mem = s.mem)) ∧
  (∀ x : Word,
    Does (.chainSyncExchange x) (fun s => s.locked = false ∧ s.sinceSync = 0)
      (fun s => { s with now := if s.now.toNat < x.toNat then x else s.now, locked := true, sinceSync := 0 }) ∧
    Does (.chainSyncExchange x) (fun s => s.locked = true) (fun s => { s with sinceSync := 0 }) ∧
    Does (.chainSyncExchange x) (fun s => s.locked = false ∧ 0 < s.sinceSync) (fun s => { s with locked := true, sinceSync := 0 })) ∧
  Ends .chainSyncLoss (fun s => s.locked = true ∧ 10000000 ≤ s.sinceSync) (fun s u => u.locked = false ∧ u.now = s.now ∧ u.mem = s.mem) ∧
  (∀ k, Ends (.uncorrectableError (.memory k)) (fun _ => True) (fun s u => u.mem = s.mem ∧
    ∀ w, w ∈ u.poison ↔ (w ∈ s.poison ∨ w / 16 = k / 128))) ∧
  (∀ (d p e : Nat), Ends (.droopStretch d p e)
    (fun s => d < 4 ∧ 1 ≤ e ∧ e ≤ 4 ∧ ((s.die d).patch p).pinned = 0 ∧ ((s.die d).patch p).stretched = false ∧
      ((s.die d).patch p).used + e ≤ 2048)
    (fun s u => let x := (s.die d).patch p
      (u.die d).patch p = { x with recent := (0, e) :: x.recent, count := x.count + 1 } ∧ (u.die d).stretches = (s.die d).stretches + (if e < 3 then 1 else 0) ∧
      u.mem = s.mem)) ∧
  (∀ (watts celsius : Nat), Ends (.powerCeilingAdjust watts celsius) (fun s => (s.mmioAt 0 0x18).toNat < watts ∨ 100 < celsius)
    (fun s u => u.mmioAt 0 0x20 = BitVec.ofNat 64 (watts % 65536) ∧ u.mmioAt 0 0x28 = BitVec.ofNat 64 (celsius % 256) ∧ u.mem = s.mem ∧
      (110 ≤ celsius → u.clocksStopped = true) ∧ ∀ d p, d < 4 → p < 64 → ((s.die d).patch p).pinned = 0 →
        ((u.die d).patch p).below = Nat.min 7 (((s.die d).patch p).below + 1))) ∧
  Ends .thermalTrip (fun _ => True) (fun s u => health s u (2 ^ 40) ∧ u.clocksStopped = true ∧ ∀ d, d < 4 → (u.die d).evFrozen = true) ∧
  (∀ d, d < 4 → Ends (.dieFailure d)
    (fun s => s.dieDead d = false ∧ ∀ p ∈ s.regions, ∀ t ∈ p.2.elems, dieOf t ≠ d)
    (fun s u => health s u (2 ^ d + 2 ^ 4) ∧ u.nodes = s.nodes ∧
      ∀ k, k < 4 → ∀ q ∈ (u.die k).rdc, ∀ sl, s.home 0 (q.1 * 128) = .slice d sl →
        q.2.valid = 0 ∧ q.2.code.isSome = true)) ∧
  (let alarmed (e : Instr) (bit : Nat) : Prop := Ends e (fun s => (s.mmioAt 0 0x30).toNat % 4 = 0)
     (fun s u => u.mmioAt 0 0x30 = s.mmioAt 0 0x30 ||| BitVec.ofNat 64 (2 ^ bit) ∧ u.mem = s.mem)
   alarmed (.securityAlarm .tamper) 7 ∧ alarmed (.securityAlarm .glitch) 6 ∧ alarmed (.securityAlarm .privRefusal) 5 ∧
   Ends (.securityAlarm .debugUnlock) (fun s => 2 ≤ s.debugFails ∧ (s.mmioAt 0 0x30).toNat % 4 = 0)
     (fun s u => u.mmioAt 0 0x30 = s.mmioAt 0 0x30 ||| BitVec.ofNat 64 (2 ^ 4) ∧ u.debugFails = 0 ∧ u.mem = s.mem) ∧
   Does (.securityAlarm .debugUnlock) (fun s => s.debugFails < 2) (fun s => { s with debugFails := s.debugFails + 1 }) ∧
   Does (.securityAlarm .debugUnlocked) (fun _ => True) (fun s => { s with debugFails := 0 }))
end

