-- ==== Sys2Proof/Laws/State.lean ====
section
/-! SUPPORT. One lemma per field of State per update: what an update leaves as it was. -/

namespace Sys2Proof.Machine

@[simp] theorem State.setNode_mem (s : State) (t : Nat) (n : Node) : (s.setNode t n).mem = s.mem := rfl
@[simp] theorem State.setNode_poison (s : State) (t : Nat) (n : Node) : (s.setNode t n).poison = s.poison := rfl
@[simp] theorem State.setNode_mmio (s : State) (t : Nat) (n : Node) : (s.setNode t n).mmio = s.mmio := rfl
@[simp] theorem State.setNode_now (s : State) (t : Nat) (n : Node) : (s.setNode t n).now = s.now := rfl
@[simp] theorem State.setNode_locked (s : State) (t : Nat) (n : Node) : (s.setNode t n).locked = s.locked := rfl
@[simp] theorem State.setNode_sinceSync (s : State) (t : Nat) (n : Node) : (s.setNode t n).sinceSync = s.sinceSync := rfl
@[simp] theorem State.setNode_clocksStopped (s : State) (t : Nat) (n : Node) : (s.setNode t n).clocksStopped = s.clocksStopped := rfl
@[simp] theorem State.setNode_keysErased (s : State) (t : Nat) (n : Node) : (s.setNode t n).keysErased = s.keysErased := rfl
@[simp] theorem State.setNode_debugFails (s : State) (t : Nat) (n : Node) : (s.setNode t n).debugFails = s.debugFails := rfl
@[simp] theorem State.setNode_hostCxl (s : State) (t : Nat) (n : Node) : (s.setNode t n).hostCxl = s.hostCxl := rfl
@[simp] theorem State.setNode_hostLines (s : State) (t : Nat) (n : Node) : (s.setNode t n).hostLines = s.hostLines := rfl
@[simp] theorem State.setNode_peerSeq (s : State) (t : Nat) (n : Node) : (s.setNode t n).peerSeq = s.peerSeq := rfl
@[simp] theorem State.setNode_satFlags (s : State) (t : Nat) (n : Node) : (s.setNode t n).satFlags = s.satFlags := rfl
@[simp] theorem State.setNode_mts (s : State) (t : Nat) (n : Node) : (s.setNode t n).mts = s.mts := rfl
@[simp] theorem State.setNode_ports (s : State) (t : Nat) (n : Node) : (s.setNode t n).ports = s.ports := rfl
@[simp] theorem State.setNode_edges (s : State) (t : Nat) (n : Node) : (s.setNode t n).edges = s.edges := rfl
@[simp] theorem State.setNode_bounds (s : State) (t : Nat) (n : Node) : (s.setNode t n).bounds = s.bounds := rfl
@[simp] theorem State.setNode_tbars (s : State) (t : Nat) (n : Node) : (s.setNode t n).tbars = s.tbars := rfl
@[simp] theorem State.setNode_regions (s : State) (t : Nat) (n : Node) : (s.setNode t n).regions = s.regions := rfl
@[simp] theorem State.setNode_launches (s : State) (t : Nat) (n : Node) : (s.setNode t n).launches = s.launches := rfl
@[simp] theorem State.setNode_saves (s : State) (t : Nat) (n : Node) : (s.setNode t n).saves = s.saves := rfl
@[simp] theorem State.setNode_ctxRun (s : State) (t : Nat) (n : Node) : (s.setNode t n).ctxRun = s.ctxRun := rfl
@[simp] theorem State.setNode_bringUp (s : State) (t : Nat) (n : Node) : (s.setNode t n).bringUp = s.bringUp := rfl
@[simp] theorem State.setNode_peerOrder (s : State) (t : Nat) (n : Node) : (s.setNode t n).peerOrder = s.peerOrder := rfl
@[simp] theorem State.setNode_dies (s : State) (t : Nat) (n : Node) : (s.setNode t n).dies = s.dies := rfl
@[simp] theorem State.setNode_nextId (s : State) (t : Nat) (n : Node) : (s.setNode t n).nextId = s.nextId := rfl
@[simp] theorem State.setNode_useTick (s : State) (t : Nat) (n : Node) : (s.setNode t n).useTick = s.useTick := rfl
@[simp] theorem State.setNode_floorMs (s : State) (t : Nat) (n : Node) : (s.setNode t n).floorMs = s.floorMs := rfl
@[simp] theorem State.setNode_out (s : State) (t : Nat) (n : Node) : (s.setNode t n).out = s.out := rfl
@[simp] theorem State.setNode_focus (s : State) (t : Nat) (n : Node) : (s.setNode t n).focus = s.focus := rfl
@[simp] theorem State.setNode_agenda (s : State) (t : Nat) (n : Node) : (s.setNode t n).agenda = s.agenda := rfl
@[simp] theorem State.setNode_free (s : State) (t : Nat) (n : Node) : (s.setNode t n).free = s.free := rfl

@[simp] theorem State.putHere_mem (s : State) (n : Node) : (s.putHere n).mem = s.mem := rfl
@[simp] theorem State.putHere_poison (s : State) (n : Node) : (s.putHere n).poison = s.poison := rfl
@[simp] theorem State.putHere_mmio (s : State) (n : Node) : (s.putHere n).mmio = s.mmio := rfl
@[simp] theorem State.putHere_now (s : State) (n : Node) : (s.putHere n).now = s.now := rfl
@[simp] theorem State.putHere_locked (s : State) (n : Node) : (s.putHere n).locked = s.locked := rfl
@[simp] theorem State.putHere_sinceSync (s : State) (n : Node) : (s.putHere n).sinceSync = s.sinceSync := rfl
@[simp] theorem State.putHere_clocksStopped (s : State) (n : Node) : (s.putHere n).clocksStopped = s.clocksStopped := rfl
@[simp] theorem State.putHere_keysErased (s : State) (n : Node) : (s.putHere n).keysErased = s.keysErased := rfl
@[simp] theorem State.putHere_debugFails (s : State) (n : Node) : (s.putHere n).debugFails = s.debugFails := rfl
@[simp] theorem State.putHere_hostCxl (s : State) (n : Node) : (s.putHere n).hostCxl = s.hostCxl := rfl
@[simp] theorem State.putHere_hostLines (s : State) (n : Node) : (s.putHere n).hostLines = s.hostLines := rfl
@[simp] theorem State.putHere_peerSeq (s : State) (n : Node) : (s.putHere n).peerSeq = s.peerSeq := rfl
@[simp] theorem State.putHere_satFlags (s : State) (n : Node) : (s.putHere n).satFlags = s.satFlags := rfl
@[simp] theorem State.putHere_mts (s : State) (n : Node) : (s.putHere n).mts = s.mts := rfl
@[simp] theorem State.putHere_ports (s : State) (n : Node) : (s.putHere n).ports = s.ports := rfl
@[simp] theorem State.putHere_edges (s : State) (n : Node) : (s.putHere n).edges = s.edges := rfl
@[simp] theorem State.putHere_bounds (s : State) (n : Node) : (s.putHere n).bounds = s.bounds := rfl
@[simp] theorem State.putHere_tbars (s : State) (n : Node) : (s.putHere n).tbars = s.tbars := rfl
@[simp] theorem State.putHere_regions (s : State) (n : Node) : (s.putHere n).regions = s.regions := rfl
@[simp] theorem State.putHere_launches (s : State) (n : Node) : (s.putHere n).launches = s.launches := rfl
@[simp] theorem State.putHere_saves (s : State) (n : Node) : (s.putHere n).saves = s.saves := rfl
@[simp] theorem State.putHere_ctxRun (s : State) (n : Node) : (s.putHere n).ctxRun = s.ctxRun := rfl
@[simp] theorem State.putHere_bringUp (s : State) (n : Node) : (s.putHere n).bringUp = s.bringUp := rfl
@[simp] theorem State.putHere_peerOrder (s : State) (n : Node) : (s.putHere n).peerOrder = s.peerOrder := rfl
@[simp] theorem State.putHere_dies (s : State) (n : Node) : (s.putHere n).dies = s.dies := rfl
@[simp] theorem State.putHere_nextId (s : State) (n : Node) : (s.putHere n).nextId = s.nextId := rfl
@[simp] theorem State.putHere_useTick (s : State) (n : Node) : (s.putHere n).useTick = s.useTick := rfl
@[simp] theorem State.putHere_floorMs (s : State) (n : Node) : (s.putHere n).floorMs = s.floorMs := rfl
@[simp] theorem State.putHere_out (s : State) (n : Node) : (s.putHere n).out = s.out := rfl
@[simp] theorem State.putHere_focus (s : State) (n : Node) : (s.putHere n).focus = s.focus := rfl
@[simp] theorem State.putHere_agenda (s : State) (n : Node) : (s.putHere n).agenda = s.agenda := rfl
@[simp] theorem State.putHere_free (s : State) (n : Node) : (s.putHere n).free = s.free := rfl

@[simp] theorem State.modNode_mem (s : State) (t : Nat) (f : Node → Node) : (s.modNode t f).mem = s.mem := rfl
@[simp] theorem State.modNode_poison (s : State) (t : Nat) (f : Node → Node) : (s.modNode t f).poison = s.poison := rfl
@[simp] theorem State.modNode_mmio (s : State) (t : Nat) (f : Node → Node) : (s.modNode t f).mmio = s.mmio := rfl
@[simp] theorem State.modNode_now (s : State) (t : Nat) (f : Node → Node) : (s.modNode t f).now = s.now := rfl
@[simp] theorem State.modNode_locked (s : State) (t : Nat) (f : Node → Node) : (s.modNode t f).locked = s.locked := rfl
@[simp] theorem State.modNode_sinceSync (s : State) (t : Nat) (f : Node → Node) : (s.modNode t f).sinceSync = s.sinceSync := rfl
@[simp] theorem State.modNode_clocksStopped (s : State) (t : Nat) (f : Node → Node) : (s.modNode t f).clocksStopped = s.clocksStopped := rfl
@[simp] theorem State.modNode_keysErased (s : State) (t : Nat) (f : Node → Node) : (s.modNode t f).keysErased = s.keysErased := rfl
@[simp] theorem State.modNode_debugFails (s : State) (t : Nat) (f : Node → Node) : (s.modNode t f).debugFails = s.debugFails := rfl
@[simp] theorem State.modNode_hostCxl (s : State) (t : Nat) (f : Node → Node) : (s.modNode t f).hostCxl = s.hostCxl := rfl
@[simp] theorem State.modNode_hostLines (s : State) (t : Nat) (f : Node → Node) : (s.modNode t f).hostLines = s.hostLines := rfl
@[simp] theorem State.modNode_peerSeq (s : State) (t : Nat) (f : Node → Node) : (s.modNode t f).peerSeq = s.peerSeq := rfl
@[simp] theorem State.modNode_satFlags (s : State) (t : Nat) (f : Node → Node) : (s.modNode t f).satFlags = s.satFlags := rfl
@[simp] theorem State.modNode_mts (s : State) (t : Nat) (f : Node → Node) : (s.modNode t f).mts = s.mts := rfl
@[simp] theorem State.modNode_ports (s : State) (t : Nat) (f : Node → Node) : (s.modNode t f).ports = s.ports := rfl
@[simp] theorem State.modNode_edges (s : State) (t : Nat) (f : Node → Node) : (s.modNode t f).edges = s.edges := rfl
@[simp] theorem State.modNode_bounds (s : State) (t : Nat) (f : Node → Node) : (s.modNode t f).bounds = s.bounds := rfl
@[simp] theorem State.modNode_tbars (s : State) (t : Nat) (f : Node → Node) : (s.modNode t f).tbars = s.tbars := rfl
@[simp] theorem State.modNode_regions (s : State) (t : Nat) (f : Node → Node) : (s.modNode t f).regions = s.regions := rfl
@[simp] theorem State.modNode_launches (s : State) (t : Nat) (f : Node → Node) : (s.modNode t f).launches = s.launches := rfl
@[simp] theorem State.modNode_saves (s : State) (t : Nat) (f : Node → Node) : (s.modNode t f).saves = s.saves := rfl
@[simp] theorem State.modNode_ctxRun (s : State) (t : Nat) (f : Node → Node) : (s.modNode t f).ctxRun = s.ctxRun := rfl
@[simp] theorem State.modNode_bringUp (s : State) (t : Nat) (f : Node → Node) : (s.modNode t f).bringUp = s.bringUp := rfl
@[simp] theorem State.modNode_peerOrder (s : State) (t : Nat) (f : Node → Node) : (s.modNode t f).peerOrder = s.peerOrder := rfl
@[simp] theorem State.modNode_dies (s : State) (t : Nat) (f : Node → Node) : (s.modNode t f).dies = s.dies := rfl
@[simp] theorem State.modNode_nextId (s : State) (t : Nat) (f : Node → Node) : (s.modNode t f).nextId = s.nextId := rfl
@[simp] theorem State.modNode_useTick (s : State) (t : Nat) (f : Node → Node) : (s.modNode t f).useTick = s.useTick := rfl
@[simp] theorem State.modNode_floorMs (s : State) (t : Nat) (f : Node → Node) : (s.modNode t f).floorMs = s.floorMs := rfl
@[simp] theorem State.modNode_out (s : State) (t : Nat) (f : Node → Node) : (s.modNode t f).out = s.out := rfl
@[simp] theorem State.modNode_focus (s : State) (t : Nat) (f : Node → Node) : (s.modNode t f).focus = s.focus := rfl
@[simp] theorem State.modNode_agenda (s : State) (t : Nat) (f : Node → Node) : (s.modNode t f).agenda = s.agenda := rfl
@[simp] theorem State.modNode_free (s : State) (t : Nat) (f : Node → Node) : (s.modNode t f).free = s.free := rfl

@[simp] theorem State.setDie_mem (s : State) (d : Nat) (x : Die) : (s.setDie d x).mem = s.mem := rfl
@[simp] theorem State.setDie_poison (s : State) (d : Nat) (x : Die) : (s.setDie d x).poison = s.poison := rfl
@[simp] theorem State.setDie_mmio (s : State) (d : Nat) (x : Die) : (s.setDie d x).mmio = s.mmio := rfl
@[simp] theorem State.setDie_now (s : State) (d : Nat) (x : Die) : (s.setDie d x).now = s.now := rfl
@[simp] theorem State.setDie_locked (s : State) (d : Nat) (x : Die) : (s.setDie d x).locked = s.locked := rfl
@[simp] theorem State.setDie_sinceSync (s : State) (d : Nat) (x : Die) : (s.setDie d x).sinceSync = s.sinceSync := rfl
@[simp] theorem State.setDie_clocksStopped (s : State) (d : Nat) (x : Die) : (s.setDie d x).clocksStopped = s.clocksStopped := rfl
@[simp] theorem State.setDie_keysErased (s : State) (d : Nat) (x : Die) : (s.setDie d x).keysErased = s.keysErased := rfl
@[simp] theorem State.setDie_debugFails (s : State) (d : Nat) (x : Die) : (s.setDie d x).debugFails = s.debugFails := rfl
@[simp] theorem State.setDie_hostCxl (s : State) (d : Nat) (x : Die) : (s.setDie d x).hostCxl = s.hostCxl := rfl
@[simp] theorem State.setDie_hostLines (s : State) (d : Nat) (x : Die) : (s.setDie d x).hostLines = s.hostLines := rfl
@[simp] theorem State.setDie_peerSeq (s : State) (d : Nat) (x : Die) : (s.setDie d x).peerSeq = s.peerSeq := rfl
@[simp] theorem State.setDie_satFlags (s : State) (d : Nat) (x : Die) : (s.setDie d x).satFlags = s.satFlags := rfl
@[simp] theorem State.setDie_nodes (s : State) (d : Nat) (x : Die) : (s.setDie d x).nodes = s.nodes := rfl
@[simp] theorem State.setDie_mts (s : State) (d : Nat) (x : Die) : (s.setDie d x).mts = s.mts := rfl
@[simp] theorem State.setDie_ports (s : State) (d : Nat) (x : Die) : (s.setDie d x).ports = s.ports := rfl
@[simp] theorem State.setDie_edges (s : State) (d : Nat) (x : Die) : (s.setDie d x).edges = s.edges := rfl
@[simp] theorem State.setDie_bounds (s : State) (d : Nat) (x : Die) : (s.setDie d x).bounds = s.bounds := rfl
@[simp] theorem State.setDie_tbars (s : State) (d : Nat) (x : Die) : (s.setDie d x).tbars = s.tbars := rfl
@[simp] theorem State.setDie_regions (s : State) (d : Nat) (x : Die) : (s.setDie d x).regions = s.regions := rfl
@[simp] theorem State.setDie_launches (s : State) (d : Nat) (x : Die) : (s.setDie d x).launches = s.launches := rfl
@[simp] theorem State.setDie_saves (s : State) (d : Nat) (x : Die) : (s.setDie d x).saves = s.saves := rfl
@[simp] theorem State.setDie_ctxRun (s : State) (d : Nat) (x : Die) : (s.setDie d x).ctxRun = s.ctxRun := rfl
@[simp] theorem State.setDie_bringUp (s : State) (d : Nat) (x : Die) : (s.setDie d x).bringUp = s.bringUp := rfl
@[simp] theorem State.setDie_peerOrder (s : State) (d : Nat) (x : Die) : (s.setDie d x).peerOrder = s.peerOrder := rfl
@[simp] theorem State.setDie_nextId (s : State) (d : Nat) (x : Die) : (s.setDie d x).nextId = s.nextId := rfl
@[simp] theorem State.setDie_useTick (s : State) (d : Nat) (x : Die) : (s.setDie d x).useTick = s.useTick := rfl
@[simp] theorem State.setDie_floorMs (s : State) (d : Nat) (x : Die) : (s.setDie d x).floorMs = s.floorMs := rfl
@[simp] theorem State.setDie_out (s : State) (d : Nat) (x : Die) : (s.setDie d x).out = s.out := rfl
@[simp] theorem State.setDie_focus (s : State) (d : Nat) (x : Die) : (s.setDie d x).focus = s.focus := rfl
@[simp] theorem State.setDie_agenda (s : State) (d : Nat) (x : Die) : (s.setDie d x).agenda = s.agenda := rfl
@[simp] theorem State.setDie_free (s : State) (d : Nat) (x : Die) : (s.setDie d x).free = s.free := rfl

@[simp] theorem State.modDie_mem (s : State) (d : Nat) (f : Die → Die) : (s.modDie d f).mem = s.mem := rfl
@[simp] theorem State.modDie_poison (s : State) (d : Nat) (f : Die → Die) : (s.modDie d f).poison = s.poison := rfl
@[simp] theorem State.modDie_mmio (s : State) (d : Nat) (f : Die → Die) : (s.modDie d f).mmio = s.mmio := rfl
@[simp] theorem State.modDie_now (s : State) (d : Nat) (f : Die → Die) : (s.modDie d f).now = s.now := rfl
@[simp] theorem State.modDie_locked (s : State) (d : Nat) (f : Die → Die) : (s.modDie d f).locked = s.locked := rfl
@[simp] theorem State.modDie_sinceSync (s : State) (d : Nat) (f : Die → Die) : (s.modDie d f).sinceSync = s.sinceSync := rfl
@[simp] theorem State.modDie_clocksStopped (s : State) (d : Nat) (f : Die → Die) : (s.modDie d f).clocksStopped = s.clocksStopped := rfl
@[simp] theorem State.modDie_keysErased (s : State) (d : Nat) (f : Die → Die) : (s.modDie d f).keysErased = s.keysErased := rfl
@[simp] theorem State.modDie_debugFails (s : State) (d : Nat) (f : Die → Die) : (s.modDie d f).debugFails = s.debugFails := rfl
@[simp] theorem State.modDie_hostCxl (s : State) (d : Nat) (f : Die → Die) : (s.modDie d f).hostCxl = s.hostCxl := rfl
@[simp] theorem State.modDie_hostLines (s : State) (d : Nat) (f : Die → Die) : (s.modDie d f).hostLines = s.hostLines := rfl
@[simp] theorem State.modDie_peerSeq (s : State) (d : Nat) (f : Die → Die) : (s.modDie d f).peerSeq = s.peerSeq := rfl
@[simp] theorem State.modDie_satFlags (s : State) (d : Nat) (f : Die → Die) : (s.modDie d f).satFlags = s.satFlags := rfl
@[simp] theorem State.modDie_nodes (s : State) (d : Nat) (f : Die → Die) : (s.modDie d f).nodes = s.nodes := rfl
@[simp] theorem State.modDie_mts (s : State) (d : Nat) (f : Die → Die) : (s.modDie d f).mts = s.mts := rfl
@[simp] theorem State.modDie_ports (s : State) (d : Nat) (f : Die → Die) : (s.modDie d f).ports = s.ports := rfl
@[simp] theorem State.modDie_edges (s : State) (d : Nat) (f : Die → Die) : (s.modDie d f).edges = s.edges := rfl
@[simp] theorem State.modDie_bounds (s : State) (d : Nat) (f : Die → Die) : (s.modDie d f).bounds = s.bounds := rfl
@[simp] theorem State.modDie_tbars (s : State) (d : Nat) (f : Die → Die) : (s.modDie d f).tbars = s.tbars := rfl
@[simp] theorem State.modDie_regions (s : State) (d : Nat) (f : Die → Die) : (s.modDie d f).regions = s.regions := rfl
@[simp] theorem State.modDie_launches (s : State) (d : Nat) (f : Die → Die) : (s.modDie d f).launches = s.launches := rfl
@[simp] theorem State.modDie_saves (s : State) (d : Nat) (f : Die → Die) : (s.modDie d f).saves = s.saves := rfl
@[simp] theorem State.modDie_ctxRun (s : State) (d : Nat) (f : Die → Die) : (s.modDie d f).ctxRun = s.ctxRun := rfl
@[simp] theorem State.modDie_bringUp (s : State) (d : Nat) (f : Die → Die) : (s.modDie d f).bringUp = s.bringUp := rfl
@[simp] theorem State.modDie_peerOrder (s : State) (d : Nat) (f : Die → Die) : (s.modDie d f).peerOrder = s.peerOrder := rfl
@[simp] theorem State.modDie_nextId (s : State) (d : Nat) (f : Die → Die) : (s.modDie d f).nextId = s.nextId := rfl
@[simp] theorem State.modDie_useTick (s : State) (d : Nat) (f : Die → Die) : (s.modDie d f).useTick = s.useTick := rfl
@[simp] theorem State.modDie_floorMs (s : State) (d : Nat) (f : Die → Die) : (s.modDie d f).floorMs = s.floorMs := rfl
@[simp] theorem State.modDie_out (s : State) (d : Nat) (f : Die → Die) : (s.modDie d f).out = s.out := rfl
@[simp] theorem State.modDie_focus (s : State) (d : Nat) (f : Die → Die) : (s.modDie d f).focus = s.focus := rfl
@[simp] theorem State.modDie_agenda (s : State) (d : Nat) (f : Die → Die) : (s.modDie d f).agenda = s.agenda := rfl
@[simp] theorem State.modDie_free (s : State) (d : Nat) (f : Die → Die) : (s.modDie d f).free = s.free := rfl

@[simp] theorem State.modRegion_mem (s : State) (h : Nat) (f : Region → Region) : (s.modRegion h f).mem = s.mem := rfl
@[simp] theorem State.modRegion_poison (s : State) (h : Nat) (f : Region → Region) : (s.modRegion h f).poison = s.poison := rfl
@[simp] theorem State.modRegion_mmio (s : State) (h : Nat) (f : Region → Region) : (s.modRegion h f).mmio = s.mmio := rfl
@[simp] theorem State.modRegion_now (s : State) (h : Nat) (f : Region → Region) : (s.modRegion h f).now = s.now := rfl
@[simp] theorem State.modRegion_locked (s : State) (h : Nat) (f : Region → Region) : (s.modRegion h f).locked = s.locked := rfl
@[simp] theorem State.modRegion_sinceSync (s : State) (h : Nat) (f : Region → Region) : (s.modRegion h f).sinceSync = s.sinceSync := rfl
@[simp] theorem State.modRegion_clocksStopped (s : State) (h : Nat) (f : Region → Region) : (s.modRegion h f).clocksStopped = s.clocksStopped := rfl
@[simp] theorem State.modRegion_keysErased (s : State) (h : Nat) (f : Region → Region) : (s.modRegion h f).keysErased = s.keysErased := rfl
@[simp] theorem State.modRegion_debugFails (s : State) (h : Nat) (f : Region → Region) : (s.modRegion h f).debugFails = s.debugFails := rfl
@[simp] theorem State.modRegion_hostCxl (s : State) (h : Nat) (f : Region → Region) : (s.modRegion h f).hostCxl = s.hostCxl := rfl
@[simp] theorem State.modRegion_hostLines (s : State) (h : Nat) (f : Region → Region) : (s.modRegion h f).hostLines = s.hostLines := rfl
@[simp] theorem State.modRegion_peerSeq (s : State) (h : Nat) (f : Region → Region) : (s.modRegion h f).peerSeq = s.peerSeq := rfl
@[simp] theorem State.modRegion_satFlags (s : State) (h : Nat) (f : Region → Region) : (s.modRegion h f).satFlags = s.satFlags := rfl
@[simp] theorem State.modRegion_nodes (s : State) (h : Nat) (f : Region → Region) : (s.modRegion h f).nodes = s.nodes := rfl
@[simp] theorem State.modRegion_mts (s : State) (h : Nat) (f : Region → Region) : (s.modRegion h f).mts = s.mts := rfl
@[simp] theorem State.modRegion_ports (s : State) (h : Nat) (f : Region → Region) : (s.modRegion h f).ports = s.ports := rfl
@[simp] theorem State.modRegion_edges (s : State) (h : Nat) (f : Region → Region) : (s.modRegion h f).edges = s.edges := rfl
@[simp] theorem State.modRegion_bounds (s : State) (h : Nat) (f : Region → Region) : (s.modRegion h f).bounds = s.bounds := rfl
@[simp] theorem State.modRegion_tbars (s : State) (h : Nat) (f : Region → Region) : (s.modRegion h f).tbars = s.tbars := rfl
@[simp] theorem State.modRegion_launches (s : State) (h : Nat) (f : Region → Region) : (s.modRegion h f).launches = s.launches := rfl
@[simp] theorem State.modRegion_saves (s : State) (h : Nat) (f : Region → Region) : (s.modRegion h f).saves = s.saves := rfl
@[simp] theorem State.modRegion_ctxRun (s : State) (h : Nat) (f : Region → Region) : (s.modRegion h f).ctxRun = s.ctxRun := rfl
@[simp] theorem State.modRegion_bringUp (s : State) (h : Nat) (f : Region → Region) : (s.modRegion h f).bringUp = s.bringUp := rfl
@[simp] theorem State.modRegion_peerOrder (s : State) (h : Nat) (f : Region → Region) : (s.modRegion h f).peerOrder = s.peerOrder := rfl
@[simp] theorem State.modRegion_dies (s : State) (h : Nat) (f : Region → Region) : (s.modRegion h f).dies = s.dies := rfl
@[simp] theorem State.modRegion_nextId (s : State) (h : Nat) (f : Region → Region) : (s.modRegion h f).nextId = s.nextId := rfl
@[simp] theorem State.modRegion_useTick (s : State) (h : Nat) (f : Region → Region) : (s.modRegion h f).useTick = s.useTick := rfl
@[simp] theorem State.modRegion_floorMs (s : State) (h : Nat) (f : Region → Region) : (s.modRegion h f).floorMs = s.floorMs := rfl
@[simp] theorem State.modRegion_out (s : State) (h : Nat) (f : Region → Region) : (s.modRegion h f).out = s.out := rfl
@[simp] theorem State.modRegion_focus (s : State) (h : Nat) (f : Region → Region) : (s.modRegion h f).focus = s.focus := rfl
@[simp] theorem State.modRegion_agenda (s : State) (h : Nat) (f : Region → Region) : (s.modRegion h f).agenda = s.agenda := rfl
@[simp] theorem State.modRegion_free (s : State) (h : Nat) (f : Region → Region) : (s.modRegion h f).free = s.free := rfl

@[simp] theorem State.post_mem (s : State) (i : Instr) : (s.post i).mem = s.mem := rfl
@[simp] theorem State.post_poison (s : State) (i : Instr) : (s.post i).poison = s.poison := rfl
@[simp] theorem State.post_mmio (s : State) (i : Instr) : (s.post i).mmio = s.mmio := rfl
@[simp] theorem State.post_now (s : State) (i : Instr) : (s.post i).now = s.now := rfl
@[simp] theorem State.post_locked (s : State) (i : Instr) : (s.post i).locked = s.locked := rfl
@[simp] theorem State.post_sinceSync (s : State) (i : Instr) : (s.post i).sinceSync = s.sinceSync := rfl
@[simp] theorem State.post_clocksStopped (s : State) (i : Instr) : (s.post i).clocksStopped = s.clocksStopped := rfl
@[simp] theorem State.post_keysErased (s : State) (i : Instr) : (s.post i).keysErased = s.keysErased := rfl
@[simp] theorem State.post_debugFails (s : State) (i : Instr) : (s.post i).debugFails = s.debugFails := rfl
@[simp] theorem State.post_hostCxl (s : State) (i : Instr) : (s.post i).hostCxl = s.hostCxl := rfl
@[simp] theorem State.post_hostLines (s : State) (i : Instr) : (s.post i).hostLines = s.hostLines := rfl
@[simp] theorem State.post_peerSeq (s : State) (i : Instr) : (s.post i).peerSeq = s.peerSeq := rfl
@[simp] theorem State.post_satFlags (s : State) (i : Instr) : (s.post i).satFlags = s.satFlags := rfl
@[simp] theorem State.post_nodes (s : State) (i : Instr) : (s.post i).nodes = s.nodes := rfl
@[simp] theorem State.post_mts (s : State) (i : Instr) : (s.post i).mts = s.mts := rfl
@[simp] theorem State.post_ports (s : State) (i : Instr) : (s.post i).ports = s.ports := rfl
@[simp] theorem State.post_edges (s : State) (i : Instr) : (s.post i).edges = s.edges := rfl
@[simp] theorem State.post_bounds (s : State) (i : Instr) : (s.post i).bounds = s.bounds := rfl
@[simp] theorem State.post_tbars (s : State) (i : Instr) : (s.post i).tbars = s.tbars := rfl
@[simp] theorem State.post_regions (s : State) (i : Instr) : (s.post i).regions = s.regions := rfl
@[simp] theorem State.post_launches (s : State) (i : Instr) : (s.post i).launches = s.launches := rfl
@[simp] theorem State.post_saves (s : State) (i : Instr) : (s.post i).saves = s.saves := rfl
@[simp] theorem State.post_ctxRun (s : State) (i : Instr) : (s.post i).ctxRun = s.ctxRun := rfl
@[simp] theorem State.post_bringUp (s : State) (i : Instr) : (s.post i).bringUp = s.bringUp := rfl
@[simp] theorem State.post_peerOrder (s : State) (i : Instr) : (s.post i).peerOrder = s.peerOrder := rfl
@[simp] theorem State.post_dies (s : State) (i : Instr) : (s.post i).dies = s.dies := rfl
@[simp] theorem State.post_nextId (s : State) (i : Instr) : (s.post i).nextId = s.nextId := rfl
@[simp] theorem State.post_useTick (s : State) (i : Instr) : (s.post i).useTick = s.useTick := rfl
@[simp] theorem State.post_floorMs (s : State) (i : Instr) : (s.post i).floorMs = s.floorMs := rfl
@[simp] theorem State.post_out (s : State) (i : Instr) : (s.post i).out = s.out := rfl
@[simp] theorem State.post_focus (s : State) (i : Instr) : (s.post i).focus = s.focus := rfl
@[simp] theorem State.post_free (s : State) (i : Instr) : (s.post i).free = s.free := rfl

@[simp] theorem State.hand_mem (s : State) (m : OutMsg) : (s.hand m).mem = s.mem := rfl
@[simp] theorem State.hand_poison (s : State) (m : OutMsg) : (s.hand m).poison = s.poison := rfl
@[simp] theorem State.hand_mmio (s : State) (m : OutMsg) : (s.hand m).mmio = s.mmio := rfl
@[simp] theorem State.hand_now (s : State) (m : OutMsg) : (s.hand m).now = s.now := rfl
@[simp] theorem State.hand_locked (s : State) (m : OutMsg) : (s.hand m).locked = s.locked := rfl
@[simp] theorem State.hand_sinceSync (s : State) (m : OutMsg) : (s.hand m).sinceSync = s.sinceSync := rfl
@[simp] theorem State.hand_clocksStopped (s : State) (m : OutMsg) : (s.hand m).clocksStopped = s.clocksStopped := rfl
@[simp] theorem State.hand_keysErased (s : State) (m : OutMsg) : (s.hand m).keysErased = s.keysErased := rfl
@[simp] theorem State.hand_debugFails (s : State) (m : OutMsg) : (s.hand m).debugFails = s.debugFails := rfl
@[simp] theorem State.hand_hostCxl (s : State) (m : OutMsg) : (s.hand m).hostCxl = s.hostCxl := rfl
@[simp] theorem State.hand_hostLines (s : State) (m : OutMsg) : (s.hand m).hostLines = s.hostLines := rfl
@[simp] theorem State.hand_peerSeq (s : State) (m : OutMsg) : (s.hand m).peerSeq = s.peerSeq := rfl
@[simp] theorem State.hand_satFlags (s : State) (m : OutMsg) : (s.hand m).satFlags = s.satFlags := rfl
@[simp] theorem State.hand_nodes (s : State) (m : OutMsg) : (s.hand m).nodes = s.nodes := rfl
@[simp] theorem State.hand_mts (s : State) (m : OutMsg) : (s.hand m).mts = s.mts := rfl
@[simp] theorem State.hand_ports (s : State) (m : OutMsg) : (s.hand m).ports = s.ports := rfl
@[simp] theorem State.hand_edges (s : State) (m : OutMsg) : (s.hand m).edges = s.edges := rfl
@[simp] theorem State.hand_bounds (s : State) (m : OutMsg) : (s.hand m).bounds = s.bounds := rfl
@[simp] theorem State.hand_tbars (s : State) (m : OutMsg) : (s.hand m).tbars = s.tbars := rfl
@[simp] theorem State.hand_regions (s : State) (m : OutMsg) : (s.hand m).regions = s.regions := rfl
@[simp] theorem State.hand_launches (s : State) (m : OutMsg) : (s.hand m).launches = s.launches := rfl
@[simp] theorem State.hand_saves (s : State) (m : OutMsg) : (s.hand m).saves = s.saves := rfl
@[simp] theorem State.hand_ctxRun (s : State) (m : OutMsg) : (s.hand m).ctxRun = s.ctxRun := rfl
@[simp] theorem State.hand_bringUp (s : State) (m : OutMsg) : (s.hand m).bringUp = s.bringUp := rfl
@[simp] theorem State.hand_peerOrder (s : State) (m : OutMsg) : (s.hand m).peerOrder = s.peerOrder := rfl
@[simp] theorem State.hand_dies (s : State) (m : OutMsg) : (s.hand m).dies = s.dies := rfl
@[simp] theorem State.hand_nextId (s : State) (m : OutMsg) : (s.hand m).nextId = s.nextId := rfl
@[simp] theorem State.hand_useTick (s : State) (m : OutMsg) : (s.hand m).useTick = s.useTick := rfl
@[simp] theorem State.hand_floorMs (s : State) (m : OutMsg) : (s.hand m).floorMs = s.floorMs := rfl
@[simp] theorem State.hand_focus (s : State) (m : OutMsg) : (s.hand m).focus = s.focus := rfl
@[simp] theorem State.hand_agenda (s : State) (m : OutMsg) : (s.hand m).agenda = s.agenda := rfl
@[simp] theorem State.hand_free (s : State) (m : OutMsg) : (s.hand m).free = s.free := rfl

@[simp] theorem State.setMmio_mem (s : State) (d o : Nat) (x : Word) : (s.setMmio d o x).mem = s.mem := rfl
@[simp] theorem State.setMmio_poison (s : State) (d o : Nat) (x : Word) : (s.setMmio d o x).poison = s.poison := rfl
@[simp] theorem State.setMmio_now (s : State) (d o : Nat) (x : Word) : (s.setMmio d o x).now = s.now := rfl
@[simp] theorem State.setMmio_locked (s : State) (d o : Nat) (x : Word) : (s.setMmio d o x).locked = s.locked := rfl
@[simp] theorem State.setMmio_sinceSync (s : State) (d o : Nat) (x : Word) : (s.setMmio d o x).sinceSync = s.sinceSync := rfl
@[simp] theorem State.setMmio_clocksStopped (s : State) (d o : Nat) (x : Word) : (s.setMmio d o x).clocksStopped = s.clocksStopped := rfl
@[simp] theorem State.setMmio_keysErased (s : State) (d o : Nat) (x : Word) : (s.setMmio d o x).keysErased = s.keysErased := rfl
@[simp] theorem State.setMmio_debugFails (s : State) (d o : Nat) (x : Word) : (s.setMmio d o x).debugFails = s.debugFails := rfl
@[simp] theorem State.setMmio_hostCxl (s : State) (d o : Nat) (x : Word) : (s.setMmio d o x).hostCxl = s.hostCxl := rfl
@[simp] theorem State.setMmio_hostLines (s : State) (d o : Nat) (x : Word) : (s.setMmio d o x).hostLines = s.hostLines := rfl
@[simp] theorem State.setMmio_peerSeq (s : State) (d o : Nat) (x : Word) : (s.setMmio d o x).peerSeq = s.peerSeq := rfl
@[simp] theorem State.setMmio_satFlags (s : State) (d o : Nat) (x : Word) : (s.setMmio d o x).satFlags = s.satFlags := rfl
@[simp] theorem State.setMmio_nodes (s : State) (d o : Nat) (x : Word) : (s.setMmio d o x).nodes = s.nodes := rfl
@[simp] theorem State.setMmio_mts (s : State) (d o : Nat) (x : Word) : (s.setMmio d o x).mts = s.mts := rfl
@[simp] theorem State.setMmio_ports (s : State) (d o : Nat) (x : Word) : (s.setMmio d o x).ports = s.ports := rfl
@[simp] theorem State.setMmio_edges (s : State) (d o : Nat) (x : Word) : (s.setMmio d o x).edges = s.edges := rfl
@[simp] theorem State.setMmio_bounds (s : State) (d o : Nat) (x : Word) : (s.setMmio d o x).bounds = s.bounds := rfl
@[simp] theorem State.setMmio_tbars (s : State) (d o : Nat) (x : Word) : (s.setMmio d o x).tbars = s.tbars := rfl
@[simp] theorem State.setMmio_regions (s : State) (d o : Nat) (x : Word) : (s.setMmio d o x).regions = s.regions := rfl
@[simp] theorem State.setMmio_launches (s : State) (d o : Nat) (x : Word) : (s.setMmio d o x).launches = s.launches := rfl
@[simp] theorem State.setMmio_saves (s : State) (d o : Nat) (x : Word) : (s.setMmio d o x).saves = s.saves := rfl
@[simp] theorem State.setMmio_ctxRun (s : State) (d o : Nat) (x : Word) : (s.setMmio d o x).ctxRun = s.ctxRun := rfl
@[simp] theorem State.setMmio_bringUp (s : State) (d o : Nat) (x : Word) : (s.setMmio d o x).bringUp = s.bringUp := rfl
@[simp] theorem State.setMmio_peerOrder (s : State) (d o : Nat) (x : Word) : (s.setMmio d o x).peerOrder = s.peerOrder := rfl
@[simp] theorem State.setMmio_dies (s : State) (d o : Nat) (x : Word) : (s.setMmio d o x).dies = s.dies := rfl
@[simp] theorem State.setMmio_nextId (s : State) (d o : Nat) (x : Word) : (s.setMmio d o x).nextId = s.nextId := rfl
@[simp] theorem State.setMmio_useTick (s : State) (d o : Nat) (x : Word) : (s.setMmio d o x).useTick = s.useTick := rfl
@[simp] theorem State.setMmio_floorMs (s : State) (d o : Nat) (x : Word) : (s.setMmio d o x).floorMs = s.floorMs := rfl
@[simp] theorem State.setMmio_out (s : State) (d o : Nat) (x : Word) : (s.setMmio d o x).out = s.out := rfl
@[simp] theorem State.setMmio_focus (s : State) (d o : Nat) (x : Word) : (s.setMmio d o x).focus = s.focus := rfl
@[simp] theorem State.setMmio_agenda (s : State) (d o : Nat) (x : Word) : (s.setMmio d o x).agenda = s.agenda := rfl
@[simp] theorem State.setMmio_free (s : State) (d o : Nat) (x : Word) : (s.setMmio d o x).free = s.free := rfl

@[simp] theorem State.poke_poison (s : State) (k n x : Nat) : (s.poke k n x).poison = s.poison := rfl
@[simp] theorem State.poke_mmio (s : State) (k n x : Nat) : (s.poke k n x).mmio = s.mmio := rfl
@[simp] theorem State.poke_now (s : State) (k n x : Nat) : (s.poke k n x).now = s.now := rfl
@[simp] theorem State.poke_locked (s : State) (k n x : Nat) : (s.poke k n x).locked = s.locked := rfl
@[simp] theorem State.poke_sinceSync (s : State) (k n x : Nat) : (s.poke k n x).sinceSync = s.sinceSync := rfl
@[simp] theorem State.poke_clocksStopped (s : State) (k n x : Nat) : (s.poke k n x).clocksStopped = s.clocksStopped := rfl
@[simp] theorem State.poke_keysErased (s : State) (k n x : Nat) : (s.poke k n x).keysErased = s.keysErased := rfl
@[simp] theorem State.poke_debugFails (s : State) (k n x : Nat) : (s.poke k n x).debugFails = s.debugFails := rfl
@[simp] theorem State.poke_hostCxl (s : State) (k n x : Nat) : (s.poke k n x).hostCxl = s.hostCxl := rfl
@[simp] theorem State.poke_hostLines (s : State) (k n x : Nat) : (s.poke k n x).hostLines = s.hostLines := rfl
@[simp] theorem State.poke_peerSeq (s : State) (k n x : Nat) : (s.poke k n x).peerSeq = s.peerSeq := rfl
@[simp] theorem State.poke_satFlags (s : State) (k n x : Nat) : (s.poke k n x).satFlags = s.satFlags := rfl
@[simp] theorem State.poke_nodes (s : State) (k n x : Nat) : (s.poke k n x).nodes = s.nodes := rfl
@[simp] theorem State.poke_mts (s : State) (k n x : Nat) : (s.poke k n x).mts = s.mts := rfl
@[simp] theorem State.poke_ports (s : State) (k n x : Nat) : (s.poke k n x).ports = s.ports := rfl
@[simp] theorem State.poke_edges (s : State) (k n x : Nat) : (s.poke k n x).edges = s.edges := rfl
@[simp] theorem State.poke_bounds (s : State) (k n x : Nat) : (s.poke k n x).bounds = s.bounds := rfl
@[simp] theorem State.poke_tbars (s : State) (k n x : Nat) : (s.poke k n x).tbars = s.tbars := rfl
@[simp] theorem State.poke_regions (s : State) (k n x : Nat) : (s.poke k n x).regions = s.regions := rfl
@[simp] theorem State.poke_launches (s : State) (k n x : Nat) : (s.poke k n x).launches = s.launches := rfl
@[simp] theorem State.poke_saves (s : State) (k n x : Nat) : (s.poke k n x).saves = s.saves := rfl
@[simp] theorem State.poke_ctxRun (s : State) (k n x : Nat) : (s.poke k n x).ctxRun = s.ctxRun := rfl
@[simp] theorem State.poke_bringUp (s : State) (k n x : Nat) : (s.poke k n x).bringUp = s.bringUp := rfl
@[simp] theorem State.poke_peerOrder (s : State) (k n x : Nat) : (s.poke k n x).peerOrder = s.peerOrder := rfl
@[simp] theorem State.poke_dies (s : State) (k n x : Nat) : (s.poke k n x).dies = s.dies := rfl
@[simp] theorem State.poke_nextId (s : State) (k n x : Nat) : (s.poke k n x).nextId = s.nextId := rfl
@[simp] theorem State.poke_useTick (s : State) (k n x : Nat) : (s.poke k n x).useTick = s.useTick := rfl
@[simp] theorem State.poke_floorMs (s : State) (k n x : Nat) : (s.poke k n x).floorMs = s.floorMs := rfl
@[simp] theorem State.poke_out (s : State) (k n x : Nat) : (s.poke k n x).out = s.out := rfl
@[simp] theorem State.poke_focus (s : State) (k n x : Nat) : (s.poke k n x).focus = s.focus := rfl
@[simp] theorem State.poke_agenda (s : State) (k n x : Nat) : (s.poke k n x).agenda = s.agenda := rfl
@[simp] theorem State.poke_free (s : State) (k n x : Nat) : (s.poke k n x).free = s.free := rfl

@[simp] theorem State.lift_mem (s : State) (k n : Nat) : (s.lift k n).mem = s.mem := rfl
@[simp] theorem State.lift_mmio (s : State) (k n : Nat) : (s.lift k n).mmio = s.mmio := rfl
@[simp] theorem State.lift_now (s : State) (k n : Nat) : (s.lift k n).now = s.now := rfl
@[simp] theorem State.lift_locked (s : State) (k n : Nat) : (s.lift k n).locked = s.locked := rfl
@[simp] theorem State.lift_sinceSync (s : State) (k n : Nat) : (s.lift k n).sinceSync = s.sinceSync := rfl
@[simp] theorem State.lift_clocksStopped (s : State) (k n : Nat) : (s.lift k n).clocksStopped = s.clocksStopped := rfl
@[simp] theorem State.lift_keysErased (s : State) (k n : Nat) : (s.lift k n).keysErased = s.keysErased := rfl
@[simp] theorem State.lift_debugFails (s : State) (k n : Nat) : (s.lift k n).debugFails = s.debugFails := rfl
@[simp] theorem State.lift_hostCxl (s : State) (k n : Nat) : (s.lift k n).hostCxl = s.hostCxl := rfl
@[simp] theorem State.lift_hostLines (s : State) (k n : Nat) : (s.lift k n).hostLines = s.hostLines := rfl
@[simp] theorem State.lift_peerSeq (s : State) (k n : Nat) : (s.lift k n).peerSeq = s.peerSeq := rfl
@[simp] theorem State.lift_satFlags (s : State) (k n : Nat) : (s.lift k n).satFlags = s.satFlags := rfl
@[simp] theorem State.lift_nodes (s : State) (k n : Nat) : (s.lift k n).nodes = s.nodes := rfl
@[simp] theorem State.lift_mts (s : State) (k n : Nat) : (s.lift k n).mts = s.mts := rfl
@[simp] theorem State.lift_ports (s : State) (k n : Nat) : (s.lift k n).ports = s.ports := rfl
@[simp] theorem State.lift_edges (s : State) (k n : Nat) : (s.lift k n).edges = s.edges := rfl
@[simp] theorem State.lift_bounds (s : State) (k n : Nat) : (s.lift k n).bounds = s.bounds := rfl
@[simp] theorem State.lift_tbars (s : State) (k n : Nat) : (s.lift k n).tbars = s.tbars := rfl
@[simp] theorem State.lift_regions (s : State) (k n : Nat) : (s.lift k n).regions = s.regions := rfl
@[simp] theorem State.lift_launches (s : State) (k n : Nat) : (s.lift k n).launches = s.launches := rfl
@[simp] theorem State.lift_saves (s : State) (k n : Nat) : (s.lift k n).saves = s.saves := rfl
@[simp] theorem State.lift_ctxRun (s : State) (k n : Nat) : (s.lift k n).ctxRun = s.ctxRun := rfl
@[simp] theorem State.lift_bringUp (s : State) (k n : Nat) : (s.lift k n).bringUp = s.bringUp := rfl
@[simp] theorem State.lift_peerOrder (s : State) (k n : Nat) : (s.lift k n).peerOrder = s.peerOrder := rfl
@[simp] theorem State.lift_dies (s : State) (k n : Nat) : (s.lift k n).dies = s.dies := rfl
@[simp] theorem State.lift_nextId (s : State) (k n : Nat) : (s.lift k n).nextId = s.nextId := rfl
@[simp] theorem State.lift_useTick (s : State) (k n : Nat) : (s.lift k n).useTick = s.useTick := rfl
@[simp] theorem State.lift_floorMs (s : State) (k n : Nat) : (s.lift k n).floorMs = s.floorMs := rfl
@[simp] theorem State.lift_out (s : State) (k n : Nat) : (s.lift k n).out = s.out := rfl
@[simp] theorem State.lift_focus (s : State) (k n : Nat) : (s.lift k n).focus = s.focus := rfl
@[simp] theorem State.lift_agenda (s : State) (k n : Nat) : (s.lift k n).agenda = s.agenda := rfl
@[simp] theorem State.lift_free (s : State) (k n : Nat) : (s.lift k n).free = s.free := rfl

@[simp] theorem State.setPort_mem (s : State) (k : Nat) (p : InPort) : (s.setPort k p).mem = s.mem := rfl
@[simp] theorem State.setPort_poison (s : State) (k : Nat) (p : InPort) : (s.setPort k p).poison = s.poison := rfl
@[simp] theorem State.setPort_mmio (s : State) (k : Nat) (p : InPort) : (s.setPort k p).mmio = s.mmio := rfl
@[simp] theorem State.setPort_now (s : State) (k : Nat) (p : InPort) : (s.setPort k p).now = s.now := rfl
@[simp] theorem State.setPort_locked (s : State) (k : Nat) (p : InPort) : (s.setPort k p).locked = s.locked := rfl
@[simp] theorem State.setPort_sinceSync (s : State) (k : Nat) (p : InPort) : (s.setPort k p).sinceSync = s.sinceSync := rfl
@[simp] theorem State.setPort_clocksStopped (s : State) (k : Nat) (p : InPort) : (s.setPort k p).clocksStopped = s.clocksStopped := rfl
@[simp] theorem State.setPort_keysErased (s : State) (k : Nat) (p : InPort) : (s.setPort k p).keysErased = s.keysErased := rfl
@[simp] theorem State.setPort_debugFails (s : State) (k : Nat) (p : InPort) : (s.setPort k p).debugFails = s.debugFails := rfl
@[simp] theorem State.setPort_hostCxl (s : State) (k : Nat) (p : InPort) : (s.setPort k p).hostCxl = s.hostCxl := rfl
@[simp] theorem State.setPort_hostLines (s : State) (k : Nat) (p : InPort) : (s.setPort k p).hostLines = s.hostLines := rfl
@[simp] theorem State.setPort_peerSeq (s : State) (k : Nat) (p : InPort) : (s.setPort k p).peerSeq = s.peerSeq := rfl
@[simp] theorem State.setPort_satFlags (s : State) (k : Nat) (p : InPort) : (s.setPort k p).satFlags = s.satFlags := rfl
@[simp] theorem State.setPort_nodes (s : State) (k : Nat) (p : InPort) : (s.setPort k p).nodes = s.nodes := rfl
@[simp] theorem State.setPort_mts (s : State) (k : Nat) (p : InPort) : (s.setPort k p).mts = s.mts := rfl
@[simp] theorem State.setPort_edges (s : State) (k : Nat) (p : InPort) : (s.setPort k p).edges = s.edges := rfl
@[simp] theorem State.setPort_bounds (s : State) (k : Nat) (p : InPort) : (s.setPort k p).bounds = s.bounds := rfl
@[simp] theorem State.setPort_tbars (s : State) (k : Nat) (p : InPort) : (s.setPort k p).tbars = s.tbars := rfl
@[simp] theorem State.setPort_regions (s : State) (k : Nat) (p : InPort) : (s.setPort k p).regions = s.regions := rfl
@[simp] theorem State.setPort_launches (s : State) (k : Nat) (p : InPort) : (s.setPort k p).launches = s.launches := rfl
@[simp] theorem State.setPort_saves (s : State) (k : Nat) (p : InPort) : (s.setPort k p).saves = s.saves := rfl
@[simp] theorem State.setPort_ctxRun (s : State) (k : Nat) (p : InPort) : (s.setPort k p).ctxRun = s.ctxRun := rfl
@[simp] theorem State.setPort_bringUp (s : State) (k : Nat) (p : InPort) : (s.setPort k p).bringUp = s.bringUp := rfl
@[simp] theorem State.setPort_peerOrder (s : State) (k : Nat) (p : InPort) : (s.setPort k p).peerOrder = s.peerOrder := rfl
@[simp] theorem State.setPort_dies (s : State) (k : Nat) (p : InPort) : (s.setPort k p).dies = s.dies := rfl
@[simp] theorem State.setPort_nextId (s : State) (k : Nat) (p : InPort) : (s.setPort k p).nextId = s.nextId := rfl
@[simp] theorem State.setPort_useTick (s : State) (k : Nat) (p : InPort) : (s.setPort k p).useTick = s.useTick := rfl
@[simp] theorem State.setPort_floorMs (s : State) (k : Nat) (p : InPort) : (s.setPort k p).floorMs = s.floorMs := rfl
@[simp] theorem State.setPort_out (s : State) (k : Nat) (p : InPort) : (s.setPort k p).out = s.out := rfl
@[simp] theorem State.setPort_focus (s : State) (k : Nat) (p : InPort) : (s.setPort k p).focus = s.focus := rfl
@[simp] theorem State.setPort_agenda (s : State) (k : Nat) (p : InPort) : (s.setPort k p).agenda = s.agenda := rfl
@[simp] theorem State.setPort_free (s : State) (k : Nat) (p : InPort) : (s.setPort k p).free = s.free := rfl

@[simp] theorem State.setHostLine_mem (s : State) (k : Nat) (x : Mesi) : (s.setHostLine k x).mem = s.mem := rfl
@[simp] theorem State.setHostLine_poison (s : State) (k : Nat) (x : Mesi) : (s.setHostLine k x).poison = s.poison := rfl
@[simp] theorem State.setHostLine_mmio (s : State) (k : Nat) (x : Mesi) : (s.setHostLine k x).mmio = s.mmio := rfl
@[simp] theorem State.setHostLine_now (s : State) (k : Nat) (x : Mesi) : (s.setHostLine k x).now = s.now := rfl
@[simp] theorem State.setHostLine_locked (s : State) (k : Nat) (x : Mesi) : (s.setHostLine k x).locked = s.locked := rfl
@[simp] theorem State.setHostLine_sinceSync (s : State) (k : Nat) (x : Mesi) : (s.setHostLine k x).sinceSync = s.sinceSync := rfl
@[simp] theorem State.setHostLine_clocksStopped (s : State) (k : Nat) (x : Mesi) : (s.setHostLine k x).clocksStopped = s.clocksStopped := rfl
@[simp] theorem State.setHostLine_keysErased (s : State) (k : Nat) (x : Mesi) : (s.setHostLine k x).keysErased = s.keysErased := rfl
@[simp] theorem State.setHostLine_debugFails (s : State) (k : Nat) (x : Mesi) : (s.setHostLine k x).debugFails = s.debugFails := rfl
@[simp] theorem State.setHostLine_hostCxl (s : State) (k : Nat) (x : Mesi) : (s.setHostLine k x).hostCxl = s.hostCxl := rfl
@[simp] theorem State.setHostLine_peerSeq (s : State) (k : Nat) (x : Mesi) : (s.setHostLine k x).peerSeq = s.peerSeq := rfl
@[simp] theorem State.setHostLine_satFlags (s : State) (k : Nat) (x : Mesi) : (s.setHostLine k x).satFlags = s.satFlags := rfl
@[simp] theorem State.setHostLine_nodes (s : State) (k : Nat) (x : Mesi) : (s.setHostLine k x).nodes = s.nodes := rfl
@[simp] theorem State.setHostLine_mts (s : State) (k : Nat) (x : Mesi) : (s.setHostLine k x).mts = s.mts := rfl
@[simp] theorem State.setHostLine_ports (s : State) (k : Nat) (x : Mesi) : (s.setHostLine k x).ports = s.ports := rfl
@[simp] theorem State.setHostLine_edges (s : State) (k : Nat) (x : Mesi) : (s.setHostLine k x).edges = s.edges := rfl
@[simp] theorem State.setHostLine_bounds (s : State) (k : Nat) (x : Mesi) : (s.setHostLine k x).bounds = s.bounds := rfl
@[simp] theorem State.setHostLine_tbars (s : State) (k : Nat) (x : Mesi) : (s.setHostLine k x).tbars = s.tbars := rfl
@[simp] theorem State.setHostLine_regions (s : State) (k : Nat) (x : Mesi) : (s.setHostLine k x).regions = s.regions := rfl
@[simp] theorem State.setHostLine_launches (s : State) (k : Nat) (x : Mesi) : (s.setHostLine k x).launches = s.launches := rfl
@[simp] theorem State.setHostLine_saves (s : State) (k : Nat) (x : Mesi) : (s.setHostLine k x).saves = s.saves := rfl
@[simp] theorem State.setHostLine_ctxRun (s : State) (k : Nat) (x : Mesi) : (s.setHostLine k x).ctxRun = s.ctxRun := rfl
@[simp] theorem State.setHostLine_bringUp (s : State) (k : Nat) (x : Mesi) : (s.setHostLine k x).bringUp = s.bringUp := rfl
@[simp] theorem State.setHostLine_peerOrder (s : State) (k : Nat) (x : Mesi) : (s.setHostLine k x).peerOrder = s.peerOrder := rfl
@[simp] theorem State.setHostLine_dies (s : State) (k : Nat) (x : Mesi) : (s.setHostLine k x).dies = s.dies := rfl
@[simp] theorem State.setHostLine_nextId (s : State) (k : Nat) (x : Mesi) : (s.setHostLine k x).nextId = s.nextId := rfl
@[simp] theorem State.setHostLine_useTick (s : State) (k : Nat) (x : Mesi) : (s.setHostLine k x).useTick = s.useTick := rfl
@[simp] theorem State.setHostLine_floorMs (s : State) (k : Nat) (x : Mesi) : (s.setHostLine k x).floorMs = s.floorMs := rfl
@[simp] theorem State.setHostLine_out (s : State) (k : Nat) (x : Mesi) : (s.setHostLine k x).out = s.out := rfl
@[simp] theorem State.setHostLine_focus (s : State) (k : Nat) (x : Mesi) : (s.setHostLine k x).focus = s.focus := rfl
@[simp] theorem State.setHostLine_agenda (s : State) (k : Nat) (x : Mesi) : (s.setHostLine k x).agenda = s.agenda := rfl
@[simp] theorem State.setHostLine_free (s : State) (k : Nat) (x : Mesi) : (s.setHostLine k x).free = s.free := rfl

@[simp] theorem State.setCache_mem (s : State) (t : Nat) (c : TileCache) : (s.setCache t c).mem = s.mem := rfl
@[simp] theorem State.setCache_poison (s : State) (t : Nat) (c : TileCache) : (s.setCache t c).poison = s.poison := rfl
@[simp] theorem State.setCache_mmio (s : State) (t : Nat) (c : TileCache) : (s.setCache t c).mmio = s.mmio := rfl
@[simp] theorem State.setCache_now (s : State) (t : Nat) (c : TileCache) : (s.setCache t c).now = s.now := rfl
@[simp] theorem State.setCache_locked (s : State) (t : Nat) (c : TileCache) : (s.setCache t c).locked = s.locked := rfl
@[simp] theorem State.setCache_sinceSync (s : State) (t : Nat) (c : TileCache) : (s.setCache t c).sinceSync = s.sinceSync := rfl
@[simp] theorem State.setCache_clocksStopped (s : State) (t : Nat) (c : TileCache) : (s.setCache t c).clocksStopped = s.clocksStopped := rfl
@[simp] theorem State.setCache_keysErased (s : State) (t : Nat) (c : TileCache) : (s.setCache t c).keysErased = s.keysErased := rfl
@[simp] theorem State.setCache_debugFails (s : State) (t : Nat) (c : TileCache) : (s.setCache t c).debugFails = s.debugFails := rfl
@[simp] theorem State.setCache_hostCxl (s : State) (t : Nat) (c : TileCache) : (s.setCache t c).hostCxl = s.hostCxl := rfl
@[simp] theorem State.setCache_hostLines (s : State) (t : Nat) (c : TileCache) : (s.setCache t c).hostLines = s.hostLines := rfl
@[simp] theorem State.setCache_peerSeq (s : State) (t : Nat) (c : TileCache) : (s.setCache t c).peerSeq = s.peerSeq := rfl
@[simp] theorem State.setCache_satFlags (s : State) (t : Nat) (c : TileCache) : (s.setCache t c).satFlags = s.satFlags := rfl
@[simp] theorem State.setCache_nodes (s : State) (t : Nat) (c : TileCache) : (s.setCache t c).nodes = s.nodes := rfl
@[simp] theorem State.setCache_mts (s : State) (t : Nat) (c : TileCache) : (s.setCache t c).mts = s.mts := rfl
@[simp] theorem State.setCache_ports (s : State) (t : Nat) (c : TileCache) : (s.setCache t c).ports = s.ports := rfl
@[simp] theorem State.setCache_edges (s : State) (t : Nat) (c : TileCache) : (s.setCache t c).edges = s.edges := rfl
@[simp] theorem State.setCache_bounds (s : State) (t : Nat) (c : TileCache) : (s.setCache t c).bounds = s.bounds := rfl
@[simp] theorem State.setCache_tbars (s : State) (t : Nat) (c : TileCache) : (s.setCache t c).tbars = s.tbars := rfl
@[simp] theorem State.setCache_regions (s : State) (t : Nat) (c : TileCache) : (s.setCache t c).regions = s.regions := rfl
@[simp] theorem State.setCache_launches (s : State) (t : Nat) (c : TileCache) : (s.setCache t c).launches = s.launches := rfl
@[simp] theorem State.setCache_saves (s : State) (t : Nat) (c : TileCache) : (s.setCache t c).saves = s.saves := rfl
@[simp] theorem State.setCache_ctxRun (s : State) (t : Nat) (c : TileCache) : (s.setCache t c).ctxRun = s.ctxRun := rfl
@[simp] theorem State.setCache_bringUp (s : State) (t : Nat) (c : TileCache) : (s.setCache t c).bringUp = s.bringUp := rfl
@[simp] theorem State.setCache_peerOrder (s : State) (t : Nat) (c : TileCache) : (s.setCache t c).peerOrder = s.peerOrder := rfl
@[simp] theorem State.setCache_nextId (s : State) (t : Nat) (c : TileCache) : (s.setCache t c).nextId = s.nextId := rfl
@[simp] theorem State.setCache_useTick (s : State) (t : Nat) (c : TileCache) : (s.setCache t c).useTick = s.useTick := rfl
@[simp] theorem State.setCache_floorMs (s : State) (t : Nat) (c : TileCache) : (s.setCache t c).floorMs = s.floorMs := rfl
@[simp] theorem State.setCache_out (s : State) (t : Nat) (c : TileCache) : (s.setCache t c).out = s.out := rfl
@[simp] theorem State.setCache_focus (s : State) (t : Nat) (c : TileCache) : (s.setCache t c).focus = s.focus := rfl
@[simp] theorem State.setCache_agenda (s : State) (t : Nat) (c : TileCache) : (s.setCache t c).agenda = s.agenda := rfl
@[simp] theorem State.setCache_free (s : State) (t : Nat) (c : TileCache) : (s.setCache t c).free = s.free := rfl

@[simp] theorem State.setEngQ_mem (s : State) (d e q : Nat) (x : EngQueue) : (s.setEngQ d e q x).mem = s.mem := rfl
@[simp] theorem State.setEngQ_poison (s : State) (d e q : Nat) (x : EngQueue) : (s.setEngQ d e q x).poison = s.poison := rfl
@[simp] theorem State.setEngQ_mmio (s : State) (d e q : Nat) (x : EngQueue) : (s.setEngQ d e q x).mmio = s.mmio := rfl
@[simp] theorem State.setEngQ_now (s : State) (d e q : Nat) (x : EngQueue) : (s.setEngQ d e q x).now = s.now := rfl
@[simp] theorem State.setEngQ_locked (s : State) (d e q : Nat) (x : EngQueue) : (s.setEngQ d e q x).locked = s.locked := rfl
@[simp] theorem State.setEngQ_sinceSync (s : State) (d e q : Nat) (x : EngQueue) : (s.setEngQ d e q x).sinceSync = s.sinceSync := rfl
@[simp] theorem State.setEngQ_clocksStopped (s : State) (d e q : Nat) (x : EngQueue) : (s.setEngQ d e q x).clocksStopped = s.clocksStopped := rfl
@[simp] theorem State.setEngQ_keysErased (s : State) (d e q : Nat) (x : EngQueue) : (s.setEngQ d e q x).keysErased = s.keysErased := rfl
@[simp] theorem State.setEngQ_debugFails (s : State) (d e q : Nat) (x : EngQueue) : (s.setEngQ d e q x).debugFails = s.debugFails := rfl
@[simp] theorem State.setEngQ_hostCxl (s : State) (d e q : Nat) (x : EngQueue) : (s.setEngQ d e q x).hostCxl = s.hostCxl := rfl
@[simp] theorem State.setEngQ_hostLines (s : State) (d e q : Nat) (x : EngQueue) : (s.setEngQ d e q x).hostLines = s.hostLines := rfl
@[simp] theorem State.setEngQ_peerSeq (s : State) (d e q : Nat) (x : EngQueue) : (s.setEngQ d e q x).peerSeq = s.peerSeq := rfl
@[simp] theorem State.setEngQ_satFlags (s : State) (d e q : Nat) (x : EngQueue) : (s.setEngQ d e q x).satFlags = s.satFlags := rfl
@[simp] theorem State.setEngQ_nodes (s : State) (d e q : Nat) (x : EngQueue) : (s.setEngQ d e q x).nodes = s.nodes := rfl
@[simp] theorem State.setEngQ_mts (s : State) (d e q : Nat) (x : EngQueue) : (s.setEngQ d e q x).mts = s.mts := rfl
@[simp] theorem State.setEngQ_ports (s : State) (d e q : Nat) (x : EngQueue) : (s.setEngQ d e q x).ports = s.ports := rfl
@[simp] theorem State.setEngQ_edges (s : State) (d e q : Nat) (x : EngQueue) : (s.setEngQ d e q x).edges = s.edges := rfl
@[simp] theorem State.setEngQ_bounds (s : State) (d e q : Nat) (x : EngQueue) : (s.setEngQ d e q x).bounds = s.bounds := rfl
@[simp] theorem State.setEngQ_tbars (s : State) (d e q : Nat) (x : EngQueue) : (s.setEngQ d e q x).tbars = s.tbars := rfl
@[simp] theorem State.setEngQ_regions (s : State) (d e q : Nat) (x : EngQueue) : (s.setEngQ d e q x).regions = s.regions := rfl
@[simp] theorem State.setEngQ_launches (s : State) (d e q : Nat) (x : EngQueue) : (s.setEngQ d e q x).launches = s.launches := rfl
@[simp] theorem State.setEngQ_saves (s : State) (d e q : Nat) (x : EngQueue) : (s.setEngQ d e q x).saves = s.saves := rfl
@[simp] theorem State.setEngQ_ctxRun (s : State) (d e q : Nat) (x : EngQueue) : (s.setEngQ d e q x).ctxRun = s.ctxRun := rfl
@[simp] theorem State.setEngQ_bringUp (s : State) (d e q : Nat) (x : EngQueue) : (s.setEngQ d e q x).bringUp = s.bringUp := rfl
@[simp] theorem State.setEngQ_peerOrder (s : State) (d e q : Nat) (x : EngQueue) : (s.setEngQ d e q x).peerOrder = s.peerOrder := rfl
@[simp] theorem State.setEngQ_nextId (s : State) (d e q : Nat) (x : EngQueue) : (s.setEngQ d e q x).nextId = s.nextId := rfl
@[simp] theorem State.setEngQ_useTick (s : State) (d e q : Nat) (x : EngQueue) : (s.setEngQ d e q x).useTick = s.useTick := rfl
@[simp] theorem State.setEngQ_floorMs (s : State) (d e q : Nat) (x : EngQueue) : (s.setEngQ d e q x).floorMs = s.floorMs := rfl
@[simp] theorem State.setEngQ_out (s : State) (d e q : Nat) (x : EngQueue) : (s.setEngQ d e q x).out = s.out := rfl
@[simp] theorem State.setEngQ_focus (s : State) (d e q : Nat) (x : EngQueue) : (s.setEngQ d e q x).focus = s.focus := rfl
@[simp] theorem State.setEngQ_agenda (s : State) (d e q : Nat) (x : EngQueue) : (s.setEngQ d e q x).agenda = s.agenda := rfl
@[simp] theorem State.setEngQ_free (s : State) (d e q : Nat) (x : EngQueue) : (s.setEngQ d e q x).free = s.free := rfl

@[simp] theorem State.setRetain_mem (s : State) (d r k : Nat) (x : Word) : (s.setRetain d r k x).mem = s.mem := rfl
@[simp] theorem State.setRetain_poison (s : State) (d r k : Nat) (x : Word) : (s.setRetain d r k x).poison = s.poison := rfl
@[simp] theorem State.setRetain_mmio (s : State) (d r k : Nat) (x : Word) : (s.setRetain d r k x).mmio = s.mmio := rfl
@[simp] theorem State.setRetain_now (s : State) (d r k : Nat) (x : Word) : (s.setRetain d r k x).now = s.now := rfl
@[simp] theorem State.setRetain_locked (s : State) (d r k : Nat) (x : Word) : (s.setRetain d r k x).locked = s.locked := rfl
@[simp] theorem State.setRetain_sinceSync (s : State) (d r k : Nat) (x : Word) : (s.setRetain d r k x).sinceSync = s.sinceSync := rfl
@[simp] theorem State.setRetain_clocksStopped (s : State) (d r k : Nat) (x : Word) : (s.setRetain d r k x).clocksStopped = s.clocksStopped := rfl
@[simp] theorem State.setRetain_keysErased (s : State) (d r k : Nat) (x : Word) : (s.setRetain d r k x).keysErased = s.keysErased := rfl
@[simp] theorem State.setRetain_debugFails (s : State) (d r k : Nat) (x : Word) : (s.setRetain d r k x).debugFails = s.debugFails := rfl
@[simp] theorem State.setRetain_hostCxl (s : State) (d r k : Nat) (x : Word) : (s.setRetain d r k x).hostCxl = s.hostCxl := rfl
@[simp] theorem State.setRetain_hostLines (s : State) (d r k : Nat) (x : Word) : (s.setRetain d r k x).hostLines = s.hostLines := rfl
@[simp] theorem State.setRetain_peerSeq (s : State) (d r k : Nat) (x : Word) : (s.setRetain d r k x).peerSeq = s.peerSeq := rfl
@[simp] theorem State.setRetain_satFlags (s : State) (d r k : Nat) (x : Word) : (s.setRetain d r k x).satFlags = s.satFlags := rfl
@[simp] theorem State.setRetain_nodes (s : State) (d r k : Nat) (x : Word) : (s.setRetain d r k x).nodes = s.nodes := rfl
@[simp] theorem State.setRetain_mts (s : State) (d r k : Nat) (x : Word) : (s.setRetain d r k x).mts = s.mts := rfl
@[simp] theorem State.setRetain_ports (s : State) (d r k : Nat) (x : Word) : (s.setRetain d r k x).ports = s.ports := rfl
@[simp] theorem State.setRetain_edges (s : State) (d r k : Nat) (x : Word) : (s.setRetain d r k x).edges = s.edges := rfl
@[simp] theorem State.setRetain_bounds (s : State) (d r k : Nat) (x : Word) : (s.setRetain d r k x).bounds = s.bounds := rfl
@[simp] theorem State.setRetain_tbars (s : State) (d r k : Nat) (x : Word) : (s.setRetain d r k x).tbars = s.tbars := rfl
@[simp] theorem State.setRetain_regions (s : State) (d r k : Nat) (x : Word) : (s.setRetain d r k x).regions = s.regions := rfl
@[simp] theorem State.setRetain_launches (s : State) (d r k : Nat) (x : Word) : (s.setRetain d r k x).launches = s.launches := rfl
@[simp] theorem State.setRetain_saves (s : State) (d r k : Nat) (x : Word) : (s.setRetain d r k x).saves = s.saves := rfl
@[simp] theorem State.setRetain_ctxRun (s : State) (d r k : Nat) (x : Word) : (s.setRetain d r k x).ctxRun = s.ctxRun := rfl
@[simp] theorem State.setRetain_bringUp (s : State) (d r k : Nat) (x : Word) : (s.setRetain d r k x).bringUp = s.bringUp := rfl
@[simp] theorem State.setRetain_peerOrder (s : State) (d r k : Nat) (x : Word) : (s.setRetain d r k x).peerOrder = s.peerOrder := rfl
@[simp] theorem State.setRetain_nextId (s : State) (d r k : Nat) (x : Word) : (s.setRetain d r k x).nextId = s.nextId := rfl
@[simp] theorem State.setRetain_useTick (s : State) (d r k : Nat) (x : Word) : (s.setRetain d r k x).useTick = s.useTick := rfl
@[simp] theorem State.setRetain_floorMs (s : State) (d r k : Nat) (x : Word) : (s.setRetain d r k x).floorMs = s.floorMs := rfl
@[simp] theorem State.setRetain_out (s : State) (d r k : Nat) (x : Word) : (s.setRetain d r k x).out = s.out := rfl
@[simp] theorem State.setRetain_focus (s : State) (d r k : Nat) (x : Word) : (s.setRetain d r k x).focus = s.focus := rfl
@[simp] theorem State.setRetain_agenda (s : State) (d r k : Nat) (x : Word) : (s.setRetain d r k x).agenda = s.agenda := rfl
@[simp] theorem State.setRetain_free (s : State) (d r k : Nat) (x : Word) : (s.setRetain d r k x).free = s.free := rfl

@[simp] theorem State.takeAgenda_mem (s : State) (k : Nat) : (s.takeAgenda k).mem = s.mem := rfl
@[simp] theorem State.takeAgenda_poison (s : State) (k : Nat) : (s.takeAgenda k).poison = s.poison := rfl
@[simp] theorem State.takeAgenda_mmio (s : State) (k : Nat) : (s.takeAgenda k).mmio = s.mmio := rfl
@[simp] theorem State.takeAgenda_now (s : State) (k : Nat) : (s.takeAgenda k).now = s.now := rfl
@[simp] theorem State.takeAgenda_locked (s : State) (k : Nat) : (s.takeAgenda k).locked = s.locked := rfl
@[simp] theorem State.takeAgenda_sinceSync (s : State) (k : Nat) : (s.takeAgenda k).sinceSync = s.sinceSync := rfl
@[simp] theorem State.takeAgenda_clocksStopped (s : State) (k : Nat) : (s.takeAgenda k).clocksStopped = s.clocksStopped := rfl
@[simp] theorem State.takeAgenda_keysErased (s : State) (k : Nat) : (s.takeAgenda k).keysErased = s.keysErased := rfl
@[simp] theorem State.takeAgenda_debugFails (s : State) (k : Nat) : (s.takeAgenda k).debugFails = s.debugFails := rfl
@[simp] theorem State.takeAgenda_hostCxl (s : State) (k : Nat) : (s.takeAgenda k).hostCxl = s.hostCxl := rfl
@[simp] theorem State.takeAgenda_hostLines (s : State) (k : Nat) : (s.takeAgenda k).hostLines = s.hostLines := rfl
@[simp] theorem State.takeAgenda_peerSeq (s : State) (k : Nat) : (s.takeAgenda k).peerSeq = s.peerSeq := rfl
@[simp] theorem State.takeAgenda_satFlags (s : State) (k : Nat) : (s.takeAgenda k).satFlags = s.satFlags := rfl
@[simp] theorem State.takeAgenda_nodes (s : State) (k : Nat) : (s.takeAgenda k).nodes = s.nodes := rfl
@[simp] theorem State.takeAgenda_mts (s : State) (k : Nat) : (s.takeAgenda k).mts = s.mts := rfl
@[simp] theorem State.takeAgenda_ports (s : State) (k : Nat) : (s.takeAgenda k).ports = s.ports := rfl
@[simp] theorem State.takeAgenda_edges (s : State) (k : Nat) : (s.takeAgenda k).edges = s.edges := rfl
@[simp] theorem State.takeAgenda_bounds (s : State) (k : Nat) : (s.takeAgenda k).bounds = s.bounds := rfl
@[simp] theorem State.takeAgenda_tbars (s : State) (k : Nat) : (s.takeAgenda k).tbars = s.tbars := rfl
@[simp] theorem State.takeAgenda_regions (s : State) (k : Nat) : (s.takeAgenda k).regions = s.regions := rfl
@[simp] theorem State.takeAgenda_launches (s : State) (k : Nat) : (s.takeAgenda k).launches = s.launches := rfl
@[simp] theorem State.takeAgenda_saves (s : State) (k : Nat) : (s.takeAgenda k).saves = s.saves := rfl
@[simp] theorem State.takeAgenda_ctxRun (s : State) (k : Nat) : (s.takeAgenda k).ctxRun = s.ctxRun := rfl
@[simp] theorem State.takeAgenda_bringUp (s : State) (k : Nat) : (s.takeAgenda k).bringUp = s.bringUp := rfl
@[simp] theorem State.takeAgenda_peerOrder (s : State) (k : Nat) : (s.takeAgenda k).peerOrder = s.peerOrder := rfl
@[simp] theorem State.takeAgenda_dies (s : State) (k : Nat) : (s.takeAgenda k).dies = s.dies := rfl
@[simp] theorem State.takeAgenda_nextId (s : State) (k : Nat) : (s.takeAgenda k).nextId = s.nextId := rfl
@[simp] theorem State.takeAgenda_useTick (s : State) (k : Nat) : (s.takeAgenda k).useTick = s.useTick := rfl
@[simp] theorem State.takeAgenda_floorMs (s : State) (k : Nat) : (s.takeAgenda k).floorMs = s.floorMs := rfl
@[simp] theorem State.takeAgenda_out (s : State) (k : Nat) : (s.takeAgenda k).out = s.out := rfl
@[simp] theorem State.takeAgenda_focus (s : State) (k : Nat) : (s.takeAgenda k).focus = s.focus := rfl
@[simp] theorem State.takeAgenda_free (s : State) (k : Nat) : (s.takeAgenda k).free = s.free := rfl

@[simp] theorem State.pick_mem (s : State) (n : Nat) : (s.pick n).2.mem = s.mem := rfl
@[simp] theorem State.pick_poison (s : State) (n : Nat) : (s.pick n).2.poison = s.poison := rfl
@[simp] theorem State.pick_mmio (s : State) (n : Nat) : (s.pick n).2.mmio = s.mmio := rfl
@[simp] theorem State.pick_now (s : State) (n : Nat) : (s.pick n).2.now = s.now := rfl
@[simp] theorem State.pick_locked (s : State) (n : Nat) : (s.pick n).2.locked = s.locked := rfl
@[simp] theorem State.pick_sinceSync (s : State) (n : Nat) : (s.pick n).2.sinceSync = s.sinceSync := rfl
@[simp] theorem State.pick_clocksStopped (s : State) (n : Nat) : (s.pick n).2.clocksStopped = s.clocksStopped := rfl
@[simp] theorem State.pick_keysErased (s : State) (n : Nat) : (s.pick n).2.keysErased = s.keysErased := rfl
@[simp] theorem State.pick_debugFails (s : State) (n : Nat) : (s.pick n).2.debugFails = s.debugFails := rfl
@[simp] theorem State.pick_hostCxl (s : State) (n : Nat) : (s.pick n).2.hostCxl = s.hostCxl := rfl
@[simp] theorem State.pick_hostLines (s : State) (n : Nat) : (s.pick n).2.hostLines = s.hostLines := rfl
@[simp] theorem State.pick_peerSeq (s : State) (n : Nat) : (s.pick n).2.peerSeq = s.peerSeq := rfl
@[simp] theorem State.pick_satFlags (s : State) (n : Nat) : (s.pick n).2.satFlags = s.satFlags := rfl
@[simp] theorem State.pick_nodes (s : State) (n : Nat) : (s.pick n).2.nodes = s.nodes := rfl
@[simp] theorem State.pick_mts (s : State) (n : Nat) : (s.pick n).2.mts = s.mts := rfl
@[simp] theorem State.pick_ports (s : State) (n : Nat) : (s.pick n).2.ports = s.ports := rfl
@[simp] theorem State.pick_edges (s : State) (n : Nat) : (s.pick n).2.edges = s.edges := rfl
@[simp] theorem State.pick_bounds (s : State) (n : Nat) : (s.pick n).2.bounds = s.bounds := rfl
@[simp] theorem State.pick_tbars (s : State) (n : Nat) : (s.pick n).2.tbars = s.tbars := rfl
@[simp] theorem State.pick_regions (s : State) (n : Nat) : (s.pick n).2.regions = s.regions := rfl
@[simp] theorem State.pick_launches (s : State) (n : Nat) : (s.pick n).2.launches = s.launches := rfl
@[simp] theorem State.pick_saves (s : State) (n : Nat) : (s.pick n).2.saves = s.saves := rfl
@[simp] theorem State.pick_ctxRun (s : State) (n : Nat) : (s.pick n).2.ctxRun = s.ctxRun := rfl
@[simp] theorem State.pick_bringUp (s : State) (n : Nat) : (s.pick n).2.bringUp = s.bringUp := rfl
@[simp] theorem State.pick_peerOrder (s : State) (n : Nat) : (s.pick n).2.peerOrder = s.peerOrder := rfl
@[simp] theorem State.pick_dies (s : State) (n : Nat) : (s.pick n).2.dies = s.dies := rfl
@[simp] theorem State.pick_nextId (s : State) (n : Nat) : (s.pick n).2.nextId = s.nextId := rfl
@[simp] theorem State.pick_useTick (s : State) (n : Nat) : (s.pick n).2.useTick = s.useTick := rfl
@[simp] theorem State.pick_floorMs (s : State) (n : Nat) : (s.pick n).2.floorMs = s.floorMs := rfl
@[simp] theorem State.pick_out (s : State) (n : Nat) : (s.pick n).2.out = s.out := rfl
@[simp] theorem State.pick_focus (s : State) (n : Nat) : (s.pick n).2.focus = s.focus := rfl
@[simp] theorem State.pick_agenda (s : State) (n : Nat) : (s.pick n).2.agenda = s.agenda := rfl

@[simp] theorem State.pickWord_mem (s : State) : (s.pickWord).2.mem = s.mem := rfl
@[simp] theorem State.pickWord_poison (s : State) : (s.pickWord).2.poison = s.poison := rfl
@[simp] theorem State.pickWord_mmio (s : State) : (s.pickWord).2.mmio = s.mmio := rfl
@[simp] theorem State.pickWord_now (s : State) : (s.pickWord).2.now = s.now := rfl
@[simp] theorem State.pickWord_locked (s : State) : (s.pickWord).2.locked = s.locked := rfl
@[simp] theorem State.pickWord_sinceSync (s : State) : (s.pickWord).2.sinceSync = s.sinceSync := rfl
@[simp] theorem State.pickWord_clocksStopped (s : State) : (s.pickWord).2.clocksStopped = s.clocksStopped := rfl
@[simp] theorem State.pickWord_keysErased (s : State) : (s.pickWord).2.keysErased = s.keysErased := rfl
@[simp] theorem State.pickWord_debugFails (s : State) : (s.pickWord).2.debugFails = s.debugFails := rfl
@[simp] theorem State.pickWord_hostCxl (s : State) : (s.pickWord).2.hostCxl = s.hostCxl := rfl
@[simp] theorem State.pickWord_hostLines (s : State) : (s.pickWord).2.hostLines = s.hostLines := rfl
@[simp] theorem State.pickWord_peerSeq (s : State) : (s.pickWord).2.peerSeq = s.peerSeq := rfl
@[simp] theorem State.pickWord_satFlags (s : State) : (s.pickWord).2.satFlags = s.satFlags := rfl
@[simp] theorem State.pickWord_nodes (s : State) : (s.pickWord).2.nodes = s.nodes := rfl
@[simp] theorem State.pickWord_mts (s : State) : (s.pickWord).2.mts = s.mts := rfl
@[simp] theorem State.pickWord_ports (s : State) : (s.pickWord).2.ports = s.ports := rfl
@[simp] theorem State.pickWord_edges (s : State) : (s.pickWord).2.edges = s.edges := rfl
@[simp] theorem State.pickWord_bounds (s : State) : (s.pickWord).2.bounds = s.bounds := rfl
@[simp] theorem State.pickWord_tbars (s : State) : (s.pickWord).2.tbars = s.tbars := rfl
@[simp] theorem State.pickWord_regions (s : State) : (s.pickWord).2.regions = s.regions := rfl
@[simp] theorem State.pickWord_launches (s : State) : (s.pickWord).2.launches = s.launches := rfl
@[simp] theorem State.pickWord_saves (s : State) : (s.pickWord).2.saves = s.saves := rfl
@[simp] theorem State.pickWord_ctxRun (s : State) : (s.pickWord).2.ctxRun = s.ctxRun := rfl
@[simp] theorem State.pickWord_bringUp (s : State) : (s.pickWord).2.bringUp = s.bringUp := rfl
@[simp] theorem State.pickWord_peerOrder (s : State) : (s.pickWord).2.peerOrder = s.peerOrder := rfl
@[simp] theorem State.pickWord_dies (s : State) : (s.pickWord).2.dies = s.dies := rfl
@[simp] theorem State.pickWord_nextId (s : State) : (s.pickWord).2.nextId = s.nextId := rfl
@[simp] theorem State.pickWord_useTick (s : State) : (s.pickWord).2.useTick = s.useTick := rfl
@[simp] theorem State.pickWord_floorMs (s : State) : (s.pickWord).2.floorMs = s.floorMs := rfl
@[simp] theorem State.pickWord_out (s : State) : (s.pickWord).2.out = s.out := rfl
@[simp] theorem State.pickWord_focus (s : State) : (s.pickWord).2.focus = s.focus := rfl
@[simp] theorem State.pickWord_agenda (s : State) : (s.pickWord).2.agenda = s.agenda := rfl

@[simp] theorem State.fresh_mem (s : State) : (s.fresh).2.mem = s.mem := rfl
@[simp] theorem State.fresh_poison (s : State) : (s.fresh).2.poison = s.poison := rfl
@[simp] theorem State.fresh_mmio (s : State) : (s.fresh).2.mmio = s.mmio := rfl
@[simp] theorem State.fresh_now (s : State) : (s.fresh).2.now = s.now := rfl
@[simp] theorem State.fresh_locked (s : State) : (s.fresh).2.locked = s.locked := rfl
@[simp] theorem State.fresh_sinceSync (s : State) : (s.fresh).2.sinceSync = s.sinceSync := rfl
@[simp] theorem State.fresh_clocksStopped (s : State) : (s.fresh).2.clocksStopped = s.clocksStopped := rfl
@[simp] theorem State.fresh_keysErased (s : State) : (s.fresh).2.keysErased = s.keysErased := rfl
@[simp] theorem State.fresh_debugFails (s : State) : (s.fresh).2.debugFails = s.debugFails := rfl
@[simp] theorem State.fresh_hostCxl (s : State) : (s.fresh).2.hostCxl = s.hostCxl := rfl
@[simp] theorem State.fresh_hostLines (s : State) : (s.fresh).2.hostLines = s.hostLines := rfl
@[simp] theorem State.fresh_peerSeq (s : State) : (s.fresh).2.peerSeq = s.peerSeq := rfl
@[simp] theorem State.fresh_satFlags (s : State) : (s.fresh).2.satFlags = s.satFlags := rfl
@[simp] theorem State.fresh_nodes (s : State) : (s.fresh).2.nodes = s.nodes := rfl
@[simp] theorem State.fresh_mts (s : State) : (s.fresh).2.mts = s.mts := rfl
@[simp] theorem State.fresh_ports (s : State) : (s.fresh).2.ports = s.ports := rfl
@[simp] theorem State.fresh_edges (s : State) : (s.fresh).2.edges = s.edges := rfl
@[simp] theorem State.fresh_bounds (s : State) : (s.fresh).2.bounds = s.bounds := rfl
@[simp] theorem State.fresh_tbars (s : State) : (s.fresh).2.tbars = s.tbars := rfl
@[simp] theorem State.fresh_regions (s : State) : (s.fresh).2.regions = s.regions := rfl
@[simp] theorem State.fresh_launches (s : State) : (s.fresh).2.launches = s.launches := rfl
@[simp] theorem State.fresh_saves (s : State) : (s.fresh).2.saves = s.saves := rfl
@[simp] theorem State.fresh_ctxRun (s : State) : (s.fresh).2.ctxRun = s.ctxRun := rfl
@[simp] theorem State.fresh_bringUp (s : State) : (s.fresh).2.bringUp = s.bringUp := rfl
@[simp] theorem State.fresh_peerOrder (s : State) : (s.fresh).2.peerOrder = s.peerOrder := rfl
@[simp] theorem State.fresh_dies (s : State) : (s.fresh).2.dies = s.dies := rfl
@[simp] theorem State.fresh_useTick (s : State) : (s.fresh).2.useTick = s.useTick := rfl
@[simp] theorem State.fresh_floorMs (s : State) : (s.fresh).2.floorMs = s.floorMs := rfl
@[simp] theorem State.fresh_out (s : State) : (s.fresh).2.out = s.out := rfl
@[simp] theorem State.fresh_focus (s : State) : (s.fresh).2.focus = s.focus := rfl
@[simp] theorem State.fresh_agenda (s : State) : (s.fresh).2.agenda = s.agenda := rfl
@[simp] theorem State.fresh_free (s : State) : (s.fresh).2.free = s.free := rfl

@[simp] theorem State.tickUse_mem (s : State) : (s.tickUse).2.mem = s.mem := rfl
@[simp] theorem State.tickUse_poison (s : State) : (s.tickUse).2.poison = s.poison := rfl
@[simp] theorem State.tickUse_mmio (s : State) : (s.tickUse).2.mmio = s.mmio := rfl
@[simp] theorem State.tickUse_now (s : State) : (s.tickUse).2.now = s.now := rfl
@[simp] theorem State.tickUse_locked (s : State) : (s.tickUse).2.locked = s.locked := rfl
@[simp] theorem State.tickUse_sinceSync (s : State) : (s.tickUse).2.sinceSync = s.sinceSync := rfl
@[simp] theorem State.tickUse_clocksStopped (s : State) : (s.tickUse).2.clocksStopped = s.clocksStopped := rfl
@[simp] theorem State.tickUse_keysErased (s : State) : (s.tickUse).2.keysErased = s.keysErased := rfl
@[simp] theorem State.tickUse_debugFails (s : State) : (s.tickUse).2.debugFails = s.debugFails := rfl
@[simp] theorem State.tickUse_hostCxl (s : State) : (s.tickUse).2.hostCxl = s.hostCxl := rfl
@[simp] theorem State.tickUse_hostLines (s : State) : (s.tickUse).2.hostLines = s.hostLines := rfl
@[simp] theorem State.tickUse_peerSeq (s : State) : (s.tickUse).2.peerSeq = s.peerSeq := rfl
@[simp] theorem State.tickUse_satFlags (s : State) : (s.tickUse).2.satFlags = s.satFlags := rfl
@[simp] theorem State.tickUse_nodes (s : State) : (s.tickUse).2.nodes = s.nodes := rfl
@[simp] theorem State.tickUse_mts (s : State) : (s.tickUse).2.mts = s.mts := rfl
@[simp] theorem State.tickUse_ports (s : State) : (s.tickUse).2.ports = s.ports := rfl
@[simp] theorem State.tickUse_edges (s : State) : (s.tickUse).2.edges = s.edges := rfl
@[simp] theorem State.tickUse_bounds (s : State) : (s.tickUse).2.bounds = s.bounds := rfl
@[simp] theorem State.tickUse_tbars (s : State) : (s.tickUse).2.tbars = s.tbars := rfl
@[simp] theorem State.tickUse_regions (s : State) : (s.tickUse).2.regions = s.regions := rfl
@[simp] theorem State.tickUse_launches (s : State) : (s.tickUse).2.launches = s.launches := rfl
@[simp] theorem State.tickUse_saves (s : State) : (s.tickUse).2.saves = s.saves := rfl
@[simp] theorem State.tickUse_ctxRun (s : State) : (s.tickUse).2.ctxRun = s.ctxRun := rfl
@[simp] theorem State.tickUse_bringUp (s : State) : (s.tickUse).2.bringUp = s.bringUp := rfl
@[simp] theorem State.tickUse_peerOrder (s : State) : (s.tickUse).2.peerOrder = s.peerOrder := rfl
@[simp] theorem State.tickUse_dies (s : State) : (s.tickUse).2.dies = s.dies := rfl
@[simp] theorem State.tickUse_nextId (s : State) : (s.tickUse).2.nextId = s.nextId := rfl
@[simp] theorem State.tickUse_floorMs (s : State) : (s.tickUse).2.floorMs = s.floorMs := rfl
@[simp] theorem State.tickUse_out (s : State) : (s.tickUse).2.out = s.out := rfl
@[simp] theorem State.tickUse_focus (s : State) : (s.tickUse).2.focus = s.focus := rfl
@[simp] theorem State.tickUse_agenda (s : State) : (s.tickUse).2.agenda = s.agenda := rfl
@[simp] theorem State.tickUse_free (s : State) : (s.tickUse).2.free = s.free := rfl

/-! What the update of a field leaves in it. -/

@[simp] theorem State.setNode_nodes (s : State) (t : Nat) (n : Node) : (s.setNode t n).nodes = s.nodes.set t n := rfl
@[simp] theorem State.putHere_nodes (s : State) (n : Node) : (s.putHere n).nodes = s.nodes.set s.focus n := rfl
@[simp] theorem State.post_agenda (s : State) (i : Instr) : (s.post i).agenda = s.agenda ++ [i] := rfl
@[simp] theorem State.hand_out (s : State) (m : OutMsg) : (s.hand m).out = s.out ++ [m] := rfl
@[simp] theorem State.poke_mem (s : State) (k n x : Nat) : (s.poke k n x).mem = Memory.write s.mem k (toBytes x n) := rfl

end Sys2Proof.Machine
end

