-- ==== Sys2Proof/Laws/Table.lean ====
section
/-! SUPPORT. Reading back what was written: sparse tables, and vectors of the state. -/

namespace Sys2Proof

theorem Tbl.get?_insert_self {α : Type} (k : Nat) (x : α) (t : Tbl α) (h : Tbl.get? k t = none) :
    Tbl.get? k (Tbl.insert k x t) = some x := by
  induction t with
  | nil => simp [Tbl.insert, Tbl.get?]
  | cons p t ih =>
    obtain ⟨j, y⟩ := p
    by_cases hj : j = k
    · simp [Tbl.get?, hj] at h
    · simp only [Tbl.get?, hj, if_false] at h
      unfold Tbl.insert
      split <;> simp [Tbl.get?, hj, ih h]

theorem Tbl.get?_insert_ne {α : Type} {k j : Nat} (x : α) (t : Tbl α) (h : j ≠ k) :
    Tbl.get? j (Tbl.insert k x t) = Tbl.get? j t := by
  induction t with
  | nil => simp [Tbl.insert, Tbl.get?, Ne.symm h]
  | cons p t ih =>
    obtain ⟨i, y⟩ := p
    unfold Tbl.insert
    split <;> simp [Tbl.get?, Ne.symm h, ih]

theorem Tbl.get?_erase_self {α : Type} (k : Nat) (t : Tbl α) : Tbl.get? k (Tbl.erase k t) = none := by
  induction t with
  | nil => rfl
  | cons p t ih =>
    obtain ⟨j, y⟩ := p
    by_cases hj : j = k <;> simp [Tbl.erase, Tbl.get?, hj, ih]

theorem Tbl.get?_erase_ne {α : Type} {k j : Nat} (t : Tbl α) (h : j ≠ k) :
    Tbl.get? j (Tbl.erase k t) = Tbl.get? j t := by
  induction t with
  | nil => rfl
  | cons p t ih =>
    obtain ⟨i, y⟩ := p
    by_cases hi : i = k
    · simp [Tbl.erase, Tbl.get?, hi, ih, Ne.symm h]
    · simp [Tbl.erase, Tbl.get?, hi, ih]

/-- A table gives back what was written at a key. -/
@[simp] theorem Tbl.get?_set_self {α : Type} (t : Tbl α) (k : Nat) (x : α) : Tbl.get? k (t.set k x) = some x :=
  Tbl.get?_insert_self k x _ (Tbl.get?_erase_self k t)

/-- A write at a key leaves every other key as it was. -/
theorem Tbl.get?_set_ne {α : Type} {j k : Nat} (t : Tbl α) (x : α) (h : j ≠ k) :
    Tbl.get? j (t.set k x) = Tbl.get? j t := by
  rw [Tbl.set, Tbl.get?_insert_ne x _ h, Tbl.get?_erase_ne t h]

/-- Erasing an absent key changes nothing. -/
theorem Tbl.erase_absent {α : Type} (k : Nat) (t : Tbl α) (h : Tbl.get? k t = none) : Tbl.erase k t = t := by
  induction t with
  | nil => rfl
  | cons a t ih =>
    obtain ⟨j, y⟩ := a
    by_cases e : j = k
    · simp [Tbl.get?, e] at h
    · simp only [Tbl.get?, e, if_false] at h
      simp [Tbl.erase, e, ih h]

/-- Erasing what was inserted gives the table back. -/
theorem Tbl.erase_insert {α : Type} (k : Nat) (x : α) (t : Tbl α) (h : Tbl.get? k t = none) :
    Tbl.erase k (Tbl.insert k x t) = t := by
  induction t with
  | nil => simp [Tbl.insert, Tbl.erase]
  | cons a t ih =>
    obtain ⟨j, y⟩ := a
    have e : j ≠ k := fun e => by simp [Tbl.get?, e] at h
    have g : Tbl.get? k t = none := by simpa [Tbl.get?, e] using h
    by_cases c : k < j
    · simp [Tbl.insert, Tbl.erase, c, e, Tbl.erase_absent k t g]
    · simp [Tbl.insert, Tbl.erase, c, e, ih g]

/-- The later of two writes of a key stands. -/
@[simp] theorem Tbl.set_set {α : Type} (t : Tbl α) (k : Nat) (x y : α) : (t.set k x).set k y = t.set k y := by
  unfold Tbl.set
  rw [Tbl.erase_insert k x _ (Tbl.get?_erase_self k t)]

theorem Tbl.get?_modify_ne {α : Type} {j k : Nat} (t : Tbl α) (f : α → α) (h : j ≠ k) :
    Tbl.get? j (t.modify k f) = Tbl.get? j t := by
  unfold Tbl.modify
  split
  · rfl
  · exact Tbl.get?_set_ne t _ h

theorem Tbl.get?_modify_self {α : Type} (t : Tbl α) (k : Nat) (f : α → α) :
    Tbl.get? k (t.modify k f) = (Tbl.get? k t).map f := by
  unfold Tbl.modify
  split
  · simp [*]
  · simp [*]

end Sys2Proof

namespace Sys2Proof.Machine

theorem vget_vset_self {α : Type} {n : Nat} (v : Vector α n) (i : Nat) (x d : α) (h : i < n) :
    vget (vset v i x) i d = x := by
  simp [vget, vset, Vector.toList, h]

theorem vget_vset_ne {α : Type} {n : Nat} (v : Vector α n) {i j : Nat} (x d : α) (h : i ≠ j) :
    vget (vset v i x) j d = vget v j d := by
  simp [vget, vset, Vector.toList, List.getElem?_set_ne h]

/-- A node written at a tile is read back there. -/
@[simp] theorem State.node?_setNode_self (s : State) (t : Nat) (n : Node) : (s.setNode t n).node? t = some n :=
  Tbl.get?_set_self _ _ _

/-- A node written at a tile leaves every other tile's node as it was. -/
theorem State.node?_setNode_ne (s : State) {t u : Nat} (n : Node) (h : u ≠ t) : (s.setNode t n).node? u = s.node? u :=
  Tbl.get?_set_ne _ _ h

/-- The later of two writes of a node stands. -/
@[simp] theorem State.setNode_setNode (s : State) (t : Nat) (m n : Node) : (s.setNode t m).setNode t n = s.setNode t n := by
  unfold State.setNode
  simp

/-- The later of two writes of the running node stands. -/
@[simp] theorem State.putHere_putHere (s : State) (m n : Node) : (s.putHere m).putHere n = s.putHere n :=
  State.setNode_setNode s s.focus m n

@[simp] theorem State.here_putHere (s : State) (n : Node) : (s.putHere n).here = some n :=
  Tbl.get?_set_self _ _ _

end Sys2Proof.Machine
end

