-- ==== Sys2Proof/Laws/Access.lean ====
section
/-! SUPPORT. What an access that ends in a value leaves as it was: translations, lookups in the caches and the directory, and
reads at a home change no byte of memory, no element and nothing of the edges and regions. Each lemma takes the frame of the
state before an operation to that of the state after it, so that a chain of operations is a chain of lemmas. -/

namespace Sys2Proof.Machine

/-- The state without what a lookup may change: the dies' tables, the MMIO registers but the module's device number, the host's
states, what was handed out, the model's counters of uses and free values, and what a security alarm changes. -/
def State.still (s : State) : State :=
  { s with
    dies := State.reset.dies, mmio := [(0, s.mmioAt 0 0x80)], hostLines := [], out := [], useTick := 0, free := 0, clocksStopped := false
    keysErased := false }

/-- A lookup's state keeps all else of the state before it. -/
def State.Kept (s t : State) : Prop := t.still = s.still

/-- A translation that fails gives no value. -/
theorem XErr.got_ok {α : Type} {x : XErr} {a : Word} {s u : State} {y : α} : (x.got a s : Got α) ≠ .ok y u := by
  cases x <;> intro e <;> cases e

namespace State.Kept

variable {s t : State}

theorem refl (s : State) : s.Kept s := rfl

theorem mem (h : s.Kept t) : t.mem = s.mem := by
  have e : t.still.mem = s.still.mem := by rw [show t.still = s.still from h]
  exact e

theorem poison (h : s.Kept t) : t.poison = s.poison := by
  have e : t.still.poison = s.still.poison := by rw [show t.still = s.still from h]
  exact e

theorem nodes (h : s.Kept t) : t.nodes = s.nodes := by
  have e : t.still.nodes = s.still.nodes := by rw [show t.still = s.still from h]
  exact e

theorem focus (h : s.Kept t) : t.focus = s.focus := by
  have e : t.still.focus = s.still.focus := by rw [show t.still = s.still from h]
  exact e

theorem agenda (h : s.Kept t) : t.agenda = s.agenda := by
  have e : t.still.agenda = s.still.agenda := by rw [show t.still = s.still from h]
  exact e

theorem dom (h : s.Kept t) : t.dom = s.dom := by
  have e : t.still.mmio = s.still.mmio := by rw [show t.still = s.still from h]
  have f : t.mmioAt 0 0x80 = s.mmioAt 0 0x80 := by
    have g : [((0 : Nat), t.mmioAt 0 0x80)] = [(0, s.mmioAt 0 0x80)] := e
    simpa using g
  unfold State.dom
  rw [f]

theorem here (h : s.Kept t) : t.here = s.here := by
  unfold State.here State.node?
  rw [h.nodes, h.focus]

/-- A fold of steps that keep it keeps it. -/
theorem foldl {α : Type} (h : s.Kept t) (f : State → α → State) (l : List α)
    (k : ∀ (t : State) (x : α), s.Kept t → s.Kept (f t x)) : s.Kept (l.foldl f t) := by
  induction l generalizing t with
  | nil => exact h
  | cons a l ih => exact ih (k t a h)

theorem setDie (h : s.Kept t) {d : Nat} {x : Die} : s.Kept (t.setDie d x) := h
theorem modDie (h : s.Kept t) {d : Nat} {f : Die → Die} : s.Kept (t.modDie d f) := h

theorem setMmio (h : s.Kept t) {o : Nat} {x : Word} (k : (0x80 : Nat) ≠ o := by decide) : s.Kept (t.setMmio 0 o x) := by
  have e : (t.setMmio 0 o x).mmioAt 0 0x80 = t.mmioAt 0 0x80 := by
    unfold State.setMmio State.mmioAt Tbl.getD
    simp only [Nat.zero_mul, Nat.zero_add]
    split
    · rw [Tbl.get?_erase_ne _ k]
    · rw [Tbl.get?_set_ne _ _ k]
  have f : (t.setMmio 0 o x).still = t.still := by
    unfold State.still
    rw [e]
    rfl
  exact f.trans h

theorem tickUse (h : s.Kept t) : s.Kept t.tickUse.2 := h
theorem useAt (h : s.Kept t) {b : Bool} : s.Kept (t.useAt b).2 := h
theorem hand (h : s.Kept t) {m : OutMsg} : s.Kept (t.hand m) := h
theorem pick (h : s.Kept t) {n : Nat} : s.Kept (t.pick n).2 := h
theorem pickWord (h : s.Kept t) : s.Kept t.pickWord.2 := h
theorem setHostLine (h : s.Kept t) {l : Nat} {x : Mesi} : s.Kept (t.setHostLine l x) := h
theorem setCache (h : s.Kept t) {k : Nat} {c : TileCache} : s.Kept (t.setCache k c) := h.modDie
theorem setL1 (h : s.Kept t) {k j : Nat} {l : L1Line} : s.Kept (t.setL1 k j l) := h.setCache
theorem setDir (h : s.Kept t) {d k : Nat} {e : DirEntry} : s.Kept (t.setDir d k e) := h.modDie
theorem l2Dirty (h : s.Kept t) {d k : Nat} : s.Kept (t.l2Dirty d k) := h.modDie
theorem setRetain (h : s.Kept t) {d r k : Nat} {v : Word} : s.Kept (t.setRetain d r k v) := h.modDie
theorem bumpRetain (h : s.Kept t) {d r k : Nat} : s.Kept (t.bumpRetain d r k) := h.setRetain

theorem touch (h : s.Kept t) {k : Nat} : s.Kept (t.touch k) := by
  unfold State.touch
  split
  · exact h.setMmio
  · exact h

theorem event (h : s.Kept t) {d ty k : Nat} {c : BitVec 12} {x y : Word} : s.Kept (t.event d ty c k x y) := by
  unfold State.event
  simp only
  split
  · exact h
  · exact h

theorem freezeAll (h : s.Kept t) :
    s.Kept ((List.range 4).foldl (fun s d => s.modDie d fun x => { x with evFrozen := true }) t) :=
  h.foldl _ _ fun _ _ k => k.modDie

theorem alarmAct (h : s.Kept t) : s.Kept t.alarmAct := by
  unfold State.alarmAct
  simp only
  split
  · exact h
  · split
    · have k : s.Kept { t with keysErased := true } := h
      exact k.freezeAll
    · exact h.freezeAll

theorem alarm (h : s.Kept t) {b : Nat} : s.Kept (t.alarm b) := by
  unfold State.alarm
  simp only
  exact (State.Kept.setMmio h).pick.event.alarmAct

theorem rightsWord (h : s.Kept t) {d k : Nat} {m : Master} : s.Kept (t.rightsWord d k m).2 := by
  unfold State.rightsWord
  simp only
  split
  · exact h
  · exact h.modDie.touch

theorem right (h : s.Kept t) {d k : Nat} {m : Master} {pa : Nat} : s.Kept (t.right d k m pa).2 := by
  unfold State.right
  split
  · split
    · exact h
    · exact h.rightsWord
  · exact h

theorem check (h : s.Kept t) {d k : Nat} {m : Master} {pa need : Nat} : s.Kept (t.check d k m pa need).2 := by
  unfold State.check
  simp only
  split
  · exact h.right
  · simp only
    split
    · exact h.right.alarm
    · exact h.right

theorem checkAll {m : Master} {pa need : Nat} {l : List (Nat × Nat)} (h : s.Kept t) : s.Kept (t.checkAll m pa need l).2 := by
  induction l generalizing t with
  | nil => exact h
  | cons a l ih =>
    unfold State.checkAll
    simp only
    split
    · exact ih h.check
    · exact h.check

theorem permit (h : s.Kept t) {d : Nat} {m : Master} {pa need : Nat} : s.Kept (t.permit d m pa need).2 := by
  unfold State.permit
  split
  · exact h
  · exact h.checkAll

/-! ### The directory, the L2 and the L1 -/

theorem modHolder (h : s.Kept t) {d p ln : Nat} {f : L1Line → L1Line} : s.Kept (t.modHolder d p ln f) := by
  unfold State.modHolder
  split
  · exact h
  · exact h.setL1

theorem dirShare (h : s.Kept t) {d ln : Nat} {w : Word32} : s.Kept (t.dirShare d ln w) :=
  h.foldl _ _ fun _ _ k => k.modHolder

theorem recallHost (h : s.Kept t) {ln : Nat} : s.Kept (t.recallHost ln) := by
  unfold State.recallHost
  split
  · exact h
  · exact h

theorem l2DirtyIf (h : s.Kept t) {d ln : Nat} {b : Bool} : s.Kept (if b = true then t.l2Dirty d ln else t) := by
  split
  · exact h.l2Dirty
  · exact h

theorem dirInval (h : s.Kept t) {d ln : Nat} {keep : Option Nat} {w : Word32} : s.Kept (t.dirInval d ln keep w) := by
  unfold State.dirInval
  simp only
  refine setDir (foldl (l2DirtyIf h.recallHost) _ _ fun u p k => ?_)
  split
  · exact k
  · exact k.modHolder

theorem l2Evict (h : s.Kept t) {d ln : Nat} : s.Kept (t.l2Evict d ln) := h.dirInval.modDie

theorem l2Fill (h : s.Kept t) {d ln : Nat} {lru : Bool} : s.Kept (t.l2Fill d ln lru) := by
  unfold State.l2Fill
  simp only
  have k : s.Kept (if ((t.die d).l2.filter fun p => l2Set p.1 = l2Set ln).length < 16 then t
      else match lruOf (·.use) (((t.die d).l2.filter fun p => l2Set p.1 = l2Set ln).filter fun p =>
          p.2.prot.isNone && p.2.code.isNone && p.2.fetchPins = 0) with
        | none => t
        | some v => t.l2Evict d v.1) := by
    split
    · exact h
    · split
      · exact h
      · exact h.l2Evict
  generalize (if ((t.die d).l2.filter fun p => l2Set p.1 = l2Set ln).length < 16 then t
      else match lruOf (·.use) (((t.die d).l2.filter fun p => l2Set p.1 = l2Set ln).filter fun p =>
          p.2.prot.isNone && p.2.code.isNone && p.2.fetchPins = 0) with
        | none => t
        | some v => t.l2Evict d v.1) = u at k ⊢
  generalize (t.die d).windowOf ln = w
  cases w with
  | none => exact k.useAt.modDie
  | some w =>
    simp only
    split
    · exact k.useAt.modDie
    · exact k.useAt.modDie.bumpRetain

theorem l2Use (h : s.Kept t) {d ln : Nat} {lru : Bool} : s.Kept (t.l2Use d ln lru) := by
  unfold State.l2Use
  split
  · exact h.l2Fill
  · simp only
    split
    · exact h.tickUse.modDie.bumpRetain
    · exact h.tickUse.modDie

theorem l1Evict (h : s.Kept t) {k j : Nat} : s.Kept (t.l1Evict k j) := by
  unfold State.l1Evict
  simp only
  split
  · exact h.setL1
  · split
    · exact h.setL1.l2Dirty.setDir
    · exact h.setL1.l2Dirty

theorem l1Fit (h : s.Kept t) {k j free : Nat} {w : Tbl WinLine} : s.Kept (t.l1Fit k j free w) := by
  unfold State.l1Fit
  split
  · exact h
  · split
    · exact h
    · exact h.l1Evict

theorem l1Room (h : s.Kept t) {k j : Nat} : s.Kept (t.l1Room k j) := by
  unfold State.l1Room
  split
  · exact h
  · exact h.l1Fit

theorem dirRead (h : s.Kept t) {k ln : Nat} {w : Word32} {lru : Bool} : s.Kept (t.dirRead k ln w lru) := by
  unfold State.dirRead
  simp only
  split
  · exact h.l1Room.dirShare.useAt.setL1
  · exact h.l1Room.dirShare.setDir.useAt.setL1

/-! ### The RDC -/

theorem rebase (h : s.Kept t) {d sl ix n : Nat} {r : Bool} : s.Kept (t.rebase d sl r ix n) := h.modDie
theorem timeStamp (h : s.Kept t) {d sl : Nat} : s.Kept (t.timeStamp d sl).2 := h.rebase

theorem roundBase (h : s.Kept t) {d sl k r : Nat} {c : BitVec 12} : s.Kept (t.roundBase d sl c k r).2 := by
  unfold State.roundBase
  have j : s.Kept { t with useTick := t.useTick + 1 } := h
  simp only
  split
  · exact j.modDie
  · exact j.modDie

theorem roundStamp (h : s.Kept t) {d sl k r : Nat} {c : BitVec 12} : s.Kept (t.roundStamp d sl c k r).2 := h.roundBase.rebase

theorem rdcPut (h : s.Kept t) {d k : Nat} {w : Word32} {v : Vec} {st : Stamp} {lru : Bool} :
    s.Kept (t.rdcPut d k w v st lru) := by
  unfold State.rdcPut
  simp only
  split
  · exact h
  · exact h.useAt.modDie

theorem useRdc (h : s.Kept t) {d k : Nat} : s.Kept (t.useRdc d k) := h.tickUse.modDie
theorem useL1 (h : s.Kept t) {k j : Nat} : s.Kept (t.useL1 k j) := h.tickUse.setL1

theorem fillRemote (h : s.Kept t) {k j : Nat} {w : Word32} {v : Vec} {r : Option (Nat × Nat)} {lru : Bool} :
    s.Kept (t.fillRemote k j w v r lru) := by
  unfold State.fillRemote
  simp only
  exact h.l1Room.useAt.setL1

theorem fillRemoteIf (h : s.Kept t) {k j : Nat} {w : Word32} {v : Vec} {r : Option (Nat × Nat)} {lru b : Bool} :
    s.Kept (if b = true then t.fillRemote k j w v r lru else t) := by
  split
  · exact h.fillRemote
  · exact h

/-! ### Reads at a home -/

theorem dropL1 (h : s.Kept t) {d k : Nat} : s.Kept (t.dropL1 d k) := h.foldl _ _ fun _ _ k => k.l1Evict.setL1

theorem dropLine (h : s.Kept t) {k : Nat} : s.Kept (t.dropLine k) := h.foldl _ _ fun _ _ k => k.dropL1.modDie

theorem hostReq (h : s.Kept t) {l what ln : Nat} : s.Kept (t.hostReq l what ln) := by
  unfold State.hostReq
  simp only
  split
  · split
    · exact h.hand
    · exact h.hand.setHostLine
  · split
    · exact h.hand.setHostLine.dropLine
    · exact h.hand

theorem homeLine (h : s.Kept t) {d : Nat} {m : Master} {k : Nat} {w : Word32} {lru share : Bool} :
    s.Kept (t.homeLine d m k w lru share).2 := by
  have got : ∀ u : State, s.Kept u → s.Kept (if u.linePoisoned k w = true then ((.error .poison, u) : Except AccErr Vec × State)
      else (.ok (u.lineAt k), u)).2 := fun u hu => by
    split
    · exact hu
    · exact hu
  unfold State.homeLine
  simp only
  split
  · exact h.permit
  · split
    · split
      · exact h.permit.touch
      · exact got _ h.permit.touch.dirShare.l2Use
    · split
      · exact h.permit.touch
      · exact got _ h.permit.touch.hostReq
    · exact got _ h.permit.touch
    · exact got _ h.permit.touch.hand
    · exact h.permit.touch
    · exact h.permit.touch

theorem homeRead (h : s.Kept t) {d : Nat} {m : Master} {pa n : Nat} {lru : Bool} : s.Kept (t.homeRead d m pa n lru).2 := by
  unfold State.homeRead
  split
  · simp only
    split
    · exact h.permit
    · exact h.permit
  · have k := h.homeLine (d := d) (m := m) (k := pa / 128) (w := bytesMask (pa % 128) n) (lru := lru) (share := false)
    split
    · rename_i e
      rw [e] at k
      exact k
    · rename_i e
      rw [e] at k
      exact k

theorem readCounter (h : s.Kept t) {d : Nat} {m : Master} {pa : Nat} : s.Kept (t.readCounter d m pa).2 := by
  unfold State.readCounter
  split
  · exact h
  · exact h.homeRead

/-! ### Translation -/

theorem tlbFill (h : s.Kept t) {d : Nat} {k : Option Nat} {e : TlbEnt} : s.Kept (t.tlbFill d k e) := by
  unfold State.tlbFill
  simp only
  split
  · exact h.modDie
  · exact h.modDie.setCache

theorem readEntry (h : s.Kept t) {d va table l : Nat} : s.Kept (t.readEntry d va table l) := by
  unfold State.readEntry
  simp only
  split
  · exact h.touch.l2Use
  · exact h.touch

theorem walkNote (h : s.Kept t) {d va l n : Nat} {c : BitVec 12} : s.Kept (t.walkNote d c va l n) := h.modDie

theorem walkFrom {d : Nat} {c : BitVec 12} {va : Nat} {kind : AccKind} {level table : Nat} (h : s.Kept t) :
    s.Kept (t.walkFrom d c va kind table level).2 := by
  induction level generalizing t table with
  | zero => exact h
  | succ l ih =>
    unfold State.walkFrom
    simp only
    split
    · exact h.readEntry
    · exact h.readEntry
    · split
      · exact h.readEntry
      · exact h.readEntry
    · exact ih h.readEntry.walkNote

theorem walk (h : s.Kept t) {d : Nat} {c : BitVec 12} {va : Nat} {kind : AccKind} : s.Kept (t.walk d c va kind).2 := by
  unfold State.walk
  split
  · exact h
  · exact h.walkFrom

theorem reissued (h : s.Kept t) {d : Nat} {r : Requester} : s.Kept (t.reissued d r) := by
  unfold State.reissued
  split
  · exact h.modDie
  · exact h

theorem missJoin (h : s.Kept t) {d page : Nat} {c : BitVec 12} {w : MissWaiter} : s.Kept (t.missJoin d c page w) := by
  unfold State.missJoin
  simp only
  split
  · exact h
  · split
    · exact h.modDie
    · split
      · exact h
      · exact h.modDie

theorem missTake (h : s.Kept t) {d page : Nat} {c : BitVec 12} {w : MissWaiter} : s.Kept (t.missTake d c page w) := h.modDie

/-- A translation that succeeds keeps all that a lookup leaves alone. -/
theorem xlate {u : State} (h : s.Kept t) {d : Nat} {tile : Option Nat} {c : BitVec 12} {va : Word} {kind : AccKind}
    {cls : BitVec 3} {assist : Word} {r : Requester} {e : TlbEnt}
    (x : t.xlate d tile c va kind cls assist r = (.ok e, u)) : s.Kept u := by
  unfold State.xlate at x
  simp only at x
  split at x
  · cases x
  · split at x
    · cases x
      exact h.reissued.tlbFill
    · split at x
      · cases x
      · split at x
        · cases x
        · split at x
          · split at x
            · cases x
            · cases x
          · cases x

theorem xlateNode {u : State} (h : s.Kept t) {tile : Nat} {n : Node} {va : Word} {kind : AccKind} {e : TlbEnt}
    (x : t.xlateNode tile n va kind = (.ok e, u)) : s.Kept u := h.xlate x

theorem xlateHint (h : s.Kept t) {d : Nat} {k : Option Nat} {c : BitVec 12} {va : Nat} {kind : AccKind} {r : Requester} :
    s.Kept (t.xlateHint d k c va kind r).2 := by
  unfold State.xlateHint
  simp only
  split
  · exact h
  · split
    · exact h.tlbFill
    · split
      · exact h.missTake
      · split
        · exact h
        · split
          · exact h
          · exact h.missJoin

/-! ### Loads -/

theorem spanFor (h : s.Kept t) {k : Nat} {w : Word32} : s.Kept (t.spanFor k w).2 := by
  unfold State.spanFor
  simp only
  exact h.pick.pick

theorem loadRemote (h : s.Kept t) {k j : Nat} {m : Master} {mark : Nat} {w : Word32} {p : Policy} {host : Bool} :
    s.Kept (t.loadRemote k j m mark w p host).2 := by
  unfold State.loadRemote
  simp only
  split
  · exact h.useL1
  · split
    · exact h.useRdc.fillRemoteIf
    · have i : s.Kept (if p = .streaming then (w, t) else t.spanFor j w).2 := by
        split
        · exact h
        · exact h.spanFor
      generalize (if p = .streaming then (w, t) else t.spanFor j w) = y at i ⊢
      have k := i.homeLine (d := dieOf k) (m := m) (k := j) (w := y.1) (lru := p.lru) (share := p.fillsL1)
      split
      · rename_i e
        rw [e] at k
        exact k
      · rename_i e
        rw [e] at k
        split
        · exact k
        · exact k.timeStamp.rdcPut.fillRemoteIf

theorem loadLine (h : s.Kept t) {k j : Nat} {m : Master} {mark : Nat} {w : Word32} {p : Policy} :
    s.Kept (t.loadLine k j m mark w p).2 := by
  unfold State.loadLine
  simp only
  split
  · split
    · split
      · exact h.useL1
      · have i : s.Kept (if p.fillsL1 then t.spanFor j w else (w, t)).2 := by
          split
          · exact h.spanFor
          · exact h
        generalize (if p.fillsL1 then t.spanFor j w else (w, t)) = y at i ⊢
        have k := i.homeLine (d := dieOf k) (m := m) (k := j) (w := y.1) (lru := p.lru) (share := false)
        split
        · rename_i e
          rw [e] at k
          exact k
        · rename_i e
          rw [e] at k
          simp only
          split
          · exact k.dirRead
          · exact k
    · exact h.loadRemote
  · split
    · exact h.loadRemote
    · exact h.homeLine
  · exact h.loadRemote
  · exact h.homeLine

theorem loadConst (h : s.Kept t) {k j : Nat} {m : Master} {w : Word32} {f : Vec → Vec} : s.Kept (t.loadConst k j m w f).2 := by
  unfold State.loadConst
  simp only
  split
  · exact h.useL1
  · have i := h.homeLine (d := dieOf k) (m := m) (k := j) (w := w) (lru := false) (share := true)
    split
    · rename_i e
      rw [e] at i
      exact i
    · rename_i e
      rw [e] at i
      split
      · exact i.l1Room.tickUse.setL1
      · exact i

theorem loadStamped (h : s.Kept t) {k j : Nat} {n : Node} {reg : Nat} {w : Word32} {p : Policy} {r : Option Nat} :
    s.Kept (t.loadStamped k j n reg w p r).2 := by
  unfold State.loadStamped
  simp only
  split
  · exact h.loadLine
  · have i := h.homeLine (d := dieOf k) (m := n.master) (k := j) (w := w) (lru := p.lru) (share := true)
    split
    · rename_i e
      rw [e] at i
      exact i
    · rename_i e
      rw [e] at i
      cases r with
      | some r => exact i.roundStamp.rdcPut.fillRemoteIf
      | none => exact i.roundBase.rdcPut

theorem loadLine_eq {u : State} (h : s.Kept t) {k j : Nat} {m : Master} {mark : Nat} {w : Word32} {p : Policy}
    {x : Except AccErr Vec} (e : t.loadLine k j m mark w p = (x, u)) : s.Kept u := by
  have i := h.loadLine (k := k) (j := j) (m := m) (mark := mark) (w := w) (p := p)
  rw [e] at i
  exact i

theorem loadConst_eq {u : State} (h : s.Kept t) {k j : Nat} {m : Master} {w : Word32} {f : Vec → Vec} {x : Except AccErr Vec}
    (e : t.loadConst k j m w f = (x, u)) : s.Kept u := by
  have i := h.loadConst (k := k) (j := j) (m := m) (w := w) (f := f)
  rw [e] at i
  exact i

theorem loadStamped_eq {u : State} (h : s.Kept t) {k j : Nat} {n : Node} {reg : Nat} {w : Word32} {p : Policy}
    {r : Option Nat} {x : Except AccErr Vec} (e : t.loadStamped k j n reg w p r = (x, u)) : s.Kept u := by
  have i := h.loadStamped (k := k) (j := j) (n := n) (reg := reg) (w := w) (p := p) (r := r)
  rw [e] at i
  exact i

theorem readCounter_eq {u : State} (h : s.Kept t) {d : Nat} {m : Master} {pa : Nat} {x : Except AccErr (List Byte)}
    (e : t.readCounter d m pa = (x, u)) : s.Kept u := by
  have i := h.readCounter (d := d) (m := m) (pa := pa)
  rw [e] at i
  exact i

theorem readRound {u : State} (h : s.Kept t) {k : Nat} {n : Node} {r : RoundRegion} {x : Nat × Nat}
    (e : t.readRound k n r = .ok x u) : s.Kept u := by
  unfold State.readRound at e
  split at e
  · exact absurd e XErr.got_ok
  · rename_i f
    have i := h.xlateNode f
    split at e
    · cases e
    · cases e
    · rename_i g
      cases e
      exact i.readCounter_eq g

theorem readReclaim {k : Nat} {n : Node} {r : RoundRegion} {c : Nat} {u : State} (h : s.Kept t) {x : Nat × Nat}
    (e : t.readReclaim k n r c = .ok x u) : s.Kept u := by
  induction c generalizing x u with
  | zero => cases e; exact h
  | succ c ih =>
    unfold State.readReclaim at e
    split at e
    · rename_i f
      have j := ih f
      simp only at e
      split at e
      · exact absurd e XErr.got_ok
      · rename_i g
        have i := j.xlateNode g
        split at e
        · cases e
        · cases e
        · rename_i q
          split at e
          · cases e; exact i.readCounter_eq q
          · cases e; exact i.readCounter_eq q
    · exact ih e

theorem useCopy (h : s.Kept t) {k reg : Nat} {c : Copy} {w : Word32} {p : Policy} : s.Kept (t.useCopy k reg c w p) := by
  unfold State.useCopy
  split
  · exact h.useL1
  · simp only
    split
    · exact h.useRdc.fillRemoteIf
    · exact h.useRdc

theorem takeCopy {u : State} (h : s.Kept t) {k lsid reg : Nat} {n : Node} {c : Copy} {w : Word32} {p : Policy}
    {x : RoundGot} (e : t.takeCopy k n lsid reg c w p = .ok x u) : s.Kept u := by
  unfold State.takeCopy at e
  split at e
  · cases e
  · cases e; exact h.useCopy

theorem loadSlot {u : State} (h : s.Kept t) {k j : Nat} {n : Node} {reg : Nat} {r : RoundRegion} {i : Nat} {w : Word32}
    {p : Policy} {v : Vec} (e : t.loadSlot k j n reg r i w p = .ok v u) : s.Kept u := by
  unfold State.loadSlot at e
  simp only at e
  split at e
  · cases e; exact h.useCopy
  · split at e
    · rename_i f
      have a := h.readRound f
      split at e
      · cases e
      · split at e
        · rename_i g
          cases e
          exact a.loadStamped_eq g
        · cases e
        · cases e
    · cases e
    · cases e
    · cases e
    · cases e

theorem loadVirt {u : State} (h : s.Kept t) {k : Nat} {n : Node} {lsid vk : Nat} {w : Word32} {way : LoadWay}
    {x : Vec × Bool} (e : t.loadVirt k n lsid vk w way = .ok x u) : s.Kept u := by
  unfold State.loadVirt at e
  simp only at e
  split at e
  · exact absurd e XErr.got_ok
  · rename_i f
    have a := h.xlateNode f
    split at e
    · cases e
    · split at e
      · split at e
        · cases e
        · cases e
        · rename_i g
          have c := a.loadConst_eq g
          split at e
          · cases e; exact c
          · cases e; exact State.Kept.pick (n := 2) c
      · split at e
        · split at e
          · rename_i g
            cases e
            exact a.loadSlot g
          · cases e
          · cases e
          · cases e
          · cases e
        · split at e
          · cases e
          · cases e
          · rename_i g
            cases e
            exact a.loadLine_eq g

theorem loadLines {u : State} (h : s.Kept t) {k : Nat} {n : Node} {lsid : Nat} {way : LoadWay} {l : List (Nat × Word32)}
    {x : Tbl Vec × Bool} (e : t.loadLines k n lsid way l = .ok x u) : s.Kept u := by
  induction l generalizing t x with
  | nil => cases e; exact h
  | cons a l ih =>
    unfold State.loadLines at e
    split at e
    · rename_i f
      have b := h.loadVirt f
      split at e
      · rename_i g
        cases e
        exact ih b g
      · exact ih b e
    · cases e
    · cases e
    · cases e
    · cases e

theorem xlateLanes {u : State} (h : s.Kept t) {k : Nat} {n : Node} {l : List LaneAt} {x : List Nat}
    (e : t.xlateLanes k n l = .ok x u) : s.Kept u := by
  induction l generalizing t x with
  | nil => cases e; exact h
  | cons a l ih =>
    unfold State.xlateLanes at e
    split at e
    · exact absurd e XErr.got_ok
    · rename_i f
      have b := h.xlateNode f
      split at e
      · rename_i g
        cases e
        exact ih b g
      · exact ih b e

theorem copiesOf {k : Nat} {n : Node} {reg : Nat} {r : RoundRegion} {va c : Nat} {w : Word32} (h : s.Kept t) :
    s.Kept (t.copiesOf k n reg r va w c).2 := by
  induction c with
  | zero => exact h
  | succ c ih =>
    unfold State.copiesOf
    split
    · rename_i e
      rw [e] at ih
      exact ih
    · rename_i e
      rw [e] at ih
      have j := ih.xlateHint (d := dieOf k) (k := some k) (c := n.ctx) (va := va + c * r.len) (kind := .read) (r := .node k)
      simp only
      split
      all_goals
        rename_i g
        rw [g] at j
        exact j

theorem copiesOf_eq {k : Nat} {n : Node} {reg : Nat} {r : RoundRegion} {va c : Nat} {w : Word32} (h : s.Kept t)
    {x : Option (List Copy)} {u : State} (e : t.copiesOf k n reg r va w c = (x, u)) : s.Kept u := by
  have j := h.copiesOf (k := k) (n := n) (reg := reg) (r := r) (va := va) (c := c) (w := w)
  rw [e] at j
  exact j

theorem readSlot {u : State} (h : s.Kept t) {k : Nat} {n : Node} {lsid reg va : Nat} {w : Word32} {p : Policy} {round : Nat}
    {x : RoundGot} (e : t.readSlot k n lsid reg va w p round = .ok x u) : s.Kept u := by
  unfold State.readSlot at e
  split at e
  · exact absurd e XErr.got_ok
  · rename_i f
    have i := h.xlateNode f
    simp only at e
    split at e <;> split at e
    all_goals first
      | cases e
      | skip
    all_goals
      split at e
      · cases e
      · split at e
        · rename_i g
          cases e
          exact i.loadStamped_eq g
        · cases e
        · cases e

/-- LDB's access. -/
theorem loadBounded {u : State} (h : s.Kept t) {k : Nat} {n : Node} {lsid reg va es : Nat} {r : RoundRegion}
    {bound : Option Nat} {p : Policy} {x : RoundGot} (e : t.loadBounded k n lsid reg r va es bound p = .ok x u) :
    s.Kept u := by
  unfold State.loadBounded at e
  simp only at e
  split at e
  · cases e; exact h
  · split at e
    · cases e
    · rename_i g
      have j := h.copiesOf_eq g
      split at e
      · exact j.takeCopy e
      · split at e
        · rename_i f
          have i := j.readRound f
          split at e
          · cases e
          · exact i.readSlot e
        · cases e
        · cases e
        · cases e
        · cases e

/-- An exact round's access. -/
theorem loadRound {u : State} (h : s.Kept t) {k : Nat} {n : Node} {lsid reg va es round : Nat} {r : RoundRegion} {p : Policy}
    {x : RoundGot} (e : t.loadRound k n lsid reg r va es round p = .ok x u) : s.Kept u := by
  unfold State.loadRound at e
  simp only at e
  split at e
  · cases e
  · rename_i q
    have j := h.copiesOf_eq q
    split at e
    · exact j.takeCopy e
    · split at e
      · rename_i f
        have i := j.readRound f
        split at e
        · rename_i g
          have i := i.readReclaim g
          split at e
          · cases e
          · split at e
            · cases e
            · exact i.readSlot e
        · cases e
        · cases e
        · cases e
        · cases e
      · cases e
      · cases e
      · cases e
      · cases e

/-- LDN's access. -/
theorem loadExact {u : State} (h : s.Kept t) {k : Nat} {n : Node} {lsid reg va es round : Nat} {r : RoundRegion} {p : Policy}
    {x : RoundGot} (e : t.loadExact k n lsid reg r va es round p = .ok x u) : s.Kept u := by
  unfold State.loadExact at e
  simp only at e
  split at e
  · exact h.loadRound e
  · split at e
    · exact absurd e XErr.got_ok
    · rename_i f
      split at e
      · cases e; exact h.xlateNode f
      · exact (h.xlateNode f).loadRound e

theorem counterRef {u : State} (h : s.Kept t) {n : Node} {va : Word} {kind : AccKind} {c : CtrRef}
    (e : t.counterRef n va kind = .ok c u) : s.Kept u := by
  unfold State.counterRef at e
  split at e
  · cases e
  · split at e
    · exact absurd e XErr.got_ok
    · rename_i f
      cases e
      exact h.xlateNode f

theorem readWord {u : State} (h : s.Kept t) {k : Nat} {n : Node} {va : Word} {x : Nat × Nat × Bool}
    (e : t.readWord k n va = .ok x u) : s.Kept u := by
  unfold State.readWord at e
  split at e
  · exact absurd e XErr.got_ok
  · rename_i f
    have i := h.xlateNode f
    split at e
    · cases e
    · cases e
    · rename_i g
      cases e
      exact i.readCounter_eq g

end State.Kept

end Sys2Proof.Machine
end

