-- ==== Sys2Proof/Laws/Exec.lean ====
section
/-! SUPPORT. The arms of exec, one lemma for each constructor of Instr. -/

namespace Sys2Proof.Machine

theorem exec_null (p : Pred) (t u : Tgt) (s : State) :
    exec (.null p t u) s = execNull p t u s := rfl
theorem exec_mov (p : Pred) (t u : Tgt) (s : State) :
    exec (.mov p t u) s = execMov p t u s := rfl
theorem exec_movi (p : Pred) (t : Tgt) (imm : BitVec 15) (s : State) :
    exec (.movi p t imm) s = execMovi p t imm s := rfl
theorem exec_movi32 (p : Pred) (t u : Tgt) (zx : Bool) (imm : Word32) (s : State) :
    exec (.movi32 p t u zx imm) s = execMovi32 p t u zx imm s := rfl
theorem exec_moviHi (p : Pred) (t u : Tgt) (imm : Word32) (s : State) :
    exec (.moviHi p t u imm) s = execMoviHi p t u imm s := rfl
theorem exec_exit (p : Pred) (s : State) :
    exec (.exit p) s = execExit p s := rfl
theorem exec_br (p : Pred) (disp : BitVec 22) (s : State) :
    exec (.br p disp) s = execBr p disp s := rfl
theorem exec_bri (p : Pred) (s : State) :
    exec (.bri p) s = execBri p s := rfl
theorem exec_call (p : Pred) (disp : BitVec 22) (s : State) :
    exec (.call p disp) s = execCall p disp s := rfl
theorem exec_calli (p : Pred) (s : State) :
    exec (.calli p) s = execCalli p s := rfl
theorem exec_ret (p : Pred) (s : State) :
    exec (.ret p) s = execRet p s := rfl
theorem exec_halt (p : Pred) (s : State) :
    exec (.halt p) s = execHalt p s := rfl
theorem exec_rd (p : Pred) (t u : Tgt) (n : BitVec 6) (s : State) :
    exec (.rd p t u n) s = execRd p t u n s := rfl
theorem exec_rdT (p : Pred) (t u : Tgt) (n : BitVec 6) (s : State) :
    exec (.rdT p t u n) s = execRdT p t u n s := rfl
theorem exec_rdv (p : Pred) (t u : Tgt) (n : BitVec 5) (s : State) :
    exec (.rdv p t u n) s = execRdv p t u n s := rfl
theorem exec_rdvT (p : Pred) (t u : Tgt) (n : BitVec 5) (s : State) :
    exec (.rdvT p t u n) s = execRdvT p t u n s := rfl
theorem exec_rdp (p : Pred) (t u : Tgt) (n : BitVec 3) (s : State) :
    exec (.rdp p t u n) s = execRdp p t u n s := rfl
theorem exec_rdpT (p : Pred) (t u : Tgt) (n : BitVec 3) (s : State) :
    exec (.rdpT p t u n) s = execRdpT p t u n s := rfl
theorem exec_wr (p : Pred) (n : BitVec 6) (s : State) :
    exec (.wr p n) s = execWr p n s := rfl
theorem exec_wrv (p : Pred) (n : BitVec 5) (s : State) :
    exec (.wrv p n) s = execWrv p n s := rfl
theorem exec_wrp (p : Pred) (n : BitVec 3) (s : State) :
    exec (.wrp p n) s = execWrp p n s := rfl
theorem exec_recv (p : Pred) (t u : Tgt) (port : BitVec 2) (s : State) :
    exec (.recv p t u port) s = execRecv p t u port s := rfl
theorem exec_send (p : Pred) (port : BitVec 2) (s : State) :
    exec (.send p port) s = execSend p port s := rfl
theorem exec_sendt (p : Pred) (port : BitVec 2) (s : State) :
    exec (.sendt p port) s = execSendt p port s := rfl
theorem exec_tagof (p : Pred) (t u : Tgt) (port : BitVec 2) (s : State) :
    exec (.tagof p t u port) s = execTagof p t u port s := rfl
theorem exec_settag (p : Pred) (port : BitVec 2) (s : State) :
    exec (.settag p port) s = execSettag p port s := rfl
theorem exec_edgeset (p : Pred) (port : BitVec 2) (s : State) :
    exec (.edgeset p port) s = execEdgeset p port s := rfl
theorem exec_add (p : Pred) (t u : Tgt) (ty : Ty) (sat : Bool) (s : State) :
    exec (.add p t u ty sat) s = execAdd p t u ty sat s := rfl
theorem exec_addX (p : Pred) (t u : Tgt) (ty : Ty) (sat : Bool) (imm : Word32) (s : State) :
    exec (.addX p t u ty sat imm) s = execAddX p t u ty sat imm s := rfl
theorem exec_addI (p : Pred) (t : Tgt) (imm : BitVec 15) (s : State) :
    exec (.addI p t imm) s = execAddI p t imm s := rfl
theorem exec_sub (p : Pred) (t u : Tgt) (ty : Ty) (sat : Bool) (s : State) :
    exec (.sub p t u ty sat) s = execSub p t u ty sat s := rfl
theorem exec_subX (p : Pred) (t u : Tgt) (ty : Ty) (sat : Bool) (imm : Word32) (s : State) :
    exec (.subX p t u ty sat imm) s = execSubX p t u ty sat imm s := rfl
theorem exec_mul (p : Pred) (t u : Tgt) (ty : Ty) (sat : Bool) (s : State) :
    exec (.mul p t u ty sat) s = execMul p t u ty sat s := rfl
theorem exec_mulX (p : Pred) (t u : Tgt) (ty : Ty) (sat : Bool) (imm : Word32) (s : State) :
    exec (.mulX p t u ty sat imm) s = execMulX p t u ty sat imm s := rfl
theorem exec_mulI (p : Pred) (t : Tgt) (imm : BitVec 15) (s : State) :
    exec (.mulI p t imm) s = execMulI p t imm s := rfl
theorem exec_mulh (p : Pred) (t u : Tgt) (ty : Ty) (s : State) :
    exec (.mulh p t u ty) s = execMulh p t u ty s := rfl
theorem exec_mulhX (p : Pred) (t u : Tgt) (ty : Ty) (imm : Word32) (s : State) :
    exec (.mulhX p t u ty imm) s = execMulhX p t u ty imm s := rfl
theorem exec_div (p : Pred) (t u : Tgt) (ty : Ty) (s : State) :
    exec (.div p t u ty) s = execDiv p t u ty s := rfl
theorem exec_divX (p : Pred) (t u : Tgt) (ty : Ty) (imm : Word32) (s : State) :
    exec (.divX p t u ty imm) s = execDivX p t u ty imm s := rfl
theorem exec_rem (p : Pred) (t u : Tgt) (ty : Ty) (s : State) :
    exec (.rem p t u ty) s = execRem p t u ty s := rfl
theorem exec_remX (p : Pred) (t u : Tgt) (ty : Ty) (imm : Word32) (s : State) :
    exec (.remX p t u ty imm) s = execRemX p t u ty imm s := rfl
theorem exec_and (p : Pred) (t u : Tgt) (ty : Ty) (s : State) :
    exec (.and p t u ty) s = execAnd p t u ty s := rfl
theorem exec_andX (p : Pred) (t u : Tgt) (ty : Ty) (imm : Word32) (s : State) :
    exec (.andX p t u ty imm) s = execAndX p t u ty imm s := rfl
theorem exec_andI (p : Pred) (t : Tgt) (imm : BitVec 15) (s : State) :
    exec (.andI p t imm) s = execAndI p t imm s := rfl
theorem exec_or (p : Pred) (t u : Tgt) (ty : Ty) (s : State) :
    exec (.or p t u ty) s = execOr p t u ty s := rfl
theorem exec_orX (p : Pred) (t u : Tgt) (ty : Ty) (imm : Word32) (s : State) :
    exec (.orX p t u ty imm) s = execOrX p t u ty imm s := rfl
theorem exec_orI (p : Pred) (t : Tgt) (imm : BitVec 15) (s : State) :
    exec (.orI p t imm) s = execOrI p t imm s := rfl
theorem exec_xor (p : Pred) (t u : Tgt) (ty : Ty) (s : State) :
    exec (.xor p t u ty) s = execXor p t u ty s := rfl
theorem exec_xorX (p : Pred) (t u : Tgt) (ty : Ty) (imm : Word32) (s : State) :
    exec (.xorX p t u ty imm) s = execXorX p t u ty imm s := rfl
theorem exec_xorI (p : Pred) (t : Tgt) (imm : BitVec 15) (s : State) :
    exec (.xorI p t imm) s = execXorI p t imm s := rfl
theorem exec_andn (p : Pred) (t u : Tgt) (ty : Ty) (s : State) :
    exec (.andn p t u ty) s = execAndn p t u ty s := rfl
theorem exec_andnX (p : Pred) (t u : Tgt) (ty : Ty) (imm : Word32) (s : State) :
    exec (.andnX p t u ty imm) s = execAndnX p t u ty imm s := rfl
theorem exec_shl (p : Pred) (t u : Tgt) (ty : Ty) (s : State) :
    exec (.shl p t u ty) s = execShl p t u ty s := rfl
theorem exec_shlX (p : Pred) (t u : Tgt) (ty : Ty) (imm : Word32) (s : State) :
    exec (.shlX p t u ty imm) s = execShlX p t u ty imm s := rfl
theorem exec_shlI (p : Pred) (t : Tgt) (imm : BitVec 15) (s : State) :
    exec (.shlI p t imm) s = execShlI p t imm s := rfl
theorem exec_shr (p : Pred) (t u : Tgt) (ty : Ty) (s : State) :
    exec (.shr p t u ty) s = execShr p t u ty s := rfl
theorem exec_shrX (p : Pred) (t u : Tgt) (ty : Ty) (imm : Word32) (s : State) :
    exec (.shrX p t u ty imm) s = execShrX p t u ty imm s := rfl
theorem exec_shrI (p : Pred) (t : Tgt) (imm : BitVec 15) (s : State) :
    exec (.shrI p t imm) s = execShrI p t imm s := rfl
theorem exec_sar (p : Pred) (t u : Tgt) (ty : Ty) (s : State) :
    exec (.sar p t u ty) s = execSar p t u ty s := rfl
theorem exec_sarX (p : Pred) (t u : Tgt) (ty : Ty) (imm : Word32) (s : State) :
    exec (.sarX p t u ty imm) s = execSarX p t u ty imm s := rfl
theorem exec_sarI (p : Pred) (t : Tgt) (imm : BitVec 15) (s : State) :
    exec (.sarI p t imm) s = execSarI p t imm s := rfl
theorem exec_rot (p : Pred) (t u : Tgt) (ty : Ty) (s : State) :
    exec (.rot p t u ty) s = execRot p t u ty s := rfl
theorem exec_rotX (p : Pred) (t u : Tgt) (ty : Ty) (imm : Word32) (s : State) :
    exec (.rotX p t u ty imm) s = execRotX p t u ty imm s := rfl
theorem exec_clz (p : Pred) (t u : Tgt) (ty : Ty) (s : State) :
    exec (.clz p t u ty) s = execClz p t u ty s := rfl
theorem exec_popc (p : Pred) (t u : Tgt) (ty : Ty) (s : State) :
    exec (.popc p t u ty) s = execPopc p t u ty s := rfl
theorem exec_min (p : Pred) (t u : Tgt) (ty : Ty) (s : State) :
    exec (.min p t u ty) s = execMin p t u ty s := rfl
theorem exec_minX (p : Pred) (t u : Tgt) (ty : Ty) (imm : Word32) (s : State) :
    exec (.minX p t u ty imm) s = execMinX p t u ty imm s := rfl
theorem exec_max (p : Pred) (t u : Tgt) (ty : Ty) (s : State) :
    exec (.max p t u ty) s = execMax p t u ty s := rfl
theorem exec_maxX (p : Pred) (t u : Tgt) (ty : Ty) (imm : Word32) (s : State) :
    exec (.maxX p t u ty imm) s = execMaxX p t u ty imm s := rfl
theorem exec_cmp (p : Pred) (t u : Tgt) (ty : Ty) (c : Cond) (s : State) :
    exec (.cmp p t u ty c) s = execCmp p t u ty c s := rfl
theorem exec_cmpX (p : Pred) (t u : Tgt) (ty : Ty) (c : Cond) (imm : Word32) (s : State) :
    exec (.cmpX p t u ty c imm) s = execCmpX p t u ty c imm s := rfl
theorem exec_sel (t u : Tgt) (ty : Ty) (s : State) :
    exec (.sel t u ty) s = execSel t u ty s := rfl
theorem exec_selX (t u : Tgt) (ty : Ty) (imm : Word32) (s : State) :
    exec (.selX t u ty imm) s = execSelX t u ty imm s := rfl
theorem exec_ext (p : Pred) (t u : Tgt) (ty : Ty) (s : State) :
    exec (.ext p t u ty) s = execExt p t u ty s := rfl
theorem exec_bfx (p : Pred) (t u : Tgt) (ty : Ty) (s : State) :
    exec (.bfx p t u ty) s = execBfx p t u ty s := rfl
theorem exec_bfxX (p : Pred) (t u : Tgt) (ty : Ty) (imm : Word32) (s : State) :
    exec (.bfxX p t u ty imm) s = execBfxX p t u ty imm s := rfl
theorem exec_bfi (t u : Tgt) (ty : Ty) (s : State) :
    exec (.bfi t u ty) s = execBfi t u ty s := rfl
theorem exec_bfiX (t u : Tgt) (ty : Ty) (imm : Word32) (s : State) :
    exec (.bfiX t u ty imm) s = execBfiX t u ty imm s := rfl
theorem exec_lea (p : Pred) (t u : Tgt) (ty : Ty) (sc : BitVec 4) (s : State) :
    exec (.lea p t u ty sc) s = execLea p t u ty sc s := rfl
theorem exec_leaX (p : Pred) (t u : Tgt) (ty : Ty) (sc : BitVec 4) (imm : Word32) (s : State) :
    exec (.leaX p t u ty sc imm) s = execLeaX p t u ty sc imm s := rfl
theorem exec_fadd (p : Pred) (t u : Tgt) (ty : Ty) (md : FMod) (s : State) :
    exec (.fadd p t u ty md) s = execFadd p t u ty md s := rfl
theorem exec_fsub (p : Pred) (t u : Tgt) (ty : Ty) (md : FMod) (s : State) :
    exec (.fsub p t u ty md) s = execFsub p t u ty md s := rfl
theorem exec_fmul (p : Pred) (t u : Tgt) (ty : Ty) (md : FMod) (s : State) :
    exec (.fmul p t u ty md) s = execFmul p t u ty md s := rfl
theorem exec_fma (t u : Tgt) (ty : Ty) (md : FMod) (s : State) :
    exec (.fma t u ty md) s = execFma t u ty md s := rfl
theorem exec_fdiv (p : Pred) (t u : Tgt) (ty : Ty) (md : FMod) (s : State) :
    exec (.fdiv p t u ty md) s = execFdiv p t u ty md s := rfl
theorem exec_fsqrt (p : Pred) (t u : Tgt) (ty : Ty) (md : FMod) (s : State) :
    exec (.fsqrt p t u ty md) s = execFsqrt p t u ty md s := rfl
theorem exec_fmin (p : Pred) (t u : Tgt) (ty : Ty) (s : State) :
    exec (.fmin p t u ty) s = execFmin p t u ty s := rfl
theorem exec_fmax (p : Pred) (t u : Tgt) (ty : Ty) (s : State) :
    exec (.fmax p t u ty) s = execFmax p t u ty s := rfl
theorem exec_fcmp (p : Pred) (t u : Tgt) (ty : Ty) (c : Cond) (s : State) :
    exec (.fcmp p t u ty c) s = execFcmp p t u ty c s := rfl
theorem exec_fcvt (p : Pred) (t u : Tgt) (dty sty : Ty) (md : FMod) (s : State) :
    exec (.fcvt p t u dty sty md) s = execFcvt p t u dty sty md s := rfl
theorem exec_fclass (p : Pred) (t u : Tgt) (ty : Ty) (s : State) :
    exec (.fclass p t u ty) s = execFclass p t u ty s := rfl
theorem exec_fsgn (p : Pred) (t u : Tgt) (ty : Ty) (op : SgnOp) (s : State) :
    exec (.fsgn p t u ty op) s = execFsgn p t u ty op s := rfl
theorem exec_exp2 (p : Pred) (t u : Tgt) (ty : Ty) (md : FMod) (s : State) :
    exec (.exp2 p t u ty md) s = execExp2 p t u ty md s := rfl
theorem exec_log2 (p : Pred) (t u : Tgt) (ty : Ty) (md : FMod) (s : State) :
    exec (.log2 p t u ty md) s = execLog2 p t u ty md s := rfl
theorem exec_vadd (p : Pred) (t u : Tgt) (ty : Ty) (md : FMod) (s : State) :
    exec (.vadd p t u ty md) s = execVadd p t u ty md s := rfl
theorem exec_vsub (p : Pred) (t u : Tgt) (ty : Ty) (md : FMod) (s : State) :
    exec (.vsub p t u ty md) s = execVsub p t u ty md s := rfl
theorem exec_vmul (p : Pred) (t u : Tgt) (ty : Ty) (md : FMod) (s : State) :
    exec (.vmul p t u ty md) s = execVmul p t u ty md s := rfl
theorem exec_vfma (t u : Tgt) (ty : Ty) (md : FMod) (s : State) :
    exec (.vfma t u ty md) s = execVfma t u ty md s := rfl
theorem exec_vmin (p : Pred) (t u : Tgt) (ty : Ty) (s : State) :
    exec (.vmin p t u ty) s = execVmin p t u ty s := rfl
theorem exec_vmax (p : Pred) (t u : Tgt) (ty : Ty) (s : State) :
    exec (.vmax p t u ty) s = execVmax p t u ty s := rfl
theorem exec_vcmp (p : Pred) (t u : Tgt) (ty : Ty) (c : Cond) (s : State) :
    exec (.vcmp p t u ty c) s = execVcmp p t u ty c s := rfl
theorem exec_vsel (t u : Tgt) (ty : Ty) (s : State) :
    exec (.vsel t u ty) s = execVsel t u ty s := rfl
theorem exec_vcvt (p : Pred) (t u : Tgt) (dty sty : Ty) (md : FMod) (s : State) :
    exec (.vcvt p t u dty sty md) s = execVcvt p t u dty sty md s := rfl
theorem exec_vexp2 (p : Pred) (t u : Tgt) (ty : Ty) (md : FMod) (s : State) :
    exec (.vexp2 p t u ty md) s = execVexp2 p t u ty md s := rfl
theorem exec_vlog2 (p : Pred) (t u : Tgt) (ty : Ty) (md : FMod) (s : State) :
    exec (.vlog2 p t u ty md) s = execVlog2 p t u ty md s := rfl
theorem exec_vrcp (p : Pred) (t u : Tgt) (ty : Ty) (md : FMod) (s : State) :
    exec (.vrcp p t u ty md) s = execVrcp p t u ty md s := rfl
theorem exec_vrsq (p : Pred) (t u : Tgt) (ty : Ty) (md : FMod) (s : State) :
    exec (.vrsq p t u ty md) s = execVrsq p t u ty md s := rfl
theorem exec_vred (p : Pred) (t u : Tgt) (ty : Ty) (op : RedOp) (s : State) :
    exec (.vred p t u ty op) s = execVred p t u ty op s := rfl
theorem exec_vscan (p : Pred) (t u : Tgt) (ty : Ty) (op : RedOp) (s : State) :
    exec (.vscan p t u ty op) s = execVscan p t u ty op s := rfl
theorem exec_vshuf (p : Pred) (t u : Tgt) (s : State) :
    exec (.vshuf p t u) s = execVshuf p t u s := rfl
theorem exec_vbcast (p : Pred) (t u : Tgt) (ty : Ty) (s : State) :
    exec (.vbcast p t u ty) s = execVbcast p t u ty s := rfl
theorem exec_vscale (p : Pred) (t u : Tgt) (ty : Ty) (s : State) :
    exec (.vscale p t u ty) s = execVscale p t u ty s := rfl
theorem exec_vlut (p : Pred) (t u : Tgt) (ty : Ty) (s : State) :
    exec (.vlut p t u ty) s = execVlut p t u ty s := rfl
theorem exec_viop (p : Pred) (t u : Tgt) (ty : Ty) (op : VOp) (s : State) :
    exec (.viop p t u ty op) s = execViop p t u ty op s := rfl
theorem exec_mcfg (p : Pred) (s : State) :
    exec (.mcfg p) s = execMcfg p s := rfl
theorem exec_mzero (p : Pred) (acc : BitVec 2) (s : State) :
    exec (.mzero p acc) s = execMzero p acc s := rfl
theorem exec_mma (p : Pred) (acc : BitVec 2) (s : State) :
    exec (.mma p acc) s = execMma p acc s := rfl
theorem exec_mlda (p : Pred) (acc : BitVec 2) (s : State) :
    exec (.mlda p acc) s = execMlda p acc s := rfl
theorem exec_mdrain (p : Pred) (acc : BitVec 2) (oty : Ty) (toReg : Bool) (s : State) :
    exec (.mdrain p acc oty toReg) s = execMdrain p acc oty toReg s := rfl
theorem exec_msteer (p : Pred) (s : State) :
    exec (.msteer p) s = execMsteer p s := rfl
theorem exec_mfence (p : Pred) (s : State) :
    exec (.mfence p) s = execMfence p s := rfl
theorem exec_ld (p : Pred) (t : Tgt) (w : MOff) (a : Attr) (s : State) :
    exec (.ld p t w a) s = execLd p t w a s := rfl
theorem exec_ldv (p : Pred) (t : Tgt) (w : MOff) (a : Attr) (k : LaneMask) (s : State) :
    exec (.ldv p t w a k) s = execLdv p t w a k s := rfl
theorem exec_ldk (p : Pred) (t : Tgt) (w : MOff) (a : Attr) (vec : Bool) (k : LaneMask) (s : State) :
    exec (.ldk p t w a vec k) s = execLdk p t w a vec k s := rfl
theorem exec_st (p : Pred) (w : MOff) (a : Attr) (s : State) :
    exec (.st p w a) s = execSt p w a s := rfl
theorem exec_stv (p : Pred) (w : MOff) (a : Attr) (k : LaneMask) (s : State) :
    exec (.stv p w a k) s = execStv p w a k s := rfl
theorem exec_ldvg (p : Pred) (t : Tgt) (w : MOff) (a : Attr) (k : LaneMask) (sc : BitVec 2) (s : State) :
    exec (.ldvg p t w a k sc) s = execLdvg p t w a k sc s := rfl
theorem exec_stvs (p : Pred) (w : MOff) (a : Attr) (k : LaneMask) (stride : BitVec 16) (s : State) :
    exec (.stvs p w a k stride) s = execStvs p w a k stride s := rfl
theorem exec_lda (p : Pred) (w : MOff) (a : Attr) (toV : Bool) (n : BitVec 6) (s : State) :
    exec (.lda p w a toV n) s = execLda p w a toV n s := rfl
theorem exec_ldb (p : Pred) (t : Tgt) (w : MOff) (a : Attr) (k : BitVec 6) (s : State) :
    exec (.ldb p t w a k) s = execLdb p t w a k s := rfl
theorem exec_ldn (p : Pred) (t : Tgt) (w : MOff) (a : Attr) (k : BitVec 6) (s : State) :
    exec (.ldn p t w a k) s = execLdn p t w a k s := rfl
theorem exec_atom (w : MOff) (a : Attr) (op : AtomOp) (re : Bool) (n : BitVec 6) (s : State) :
    exec (.atom w a op re n) s = execAtom w a op re n s := rfl
theorem exec_atomo (p : Pred) (w : MOff) (a : Attr) (op : AtomOp) (sel : BitVec 3) (stream : BitVec 16) (s : State) :
    exec (.atomo p w a op sel stream) s = execAtomo p w a op sel stream s := rfl
theorem exec_fence (p : Pred) (scope : Scope) (acq rel k e : Bool) (s : State) :
    exec (.fence p scope acq rel k e) s = execFence p scope acq rel k e s := rfl
theorem exec_pref (p : Pred) (w : MOff) (a : Attr) (level : Bool) (s : State) :
    exec (.pref p w a level) s = execPref p w a level s := rfl
theorem exec_tlbpf (p : Pred) (w : MOff) (a : Attr) (level : Bool) (s : State) :
    exec (.tlbpf p w a level) s = execTlbpf p w a level s := rfl
theorem exec_ipf (p : Pred) (w : MOff) (a : Attr) (level : Bool) (s : State) :
    exec (.ipf p w a level) s = execIpf p w a level s := rfl
theorem exec_ipin (p : Pred) (w : MOff) (a : Attr) (level : Bool) (s : State) :
    exec (.ipin p w a level) s = execIpin p w a level s := rfl
theorem exec_iunpin (p : Pred) (w : MOff) (a : Attr) (level : Bool) (s : State) :
    exec (.iunpin p w a level) s = execIunpin p w a level s := rfl
theorem exec_retain (p : Pred) (w : MOff) (a : Attr) (k : BitVec 3) (ways : BitVec 4) (s : State) :
    exec (.retain p w a k ways) s = execRetain p w a k ways s := rfl
theorem exec_unretain (p : Pred) (w : MOff) (a : Attr) (k : BitVec 3) (s : State) :
    exec (.unretain p w a k) s = execUnretain p w a k s := rfl
theorem exec_cwb (p : Pred) (w : MOff) (a : Attr) (deep : Bool) (s : State) :
    exec (.cwb p w a deep) s = execCwb p w a deep s := rfl
theorem exec_cinv (p : Pred) (w : MOff) (a : Attr) (kind : InvKind) (s : State) :
    exec (.cinv p w a kind) s = execCinv p w a kind s := rfl
theorem exec_cpy (p : Pred) (e : BitVec 4) (s : State) :
    exec (.cpy p e) s = execCpy p e s := rfl
theorem exec_cpym (p : Pred) (e : BitVec 4) (s : State) :
    exec (.cpym p e) s = execCpym p e s := rfl
theorem exec_carm (p : Pred) (e : BitVec 4) (s : State) :
    exec (.carm p e) s = execCarm p e s := rfl
theorem exec_cdisarm (p : Pred) (e : BitVec 4) (s : State) :
    exec (.cdisarm p e) s = execCdisarm p e s := rfl
theorem exec_cfire (p : Pred) (e : BitVec 4) (s : State) :
    exec (.cfire p e) s = execCfire p e s := rfl
theorem exec_gath (p : Pred) (e : BitVec 4) (s : State) :
    exec (.gath p e) s = execGath p e s := rfl
theorem exec_scat (p : Pred) (e : BitVec 4) (s : State) :
    exec (.scat p e) s = execScat p e s := rfl
theorem exec_collAr (p : Pred) (e : BitVec 4) (fp32 : Bool) (s : State) :
    exec (.collAr p e fp32) s = execCollAr p e fp32 s := rfl
theorem exec_collRs (p : Pred) (e : BitVec 4) (fp32 : Bool) (s : State) :
    exec (.collRs p e fp32) s = execCollRs p e fp32 s := rfl
theorem exec_collAg (p : Pred) (e : BitVec 4) (fp32 : Bool) (s : State) :
    exec (.collAg p e fp32) s = execCollAg p e fp32 s := rfl
theorem exec_cadd (p : Pred) (scope : Scope) (acq rel : Bool) (s : State) :
    exec (.cadd p scope acq rel) s = execCadd p scope acq rel s := rfl
theorem exec_cwait (p : Pred) (scope : Scope) (acq : Bool) (s : State) :
    exec (.cwait p scope acq) s = execCwait p scope acq s := rfl
theorem exec_cread (p : Pred) (scope : Scope) (acq : Bool) (n : BitVec 6) (s : State) :
    exec (.cread p scope acq n) s = execCread p scope acq n s := rfl
theorem exec_cpoll (p : Pred) (t u : Tgt) (scope : Scope) (acq : Bool) (s : State) :
    exec (.cpoll p t u scope acq) s = execCpoll p t u scope acq s := rfl
theorem exec_rngaw (p : Pred) (t u : Tgt) (scope : Scope) (s : State) :
    exec (.rngaw p t u scope) s = execRngaw p t u scope s := rfl
theorem exec_rngrel (p : Pred) (scope : Scope) (s : State) :
    exec (.rngrel p scope) s = execRngrel p scope s := rfl
theorem exec_radv (p : Pred) (scope : Scope) (s : State) :
    exec (.radv p scope) s = execRadv p scope s := rfl
theorem exec_rrecl (p : Pred) (scope : Scope) (s : State) :
    exec (.rrecl p scope) s = execRrecl p scope s := rfl
theorem exec_rsetc (p : Pred) (s : State) :
    exec (.rsetc p) s = execRsetc p s := rfl
theorem exec_barr (p : Pred) (scope : Scope) (s : State) :
    exec (.barr p scope) s = execBarr p scope s := rfl
theorem exec_wmasr (p : Pred) (s : State) :
    exec (.wmasr p) s = execWmasr p s := rfl
theorem exec_wmret (p : Pred) (s : State) :
    exec (.wmret p) s = execWmret p s := rfl
theorem exec_wmmod (p : Pred) (s : State) :
    exec (.wmmod p) s = execWmmod p s := rfl
theorem exec_wmrd (p : Pred) (t u : Tgt) (s : State) :
    exec (.wmrd p t u) s = execWmrd p t u s := rfl
theorem exec_cswave (p : Pred) (s : State) :
    exec (.cswave p) s = execCswave p s := rfl
theorem exec_fdone (p : Pred) (s : State) :
    exec (.fdone p) s = execFdone p s := rfl
theorem exec_scset (p : Pred) (s : State) :
    exec (.scset p) s = execScset p s := rfl
theorem exec_scget (p : Pred) (t u : Tgt) (s : State) :
    exec (.scget p t u) s = execScget p t u s := rfl
theorem exec_netld (p : Pred) (s : State) :
    exec (.netld p) s = execNetld p s := rfl
theorem exec_csrd (p : Pred) (t u : Tgt) (s : State) :
    exec (.csrd p t u) s = execCsrd p t u s := rfl
theorem exec_trap (p : Pred) (code : BitVec 15) (s : State) :
    exec (.trap p code) s = execTrap p code s := rfl
theorem exec_sysc (p : Pred) (code : BitVec 15) (s : State) :
    exec (.sysc p code) s = execSysc p code s := rfl
theorem exec_bkpt (p : Pred) (code : BitVec 15) (s : State) :
    exec (.bkpt p code) s = execBkpt p code s := rfl
theorem exec_mfs (p : Pred) (t : Tgt) (r : BitVec 12) (s : State) :
    exec (.mfs p t r) s = execMfs p t r s := rfl
theorem exec_mts (p : Pred) (r : BitVec 12) (s : State) :
    exec (.mts p r) s = execMts p r s := rfl
theorem exec_mark (p : Pred) (s : State) :
    exec (.mark p) s = execMark p s := rfl
theorem exec_sigchk (p : Pred) (s : State) :
    exec (.sigchk p) s = execSigchk p s := rfl
theorem exec_rndr (p : Pred) (t u : Tgt) (s : State) :
    exec (.rndr p t u) s = execRndr p t u s := rfl
theorem exec_cycw (p : Pred) (s : State) :
    exec (.cycw p) s = execCycw p s := rfl
theorem exec_cfgsw (p : Pred) (s : State) :
    exec (.cfgsw p) s = execCfgsw p s := rfl
theorem exec_blockFetch (t : Nat) (s : State) :
    exec (.blockFetch t) s = execBlockFetch t s := rfl
theorem exec_slotFire (t n : Nat) (s : State) :
    exec (.slotFire t n) s = execSlotFire t n s := rfl
theorem exec_blockCommit (t : Nat) (s : State) :
    exec (.blockCommit t) s = execBlockCommit t s := rfl
theorem exec_commitStepResume (t : Nat) (s : State) :
    exec (.commitStepResume t) s = execCommitStepResume t s := rfl
theorem exec_registerValueArrive (t : Nat) (r : DstReg) (x : Vec) (s : State) :
    exec (.registerValueArrive t r x) s = execRegisterValueArrive t r x s := rfl
theorem exec_atomicAtHome (r : AtomReq) (s : State) :
    exec (.atomicAtHome r) s = execAtomicAtHome r s := rfl
theorem exec_counterAddAtHome (r : CtrReq) (s : State) :
    exec (.counterAddAtHome r) s = execCounterAddAtHome r s := rfl
theorem exec_orderedAtomicArrival (r : OrdReq) (s : State) :
    exec (.orderedAtomicArrival r) s = execOrderedAtomicArrival r s := rfl
theorem exec_atomoRetryResend (r : OrdReq) (s : State) :
    exec (.atomoRetryResend r) s = execAtomoRetryResend r s := rfl
theorem exec_counterWatchRepoll (t : Nat) (s : State) :
    exec (.counterWatchRepoll t) s = execCounterWatchRepoll t s := rfl
theorem exec_hostCounterPoll (key : Nat) (s : State) :
    exec (.hostCounterPoll key) s = execHostCounterPoll key s := rfl
theorem exec_faultRecordDeferred (die ring : Nat) (s : State) :
    exec (.faultRecordDeferred die ring) s = execFaultRecordDeferred die ring s := rfl
theorem exec_mtPortRequest (t port : Nat) (s : State) :
    exec (.mtPortRequest t port) s = execMtPortRequest t port s := rfl
theorem exec_mtStartToken (t : Nat) (s : State) :
    exec (.mtStartToken t) s = execMtStartToken t s := rfl
theorem exec_sequencerElement (t : Nat) (s : State) :
    exec (.sequencerElement t) s = execSequencerElement t s := rfl
theorem exec_mtRandomRequest (t port : Nat) (s : State) :
    exec (.mtRandomRequest t port) s = execMtRandomRequest t port s := rfl
theorem exec_mtOrderedUpdate (t port : Nat) (s : State) :
    exec (.mtOrderedUpdate t port) s = execMtOrderedUpdate t port s := rfl
theorem exec_engineChunk (die eng : Nat) (s : State) :
    exec (.engineChunk die eng) s = execEngineChunk die eng s := rfl
theorem exec_engineCompletionAdd (die eng queue : Nat) (s : State) :
    exec (.engineCompletionAdd die eng queue) s = execEngineCompletionAdd die eng queue s := rfl
theorem exec_cpymDeliver (die eng queue : Nat) (s : State) :
    exec (.cpymDeliver die eng queue) s = execCpymDeliver die eng queue s := rfl
theorem exec_carmArm (die eng queue : Nat) (s : State) :
    exec (.carmArm die eng queue) s = execCarmArm die eng queue s := rfl
theorem exec_templateTrigger (die eng queue : Nat) (s : State) :
    exec (.templateTrigger die eng queue) s = execTemplateTrigger die eng queue s := rfl
theorem exec_coalesceIndex (die eng queue : Nat) (s : State) :
    exec (.coalesceIndex die eng queue) s = execCoalesceIndex die eng queue s := rfl
theorem exec_collectiveExecute (die eng : Nat) (s : State) :
    exec (.collectiveExecute die eng) s = execCollectiveExecute die eng s := rfl
theorem exec_tokenArrive (edge : Nat) (s : State) :
    exec (.tokenArrive edge) s = execTokenArrive edge s := rfl
theorem exec_loopBoundEntry (b : Nat) (s : State) :
    exec (.loopBoundEntry b) s = execLoopBoundEntry b s := rfl
theorem exec_loopBoundExit (b : Nat) (s : State) :
    exec (.loopBoundExit b) s = execLoopBoundExit b s := rfl
theorem exec_tokenBarrierFire (t : Nat) (s : State) :
    exec (.tokenBarrierFire t) s = execTokenBarrierFire t s := rfl
theorem exec_steerTokenPop (t port : Nat) (s : State) :
    exec (.steerTokenPop t port) s = execSteerTokenPop t port s := rfl
theorem exec_px8FrameDecode (t port : Nat) (s : State) :
    exec (.px8FrameDecode t port) s = execPx8FrameDecode t port s := rfl
theorem exec_counterAddPortToken (t port : Nat) (s : State) :
    exec (.counterAddPortToken t port) s = execCounterAddPortToken t port s := rfl
theorem exec_operandTokenEnter (t port : Nat) (s : State) :
    exec (.operandTokenEnter t port) s = execOperandTokenEnter t port s := rfl
theorem exec_matrixWordStart (t : Nat) (s : State) :
    exec (.matrixWordStart t) s = execMatrixWordStart t s := rfl
theorem exec_mmaOccupancyEnd (t : Nat) (s : State) :
    exec (.mmaOccupancyEnd t) s = execMmaOccupancyEnd t s := rfl
theorem exec_mmaComplete (t : Nat) (s : State) :
    exec (.mmaComplete t) s = execMmaComplete t s := rfl
theorem exec_drainTokenSend (t : Nat) (s : State) :
    exec (.drainTokenSend t) s = execDrainTokenSend t s := rfl
theorem exec_fetchLineArrive (t : Nat) (s : State) :
    exec (.fetchLineArrive t) s = execFetchLineArrive t s := rfl
theorem exec_networkDeltaArrival (die : Nat) (s : State) :
    exec (.networkDeltaArrival die) s = execNetworkDeltaArrival die s := rfl
theorem exec_networkScsetArrival (die : Nat) (s : State) :
    exec (.networkScsetArrival die) s = execNetworkScsetArrival die s := rfl
theorem exec_networkCswaveArrival (die : Nat) (s : State) :
    exec (.networkCswaveArrival die) s = execNetworkCswaveArrival die s := rfl
theorem exec_networkFdoneArrival (die : Nat) (s : State) :
    exec (.networkFdoneArrival die) s = execNetworkFdoneArrival die s := rfl
theorem exec_netldLoad (die : Nat) (s : State) :
    exec (.netldLoad die) s = execNetldLoad die s := rfl
theorem exec_queueSlotRotate (die : Nat) (s : State) :
    exec (.queueSlotRotate die) s = execQueueSlotRotate die s := rfl
theorem exec_packetChoose (die : Nat) (s : State) :
    exec (.packetChoose die) s = execPacketChoose die s := rfl
theorem exec_gangReserve (launch die : Nat) (s : State) :
    exec (.gangReserve launch die) s = execGangReserve launch die s := rfl
theorem exec_gangAckDeadline (launch : Nat) (s : State) :
    exec (.gangAckDeadline launch) s = execGangAckDeadline launch s := rfl
theorem exec_gangGo (launch die : Nat) (s : State) :
    exec (.gangGo launch die) s = execGangGo launch die s := rfl
theorem exec_gangStartTick (launch die : Nat) (s : State) :
    exec (.gangStartTick launch die) s = execGangStartTick launch die s := rfl
theorem exec_taskPacketEmit (launch : Nat) (s : State) :
    exec (.taskPacketEmit launch) s = execTaskPacketEmit launch s := rfl
theorem exec_taskDispatch (die : Nat) (s : State) :
    exec (.taskDispatch die) s = execTaskDispatch die s := rfl
theorem exec_waitPacketSatisfied (die queue : Nat) (s : State) :
    exec (.waitPacketSatisfied die queue) s = execWaitPacketSatisfied die queue s := rfl
theorem exec_packetComplete (launch : Nat) (s : State) :
    exec (.packetComplete launch) s = execPacketComplete launch s := rfl
theorem exec_elementSwitch (t : Nat) (s : State) :
    exec (.elementSwitch t) s = execElementSwitch t s := rfl
theorem exec_assizeCompare (die group : Nat) (s : State) :
    exec (.assizeCompare die group) s = execAssizeCompare die group s := rfl
theorem exec_assizeReportTimeout (die group : Nat) (s : State) :
    exec (.assizeReportTimeout die group) s = execAssizeReportTimeout die group s := rfl
theorem exec_replicaResync (t : Nat) (s : State) :
    exec (.replicaResync t) s = execReplicaResync t s := rfl
theorem exec_forwardedValueArrive (t : Nat) (key : FwdKey) (x : Vec) (s : State) :
    exec (.forwardedValueArrive t key x) s = execForwardedValueArrive t key x s := rfl
theorem exec_elementSave (t : Nat) (s : State) :
    exec (.elementSave t) s = execElementSave t s := rfl
theorem exec_regionClockGate (h : Nat) (s : State) :
    exec (.regionClockGate h) s = execRegionClockGate h s := rfl
theorem exec_regionSilence (h : Nat) (s : State) :
    exec (.regionSilence h) s = execRegionSilence h s := rfl
theorem exec_deadlockTrap (h : Nat) (s : State) :
    exec (.deadlockTrap h) s = execDeadlockTrap h s := rfl
theorem exec_tlbInvComplete (die : Nat) (s : State) :
    exec (.tlbInvComplete die) s = execTlbInvComplete die s := rfl
theorem exec_homeReadRequest (m : Master) (t line first count : Nat) (s : State) :
    exec (.homeReadRequest m t line first count) s = execHomeReadRequest m t line first count s := rfl
theorem exec_ownershipRequest (t line first count : Nat) (s : State) :
    exec (.ownershipRequest t line first count) s = execOwnershipRequest t line first count s := rfl
theorem exec_evictionWriteback (t line : Nat) (s : State) :
    exec (.evictionWriteback t line) s = execEvictionWriteback t line s := rfl
theorem exec_rdcFill (m : Master) (die line : Nat) (round : Option (Nat × Nat)) (s : State) :
    exec (.rdcFill m die line round) s = execRdcFill m die line round s := rfl
theorem exec_counterWatchNotify (key : Nat) (s : State) :
    exec (.counterWatchNotify key) s = execCounterWatchNotify key s := rfl
theorem exec_snpData (line : Nat) (s : State) :
    exec (.snpData line) s = execSnpData line s := rfl
theorem exec_snpCur (line : Nat) (s : State) :
    exec (.snpCur line) s = execSnpCur line s := rfl
theorem exec_snpInv (line : Nat) (s : State) :
    exec (.snpInv line) s = execSnpInv line s := rfl
theorem exec_hostBarRequest (link bar off : Nat) (pasid : Option (BitVec 12)) (op : ExtOp) (s : State) :
    exec (.hostBarRequest link bar off pasid op) s = execHostBarRequest link bar off pasid op s := rfl
theorem exec_hostCxlMemRequest (link off : Nat) (pasid : Option (BitVec 12)) (op : ExtOp) (s : State) :
    exec (.hostCxlMemRequest link off pasid op) s = execHostCxlMemRequest link off pasid op s := rfl
theorem exec_peerFlitReceive (port seq : Nat) (crcOk : Bool) (m : Master) (pa : Nat) (op : ExtOp) (s : State) :
    exec (.peerFlitReceive port seq crcOk m pa op) s = execPeerFlitReceive port seq crcOk m pa op s := rfl
theorem exec_peerRequestTimeout (r : Requester) (pa : Nat) (wasAtomic : Bool) (s : State) :
    exec (.peerRequestTimeout r pa wasAtomic) s = execPeerRequestTimeout r pa wasAtomic s := rfl
theorem exec_t2PortFailure (port : Nat) (s : State) :
    exec (.t2PortFailure port) s = execT2PortFailure port s := rfl
theorem exec_chainSyncExchange (source : Word) (s : State) :
    exec (.chainSyncExchange source) s = execChainSyncExchange source s := rfl
theorem exec_chainSyncLoss (s : State) :
    exec (.chainSyncLoss) s = execChainSyncLoss s := rfl
theorem exec_pageWalk (die : Nat) (ctx : BitVec 12) (page : Nat) (kind : AccKind) (cls : BitVec 3) (r : Requester) (s : State) :
    exec (.pageWalk die ctx page kind cls r) s = execPageWalk die ctx page kind cls r s := rfl
theorem exec_uncorrectableError (site : ErrSite) (s : State) :
    exec (.uncorrectableError site) s = execUncorrectableError site s := rfl
theorem exec_lqDoorbell (die queue : Nat) (s : State) :
    exec (.lqDoorbell die queue) s = execLqDoorbell die queue s := rfl
theorem exec_gangRelease (launch die : Nat) (s : State) :
    exec (.gangRelease launch die) s = execGangRelease launch die s := rfl
theorem exec_gangAbort (launch die : Nat) (s : State) :
    exec (.gangAbort launch die) s = execGangAbort launch die s := rfl
theorem exec_droopStretch (die patch eighths : Nat) (s : State) :
    exec (.droopStretch die patch eighths) s = execDroopStretch die patch eighths s := rfl
theorem exec_powerCeilingAdjust (watts celsius : Nat) (s : State) :
    exec (.powerCeilingAdjust watts celsius) s = execPowerCeilingAdjust watts celsius s := rfl
theorem exec_thermalTrip (s : State) :
    exec (.thermalTrip) s = execThermalTrip s := rfl
theorem exec_dieFailure (die : Nat) (s : State) :
    exec (.dieFailure die) s = execDieFailure die s := rfl
theorem exec_securityAlarm (src : AlarmSrc) (s : State) :
    exec (.securityAlarm src) s = execSecurityAlarm src s := rfl
theorem exec_reset (s : State) :
    exec (.reset) s = execReset s := rfl
theorem exec_modReset (s : State) :
    exec (.modReset) s = execModReset s := rfl
theorem exec_accPurge (die target : Nat) (s : State) :
    exec (.accPurge die target) s = execAccPurge die target s := rfl
theorem exec_accInval (die target : Nat) (s : State) :
    exec (.accInval die target) s = execAccInval die target s := rfl
theorem exec_atabPurge (die : Nat) (s : State) :
    exec (.atabPurge die) s = execAtabPurge die s := rfl
theorem exec_atabInval (die : Nat) (s : State) :
    exec (.atabInval die) s = execAtabInval die s := rfl
theorem exec_accBaseWrite (die target : Nat) (x : Word) (s : State) :
    exec (.accBaseWrite die target x) s = execAccBaseWrite die target x s := rfl
theorem exec_atabBaseWrite (die : Nat) (x : Word) (s : State) :
    exec (.atabBaseWrite die x) s = execAtabBaseWrite die x s := rfl
theorem exec_hbmMapWrite (x : Word) (s : State) :
    exec (.hbmMapWrite x) s = execHbmMapWrite x s := rfl
theorem exec_trRootWrite (ctx : BitVec 12) (x : Word) (s : State) :
    exec (.trRootWrite ctx x) s = execTrRootWrite ctx x s := rfl
theorem exec_tlbInvAll (die : Nat) (x : Word) (s : State) :
    exec (.tlbInvAll die x) s = execTlbInvAll die x s := rfl
theorem exec_tlbInvPage (die : Nat) (x : Word) (s : State) :
    exec (.tlbInvPage die x) s = execTlbInvPage die x s := rfl
theorem exec_tfqResume (die : Nat) (x : Word) (s : State) :
    exec (.tfqResume die x) s = execTfqResume die x s := rfl
theorem exec_tfqFail (die : Nat) (x : Word) (s : State) :
    exec (.tfqFail die x) s = execTfqFail die x s := rfl
theorem exec_fltResume (die : Nat) (x : Word) (s : State) :
    exec (.fltResume die x) s = execFltResume die x s := rfl
theorem exec_fltRollback (die : Nat) (x : Word) (s : State) :
    exec (.fltRollback die x) s = execFltRollback die x s := rfl
theorem exec_fltAbort (die : Nat) (x : Word) (s : State) :
    exec (.fltAbort die x) s = execFltAbort die x s := rfl
theorem exec_spillGrant (die : Nat) (x : Word) (s : State) :
    exec (.spillGrant die x) s = execSpillGrant die x s := rfl
theorem exec_spillRefuse (die : Nat) (x : Word) (s : State) :
    exec (.spillRefuse die x) s = execSpillRefuse die x s := rfl
theorem exec_preSave (die : Nat) (x : Word) (s : State) :
    exec (.preSave die x) s = execPreSave die x s := rfl
theorem exec_preRestore (die : Nat) (x : Word) (s : State) :
    exec (.preRestore die x) s = execPreRestore die x s := rfl
theorem exec_evThaw (die : Nat) (s : State) :
    exec (.evThaw die) s = execEvThaw die s := rfl
theorem exec_secAlarmSrcClear (x : Word) (s : State) :
    exec (.secAlarmSrcClear x) s = execSecAlarmSrcClear x s := rfl
theorem exec_secAlarmActWrite (x : Word) (s : State) :
    exec (.secAlarmActWrite x) s = execSecAlarmActWrite x s := rfl
theorem exec_healthTripClear (x : Word) (s : State) :
    exec (.healthTripClear x) s = execHealthTripClear x s := rfl
theorem exec_pwrLimWrite (x : Word) (s : State) :
    exec (.pwrLimWrite x) s = execPwrLimWrite x s := rfl
theorem exec_ringEnableWrite (die ring : Nat) (x : Word) (s : State) :
    exec (.ringEnableWrite die ring x) s = execRingEnableWrite die ring x s := rfl
theorem exec_ctxSatClear (ctx : BitVec 12) (x : Word) (s : State) :
    exec (.ctxSatClear ctx x) s = execCtxSatClear ctx x s := rfl
theorem exec_mmioRegisterWrite (m : Master) (off size : Nat) (x : Word) (s : State) :
    exec (.mmioRegisterWrite m off size x) s = execMmioRegisterWrite m off size x s := rfl
theorem exec_mgmtMmioRead (off : Nat) (s : State) :
    exec (.mgmtMmioRead off) s = execMgmtMmioRead off s := rfl
theorem exec_mgmtMmioWrite (off : Nat) (x : Word) (s : State) :
    exec (.mgmtMmioWrite off x) s = execMgmtMmioWrite off x s := rfl
theorem exec_mctpControlMessage (cmd : Byte) (s : State) :
    exec (.mctpControlMessage cmd) s = execMctpControlMessage cmd s := rfl
theorem exec_lqSlotWrite (die slot : Nat) (x : Word) (s : State) :
    exec (.lqSlotWrite die slot x) s = execLqSlotWrite die slot x s := rfl
theorem exec_peerPortDown (port : Nat) (s : State) :
    exec (.peerPortDown port) s = execPeerPortDown port s := rfl
theorem exec_hostLinkDown (link : Nat) (s : State) :
    exec (.hostLinkDown link) s = execHostLinkDown link s := rfl

end Sys2Proof.Machine
end

