-- ==== Sys2Proof/Laws/Fire.lean ====
section
/-! SUPPORT. What the shared operations of a slot do, each said once: firing, emitting, holding, settling, resolving,
waiting, and taking a trap. -/

namespace Sys2Proof.Machine

/-- A slot without a null whose predicate matches has its effect (R20, R21). -/
theorem State.fire_effect (s : State) (n : Node) (i : Instr) (eff : Node → SlotRt → State) (h : s.here = some n)
    (hn : (n.blk.slotAt n.slot).hasNull = false)
    (hp : i.pred = .always ∨ i.pred.matches (n.blk.slotAt n.slot).g = true) :
    s.fire i eff = eff n (n.blk.slotAt n.slot) := by
  unfold State.fire
  rcases hp with hp | hp <;> simp [h, hn, hp]

/-- A slot that holds a null settles (R21). -/
theorem State.fire_null (s : State) (n : Node) (i : Instr) (eff : Node → SlotRt → State) (h : s.here = some n)
    (hn : (n.blk.slotAt n.slot).hasNull = true) : s.fire i eff = s.settle i := by
  unfold State.fire
  simp [h, hn]

/-- A slot whose predicate does not match is resolved without firing (R20). -/
theorem State.fire_unmatched (s : State) (n : Node) (i : Instr) (eff : Node → SlotRt → State) (h : s.here = some n)
    (hn : (n.blk.slotAt n.slot).hasNull = false) (hp : i.pred ≠ .always)
    (hm : i.pred.matches (n.blk.slotAt n.slot).g = false) : s.fire i eff = s.resolve i := by
  unfold State.fire
  simp [h, hn, hp, hm]

/-- Firing does one of three things, where a node runs; otherwise nothing. -/
theorem State.fire_cases (s : State) (i : Instr) (eff : Node → SlotRt → State) :
    s.fire i eff = s ∨ s.fire i eff = s.settle i ∨ s.fire i eff = s.resolve i ∨
      ∃ n, s.here = some n ∧ s.fire i eff = eff n (n.blk.slotAt n.slot) := by
  cases h : s.here with
  | none => left; unfold State.fire; simp [h]
  | some n =>
    by_cases hn : (n.blk.slotAt n.slot).hasNull = true
    · exact .inr (.inl (State.fire_null s n i eff h hn))
    · by_cases hp : i.pred = .always ∨ i.pred.matches (n.blk.slotAt n.slot).g = true
      · exact .inr (.inr (.inr ⟨n, rfl, State.fire_effect s n i eff h (by simpa using hn) hp⟩))
      · simp only [not_or, Bool.not_eq_true] at hp
        exact .inr (.inr (.inl (State.fire_unmatched s n i eff h (by simpa using hn) hp.1 hp.2)))

/-- A value that finds room at every target is delivered, and the slot has fired. -/
theorem State.emit_ok (s : State) (n : Node) (i : Instr) (v : Val) (b : Blk) (h : s.here = some n)
    (hd : n.blk.deliver v (n.issueCyc n.slot + Config.latency i) i.targets = .ok b) :
    s.emit i v = s.putHere (n.fired b .fired) := by
  unfold State.emit
  simp [h, hd]

/-- A value that finds a position taken raises the block fault of the consumer's slot (R20). -/
theorem State.emit_error (s : State) (n : Node) (i : Instr) (v : Val) (k : Nat) (h : s.here = some n)
    (hd : n.blk.deliver v (n.issueCyc n.slot + Config.latency i) i.targets = .error k) :
    s.emit i v = s.takeTrap s.focus .block k 0 0 n.pc := by
  unfold State.emit State.precise
  have h' : s.node? s.focus = some n := h
  simp [h, hd, h']

/-- A slot that holds acts has fired, and the acts stand last among the block's effects. -/
theorem State.hold_eq (s : State) (n : Node) (step key : Nat) (acts : List Act) (h : s.here = some n) :
    s.hold step key acts =
      s.putHere (n.fired { n.blk with effs := n.blk.effs ++ [⟨n.slot, step, key, acts⟩] } .fired) := by
  unfold State.hold
  simp [h]

/-- A precise trap of the running slot is taken with the header of its block as the saved pc (R27). -/
theorem State.trapHere_eq (s : State) (n : Node) (c : Cause) (a : Word) (h : s.here = some n) :
    s.trapHere c a = s.takeTrap s.focus c n.slot 0 a n.pc := by
  have h' : s.node? s.focus = some n := h
  unfold State.trapHere State.precise
  simp [h, h']

/-- A slot that cannot act yet waits again, outside a T block. -/
theorem State.retry_eq (s : State) (n : Node) (h : s.here = some n) (ht : n.blk.timed = false) :
    s.retry = s.putHere { n with issued := false } := by
  unfold State.retry
  simp [h, ht]

/-- A computation fires and emits. -/
theorem State.compute_ok (s : State) (n : Node) (i : Instr) (f : SlotRt → Val) (b : Blk) (h : s.here = some n)
    (hn : (n.blk.slotAt n.slot).hasNull = false)
    (hp : i.pred = .always ∨ i.pred.matches (n.blk.slotAt n.slot).g = true)
    (hd : n.blk.deliver (f (n.blk.slotAt n.slot)) (n.issueCyc n.slot + Config.latency i) i.targets = .ok b) :
    s.compute i f = s.putHere (n.fired b .fired) := by
  unfold State.compute
  rw [State.fire_effect s n i _ h hn hp, State.emit_ok s n i _ b h hd]

/-- What taking a trap can do to the node that takes it (R417 to R419): it enters the handler, or it freezes. Nothing else of
the state changes. -/
theorem State.takeTrap_cases (s : State) (t : Nat) (c : Cause) (slot code : Nat) (addr epc : Word) :
    s.takeTrap t c slot code addr epc = s ∨
      (∃ n vec, s.node? t = some n ∧ n.tr.act = false ∧
        s.takeTrap t c slot code addr epc = s.setNode t (n.enterTrap c slot code addr epc vec)) ∨
      ∃ n r pc, s.node? t = some n ∧ s.takeTrap t c slot code addr epc = s.setNode t (n.freeze r pc) := by
  cases h : s.node? t with
  | none => left; simp [State.takeTrap, h]
  | some n =>
    right
    cases ha : n.tr.act with
    | true => right; exact ⟨n, _, _, rfl, by unfold State.takeTrap; simp only [h, ha, if_true]; rfl⟩
    | false =>
      by_cases hv : (if c = .sysc then s.sysVec n.ctx else n.tr.vec) = 0
      · right
        exact ⟨n, _, _, rfl, by unfold State.takeTrap; simp only [h, ha, hv, if_true]; rfl⟩
      · left
        refine ⟨n, if c = .sysc then s.sysVec n.ctx else n.tr.vec, rfl, ha, ?_⟩
        unfold State.takeTrap
        simp only [h, ha, hv]
        rfl

/-- Posting messages changes no node and not the focus. -/
theorem State.foldl_post (l : List (Nat × Node)) (f : Nat → Instr) (s : State) :
    (l.foldl (fun s p => s.post (f p.1)) s).nodes = s.nodes ∧ (l.foldl (fun s p => s.post (f p.1)) s).focus = s.focus := by
  induction l generalizing s with
  | nil => exact ⟨rfl, rfl⟩
  | cons a l ih => exact ih (s.post (f a.1))

/-- Forwarding a value changes no node and not the focus (R380). -/
theorem State.forward_nodes (s : State) (n : Node) (k : FwdKey) (x : Vec) :
    (s.forward n k x).nodes = s.nodes ∧ (s.forward n k x).focus = s.focus := by
  unfold State.forward
  split
  · exact State.foldl_post (s.twins n) (fun t => .forwardedValueArrive t k x) s
  · exact ⟨rfl, rfl⟩

/-- Forwarding a value leaves the running node as it is. -/
@[simp] theorem State.forward_here (s : State) (n : Node) (k : FwdKey) (x : Vec) : (s.forward n k x).here = s.here := by
  unfold State.here State.node?
  rw [(State.forward_nodes s n k x).1, (State.forward_nodes s n k x).2]

/-- A node that is no shadow goes on with the value it observed, forwarded (R213, R380). -/
theorem State.observe_lead (s0 s : State) (n : Node) (x : Word) (k : Word → State → State) (h : n.shadow = false) :
    State.observe s0 s n x k = k x (s.forward n (n.fwdKey 0) (x.setWidth 1024)) := by
  unfold State.observe
  simp [h]

/-- A node that is no shadow goes on with the network's answer, forwarded (R329). -/
theorem State.netObserve_lead (s0 s : State) (n : Node) (x : Vec) (k : Vec → State → State) (h : n.shadow = false) :
    State.netObserve s0 s n x k = k x (s.forward n (n.fwdKey 0) x) := by
  unfold State.netObserve
  simp [h]

/-- A check of the network that finds nothing wrong goes on. -/
theorem State.netCheck_pass (s : State) (n : Node) (k : State → State) (h : n.shadow = false) :
    s.netCheck n none k = k (s.forward n (n.fwdKey 0) 0) := by
  unfold State.netCheck
  rw [State.netObserve_lead _ _ _ _ _ h]
  simp

/-- A node that is no shadow asks the network of its own die. -/
theorem State.netOf_lead (s : State) (n : Node) (h : n.shadow = false) : s.netOf n = (s.die (dieOf n.tile)).net := by
  unfold State.netOf State.leaderDie
  simp [h]

end Sys2Proof.Machine
end

