-- ==== Sys2Proof/Laws/Memory.lean ====
section
/-! SUPPORT. The byte memory: every operation keeps its canonical form, a write is read back, and a write leaves
every other byte alone. -/

namespace Sys2Proof.Machine

theorem Memory.wf_tail {p : Host.Cell} {m : List Host.Cell} (h : Memory.wf (p :: m) = true) : Memory.wf m = true := by
  cases m with
  | nil => rfl
  | cons q m => simp [Memory.wf] at h; exact h.2

theorem Memory.wf_head {k : Nat} {x : Byte} {m : List Host.Cell} (h : Memory.wf ((k, x) :: m) = true) : x ≠ 0 := by
  cases m with
  | nil => simpa [Memory.wf] using h
  | cons q m => simp [Memory.wf] at h; exact h.1.1

theorem Memory.wf_lt {k j : Nat} {x y : Byte} {m : List Host.Cell} (h : Memory.wf ((k, x) :: (j, y) :: m) = true) : k < j := by
  simp [Memory.wf] at h; exact h.1.2

theorem Memory.wf_cons {k j : Nat} {x y : Byte} {m : List Host.Cell} (hx : x ≠ 0) (hk : k < j)
    (h : Memory.wf ((j, y) :: m) = true) : Memory.wf ((k, x) :: (j, y) :: m) = true := by
  simp only [Memory.wf, Bool.and_eq_true, decide_eq_true_eq]
  exact ⟨⟨hx, hk⟩, h⟩

theorem Memory.wf_single (k : Nat) {x : Byte} (hx : x ≠ 0) : Memory.wf [(k, x)] = true := decide_eq_true hx

/-- A canonical memory stays so when its first cell is dropped for one further on. -/
theorem Memory.wf_drop {k j : Nat} {x y : Byte} {m : List Host.Cell} (h : Memory.wf ((k, x) :: (j, y) :: m) = true) :
    Memory.wf ((k, x) :: m) = true := by
  cases m with
  | nil => simpa [Memory.wf] using Memory.wf_head h
  | cons q m =>
    obtain ⟨i, z⟩ := q
    exact Memory.wf_cons (Memory.wf_head h) (Nat.lt_trans (Memory.wf_lt h) (Memory.wf_lt (Memory.wf_tail h)))
      (Memory.wf_tail (Memory.wf_tail h))

/-- A put behind a cell keeps the form. -/
theorem Memory.put_wf_behind (k : Nat) (x : Byte) (m : List Host.Cell) (j : Nat) (y : Byte) (hj : j < k)
    (h : Memory.wf ((j, y) :: m) = true) : Memory.wf ((j, y) :: Memory.put k x m) = true := by
  induction m generalizing j y with
  | nil =>
    unfold Memory.put
    split
    · exact h
    · exact Memory.wf_cons (Memory.wf_head h) hj (Memory.wf_single k (by assumption))
  | cons p m ih =>
    obtain ⟨i, z⟩ := p
    unfold Memory.put
    split
    · split
      · exact h
      · exact Memory.wf_cons (Memory.wf_head h) hj (Memory.wf_cons (by assumption) (by assumption) (Memory.wf_tail h))
    · split
      · split
        · exact Memory.wf_drop h
        · subst_vars
          have := Memory.wf_tail h
          refine Memory.wf_cons (Memory.wf_head h) hj ?_
          cases m with
          | nil => exact Memory.wf_single _ (by assumption)
          | cons q m => exact Memory.wf_cons (by assumption) (Memory.wf_lt this) (Memory.wf_tail this)
      · exact Memory.wf_cons (Memory.wf_head h) (Memory.wf_lt h) (ih i z (by omega) (Memory.wf_tail h))

/-- Writing a byte keeps the canonical form. -/
theorem Memory.put_wf (k : Nat) (x : Byte) (m : List Host.Cell) (h : Memory.wf m = true) :
    Memory.wf (Memory.put k x m) = true := by
  cases m with
  | nil =>
    unfold Memory.put
    split
    · rfl
    · exact Memory.wf_single k (by assumption)
  | cons p m =>
    obtain ⟨j, y⟩ := p
    unfold Memory.put
    split
    · split
      · exact h
      · exact Memory.wf_cons (by assumption) (by assumption) h
    · split
      · split
        · exact Memory.wf_tail h
        · subst_vars
          cases m with
          | nil => exact Memory.wf_single _ (by assumption)
          | cons q m => exact Memory.wf_cons (by assumption) (Memory.wf_lt h) (Memory.wf_tail h)
      · exact Memory.put_wf_behind k x m j y (by omega) h

/-- Writing bytes keeps the canonical form. -/
theorem Memory.write_wf (m : List Host.Cell) (k : Nat) (b : List Byte) (h : Memory.wf m = true) :
    Memory.wf (Memory.write m k b) = true := by
  induction b generalizing m k with
  | nil => exact h
  | cons x b ih => exact ih _ _ (Memory.put_wf k x m h)

/-- Placing cells one by one keeps the canonical form. -/
theorem Memory.foldl_put_wf (f : Host.Cell → Nat) (l m : List Host.Cell) (h : Memory.wf m = true) :
    Memory.wf (l.foldl (fun m c => Memory.put (f c) c.2 m) m) = true := by
  induction l generalizing m with
  | nil => exact h
  | cons c l ih => exact ih _ (Memory.put_wf _ _ m h)

/-- What is left of a canonical memory is canonical. -/
theorem Memory.filter_wf_behind (f : Host.Cell → Bool) (m : List Host.Cell) (k : Nat) (x : Byte)
    (h : Memory.wf ((k, x) :: m) = true) : Memory.wf ((k, x) :: m.filter f) = true := by
  induction m generalizing k x with
  | nil => exact h
  | cons p m ih =>
    obtain ⟨j, y⟩ := p
    by_cases hp : f (j, y) = true
    · simp only [List.filter_cons, hp, if_true]
      exact Memory.wf_cons (Memory.wf_head h) (Memory.wf_lt h) (ih j y (Memory.wf_tail h))
    · simp only [List.filter_cons, hp]
      exact ih k x (Memory.wf_drop h)

/-- Keeping some of the cells keeps the canonical form. -/
theorem Memory.filter_wf (f : Host.Cell → Bool) (m : List Host.Cell) (h : Memory.wf m = true) :
    Memory.wf (m.filter f) = true := by
  induction m with
  | nil => rfl
  | cons p m ih =>
    by_cases hp : f p = true
    · simp only [List.filter_cons, hp, if_true]
      exact Memory.filter_wf_behind f m p.1 p.2 h
    · simp only [List.filter_cons, hp]
      exact ih (Memory.wf_tail h)

/-- Below the first cell of a canonical memory every byte is 0. -/
theorem Memory.get_below {k j : Nat} {x : Byte} {m : List Host.Cell} (h : k < j) : Memory.get k ((j, x) :: m) = 0 := by
  simp [Memory.get, h, Nat.ne_of_gt h]

/-- A canonical memory reads 0 at the key of a cell that is gone. -/
theorem Memory.get_tail_self {k : Nat} {x : Byte} {m : List Host.Cell} (h : Memory.wf ((k, x) :: m) = true) :
    Memory.get k m = 0 := by
  cases m with
  | nil => rfl
  | cons q m => exact Memory.get_below (Memory.wf_lt h)

/-- Beyond its first cell a canonical memory reads as the rest of it does. -/
theorem Memory.get_beyond {k j : Nat} {x : Byte} {m : List Host.Cell} (h : j < k) :
    Memory.get k ((j, x) :: m) = Memory.get k m := by
  have : ¬ k < j := by omega
  simp [Memory.get, Nat.ne_of_lt h, this]

/-- A byte written is read back. -/
theorem Memory.get_put_self (k : Nat) (x : Byte) (m : List Host.Cell) (h : Memory.wf m = true) :
    Memory.get k (Memory.put k x m) = x := by
  induction m with
  | nil => unfold Memory.put; split <;> simp [Memory.get, *]
  | cons p m ih =>
    obtain ⟨j, y⟩ := p
    unfold Memory.put
    split
    · split
      · simp [Memory.get_below, *]
      · simp [Memory.get]
    · split
      · subst_vars
        split
        · simp [Memory.get_tail_self h, *]
        · simp [Memory.get]
      · rw [Memory.get_beyond (by omega)]; exact ih (Memory.wf_tail h)

/-- A write leaves every other byte alone. -/
theorem Memory.get_put_ne {a k : Nat} (x : Byte) (m : List Host.Cell) (h : Memory.wf m = true) (ha : a ≠ k) :
    Memory.get a (Memory.put k x m) = Memory.get a m := by
  induction m with
  | nil => unfold Memory.put; split <;> simp [Memory.get, Ne.symm ha]
  | cons p m ih =>
    obtain ⟨j, y⟩ := p
    unfold Memory.put
    split
    · split
      · rfl
      · rcases Nat.lt_or_gt_of_ne ha with h1 | h1
        · rw [Memory.get_below h1, Memory.get_below (by omega)]
        · rw [Memory.get_beyond h1]
    · split
      · subst_vars
        rcases Nat.lt_or_gt_of_ne ha with h1 | h1
        · rw [Memory.get_below h1]
          split
          · cases m with
            | nil => rfl
            | cons q m => exact Memory.get_below (Nat.lt_trans h1 (Memory.wf_lt h))
          · exact Memory.get_below h1
        · rw [Memory.get_beyond h1]
          split
          · rfl
          · exact Memory.get_beyond h1
      · rcases Nat.lt_trichotomy a j with h1 | h1 | h1
        · rw [Memory.get_below h1, Memory.get_below h1]
        · simp [Memory.get, h1]
        · rw [Memory.get_beyond h1, Memory.get_beyond h1]; exact ih (Memory.wf_tail h)

/-- A write leaves every byte outside its span alone. -/
theorem Memory.get_write_outside (m : List Host.Cell) (k : Nat) (b : List Byte) (a : Nat) (h : Memory.wf m = true)
    (ha : a < k ∨ k + b.length ≤ a) : Memory.get a (Memory.write m k b) = Memory.get a m := by
  induction b generalizing m k with
  | nil => rfl
  | cons x b ih =>
    simp only [List.length_cons] at ha
    rw [Memory.write, ih _ _ (Memory.put_wf k x m h) (by omega), Memory.get_put_ne x m h (by omega)]

/-- The bytes written are read back. -/
theorem Memory.read_write (m : List Host.Cell) (k : Nat) (b : List Byte) (h : Memory.wf m = true) :
    Memory.read (Memory.write m k b) k b.length = b := by
  induction b generalizing m k with
  | nil => rfl
  | cons x b ih =>
    simp only [Memory.write, List.length_cons, Memory.read]
    rw [Memory.get_write_outside _ (k + 1) b k (Memory.put_wf k x m h) (by omega), Memory.get_put_self k x m h]
    rw [ih _ _ (Memory.put_wf k x m h)]

/-- The operation that writes a number keeps the canonical form. -/
theorem State.poke_wf (s : State) (k n x : Nat) (h : Memory.wf s.mem = true) : Memory.wf (s.poke k n x).mem = true :=
  Memory.write_wf _ _ _ h

/-- Memory after reset has the canonical form. -/
theorem State.reset_mem_wf : Memory.wf State.reset.mem = true := rfl

end Sys2Proof.Machine
end

