-- ==== Sys2Proof/Laws/PerInstr.lean ====
section
/-! SUPPORT. For every instruction: the opcode of its first word is one that R46 does not reserve, its predicate stands where
R16 has it, and its opcode takes a second word exactly where it has one (R16, R18, R19, R46). -/

namespace Sys2Proof.Laws

/-! ### Fields of a word that is written -/

theorem opOf_wG (op : BitVec 8) (p : Pred) (t u : Tgt) (x : BitVec 8) : opOf (wG op p t u x) = op := by
  unfold opOf wG
  ext i hi
  simp [BitVec.getElem_extractLsb']
  grind

theorem opOf_wI (op : BitVec 8) (p : Pred) (t : Tgt) (x : BitVec 15) : opOf (wI op p t x) = op := by
  unfold opOf wI
  ext i hi
  simp [BitVec.getElem_extractLsb']
  grind

theorem opOf_wB (op : BitVec 8) (p : Pred) (d : BitVec 22) : opOf (wB op p d) = op := by
  unfold opOf wB
  ext i hi
  simp [BitVec.getElem_extractLsb']
  grind

theorem opOf_wC (op : BitVec 8) (p : Pred) (t u : Tgt) (k : BitVec 2) (n : BitVec 6) : opOf (wC op p t u k n) = op := by
  unfold opOf wC
  ext i hi
  simp [BitVec.getElem_extractLsb']
  grind

theorem opOf_wM (op : BitVec 8) (p : Pred) (t : Tgt) (m : MOff) : opOf (wM op p t m) = op := by
  unfold opOf wM
  ext i hi
  simp [BitVec.getElem_extractLsb']
  grind

theorem predOf_wG (op : BitVec 8) (p : Pred) (t u : Tgt) (x : BitVec 8) : predOf (wG op p t u x) = p.code := by
  unfold predOf wG
  ext i hi
  simp [BitVec.getElem_extractLsb']
  grind

theorem predOf_wI (op : BitVec 8) (p : Pred) (t : Tgt) (x : BitVec 15) : predOf (wI op p t x) = p.code := by
  unfold predOf wI
  ext i hi
  simp [BitVec.getElem_extractLsb']
  grind

theorem predOf_wB (op : BitVec 8) (p : Pred) (d : BitVec 22) : predOf (wB op p d) = p.code := by
  unfold predOf wB
  ext i hi
  simp [BitVec.getElem_extractLsb']
  grind

theorem predOf_wC (op : BitVec 8) (p : Pred) (t u : Tgt) (k : BitVec 2) (n : BitVec 6) : predOf (wC op p t u k n) = p.code := by
  unfold predOf wC
  ext i hi
  simp [BitVec.getElem_extractLsb']
  grind

theorem predOf_wM (op : BitVec 8) (p : Pred) (t : Tgt) (m : MOff) : predOf (wM op p t m) = p.code := by
  unfold predOf wM
  ext i hi
  simp [BitVec.getElem_extractLsb']
  grind

theorem isX_wG (op : BitVec 8) (p : Pred) (t u : Tgt) (b : Bool) (ty : Ty) (m : BitVec 4) : isX (wG op p t u (xInt b ty m)) = b := by
  unfold isX wG xInt b1
  simp only [BitVec.getLsbD_append]
  cases b <;> simp

/-! ### What is said of every instruction -/

/-- What the words of an instruction have in common. -/
def Words.Says (i : Instr) (w : Word32) (x : Option Word32) : Prop :=
  opKnown (opOf w).toNat = true ∧ predOf w = i.pred.code ∧ takesTwo w = x.isSome

/-- An instruction's words have their opcode, predicate and length where the decoder looks for them. -/
def Words.Statement (i : Instr) : Prop := ∀ w x, encode i = some (w, x) → Words.Says i w x

theorem Words.ofWords {i : Instr} {w : Word32} {x : Option Word32} (e : encode i = some (w, x)) (h : Words.Says i w x) :
    Words.Statement i := by
  intro w' x' e'
  rw [e] at e'
  cases e'
  exact h

theorem Words.ofNone {i : Instr} (e : encode i = none) : Words.Statement i := by
  intro w x h
  rw [e] at h
  cases h

/-- Whether a second word follows an opcode, given the X bit. -/
def Words.two (op : Nat) (x : Bool) : Bool :=
  op = 0x09 || op = 0x49 || op = 0x68 || op = 0xC2 || (0x90 ≤ op && op ≤ 0xA5 && op ≠ 0x9C)
    || (0x20 ≤ op && op ≤ 0x37 && op ≠ 0x2E && op ≠ 0x2F && op ≠ 0x34 && x)

/-- An opcode is known, and takes a second word or not, whatever the X bit. -/
def Words.fits (op : BitVec 8) (y : Bool) : Bool :=
  opKnown op.toNat && Words.two op.toNat true == y && Words.two op.toNat false == y

theorem Words.says {i : Instr} {w : Word32} {x : Option Word32} {op : BitVec 8} (h : Words.fits op x.isSome = true)
    (e : encode i = some (w, x)) (ho : opOf w = op) (hp : predOf w = i.pred.code) : Words.Statement i := by
  refine Words.ofWords e ⟨?_, hp, ?_⟩ <;> simp only [Words.fits, Bool.and_eq_true, beq_iff_eq] at h
  · rw [ho]; exact h.1.1
  · show Words.two (opOf w).toNat (isX w) = _
    rw [ho]
    cases isX w
    · exact h.2
    · exact h.1.2

theorem Words.saysX {i : Instr} {w : Word32} {x : Option Word32} {op : BitVec 8} (b : Bool)
    (h : (opKnown op.toNat && Words.two op.toNat b == x.isSome) = true)
    (e : encode i = some (w, x)) (ho : opOf w = op) (hp : predOf w = i.pred.code) (hx : isX w = b) : Words.Statement i := by
  refine Words.ofWords e ⟨?_, hp, ?_⟩ <;> simp only [Bool.and_eq_true, beq_iff_eq] at h
  · rw [ho]; exact h.1
  · show Words.two (opOf w).toNat (isX w) = _
    rw [ho, hx]
    exact h.2

theorem Words.null (p : Pred) (t u : Tgt) : Words.Statement (.null p t u) :=
  Words.says rfl rfl (opOf_wG _ _ _ _ _) (predOf_wG _ _ _ _ _)
theorem Words.mov (p : Pred) (t u : Tgt) : Words.Statement (.mov p t u) :=
  Words.says rfl rfl (opOf_wG _ _ _ _ _) (predOf_wG _ _ _ _ _)
theorem Words.movi (p : Pred) (t : Tgt) (imm : BitVec 15) : Words.Statement (.movi p t imm) :=
  Words.says rfl rfl (opOf_wI _ _ _ _) (predOf_wI _ _ _ _)
theorem Words.movi32 (p : Pred) (t u : Tgt) (zx : Bool) (imm : Word32) : Words.Statement (.movi32 p t u zx imm) :=
  Words.says rfl rfl (opOf_wG _ _ _ _ _) (predOf_wG _ _ _ _ _)
theorem Words.moviHi (p : Pred) (t u : Tgt) (imm : Word32) : Words.Statement (.moviHi p t u imm) :=
  Words.says rfl rfl (opOf_wG _ _ _ _ _) (predOf_wG _ _ _ _ _)
theorem Words.exit (p : Pred) : Words.Statement (.exit p) :=
  Words.says rfl rfl (opOf_wG _ _ _ _ _) (predOf_wG _ _ _ _ _)
theorem Words.br (p : Pred) (disp : BitVec 22) : Words.Statement (.br p disp) :=
  Words.says rfl rfl (opOf_wB _ _ _) (predOf_wB _ _ _)
theorem Words.bri (p : Pred) : Words.Statement (.bri p) :=
  Words.says rfl rfl (opOf_wG _ _ _ _ _) (predOf_wG _ _ _ _ _)
theorem Words.call (p : Pred) (disp : BitVec 22) : Words.Statement (.call p disp) :=
  Words.says rfl rfl (opOf_wB _ _ _) (predOf_wB _ _ _)
theorem Words.calli (p : Pred) : Words.Statement (.calli p) :=
  Words.says rfl rfl (opOf_wG _ _ _ _ _) (predOf_wG _ _ _ _ _)
theorem Words.ret (p : Pred) : Words.Statement (.ret p) :=
  Words.says rfl rfl (opOf_wG _ _ _ _ _) (predOf_wG _ _ _ _ _)
theorem Words.halt (p : Pred) : Words.Statement (.halt p) :=
  Words.says rfl rfl (opOf_wG _ _ _ _ _) (predOf_wG _ _ _ _ _)
theorem Words.rd (p : Pred) (t u : Tgt) (n : BitVec 6) : Words.Statement (.rd p t u n) :=
  Words.says rfl rfl (opOf_wC _ _ _ _ _ _) (predOf_wC _ _ _ _ _ _)
theorem Words.rdT (p : Pred) (t u : Tgt) (n : BitVec 6) : Words.Statement (.rdT p t u n) :=
  Words.says rfl rfl (opOf_wC _ _ _ _ _ _) (predOf_wC _ _ _ _ _ _)
theorem Words.rdv (p : Pred) (t u : Tgt) (n : BitVec 5) : Words.Statement (.rdv p t u n) :=
  Words.says rfl rfl (opOf_wC _ _ _ _ _ _) (predOf_wC _ _ _ _ _ _)
theorem Words.rdvT (p : Pred) (t u : Tgt) (n : BitVec 5) : Words.Statement (.rdvT p t u n) :=
  Words.says rfl rfl (opOf_wC _ _ _ _ _ _) (predOf_wC _ _ _ _ _ _)
theorem Words.rdp (p : Pred) (t u : Tgt) (n : BitVec 3) : Words.Statement (.rdp p t u n) :=
  Words.says rfl rfl (opOf_wC _ _ _ _ _ _) (predOf_wC _ _ _ _ _ _)
theorem Words.rdpT (p : Pred) (t u : Tgt) (n : BitVec 3) : Words.Statement (.rdpT p t u n) :=
  Words.says rfl rfl (opOf_wC _ _ _ _ _ _) (predOf_wC _ _ _ _ _ _)
theorem Words.wr (p : Pred) (n : BitVec 6) : Words.Statement (.wr p n) :=
  Words.says rfl rfl (opOf_wC _ _ _ _ _ _) (predOf_wC _ _ _ _ _ _)
theorem Words.wrv (p : Pred) (n : BitVec 5) : Words.Statement (.wrv p n) :=
  Words.says rfl rfl (opOf_wC _ _ _ _ _ _) (predOf_wC _ _ _ _ _ _)
theorem Words.wrp (p : Pred) (n : BitVec 3) : Words.Statement (.wrp p n) :=
  Words.says rfl rfl (opOf_wC _ _ _ _ _ _) (predOf_wC _ _ _ _ _ _)
theorem Words.recv (p : Pred) (t u : Tgt) (port : BitVec 2) : Words.Statement (.recv p t u port) :=
  Words.says rfl rfl (opOf_wC _ _ _ _ _ _) (predOf_wC _ _ _ _ _ _)
theorem Words.send (p : Pred) (port : BitVec 2) : Words.Statement (.send p port) :=
  Words.says rfl rfl (opOf_wC _ _ _ _ _ _) (predOf_wC _ _ _ _ _ _)
theorem Words.sendt (p : Pred) (port : BitVec 2) : Words.Statement (.sendt p port) :=
  Words.says rfl rfl (opOf_wC _ _ _ _ _ _) (predOf_wC _ _ _ _ _ _)
theorem Words.tagof (p : Pred) (t u : Tgt) (port : BitVec 2) : Words.Statement (.tagof p t u port) :=
  Words.says rfl rfl (opOf_wC _ _ _ _ _ _) (predOf_wC _ _ _ _ _ _)
theorem Words.settag (p : Pred) (port : BitVec 2) : Words.Statement (.settag p port) :=
  Words.says rfl rfl (opOf_wC _ _ _ _ _ _) (predOf_wC _ _ _ _ _ _)
theorem Words.edgeset (p : Pred) (port : BitVec 2) : Words.Statement (.edgeset p port) :=
  Words.says rfl rfl (opOf_wC _ _ _ _ _ _) (predOf_wC _ _ _ _ _ _)
theorem Words.add (p : Pred) (t u : Tgt) (ty : Ty) (sat : Bool) : Words.Statement (.add p t u ty sat) :=
  Words.saysX _ rfl rfl (opOf_wG _ _ _ _ _) (predOf_wG _ _ _ _ _) (isX_wG _ _ _ _ _ _ _)
theorem Words.addX (p : Pred) (t u : Tgt) (ty : Ty) (sat : Bool) (imm : Word32) : Words.Statement (.addX p t u ty sat imm) :=
  Words.saysX _ rfl rfl (opOf_wG _ _ _ _ _) (predOf_wG _ _ _ _ _) (isX_wG _ _ _ _ _ _ _)
theorem Words.addI (p : Pred) (t : Tgt) (imm : BitVec 15) : Words.Statement (.addI p t imm) :=
  Words.says rfl rfl (opOf_wI _ _ _ _) (predOf_wI _ _ _ _)
theorem Words.sub (p : Pred) (t u : Tgt) (ty : Ty) (sat : Bool) : Words.Statement (.sub p t u ty sat) :=
  Words.saysX _ rfl rfl (opOf_wG _ _ _ _ _) (predOf_wG _ _ _ _ _) (isX_wG _ _ _ _ _ _ _)
theorem Words.subX (p : Pred) (t u : Tgt) (ty : Ty) (sat : Bool) (imm : Word32) : Words.Statement (.subX p t u ty sat imm) :=
  Words.saysX _ rfl rfl (opOf_wG _ _ _ _ _) (predOf_wG _ _ _ _ _) (isX_wG _ _ _ _ _ _ _)
theorem Words.mul (p : Pred) (t u : Tgt) (ty : Ty) (sat : Bool) : Words.Statement (.mul p t u ty sat) :=
  Words.saysX _ rfl rfl (opOf_wG _ _ _ _ _) (predOf_wG _ _ _ _ _) (isX_wG _ _ _ _ _ _ _)
theorem Words.mulX (p : Pred) (t u : Tgt) (ty : Ty) (sat : Bool) (imm : Word32) : Words.Statement (.mulX p t u ty sat imm) :=
  Words.saysX _ rfl rfl (opOf_wG _ _ _ _ _) (predOf_wG _ _ _ _ _) (isX_wG _ _ _ _ _ _ _)
theorem Words.mulI (p : Pred) (t : Tgt) (imm : BitVec 15) : Words.Statement (.mulI p t imm) :=
  Words.says rfl rfl (opOf_wI _ _ _ _) (predOf_wI _ _ _ _)
theorem Words.mulh (p : Pred) (t u : Tgt) (ty : Ty) : Words.Statement (.mulh p t u ty) :=
  Words.saysX _ rfl rfl (opOf_wG _ _ _ _ _) (predOf_wG _ _ _ _ _) (isX_wG _ _ _ _ _ _ _)
theorem Words.mulhX (p : Pred) (t u : Tgt) (ty : Ty) (imm : Word32) : Words.Statement (.mulhX p t u ty imm) :=
  Words.saysX _ rfl rfl (opOf_wG _ _ _ _ _) (predOf_wG _ _ _ _ _) (isX_wG _ _ _ _ _ _ _)
theorem Words.div (p : Pred) (t u : Tgt) (ty : Ty) : Words.Statement (.div p t u ty) :=
  Words.saysX _ rfl rfl (opOf_wG _ _ _ _ _) (predOf_wG _ _ _ _ _) (isX_wG _ _ _ _ _ _ _)
theorem Words.divX (p : Pred) (t u : Tgt) (ty : Ty) (imm : Word32) : Words.Statement (.divX p t u ty imm) :=
  Words.saysX _ rfl rfl (opOf_wG _ _ _ _ _) (predOf_wG _ _ _ _ _) (isX_wG _ _ _ _ _ _ _)
theorem Words.rem (p : Pred) (t u : Tgt) (ty : Ty) : Words.Statement (.rem p t u ty) :=
  Words.saysX _ rfl rfl (opOf_wG _ _ _ _ _) (predOf_wG _ _ _ _ _) (isX_wG _ _ _ _ _ _ _)
theorem Words.remX (p : Pred) (t u : Tgt) (ty : Ty) (imm : Word32) : Words.Statement (.remX p t u ty imm) :=
  Words.saysX _ rfl rfl (opOf_wG _ _ _ _ _) (predOf_wG _ _ _ _ _) (isX_wG _ _ _ _ _ _ _)
theorem Words.and (p : Pred) (t u : Tgt) (ty : Ty) : Words.Statement (.and p t u ty) :=
  Words.saysX _ rfl rfl (opOf_wG _ _ _ _ _) (predOf_wG _ _ _ _ _) (isX_wG _ _ _ _ _ _ _)
theorem Words.andX (p : Pred) (t u : Tgt) (ty : Ty) (imm : Word32) : Words.Statement (.andX p t u ty imm) :=
  Words.saysX _ rfl rfl (opOf_wG _ _ _ _ _) (predOf_wG _ _ _ _ _) (isX_wG _ _ _ _ _ _ _)
theorem Words.andI (p : Pred) (t : Tgt) (imm : BitVec 15) : Words.Statement (.andI p t imm) :=
  Words.says rfl rfl (opOf_wI _ _ _ _) (predOf_wI _ _ _ _)
theorem Words.or (p : Pred) (t u : Tgt) (ty : Ty) : Words.Statement (.or p t u ty) :=
  Words.saysX _ rfl rfl (opOf_wG _ _ _ _ _) (predOf_wG _ _ _ _ _) (isX_wG _ _ _ _ _ _ _)
theorem Words.orX (p : Pred) (t u : Tgt) (ty : Ty) (imm : Word32) : Words.Statement (.orX p t u ty imm) :=
  Words.saysX _ rfl rfl (opOf_wG _ _ _ _ _) (predOf_wG _ _ _ _ _) (isX_wG _ _ _ _ _ _ _)
theorem Words.orI (p : Pred) (t : Tgt) (imm : BitVec 15) : Words.Statement (.orI p t imm) :=
  Words.says rfl rfl (opOf_wI _ _ _ _) (predOf_wI _ _ _ _)
theorem Words.xor (p : Pred) (t u : Tgt) (ty : Ty) : Words.Statement (.xor p t u ty) :=
  Words.saysX _ rfl rfl (opOf_wG _ _ _ _ _) (predOf_wG _ _ _ _ _) (isX_wG _ _ _ _ _ _ _)
theorem Words.xorX (p : Pred) (t u : Tgt) (ty : Ty) (imm : Word32) : Words.Statement (.xorX p t u ty imm) :=
  Words.saysX _ rfl rfl (opOf_wG _ _ _ _ _) (predOf_wG _ _ _ _ _) (isX_wG _ _ _ _ _ _ _)
theorem Words.xorI (p : Pred) (t : Tgt) (imm : BitVec 15) : Words.Statement (.xorI p t imm) :=
  Words.says rfl rfl (opOf_wI _ _ _ _) (predOf_wI _ _ _ _)
theorem Words.andn (p : Pred) (t u : Tgt) (ty : Ty) : Words.Statement (.andn p t u ty) :=
  Words.saysX _ rfl rfl (opOf_wG _ _ _ _ _) (predOf_wG _ _ _ _ _) (isX_wG _ _ _ _ _ _ _)
theorem Words.andnX (p : Pred) (t u : Tgt) (ty : Ty) (imm : Word32) : Words.Statement (.andnX p t u ty imm) :=
  Words.saysX _ rfl rfl (opOf_wG _ _ _ _ _) (predOf_wG _ _ _ _ _) (isX_wG _ _ _ _ _ _ _)
theorem Words.shl (p : Pred) (t u : Tgt) (ty : Ty) : Words.Statement (.shl p t u ty) :=
  Words.saysX _ rfl rfl (opOf_wG _ _ _ _ _) (predOf_wG _ _ _ _ _) (isX_wG _ _ _ _ _ _ _)
theorem Words.shlX (p : Pred) (t u : Tgt) (ty : Ty) (imm : Word32) : Words.Statement (.shlX p t u ty imm) :=
  Words.saysX _ rfl rfl (opOf_wG _ _ _ _ _) (predOf_wG _ _ _ _ _) (isX_wG _ _ _ _ _ _ _)
theorem Words.shlI (p : Pred) (t : Tgt) (imm : BitVec 15) : Words.Statement (.shlI p t imm) :=
  Words.says rfl rfl (opOf_wI _ _ _ _) (predOf_wI _ _ _ _)
theorem Words.shr (p : Pred) (t u : Tgt) (ty : Ty) : Words.Statement (.shr p t u ty) :=
  Words.saysX _ rfl rfl (opOf_wG _ _ _ _ _) (predOf_wG _ _ _ _ _) (isX_wG _ _ _ _ _ _ _)
theorem Words.shrX (p : Pred) (t u : Tgt) (ty : Ty) (imm : Word32) : Words.Statement (.shrX p t u ty imm) :=
  Words.saysX _ rfl rfl (opOf_wG _ _ _ _ _) (predOf_wG _ _ _ _ _) (isX_wG _ _ _ _ _ _ _)
theorem Words.shrI (p : Pred) (t : Tgt) (imm : BitVec 15) : Words.Statement (.shrI p t imm) :=
  Words.says rfl rfl (opOf_wI _ _ _ _) (predOf_wI _ _ _ _)
theorem Words.sar (p : Pred) (t u : Tgt) (ty : Ty) : Words.Statement (.sar p t u ty) :=
  Words.saysX _ rfl rfl (opOf_wG _ _ _ _ _) (predOf_wG _ _ _ _ _) (isX_wG _ _ _ _ _ _ _)
theorem Words.sarX (p : Pred) (t u : Tgt) (ty : Ty) (imm : Word32) : Words.Statement (.sarX p t u ty imm) :=
  Words.saysX _ rfl rfl (opOf_wG _ _ _ _ _) (predOf_wG _ _ _ _ _) (isX_wG _ _ _ _ _ _ _)
theorem Words.sarI (p : Pred) (t : Tgt) (imm : BitVec 15) : Words.Statement (.sarI p t imm) :=
  Words.says rfl rfl (opOf_wI _ _ _ _) (predOf_wI _ _ _ _)
theorem Words.rot (p : Pred) (t u : Tgt) (ty : Ty) : Words.Statement (.rot p t u ty) :=
  Words.saysX _ rfl rfl (opOf_wG _ _ _ _ _) (predOf_wG _ _ _ _ _) (isX_wG _ _ _ _ _ _ _)
theorem Words.rotX (p : Pred) (t u : Tgt) (ty : Ty) (imm : Word32) : Words.Statement (.rotX p t u ty imm) :=
  Words.saysX _ rfl rfl (opOf_wG _ _ _ _ _) (predOf_wG _ _ _ _ _) (isX_wG _ _ _ _ _ _ _)
theorem Words.clz (p : Pred) (t u : Tgt) (ty : Ty) : Words.Statement (.clz p t u ty) :=
  Words.saysX _ rfl rfl (opOf_wG _ _ _ _ _) (predOf_wG _ _ _ _ _) (isX_wG _ _ _ _ _ _ _)
theorem Words.popc (p : Pred) (t u : Tgt) (ty : Ty) : Words.Statement (.popc p t u ty) :=
  Words.saysX _ rfl rfl (opOf_wG _ _ _ _ _) (predOf_wG _ _ _ _ _) (isX_wG _ _ _ _ _ _ _)
theorem Words.min (p : Pred) (t u : Tgt) (ty : Ty) : Words.Statement (.min p t u ty) :=
  Words.saysX _ rfl rfl (opOf_wG _ _ _ _ _) (predOf_wG _ _ _ _ _) (isX_wG _ _ _ _ _ _ _)
theorem Words.minX (p : Pred) (t u : Tgt) (ty : Ty) (imm : Word32) : Words.Statement (.minX p t u ty imm) :=
  Words.saysX _ rfl rfl (opOf_wG _ _ _ _ _) (predOf_wG _ _ _ _ _) (isX_wG _ _ _ _ _ _ _)
theorem Words.max (p : Pred) (t u : Tgt) (ty : Ty) : Words.Statement (.max p t u ty) :=
  Words.saysX _ rfl rfl (opOf_wG _ _ _ _ _) (predOf_wG _ _ _ _ _) (isX_wG _ _ _ _ _ _ _)
theorem Words.maxX (p : Pred) (t u : Tgt) (ty : Ty) (imm : Word32) : Words.Statement (.maxX p t u ty imm) :=
  Words.saysX _ rfl rfl (opOf_wG _ _ _ _ _) (predOf_wG _ _ _ _ _) (isX_wG _ _ _ _ _ _ _)
theorem Words.cmp (p : Pred) (t u : Tgt) (ty : Ty) (c : Cond) : Words.Statement (.cmp p t u ty c) :=
  Words.saysX _ rfl rfl (opOf_wG _ _ _ _ _) (predOf_wG _ _ _ _ _) (isX_wG _ _ _ _ _ _ _)
theorem Words.cmpX (p : Pred) (t u : Tgt) (ty : Ty) (c : Cond) (imm : Word32) : Words.Statement (.cmpX p t u ty c imm) :=
  Words.saysX _ rfl rfl (opOf_wG _ _ _ _ _) (predOf_wG _ _ _ _ _) (isX_wG _ _ _ _ _ _ _)
theorem Words.sel (t u : Tgt) (ty : Ty) : Words.Statement (.sel t u ty) :=
  Words.saysX _ rfl rfl (opOf_wG _ _ _ _ _) (predOf_wG _ _ _ _ _) (isX_wG _ _ _ _ _ _ _)
theorem Words.selX (t u : Tgt) (ty : Ty) (imm : Word32) : Words.Statement (.selX t u ty imm) :=
  Words.saysX _ rfl rfl (opOf_wG _ _ _ _ _) (predOf_wG _ _ _ _ _) (isX_wG _ _ _ _ _ _ _)
theorem Words.ext (p : Pred) (t u : Tgt) (ty : Ty) : Words.Statement (.ext p t u ty) :=
  Words.saysX _ rfl rfl (opOf_wG _ _ _ _ _) (predOf_wG _ _ _ _ _) (isX_wG _ _ _ _ _ _ _)
theorem Words.bfx (p : Pred) (t u : Tgt) (ty : Ty) : Words.Statement (.bfx p t u ty) :=
  Words.saysX _ rfl rfl (opOf_wG _ _ _ _ _) (predOf_wG _ _ _ _ _) (isX_wG _ _ _ _ _ _ _)
theorem Words.bfxX (p : Pred) (t u : Tgt) (ty : Ty) (imm : Word32) : Words.Statement (.bfxX p t u ty imm) :=
  Words.saysX _ rfl rfl (opOf_wG _ _ _ _ _) (predOf_wG _ _ _ _ _) (isX_wG _ _ _ _ _ _ _)
theorem Words.bfi (t u : Tgt) (ty : Ty) : Words.Statement (.bfi t u ty) :=
  Words.saysX _ rfl rfl (opOf_wG _ _ _ _ _) (predOf_wG _ _ _ _ _) (isX_wG _ _ _ _ _ _ _)
theorem Words.bfiX (t u : Tgt) (ty : Ty) (imm : Word32) : Words.Statement (.bfiX t u ty imm) :=
  Words.saysX _ rfl rfl (opOf_wG _ _ _ _ _) (predOf_wG _ _ _ _ _) (isX_wG _ _ _ _ _ _ _)
theorem Words.lea (p : Pred) (t u : Tgt) (ty : Ty) (sc : BitVec 4) : Words.Statement (.lea p t u ty sc) :=
  Words.saysX _ rfl rfl (opOf_wG _ _ _ _ _) (predOf_wG _ _ _ _ _) (isX_wG _ _ _ _ _ _ _)
theorem Words.leaX (p : Pred) (t u : Tgt) (ty : Ty) (sc : BitVec 4) (imm : Word32) : Words.Statement (.leaX p t u ty sc imm) :=
  Words.saysX _ rfl rfl (opOf_wG _ _ _ _ _) (predOf_wG _ _ _ _ _) (isX_wG _ _ _ _ _ _ _)
theorem Words.fadd (p : Pred) (t u : Tgt) (ty : Ty) (md : FMod) : Words.Statement (.fadd p t u ty md) :=
  Words.says rfl rfl (opOf_wG _ _ _ _ _) (predOf_wG _ _ _ _ _)
theorem Words.fsub (p : Pred) (t u : Tgt) (ty : Ty) (md : FMod) : Words.Statement (.fsub p t u ty md) :=
  Words.says rfl rfl (opOf_wG _ _ _ _ _) (predOf_wG _ _ _ _ _)
theorem Words.fmul (p : Pred) (t u : Tgt) (ty : Ty) (md : FMod) : Words.Statement (.fmul p t u ty md) :=
  Words.says rfl rfl (opOf_wG _ _ _ _ _) (predOf_wG _ _ _ _ _)
theorem Words.fma (t u : Tgt) (ty : Ty) (md : FMod) : Words.Statement (.fma t u ty md) :=
  Words.says rfl rfl (opOf_wG _ _ _ _ _) (predOf_wG _ _ _ _ _)
theorem Words.fdiv (p : Pred) (t u : Tgt) (ty : Ty) (md : FMod) : Words.Statement (.fdiv p t u ty md) :=
  Words.says rfl rfl (opOf_wG _ _ _ _ _) (predOf_wG _ _ _ _ _)
theorem Words.fsqrt (p : Pred) (t u : Tgt) (ty : Ty) (md : FMod) : Words.Statement (.fsqrt p t u ty md) :=
  Words.says rfl rfl (opOf_wG _ _ _ _ _) (predOf_wG _ _ _ _ _)
theorem Words.fmin (p : Pred) (t u : Tgt) (ty : Ty) : Words.Statement (.fmin p t u ty) :=
  Words.says rfl rfl (opOf_wG _ _ _ _ _) (predOf_wG _ _ _ _ _)
theorem Words.fmax (p : Pred) (t u : Tgt) (ty : Ty) : Words.Statement (.fmax p t u ty) :=
  Words.says rfl rfl (opOf_wG _ _ _ _ _) (predOf_wG _ _ _ _ _)
theorem Words.fcmp (p : Pred) (t u : Tgt) (ty : Ty) (c : Cond) : Words.Statement (.fcmp p t u ty c) :=
  Words.says rfl rfl (opOf_wG _ _ _ _ _) (predOf_wG _ _ _ _ _)
theorem Words.fcvt (p : Pred) (t u : Tgt) (dty sty : Ty) (md : FMod) : Words.Statement (.fcvt p t u dty sty md) :=
  Words.says rfl rfl (opOf_wG _ _ _ _ _) (predOf_wG _ _ _ _ _)
theorem Words.fclass (p : Pred) (t u : Tgt) (ty : Ty) : Words.Statement (.fclass p t u ty) :=
  Words.says rfl rfl (opOf_wG _ _ _ _ _) (predOf_wG _ _ _ _ _)
theorem Words.fsgn (p : Pred) (t u : Tgt) (ty : Ty) (op : SgnOp) : Words.Statement (.fsgn p t u ty op) :=
  Words.says rfl rfl (opOf_wG _ _ _ _ _) (predOf_wG _ _ _ _ _)
theorem Words.exp2 (p : Pred) (t u : Tgt) (ty : Ty) (md : FMod) : Words.Statement (.exp2 p t u ty md) :=
  Words.says rfl rfl (opOf_wG _ _ _ _ _) (predOf_wG _ _ _ _ _)
theorem Words.log2 (p : Pred) (t u : Tgt) (ty : Ty) (md : FMod) : Words.Statement (.log2 p t u ty md) :=
  Words.says rfl rfl (opOf_wG _ _ _ _ _) (predOf_wG _ _ _ _ _)
theorem Words.vadd (p : Pred) (t u : Tgt) (ty : Ty) (md : FMod) : Words.Statement (.vadd p t u ty md) :=
  Words.says rfl rfl (opOf_wG _ _ _ _ _) (predOf_wG _ _ _ _ _)
theorem Words.vsub (p : Pred) (t u : Tgt) (ty : Ty) (md : FMod) : Words.Statement (.vsub p t u ty md) :=
  Words.says rfl rfl (opOf_wG _ _ _ _ _) (predOf_wG _ _ _ _ _)
theorem Words.vmul (p : Pred) (t u : Tgt) (ty : Ty) (md : FMod) : Words.Statement (.vmul p t u ty md) :=
  Words.says rfl rfl (opOf_wG _ _ _ _ _) (predOf_wG _ _ _ _ _)
theorem Words.vfma (t u : Tgt) (ty : Ty) (md : FMod) : Words.Statement (.vfma t u ty md) :=
  Words.says rfl rfl (opOf_wG _ _ _ _ _) (predOf_wG _ _ _ _ _)
theorem Words.vmin (p : Pred) (t u : Tgt) (ty : Ty) : Words.Statement (.vmin p t u ty) :=
  Words.says rfl rfl (opOf_wG _ _ _ _ _) (predOf_wG _ _ _ _ _)
theorem Words.vmax (p : Pred) (t u : Tgt) (ty : Ty) : Words.Statement (.vmax p t u ty) :=
  Words.says rfl rfl (opOf_wG _ _ _ _ _) (predOf_wG _ _ _ _ _)
theorem Words.vcmp (p : Pred) (t u : Tgt) (ty : Ty) (c : Cond) : Words.Statement (.vcmp p t u ty c) :=
  Words.says rfl rfl (opOf_wG _ _ _ _ _) (predOf_wG _ _ _ _ _)
theorem Words.vsel (t u : Tgt) (ty : Ty) : Words.Statement (.vsel t u ty) :=
  Words.says rfl rfl (opOf_wG _ _ _ _ _) (predOf_wG _ _ _ _ _)
theorem Words.vcvt (p : Pred) (t u : Tgt) (dty sty : Ty) (md : FMod) : Words.Statement (.vcvt p t u dty sty md) :=
  Words.says rfl rfl (opOf_wG _ _ _ _ _) (predOf_wG _ _ _ _ _)
theorem Words.vexp2 (p : Pred) (t u : Tgt) (ty : Ty) (md : FMod) : Words.Statement (.vexp2 p t u ty md) :=
  Words.says rfl rfl (opOf_wG _ _ _ _ _) (predOf_wG _ _ _ _ _)
theorem Words.vlog2 (p : Pred) (t u : Tgt) (ty : Ty) (md : FMod) : Words.Statement (.vlog2 p t u ty md) :=
  Words.says rfl rfl (opOf_wG _ _ _ _ _) (predOf_wG _ _ _ _ _)
theorem Words.vrcp (p : Pred) (t u : Tgt) (ty : Ty) (md : FMod) : Words.Statement (.vrcp p t u ty md) :=
  Words.says rfl rfl (opOf_wG _ _ _ _ _) (predOf_wG _ _ _ _ _)
theorem Words.vrsq (p : Pred) (t u : Tgt) (ty : Ty) (md : FMod) : Words.Statement (.vrsq p t u ty md) :=
  Words.says rfl rfl (opOf_wG _ _ _ _ _) (predOf_wG _ _ _ _ _)
theorem Words.vred (p : Pred) (t u : Tgt) (ty : Ty) (op : RedOp) : Words.Statement (.vred p t u ty op) :=
  Words.says rfl rfl (opOf_wG _ _ _ _ _) (predOf_wG _ _ _ _ _)
theorem Words.vscan (p : Pred) (t u : Tgt) (ty : Ty) (op : RedOp) : Words.Statement (.vscan p t u ty op) :=
  Words.says rfl rfl (opOf_wG _ _ _ _ _) (predOf_wG _ _ _ _ _)
theorem Words.vshuf (p : Pred) (t u : Tgt) : Words.Statement (.vshuf p t u) :=
  Words.says rfl rfl (opOf_wG _ _ _ _ _) (predOf_wG _ _ _ _ _)
theorem Words.vbcast (p : Pred) (t u : Tgt) (ty : Ty) : Words.Statement (.vbcast p t u ty) :=
  Words.says rfl rfl (opOf_wG _ _ _ _ _) (predOf_wG _ _ _ _ _)
theorem Words.vscale (p : Pred) (t u : Tgt) (ty : Ty) : Words.Statement (.vscale p t u ty) :=
  Words.says rfl rfl (opOf_wG _ _ _ _ _) (predOf_wG _ _ _ _ _)
theorem Words.vlut (p : Pred) (t u : Tgt) (ty : Ty) : Words.Statement (.vlut p t u ty) :=
  Words.says rfl rfl (opOf_wG _ _ _ _ _) (predOf_wG _ _ _ _ _)
theorem Words.viop (p : Pred) (t u : Tgt) (ty : Ty) (op : VOp) : Words.Statement (.viop p t u ty op) :=
  Words.says rfl rfl (opOf_wG _ _ _ _ _) (predOf_wG _ _ _ _ _)
theorem Words.mcfg (p : Pred) : Words.Statement (.mcfg p) :=
  Words.says rfl rfl (opOf_wG _ _ _ _ _) (predOf_wG _ _ _ _ _)
theorem Words.mzero (p : Pred) (acc : BitVec 2) : Words.Statement (.mzero p acc) :=
  Words.says rfl rfl (opOf_wG _ _ _ _ _) (predOf_wG _ _ _ _ _)
theorem Words.mma (p : Pred) (acc : BitVec 2) : Words.Statement (.mma p acc) :=
  Words.says rfl rfl (opOf_wG _ _ _ _ _) (predOf_wG _ _ _ _ _)
theorem Words.mlda (p : Pred) (acc : BitVec 2) : Words.Statement (.mlda p acc) :=
  Words.says rfl rfl (opOf_wG _ _ _ _ _) (predOf_wG _ _ _ _ _)
theorem Words.mdrain (p : Pred) (acc : BitVec 2) (oty : Ty) (toReg : Bool) : Words.Statement (.mdrain p acc oty toReg) :=
  Words.says rfl rfl (opOf_wG _ _ _ _ _) (predOf_wG _ _ _ _ _)
theorem Words.msteer (p : Pred) : Words.Statement (.msteer p) :=
  Words.says rfl rfl (opOf_wG _ _ _ _ _) (predOf_wG _ _ _ _ _)
theorem Words.mfence (p : Pred) : Words.Statement (.mfence p) :=
  Words.says rfl rfl (opOf_wG _ _ _ _ _) (predOf_wG _ _ _ _ _)
theorem Words.ld (p : Pred) (t : Tgt) (w : MOff) (a : Attr) : Words.Statement (.ld p t w a) :=
  Words.says rfl rfl (opOf_wM _ _ _ _) (predOf_wM _ _ _ _)
theorem Words.ldv (p : Pred) (t : Tgt) (w : MOff) (a : Attr) (k : LaneMask) : Words.Statement (.ldv p t w a k) :=
  Words.says rfl rfl (opOf_wM _ _ _ _) (predOf_wM _ _ _ _)
theorem Words.ldk (p : Pred) (t : Tgt) (w : MOff) (a : Attr) (vec : Bool) (k : LaneMask) : Words.Statement (.ldk p t w a vec k) :=
  Words.says rfl rfl (opOf_wM _ _ _ _) (predOf_wM _ _ _ _)
theorem Words.st (p : Pred) (w : MOff) (a : Attr) : Words.Statement (.st p w a) :=
  Words.says rfl rfl (opOf_wM _ _ _ _) (predOf_wM _ _ _ _)
theorem Words.stv (p : Pred) (w : MOff) (a : Attr) (k : LaneMask) : Words.Statement (.stv p w a k) :=
  Words.says rfl rfl (opOf_wM _ _ _ _) (predOf_wM _ _ _ _)
theorem Words.ldvg (p : Pred) (t : Tgt) (w : MOff) (a : Attr) (k : LaneMask) (sc : BitVec 2) : Words.Statement (.ldvg p t w a k sc) :=
  Words.says rfl rfl (opOf_wM _ _ _ _) (predOf_wM _ _ _ _)
theorem Words.stvs (p : Pred) (w : MOff) (a : Attr) (k : LaneMask) (stride : BitVec 16) : Words.Statement (.stvs p w a k stride) :=
  Words.says rfl rfl (opOf_wM _ _ _ _) (predOf_wM _ _ _ _)
theorem Words.lda (p : Pred) (w : MOff) (a : Attr) (toV : Bool) (n : BitVec 6) : Words.Statement (.lda p w a toV n) :=
  Words.says rfl rfl (opOf_wM _ _ _ _) (predOf_wM _ _ _ _)
theorem Words.ldb (p : Pred) (t : Tgt) (w : MOff) (a : Attr) (k : BitVec 6) : Words.Statement (.ldb p t w a k) :=
  Words.says rfl rfl (opOf_wM _ _ _ _) (predOf_wM _ _ _ _)
theorem Words.ldn (p : Pred) (t : Tgt) (w : MOff) (a : Attr) (k : BitVec 6) : Words.Statement (.ldn p t w a k) :=
  Words.says rfl rfl (opOf_wM _ _ _ _) (predOf_wM _ _ _ _)
theorem Words.atom (w : MOff) (a : Attr) (op : AtomOp) (re : Bool) (n : BitVec 6) : Words.Statement (.atom w a op re n) :=
  Words.says rfl rfl (opOf_wM _ _ _ _) (predOf_wM _ _ _ _)
theorem Words.atomo (p : Pred) (w : MOff) (a : Attr) (op : AtomOp) (sel : BitVec 3) (stream : BitVec 16) : Words.Statement (.atomo p w a op sel stream) :=
  Words.says rfl rfl (opOf_wM _ _ _ _) (predOf_wM _ _ _ _)
theorem Words.fence (p : Pred) (scope : Scope) (acq rel k e : Bool) : Words.Statement (.fence p scope acq rel k e) :=
  Words.says rfl rfl (opOf_wG _ _ _ _ _) (predOf_wG _ _ _ _ _)
theorem Words.pref (p : Pred) (w : MOff) (a : Attr) (level : Bool) : Words.Statement (.pref p w a level) :=
  Words.says rfl rfl (opOf_wM _ _ _ _) (predOf_wM _ _ _ _)
theorem Words.tlbpf (p : Pred) (w : MOff) (a : Attr) (level : Bool) : Words.Statement (.tlbpf p w a level) :=
  Words.says rfl rfl (opOf_wM _ _ _ _) (predOf_wM _ _ _ _)
theorem Words.ipf (p : Pred) (w : MOff) (a : Attr) (level : Bool) : Words.Statement (.ipf p w a level) :=
  Words.says rfl rfl (opOf_wM _ _ _ _) (predOf_wM _ _ _ _)
theorem Words.ipin (p : Pred) (w : MOff) (a : Attr) (level : Bool) : Words.Statement (.ipin p w a level) :=
  Words.says rfl rfl (opOf_wM _ _ _ _) (predOf_wM _ _ _ _)
theorem Words.iunpin (p : Pred) (w : MOff) (a : Attr) (level : Bool) : Words.Statement (.iunpin p w a level) :=
  Words.says rfl rfl (opOf_wM _ _ _ _) (predOf_wM _ _ _ _)
theorem Words.retain (p : Pred) (w : MOff) (a : Attr) (k : BitVec 3) (ways : BitVec 4) : Words.Statement (.retain p w a k ways) :=
  Words.says rfl rfl (opOf_wM _ _ _ _) (predOf_wM _ _ _ _)
theorem Words.unretain (p : Pred) (w : MOff) (a : Attr) (k : BitVec 3) : Words.Statement (.unretain p w a k) :=
  Words.says rfl rfl (opOf_wM _ _ _ _) (predOf_wM _ _ _ _)
theorem Words.cwb (p : Pred) (w : MOff) (a : Attr) (deep : Bool) : Words.Statement (.cwb p w a deep) :=
  Words.says rfl rfl (opOf_wM _ _ _ _) (predOf_wM _ _ _ _)
theorem Words.cinv (p : Pred) (w : MOff) (a : Attr) (kind : InvKind) : Words.Statement (.cinv p w a kind) :=
  Words.says rfl rfl (opOf_wM _ _ _ _) (predOf_wM _ _ _ _)
theorem Words.cpy (p : Pred) (e : BitVec 4) : Words.Statement (.cpy p e) :=
  Words.says rfl rfl (opOf_wG _ _ _ _ _) (predOf_wG _ _ _ _ _)
theorem Words.cpym (p : Pred) (e : BitVec 4) : Words.Statement (.cpym p e) :=
  Words.says rfl rfl (opOf_wG _ _ _ _ _) (predOf_wG _ _ _ _ _)
theorem Words.carm (p : Pred) (e : BitVec 4) : Words.Statement (.carm p e) :=
  Words.says rfl rfl (opOf_wG _ _ _ _ _) (predOf_wG _ _ _ _ _)
theorem Words.cdisarm (p : Pred) (e : BitVec 4) : Words.Statement (.cdisarm p e) :=
  Words.says rfl rfl (opOf_wG _ _ _ _ _) (predOf_wG _ _ _ _ _)
theorem Words.cfire (p : Pred) (e : BitVec 4) : Words.Statement (.cfire p e) :=
  Words.says rfl rfl (opOf_wG _ _ _ _ _) (predOf_wG _ _ _ _ _)
theorem Words.gath (p : Pred) (e : BitVec 4) : Words.Statement (.gath p e) :=
  Words.says rfl rfl (opOf_wG _ _ _ _ _) (predOf_wG _ _ _ _ _)
theorem Words.scat (p : Pred) (e : BitVec 4) : Words.Statement (.scat p e) :=
  Words.says rfl rfl (opOf_wG _ _ _ _ _) (predOf_wG _ _ _ _ _)
theorem Words.collAr (p : Pred) (e : BitVec 4) (fp32 : Bool) : Words.Statement (.collAr p e fp32) :=
  Words.says rfl rfl (opOf_wG _ _ _ _ _) (predOf_wG _ _ _ _ _)
theorem Words.collRs (p : Pred) (e : BitVec 4) (fp32 : Bool) : Words.Statement (.collRs p e fp32) :=
  Words.says rfl rfl (opOf_wG _ _ _ _ _) (predOf_wG _ _ _ _ _)
theorem Words.collAg (p : Pred) (e : BitVec 4) (fp32 : Bool) : Words.Statement (.collAg p e fp32) :=
  Words.says rfl rfl (opOf_wG _ _ _ _ _) (predOf_wG _ _ _ _ _)
theorem Words.cadd (p : Pred) (scope : Scope) (acq rel : Bool) : Words.Statement (.cadd p scope acq rel) :=
  Words.says rfl rfl (opOf_wG _ _ _ _ _) (predOf_wG _ _ _ _ _)
theorem Words.cwait (p : Pred) (scope : Scope) (acq : Bool) : Words.Statement (.cwait p scope acq) :=
  Words.says rfl rfl (opOf_wG _ _ _ _ _) (predOf_wG _ _ _ _ _)
theorem Words.cread (p : Pred) (scope : Scope) (acq : Bool) (n : BitVec 6) : Words.Statement (.cread p scope acq n) :=
  Words.says rfl rfl (opOf_wG _ _ _ _ _) (predOf_wG _ _ _ _ _)
theorem Words.cpoll (p : Pred) (t u : Tgt) (scope : Scope) (acq : Bool) : Words.Statement (.cpoll p t u scope acq) :=
  Words.says rfl rfl (opOf_wG _ _ _ _ _) (predOf_wG _ _ _ _ _)
theorem Words.rngaw (p : Pred) (t u : Tgt) (scope : Scope) : Words.Statement (.rngaw p t u scope) :=
  Words.says rfl rfl (opOf_wG _ _ _ _ _) (predOf_wG _ _ _ _ _)
theorem Words.rngrel (p : Pred) (scope : Scope) : Words.Statement (.rngrel p scope) :=
  Words.says rfl rfl (opOf_wG _ _ _ _ _) (predOf_wG _ _ _ _ _)
theorem Words.radv (p : Pred) (scope : Scope) : Words.Statement (.radv p scope) :=
  Words.says rfl rfl (opOf_wG _ _ _ _ _) (predOf_wG _ _ _ _ _)
theorem Words.rrecl (p : Pred) (scope : Scope) : Words.Statement (.rrecl p scope) :=
  Words.says rfl rfl (opOf_wG _ _ _ _ _) (predOf_wG _ _ _ _ _)
theorem Words.rsetc (p : Pred) : Words.Statement (.rsetc p) :=
  Words.says rfl rfl (opOf_wG _ _ _ _ _) (predOf_wG _ _ _ _ _)
theorem Words.barr (p : Pred) (scope : Scope) : Words.Statement (.barr p scope) :=
  Words.says rfl rfl (opOf_wG _ _ _ _ _) (predOf_wG _ _ _ _ _)
theorem Words.wmasr (p : Pred) : Words.Statement (.wmasr p) :=
  Words.says rfl rfl (opOf_wG _ _ _ _ _) (predOf_wG _ _ _ _ _)
theorem Words.wmret (p : Pred) : Words.Statement (.wmret p) :=
  Words.says rfl rfl (opOf_wG _ _ _ _ _) (predOf_wG _ _ _ _ _)
theorem Words.wmmod (p : Pred) : Words.Statement (.wmmod p) :=
  Words.says rfl rfl (opOf_wG _ _ _ _ _) (predOf_wG _ _ _ _ _)
theorem Words.wmrd (p : Pred) (t u : Tgt) : Words.Statement (.wmrd p t u) :=
  Words.says rfl rfl (opOf_wG _ _ _ _ _) (predOf_wG _ _ _ _ _)
theorem Words.cswave (p : Pred) : Words.Statement (.cswave p) :=
  Words.says rfl rfl (opOf_wG _ _ _ _ _) (predOf_wG _ _ _ _ _)
theorem Words.fdone (p : Pred) : Words.Statement (.fdone p) :=
  Words.says rfl rfl (opOf_wG _ _ _ _ _) (predOf_wG _ _ _ _ _)
theorem Words.scset (p : Pred) : Words.Statement (.scset p) :=
  Words.says rfl rfl (opOf_wG _ _ _ _ _) (predOf_wG _ _ _ _ _)
theorem Words.scget (p : Pred) (t u : Tgt) : Words.Statement (.scget p t u) :=
  Words.says rfl rfl (opOf_wG _ _ _ _ _) (predOf_wG _ _ _ _ _)
theorem Words.netld (p : Pred) : Words.Statement (.netld p) :=
  Words.says rfl rfl (opOf_wG _ _ _ _ _) (predOf_wG _ _ _ _ _)
theorem Words.csrd (p : Pred) (t u : Tgt) : Words.Statement (.csrd p t u) :=
  Words.says rfl rfl (opOf_wG _ _ _ _ _) (predOf_wG _ _ _ _ _)
theorem Words.trap (p : Pred) (code : BitVec 15) : Words.Statement (.trap p code) :=
  Words.says rfl rfl (opOf_wI _ _ _ _) (predOf_wI _ _ _ _)
theorem Words.sysc (p : Pred) (code : BitVec 15) : Words.Statement (.sysc p code) :=
  Words.says rfl rfl (opOf_wI _ _ _ _) (predOf_wI _ _ _ _)
theorem Words.bkpt (p : Pred) (code : BitVec 15) : Words.Statement (.bkpt p code) :=
  Words.says rfl rfl (opOf_wI _ _ _ _) (predOf_wI _ _ _ _)
theorem Words.mfs (p : Pred) (t : Tgt) (r : BitVec 12) : Words.Statement (.mfs p t r) :=
  Words.says rfl rfl (opOf_wI _ _ _ _) (predOf_wI _ _ _ _)
theorem Words.mts (p : Pred) (r : BitVec 12) : Words.Statement (.mts p r) :=
  Words.says rfl rfl (opOf_wI _ _ _ _) (predOf_wI _ _ _ _)
theorem Words.mark (p : Pred) : Words.Statement (.mark p) :=
  Words.says rfl rfl (opOf_wG _ _ _ _ _) (predOf_wG _ _ _ _ _)
theorem Words.sigchk (p : Pred) : Words.Statement (.sigchk p) :=
  Words.says rfl rfl (opOf_wG _ _ _ _ _) (predOf_wG _ _ _ _ _)
theorem Words.rndr (p : Pred) (t u : Tgt) : Words.Statement (.rndr p t u) :=
  Words.says rfl rfl (opOf_wG _ _ _ _ _) (predOf_wG _ _ _ _ _)
theorem Words.cycw (p : Pred) : Words.Statement (.cycw p) :=
  Words.says rfl rfl (opOf_wG _ _ _ _ _) (predOf_wG _ _ _ _ _)
theorem Words.cfgsw (p : Pred) : Words.Statement (.cfgsw p) :=
  Words.says rfl rfl (opOf_wG _ _ _ _ _) (predOf_wG _ _ _ _ _)
theorem Words.blockFetch (t : Nat) : Words.Statement (.blockFetch t) :=
  Words.ofNone rfl
theorem Words.slotFire (t n : Nat) : Words.Statement (.slotFire t n) :=
  Words.ofNone rfl
theorem Words.blockCommit (t : Nat) : Words.Statement (.blockCommit t) :=
  Words.ofNone rfl
theorem Words.commitStepResume (t : Nat) : Words.Statement (.commitStepResume t) :=
  Words.ofNone rfl
theorem Words.registerValueArrive (t : Nat) (r : DstReg) (x : Vec) : Words.Statement (.registerValueArrive t r x) :=
  Words.ofNone rfl
theorem Words.atomicAtHome (r : AtomReq) : Words.Statement (.atomicAtHome r) :=
  Words.ofNone rfl
theorem Words.counterAddAtHome (r : CtrReq) : Words.Statement (.counterAddAtHome r) :=
  Words.ofNone rfl
theorem Words.orderedAtomicArrival (r : OrdReq) : Words.Statement (.orderedAtomicArrival r) :=
  Words.ofNone rfl
theorem Words.atomoRetryResend (r : OrdReq) : Words.Statement (.atomoRetryResend r) :=
  Words.ofNone rfl
theorem Words.counterWatchRepoll (t : Nat) : Words.Statement (.counterWatchRepoll t) :=
  Words.ofNone rfl
theorem Words.hostCounterPoll (key : Nat) : Words.Statement (.hostCounterPoll key) :=
  Words.ofNone rfl
theorem Words.faultRecordDeferred (die ring : Nat) : Words.Statement (.faultRecordDeferred die ring) :=
  Words.ofNone rfl
theorem Words.mtPortRequest (t port : Nat) : Words.Statement (.mtPortRequest t port) :=
  Words.ofNone rfl
theorem Words.mtStartToken (t : Nat) : Words.Statement (.mtStartToken t) :=
  Words.ofNone rfl
theorem Words.sequencerElement (t : Nat) : Words.Statement (.sequencerElement t) :=
  Words.ofNone rfl
theorem Words.mtRandomRequest (t port : Nat) : Words.Statement (.mtRandomRequest t port) :=
  Words.ofNone rfl
theorem Words.mtOrderedUpdate (t port : Nat) : Words.Statement (.mtOrderedUpdate t port) :=
  Words.ofNone rfl
theorem Words.engineChunk (die eng : Nat) : Words.Statement (.engineChunk die eng) :=
  Words.ofNone rfl
theorem Words.engineCompletionAdd (die eng queue : Nat) : Words.Statement (.engineCompletionAdd die eng queue) :=
  Words.ofNone rfl
theorem Words.cpymDeliver (die eng queue : Nat) : Words.Statement (.cpymDeliver die eng queue) :=
  Words.ofNone rfl
theorem Words.carmArm (die eng queue : Nat) : Words.Statement (.carmArm die eng queue) :=
  Words.ofNone rfl
theorem Words.templateTrigger (die eng queue : Nat) : Words.Statement (.templateTrigger die eng queue) :=
  Words.ofNone rfl
theorem Words.coalesceIndex (die eng queue : Nat) : Words.Statement (.coalesceIndex die eng queue) :=
  Words.ofNone rfl
theorem Words.collectiveExecute (die eng : Nat) : Words.Statement (.collectiveExecute die eng) :=
  Words.ofNone rfl
theorem Words.tokenArrive (edge : Nat) : Words.Statement (.tokenArrive edge) :=
  Words.ofNone rfl
theorem Words.loopBoundEntry (b : Nat) : Words.Statement (.loopBoundEntry b) :=
  Words.ofNone rfl
theorem Words.loopBoundExit (b : Nat) : Words.Statement (.loopBoundExit b) :=
  Words.ofNone rfl
theorem Words.tokenBarrierFire (t : Nat) : Words.Statement (.tokenBarrierFire t) :=
  Words.ofNone rfl
theorem Words.steerTokenPop (t port : Nat) : Words.Statement (.steerTokenPop t port) :=
  Words.ofNone rfl
theorem Words.px8FrameDecode (t port : Nat) : Words.Statement (.px8FrameDecode t port) :=
  Words.ofNone rfl
theorem Words.counterAddPortToken (t port : Nat) : Words.Statement (.counterAddPortToken t port) :=
  Words.ofNone rfl
theorem Words.operandTokenEnter (t port : Nat) : Words.Statement (.operandTokenEnter t port) :=
  Words.ofNone rfl
theorem Words.matrixWordStart (t : Nat) : Words.Statement (.matrixWordStart t) :=
  Words.ofNone rfl
theorem Words.mmaOccupancyEnd (t : Nat) : Words.Statement (.mmaOccupancyEnd t) :=
  Words.ofNone rfl
theorem Words.mmaComplete (t : Nat) : Words.Statement (.mmaComplete t) :=
  Words.ofNone rfl
theorem Words.drainTokenSend (t : Nat) : Words.Statement (.drainTokenSend t) :=
  Words.ofNone rfl
theorem Words.fetchLineArrive (t : Nat) : Words.Statement (.fetchLineArrive t) :=
  Words.ofNone rfl
theorem Words.networkDeltaArrival (die : Nat) : Words.Statement (.networkDeltaArrival die) :=
  Words.ofNone rfl
theorem Words.networkScsetArrival (die : Nat) : Words.Statement (.networkScsetArrival die) :=
  Words.ofNone rfl
theorem Words.networkCswaveArrival (die : Nat) : Words.Statement (.networkCswaveArrival die) :=
  Words.ofNone rfl
theorem Words.networkFdoneArrival (die : Nat) : Words.Statement (.networkFdoneArrival die) :=
  Words.ofNone rfl
theorem Words.netldLoad (die : Nat) : Words.Statement (.netldLoad die) :=
  Words.ofNone rfl
theorem Words.queueSlotRotate (die : Nat) : Words.Statement (.queueSlotRotate die) :=
  Words.ofNone rfl
theorem Words.packetChoose (die : Nat) : Words.Statement (.packetChoose die) :=
  Words.ofNone rfl
theorem Words.gangReserve (launch die : Nat) : Words.Statement (.gangReserve launch die) :=
  Words.ofNone rfl
theorem Words.gangAckDeadline (launch : Nat) : Words.Statement (.gangAckDeadline launch) :=
  Words.ofNone rfl
theorem Words.gangGo (launch die : Nat) : Words.Statement (.gangGo launch die) :=
  Words.ofNone rfl
theorem Words.gangStartTick (launch die : Nat) : Words.Statement (.gangStartTick launch die) :=
  Words.ofNone rfl
theorem Words.taskPacketEmit (launch : Nat) : Words.Statement (.taskPacketEmit launch) :=
  Words.ofNone rfl
theorem Words.taskDispatch (die : Nat) : Words.Statement (.taskDispatch die) :=
  Words.ofNone rfl
theorem Words.waitPacketSatisfied (die queue : Nat) : Words.Statement (.waitPacketSatisfied die queue) :=
  Words.ofNone rfl
theorem Words.packetComplete (launch : Nat) : Words.Statement (.packetComplete launch) :=
  Words.ofNone rfl
theorem Words.elementSwitch (t : Nat) : Words.Statement (.elementSwitch t) :=
  Words.ofNone rfl
theorem Words.assizeCompare (die group : Nat) : Words.Statement (.assizeCompare die group) :=
  Words.ofNone rfl
theorem Words.assizeReportTimeout (die group : Nat) : Words.Statement (.assizeReportTimeout die group) :=
  Words.ofNone rfl
theorem Words.replicaResync (t : Nat) : Words.Statement (.replicaResync t) :=
  Words.ofNone rfl
theorem Words.forwardedValueArrive (t : Nat) (key : FwdKey) (x : Vec) : Words.Statement (.forwardedValueArrive t key x) :=
  Words.ofNone rfl
theorem Words.elementSave (t : Nat) : Words.Statement (.elementSave t) :=
  Words.ofNone rfl
theorem Words.regionClockGate (h : Nat) : Words.Statement (.regionClockGate h) :=
  Words.ofNone rfl
theorem Words.regionSilence (h : Nat) : Words.Statement (.regionSilence h) :=
  Words.ofNone rfl
theorem Words.deadlockTrap (h : Nat) : Words.Statement (.deadlockTrap h) :=
  Words.ofNone rfl
theorem Words.tlbInvComplete (die : Nat) : Words.Statement (.tlbInvComplete die) :=
  Words.ofNone rfl
theorem Words.homeReadRequest (m : Master) (t line first count : Nat) : Words.Statement (.homeReadRequest m t line first count) :=
  Words.ofNone rfl
theorem Words.ownershipRequest (t line first count : Nat) : Words.Statement (.ownershipRequest t line first count) :=
  Words.ofNone rfl
theorem Words.evictionWriteback (t line : Nat) : Words.Statement (.evictionWriteback t line) :=
  Words.ofNone rfl
theorem Words.rdcFill (m : Master) (die line : Nat) (round : Option (Nat × Nat)) : Words.Statement (.rdcFill m die line round) :=
  Words.ofNone rfl
theorem Words.counterWatchNotify (key : Nat) : Words.Statement (.counterWatchNotify key) :=
  Words.ofNone rfl
theorem Words.snpData (line : Nat) : Words.Statement (.snpData line) :=
  Words.ofNone rfl
theorem Words.snpCur (line : Nat) : Words.Statement (.snpCur line) :=
  Words.ofNone rfl
theorem Words.snpInv (line : Nat) : Words.Statement (.snpInv line) :=
  Words.ofNone rfl
theorem Words.hostBarRequest (link bar off : Nat) (pasid : Option (BitVec 12)) (op : ExtOp) : Words.Statement (.hostBarRequest link bar off pasid op) :=
  Words.ofNone rfl
theorem Words.hostCxlMemRequest (link off : Nat) (pasid : Option (BitVec 12)) (op : ExtOp) : Words.Statement (.hostCxlMemRequest link off pasid op) :=
  Words.ofNone rfl
theorem Words.peerFlitReceive (port seq : Nat) (crcOk : Bool) (m : Master) (pa : Nat) (op : ExtOp) : Words.Statement (.peerFlitReceive port seq crcOk m pa op) :=
  Words.ofNone rfl
theorem Words.peerRequestTimeout (r : Requester) (pa : Nat) (wasAtomic : Bool) : Words.Statement (.peerRequestTimeout r pa wasAtomic) :=
  Words.ofNone rfl
theorem Words.t2PortFailure (port : Nat) : Words.Statement (.t2PortFailure port) :=
  Words.ofNone rfl
theorem Words.chainSyncExchange (source : Word) : Words.Statement (.chainSyncExchange source) :=
  Words.ofNone rfl
theorem Words.chainSyncLoss  : Words.Statement .chainSyncLoss :=
  Words.ofNone rfl
theorem Words.pageWalk (die : Nat) (ctx : BitVec 12) (page : Nat) (kind : AccKind) (cls : BitVec 3) (r : Requester) : Words.Statement (.pageWalk die ctx page kind cls r) :=
  Words.ofNone rfl
theorem Words.uncorrectableError (site : ErrSite) : Words.Statement (.uncorrectableError site) :=
  Words.ofNone rfl
theorem Words.lqDoorbell (die queue : Nat) : Words.Statement (.lqDoorbell die queue) :=
  Words.ofNone rfl
theorem Words.gangRelease (launch die : Nat) : Words.Statement (.gangRelease launch die) :=
  Words.ofNone rfl
theorem Words.gangAbort (launch die : Nat) : Words.Statement (.gangAbort launch die) :=
  Words.ofNone rfl
theorem Words.droopStretch (die patch eighths : Nat) : Words.Statement (.droopStretch die patch eighths) :=
  Words.ofNone rfl
theorem Words.powerCeilingAdjust (watts celsius : Nat) : Words.Statement (.powerCeilingAdjust watts celsius) :=
  Words.ofNone rfl
theorem Words.thermalTrip  : Words.Statement .thermalTrip :=
  Words.ofNone rfl
theorem Words.dieFailure (die : Nat) : Words.Statement (.dieFailure die) :=
  Words.ofNone rfl
theorem Words.securityAlarm (src : AlarmSrc) : Words.Statement (.securityAlarm src) :=
  Words.ofNone rfl
theorem Words.reset  : Words.Statement .reset :=
  Words.ofNone rfl
theorem Words.modReset  : Words.Statement .modReset :=
  Words.ofNone rfl
theorem Words.accPurge (die target : Nat) : Words.Statement (.accPurge die target) :=
  Words.ofNone rfl
theorem Words.accInval (die target : Nat) : Words.Statement (.accInval die target) :=
  Words.ofNone rfl
theorem Words.atabPurge (die : Nat) : Words.Statement (.atabPurge die) :=
  Words.ofNone rfl
theorem Words.atabInval (die : Nat) : Words.Statement (.atabInval die) :=
  Words.ofNone rfl
theorem Words.accBaseWrite (die target : Nat) (x : Word) : Words.Statement (.accBaseWrite die target x) :=
  Words.ofNone rfl
theorem Words.atabBaseWrite (die : Nat) (x : Word) : Words.Statement (.atabBaseWrite die x) :=
  Words.ofNone rfl
theorem Words.hbmMapWrite (x : Word) : Words.Statement (.hbmMapWrite x) :=
  Words.ofNone rfl
theorem Words.trRootWrite (ctx : BitVec 12) (x : Word) : Words.Statement (.trRootWrite ctx x) :=
  Words.ofNone rfl
theorem Words.tlbInvAll (die : Nat) (x : Word) : Words.Statement (.tlbInvAll die x) :=
  Words.ofNone rfl
theorem Words.tlbInvPage (die : Nat) (x : Word) : Words.Statement (.tlbInvPage die x) :=
  Words.ofNone rfl
theorem Words.tfqResume (die : Nat) (x : Word) : Words.Statement (.tfqResume die x) :=
  Words.ofNone rfl
theorem Words.tfqFail (die : Nat) (x : Word) : Words.Statement (.tfqFail die x) :=
  Words.ofNone rfl
theorem Words.fltResume (die : Nat) (x : Word) : Words.Statement (.fltResume die x) :=
  Words.ofNone rfl
theorem Words.fltRollback (die : Nat) (x : Word) : Words.Statement (.fltRollback die x) :=
  Words.ofNone rfl
theorem Words.fltAbort (die : Nat) (x : Word) : Words.Statement (.fltAbort die x) :=
  Words.ofNone rfl
theorem Words.spillGrant (die : Nat) (x : Word) : Words.Statement (.spillGrant die x) :=
  Words.ofNone rfl
theorem Words.spillRefuse (die : Nat) (x : Word) : Words.Statement (.spillRefuse die x) :=
  Words.ofNone rfl
theorem Words.preSave (die : Nat) (x : Word) : Words.Statement (.preSave die x) :=
  Words.ofNone rfl
theorem Words.preRestore (die : Nat) (x : Word) : Words.Statement (.preRestore die x) :=
  Words.ofNone rfl
theorem Words.evThaw (die : Nat) : Words.Statement (.evThaw die) :=
  Words.ofNone rfl
theorem Words.secAlarmSrcClear (x : Word) : Words.Statement (.secAlarmSrcClear x) :=
  Words.ofNone rfl
theorem Words.secAlarmActWrite (x : Word) : Words.Statement (.secAlarmActWrite x) :=
  Words.ofNone rfl
theorem Words.healthTripClear (x : Word) : Words.Statement (.healthTripClear x) :=
  Words.ofNone rfl
theorem Words.pwrLimWrite (x : Word) : Words.Statement (.pwrLimWrite x) :=
  Words.ofNone rfl
theorem Words.ringEnableWrite (die ring : Nat) (x : Word) : Words.Statement (.ringEnableWrite die ring x) :=
  Words.ofNone rfl
theorem Words.ctxSatClear (ctx : BitVec 12) (x : Word) : Words.Statement (.ctxSatClear ctx x) :=
  Words.ofNone rfl
theorem Words.mmioRegisterWrite (m : Master) (off size : Nat) (x : Word) : Words.Statement (.mmioRegisterWrite m off size x) :=
  Words.ofNone rfl
theorem Words.mgmtMmioRead (off : Nat) : Words.Statement (.mgmtMmioRead off) :=
  Words.ofNone rfl
theorem Words.mgmtMmioWrite (off : Nat) (x : Word) : Words.Statement (.mgmtMmioWrite off x) :=
  Words.ofNone rfl
theorem Words.mctpControlMessage (cmd : Byte) : Words.Statement (.mctpControlMessage cmd) :=
  Words.ofNone rfl
theorem Words.lqSlotWrite (die slot : Nat) (x : Word) : Words.Statement (.lqSlotWrite die slot x) :=
  Words.ofNone rfl
theorem Words.peerPortDown (port : Nat) : Words.Statement (.peerPortDown port) :=
  Words.ofNone rfl
theorem Words.hostLinkDown (link : Nat) : Words.Statement (.hostLinkDown link) :=
  Words.ofNone rfl

end Sys2Proof.Laws
end

