-- ==== Sys2Proof/Safety.lean ====
section
/-! DEFINITION. What a safe run is: none of its steps ends in a refusal (R4). -/

namespace Sys2Proof

/-- A step is safe when it gives a next state or the one fault of a stopped machine. -/
def Safe (s : Machine.State) : Prop := ∀ r, Machine.step s ≠ .refused r

end Sys2Proof
end

