-- ==== Sys2Proof/Tests/Slice0.lean ====
section
/-! SUPPORT. Tests: terms that are not well formed, words written out from the spec's encodings, single steps with results worked
out by hand or taken from the spec's examples, and for every statement a state and operands that meet its hypotheses. -/

namespace Sys2Proof.Tests

open Sys2Proof Sys2Proof.Machine Sys2Proof.Claims

set_option Elab.async false

/-! ### Terms that are not well formed, and what the decoder makes of their words -/

def plain (ty : Ty) : Attr := ⟨ty, .normal, .node, ⟨false, false⟩⟩

theorem test_wf_int_type : Instr.wf (.add .always 5 0 .f32 false) = false := by decide
theorem test_wf_cmp_cond : Instr.wf (.cmp .always 5 0 .n64 .uo) = false := by decide
theorem test_wf_bfx_type : Instr.wf (.bfx .always 5 0 .n32) = false := by decide
theorem test_wf_lea_scale : Instr.wf (.lea .always 5 0 .s32 5) = false := by decide
theorem test_wf_float_type : Instr.wf (.fadd .always 5 0 .e4m3 ⟨.rne, false⟩) = false := by decide
theorem test_wf_fcvt_ints : Instr.wf (.fcvt .always 5 0 .n32 .s32 ⟨.rne, false⟩) = false := by decide
theorem test_wf_fcvt_sat : Instr.wf (.fcvt .always 5 0 .n32 .f32 ⟨.rne, true⟩) = false := by decide
theorem test_wf_fclass_type : Instr.wf (.fclass .always 5 0 .n32) = false := by decide
theorem test_wf_fsgn_type : Instr.wf (.fsgn .always 5 0 .e8m0 .neg) = false := by decide
theorem test_wf_vcmp_cond : Instr.wf (.vcmp .always 5 0 .n32 .or) = false := by decide
theorem test_wf_vsel_type : Instr.wf (.vsel 5 0 .n64) = false := by decide
theorem test_wf_vcvt_width : Instr.wf (.vcvt .always 5 0 .f32 .n64 ⟨.rne, false⟩) = false := by decide
theorem test_wf_vred_type : Instr.wf (.vred .always 5 0 .e4m3 .add) = false := by decide
theorem test_wf_vlut_type : Instr.wf (.vlut .always 5 0 .e2m1) = false := by decide
theorem test_wf_viop_type : Instr.wf (.viop .always 5 0 .f32 .add) = false := by decide
theorem test_wf_mdrain_type : Instr.wf (.mdrain .always 0 .n32 false) = false := by decide
theorem test_wf_ld_type : Instr.wf (.ld .always 5 ⟨0, 0⟩ (plain .e2m1)) = false := by decide
theorem test_wf_ld_release : Instr.wf (.ld .always 5 ⟨0, 0⟩ ⟨.n64, .normal, .die, ⟨false, true⟩⟩) = false := by decide
theorem test_wf_ld_scope : Instr.wf (.ld .always 5 ⟨0, 0⟩ ⟨.n64, .normal, .die, ⟨false, false⟩⟩) = false := by decide
theorem test_wf_ldv_type : Instr.wf (.ldv .always 5 ⟨0, 0⟩ (plain .n64) ⟨false, 0⟩) = false := by decide
theorem test_wf_ldk_mask : Instr.wf (.ldk .always 5 ⟨0, 0⟩ (plain .n64) false ⟨true, 0⟩) = false := by decide
theorem test_wf_st_acquire : Instr.wf (.st .always ⟨0, 0⟩ ⟨.n64, .normal, .die, ⟨true, false⟩⟩) = false := by decide
theorem test_wf_stv_type : Instr.wf (.stv .always ⟨0, 0⟩ (plain .n64) ⟨false, 0⟩) = false := by decide
theorem test_wf_lda_vector : Instr.wf (.lda .always ⟨0, 0⟩ (plain .n32) true 32) = false := by decide
theorem test_wf_atom_f32 : Instr.wf (.atom ⟨0, 0⟩ (plain .f32) .xor false 0) = false := by decide
theorem test_wf_atomo_op : Instr.wf (.atomo .always ⟨0, 0⟩ (plain .n32) .cas 0 0) = false := by decide
theorem test_wf_fence_empty : Instr.wf (.fence .always .die false false false false) = false := by decide
theorem test_wf_hint_type : Instr.wf (.ipf .always ⟨0, 0⟩ (plain .n32) false) = false := by decide
theorem test_wf_retain_ways : Instr.wf (.retain .always ⟨0, 0⟩ (plain .n8) 0 9) = false := by decide
theorem test_wf_unretain_off : Instr.wf (.unretain .always ⟨0, 1⟩ (plain .n8) 0) = false := by decide
theorem test_wf_coll_engine : Instr.wf (.collAr .always 4 false) = false := by decide
theorem test_wf_cadd_scope : Instr.wf (.cadd .always .dev false false) = false := by decide
theorem test_wf_cwait_scope : Instr.wf (.cwait .always .dev false) = false := by decide
theorem test_wf_barr_scope : Instr.wf (.barr .always .node) = false := by decide
theorem test_wf_mfs_number : Instr.wf (.mfs .always 5 0x309) = false := by decide
theorem test_wf_mts_number : Instr.wf (.mts .always 0x301) = false := by decide
theorem test_wf_tile : Instr.wf (.blockFetch 4096) = false := by decide
theorem test_wf_slot : Instr.wf (.slotFire 0 32) = false := by decide
theorem test_wf_span : Instr.wf (.homeReadRequest ⟨0, 0⟩ 0 0 20 13) = false := by decide
theorem test_wf_die : Instr.wf (.rdcFill ⟨0, 0⟩ 4 0 none) = false := by decide
theorem test_wf_bar : Instr.wf (.hostBarRequest 0 1 0 none (.read 8)) = false := by decide
theorem test_wf_link : Instr.wf (.hostLinkDown 2) = false := by decide
theorem test_wf_peer_port : Instr.wf (.peerPortDown 16) = false := by decide
theorem test_wf_t2_port : Instr.wf (.t2PortFailure 8) = false := by decide
theorem test_wf_ring : Instr.wf (.ringEnableWrite 0 3 0) = false := by decide
theorem test_wf_port : Instr.wf (.steerTokenPop 0 4) = false := by decide
theorem test_wf_engine : Instr.wf (.engineChunk 0 16) = false := by decide
theorem test_wf_queue : Instr.wf (.cpymDeliver 0 0 8) = false := by decide
theorem test_wf_collective : Instr.wf (.collectiveExecute 0 4) = false := by decide
theorem test_wf_doorbell : Instr.wf (.lqDoorbell 0 65536) = false := by decide
theorem test_wf_droop : Instr.wf (.droopStretch 0 0 5) = false := by decide
theorem test_wf_target : Instr.wf (.accInval 0 39) = false := by decide
theorem test_wf_slot_write : Instr.wf (.lqSlotWrite 0 256 0) = false := by decide

/-- The opcode 0x0A, the predicate 0b01, a reserved type, and a target on an instruction without a result (R15, R18, R46). -/
theorem test_decode_rejects :
    decode 0x0A000000#32 0 = .error .opcode ∧ decode 0x20528060#32 0 = .error .pred ∧ decode 0x401280F0#32 0 = .error .field ∧
    decode 0x16128000#32 0 = .error .target ∧ decode 0x3300_8060#32 0 = .ok (.sel 1 0 .s32) := ⟨rfl, rfl, rfl, rfl, rfl⟩

/-! ### Words written out bit by bit (R16, R36 to R46) -/

/-- MOVI with predicate true, T0 = 0x25, imm15 = −2; RD of g3 to T0 and T1. -/
theorem test_decode_move : decode (0x02#8 ++ 0b11#2 ++ 0x25#7 ++ 0x7FFE#15) 0 = .ok (.movi .onTrue 0x25 (-2)) ∧
    decode (0x10#8 ++ 0b00#2 ++ 0x25#7 ++ 0x46#7 ++ 0b00#2 ++ 3#6) 0 = .ok (.rd .always 0x25 0x46 3) := ⟨rfl, rfl⟩
/-- SUB.n16 with an immediate; VFMA.bf16; CLZ.s8. -/
theorem test_decode_arith : decode (0x21#8 ++ 0#2 ++ 0x25#7 ++ 0#7 ++ 0b1#1 ++ 0b001#3 ++ 0#4) 7 = .ok (.subX .always 0x25 0 .n16 false 7) ∧
    decode (0x63#8 ++ 0#2 ++ 0x25#7 ++ 0#7 ++ 0x9#4 ++ 0b0000#4) 0 = .ok (.vfma 0x25 0 .bf16 ⟨.rne, false⟩) ∧
    decode (0x2E#8 ++ 0#2 ++ 0x25#7 ++ 0#7 ++ 0b0#1 ++ 0b100#3 ++ 0#4) 0 = .ok (.clz .always 0x25 0 .s8) := ⟨rfl, rfl, rfl⟩
/-- LD.n64.acq.die with LSID 2 and offset −1; ATOM.s64.add returning to g17, the spec's words; STV.f32 under p1. -/
theorem test_decode_memory :
    decode (0x90#8 ++ 0#2 ++ 0x25#7 ++ 2#5 ++ 0x3FF#10) (0x3#4 ++ 0#2 ++ 0b010#3 ++ 0b01#2 ++ 0#21) =
      .ok (.ld .always 0x25 ⟨2, -1⟩ ⟨.n64, .normal, .die, ⟨true, false⟩⟩) ∧
    decode 0x9A000000#32 0x31C00450#32 = .ok (.atom ⟨0, 0⟩ ⟨.n64, .normal, .dev, ⟨false, true⟩⟩ .add true 5) ∧
    decode (0x93#8 ++ 0#2 ++ 0#7 ++ 0#5 ++ 0#10) (0x8#4 ++ 0#2 ++ 0#3 ++ 0#2 ++ 0#1 ++ 0b1#1 ++ 1#3 ++ 0#16) =
      .ok (.stv .always ⟨0, 0⟩ (plain .f32) ⟨true, 1⟩) := ⟨rfl, rfl, rfl⟩
/-- FENCE, CADD, CREAD, WMRD, CSWAVE, SCSET and NETLD as the spec prints them. -/
theorem test_decode_printed :
    decode 0x9C000070#32 0 = .ok (.fence .always .dev true false false false) ∧
    decode 0x9C0000A8#32 0 = .ok (.fence .always .sys false true false false) ∧
    decode 0xC0000068#32 0 = .ok (.cadd .always .dev false true) ∧
    decode 0xC20000B0#32 9 = .ok (.cread .always .sys true 9) ∧
    decode 0xD3128000#32 0 = .ok (.wmrd .always 0x25 0) ∧
    decode 0xD4000000#32 0 = .ok (.cswave .always) ∧
    decode 0xD6000000#32 0 = .ok (.scset .always) ∧
    decode 0xD8000000#32 0 = .ok (.netld .always) := ⟨rfl, rfl, rfl, rfl, rfl, rfl, rfl, rfl⟩
/-- CPY on engine 5; COLL.ar in FP32 on engine 2; MDRAIN of accumulator 1 as BF16 to registers. -/
theorem test_decode_units :
    decode (0xB0#8 ++ 0#2 ++ 0#14 ++ 5#4 ++ 0#4) 0 = .ok (.cpy .always 5) ∧
    decode (0xB7#8 ++ 0#2 ++ 0#14 ++ 2#4 ++ 1#1 ++ 0#3) 0 = .ok (.collAr .always 2 true) ∧
    decode (0x84#8 ++ 0#2 ++ 0#14 ++ 1#2 ++ 0x9#4 ++ 0b01#2) 0 = .ok (.mdrain .always 1 .bf16 true) := ⟨rfl, rfl, rfl⟩

/-! ### States for single steps -/

/-- A node on CT (2, 2) of die 0 in the block at 0x1000, whose slot 0 has issued with what stands at its inputs. -/
def node (l r g : Option Val) : Node :=
  { Node.start 66 5 0x1000 0x2000 with
    phase := .fire, issued := true, slot := 0
    blk := { Blk.empty with words := [0, 0], slots := vset Blk.empty.slots 0 ⟨l, r, g, .waiting, 0⟩ } }

/-- The module with a node at the focus. -/
def with_ (n : Node) : State := { State.reset with nodes := [(n.tile, n)], focus := n.tile }

/-- Scalars at the inputs. -/
def two (l r : Word) : Node := node (some (.scalar l)) (some (.scalar r)) none

/-- The state that an outcome goes on with. -/
def out (o : Host.Outcome State Fault Refusal) : State := State.reset.after o

/-- What stands at the left input of slot 5 after a step. -/
def left5 (o : Host.Outcome State Fault Refusal) : Option Val :=
  ((out o).node? 66).bind fun n => (n.blk.slotAt 5).left

/-- Does a step of an instruction at two operands put a scalar at slot 5? -/
def gives (i : Instr) (l r x : Word) : Bool := left5 (exec i (with_ (two l r))) = some (.scalar x)

/-- The spec's examples of R274, R275 and R276. -/
theorem test_add_saturates : gives (.add .always 0x25 0 .s8 true) 100 100 0x7F = true ∧
    gives (.add .always 0x25 0 .s8 false) 100 100 0xFFFFFFFFFFFFFFC8 = true := by decide +kernel
theorem test_div_truncates : gives (.div .always 0x25 0 .s32) 0xFFFFFFF9 2 0xFFFFFFFFFFFFFFFD = true ∧
    gives (.div .always 0x25 0 .n16) 5 0 0xFFFF = true := by decide +kernel
theorem test_rem_sign : gives (.rem .always 0x25 0 .s32) 0xFFFFFFF9 2 0xFFFFFFFFFFFFFFFF = true := by decide +kernel
theorem test_shr_sar : gives (.shr .always 0x25 0 .s8) 0x80 1 0x40 = true ∧
    gives (.sar .always 0x25 0 .s8) 0x80 1 0xFFFFFFFFFFFFFFC0 = true := by decide +kernel
theorem test_shl_reduced : gives (.shlI .always 0x25 (-1)) 1 0 0x8000000000000000 = true := by decide +kernel
/-- The spec's examples of R277, R278, R280 and R281. -/
theorem test_ext_clz : gives (.ext .always 0x25 0 .s16) 0x18000 0 0xFFFFFFFFFFFF8000 = true ∧
    gives (.clz .always 0x25 0 .n32) 0x18000 0 15 = true := by decide +kernel
theorem test_cmp_width : gives (.cmp .always 0x25 0 .n8 .lt) 0x1FF 2 0 = true := by decide +kernel
theorem test_bfx_sign : gives (.bfxX .always 0x25 0 .s64 0x0404) 0xA5 0 0xFFFFFFFFFFFFFFFA = true := by decide +kernel
theorem test_lea_index : gives (.lea .always 0x25 0 .s32 3) 0x200000100 0xFFFFFFFF 0x2000000F8 = true := by decide +kernel
/-- MULH of −1 by 2 has the high bits −1; ROT.n8 of 0x81 by 9 turns by one place (R274, R276). -/
theorem test_mulh_rot : gives (.mulh .always 0x25 0 .s64) (-1) 2 (-1) = true ∧ gives (.rot .always 0x25 0 .n8) 0x81 9 0x03 = true := by
  decide +kernel
/-- 1.5 + 2.25 = 3.75, 1 / 3 rounds to 0x3EAAAAAB, and FMIN ranks −0 below +0 (R283, R284). -/
theorem test_float : gives (.fadd .always 0x25 0 .f32 ⟨.rne, false⟩) 0x3FC00000 0x40100000 0x40700000 = true ∧
    gives (.fdiv .always 0x25 0 .f32 ⟨.rne, false⟩) 0x3F800000 0x40400000 0x3EAAAAAB = true ∧
    gives (.fmin .always 0x25 0 .f32) 0 0x80000000 0x80000000 = true := by decide +kernel
/-- FCMP.uo of a NaN, FCLASS of +∞, and FCVT of 2.5 to S32 rounds to even (R285 to R287). -/
theorem test_float_class : gives (.fcmp .always 0x25 0 .f32 .uo) 0x7FC00000 0 1 = true ∧
    gives (.fclass .always 0x25 0 .f32) 0x7F800000 0 0x80 = true ∧
    gives (.fcvt .always 0x25 0 .s32 .f32 ⟨.rne, false⟩) 0x40200000 0 2 = true := by decide +kernel
/-- LUI-like moves: MOVI sign-extends, MOVI.hi shifts (R409). -/
theorem test_movi : gives (.movi .always 0x25 (-2)) 0 0 (-2) = true ∧ gives (.moviHi .always 0x25 0 1) 0 0 0x100000000 = true := by
  decide +kernel

/-- The acts that a slot holds after a step. -/
def held (o : Host.Outcome State Fault Refusal) : Option (List Act) :=
  ((out o).node? 66).map fun n => n.blk.effs.flatMap fun e => e.acts

/-- WR holds its write (R24); a second write to the register traps as a block fault, code 0x02 in `trap.cause` (R28, R383). -/
theorem test_wr_held : held (exec (.wr .always 7) (with_ (two 9 0))) = some [.setG 7 9] := by decide +kernel
theorem test_wr_twice :
    (((out (exec (.wr .always 7) (with_ { two 9 0 with blk := { (two 9 0).blk with effs := [⟨3, 1, 3, [.setG 7 1]⟩] } }))).node? 66).map
      fun n => (n.tr.cause, n.pc, n.tr.epc)) = some (2, 0x2000, 0x1000) := by decide +kernel
/-- A branch by −1 from 0x1000 goes to 0xFF0; CALL holds g63, the address after a block of 8 + 0 bytes (R403, R404). -/
theorem test_br : (((out (exec (.br .always (-1)) (with_ (two 0 0)))).node? 66).bind fun n => n.blk.exit) = some (.goto 0xFF0) := by
  decide +kernel
theorem test_bri_align : (((out (exec (.bri .always) (with_ (two 0x1008 0)))).node? 66).map fun n => (n.tr.cause, n.tr.addr)) =
    some (5, 0x1008) := by decide +kernel
/-- TRAP holds its trap for step 4 (R420). -/
theorem test_trap_held : held (exec (.trap .always 5) (with_ (two 0 0))) = some [.trap .trap 5 0] := by decide +kernel

/-! ### States that meet the statements' hypotheses: what their forms ask -/

/-- What Gives asks of an instruction, whatever its value is. -/
def GivesMet (i : Instr) : Prop := ∀ v : Node → SlotRt → Val, ∃ (s : State) (n : Node) (b : Blk), Fires s n i ∧
  n.blk.deliver (v n (cur n)) (n.issueCyc n.slot + Config.latency i) i.targets = .ok b

/-- What Holds and Traps ask of an instruction under a condition. -/
def CondMet (i : Instr) (c : State → Node → SlotRt → Prop) : Prop := ∃ (s : State) (n : Node), Fires s n i ∧ c s n (cur n)

theorem fires (n : Node) (i : Instr) (h : i.pred = .always) (h0 : (cur n).hasNull = false) : Fires (with_ n) n i :=
  ⟨by simp [State.here, State.node?, with_, Tbl.get?], h0, .inl h⟩

theorem condMet {i : Instr} {c : State → Node → SlotRt → Prop} (n : Node) (h : i.pred = .always)
    (h0 : (cur n).hasNull = false) (hc : c (with_ n) n (cur n)) : CondMet i c := ⟨_, n, fires n i h h0, hc⟩

/-- Slot 5 of a node has room. -/
theorem room (n : Node) (hn : (n.blk.slotAt 5).input 1 = none) (v : Val) (c : Nat) (ts : List Tgt)
    (h : ts = [0x25] ∨ ts = [0x25, 0]) : ∃ b, n.blk.deliver v c ts = .ok b := by
  have e : n.blk.deliver v c [0x25] = .ok (n.blk.setSlot 5 ((n.blk.slotAt 5).fill 1 v c)) := by
    show (match (n.blk.slotAt 5).input 1 with
      | some _ => _
      | none => _) = _
    rw [hn]
    rfl
  have e2 : n.blk.deliver v c [0x25, 0] = .ok (n.blk.setSlot 5 ((n.blk.slotAt 5).fill 1 v c)) := by
    show (match (n.blk.slotAt 5).input 1 with
      | some _ => _
      | none => _) = _
    rw [hn]
    rfl
  rcases h with rfl | rfl
  · exact ⟨_, e⟩
  · exact ⟨_, e2⟩

theorem givesMet (i : Instr) (h : i.pred = .always ∧ (i.targets = [0x25] ∨ i.targets = [0x25, 0])) : GivesMet i := fun _ =>
  have ⟨b, hb⟩ := room (two 1 2) rfl _ _ _ h.2
  ⟨_, two 1 2, b, fires _ _ h.1 rfl, hb⟩

/-! ### Words, steps and values -/

theorem witness_StepRunsIssuedInstruction : ∃ (s : State) (n : Node) (i : Instr), s.clocksStopped = false ∧ s.bringUp = none ∧ s.here = some n ∧
    n.issued = true ∧ n.runs = true ∧ n.blk.isSlot n.slot = true ∧ decode (n.blk.word n.slot) (n.blk.word (n.slot + 1)) = .ok i :=
  ⟨with_ (two 1 2), two 1 2, .null .always 0 0, rfl, rfl, rfl, rfl, rfl, rfl, rfl⟩
theorem witness_DecodeOfEncodeIsSame : ∃ (i : Instr) (w : Word32) (x : Option Word32), i.wf = true ∧ encode i = some (w, x) :=
  ⟨.addX .always 0x25 0 .s32 false 100000, 0x201280E0, some 0x186A0, rfl, rfl⟩
theorem witness_AcceptedWordsAreTheirEncoding : ∃ (w x : Word32) (i : Instr), decode w x = .ok i :=
  ⟨0x201280E0, 0x186A0, .addX .always 0x25 0 .s32 false 100000, rfl⟩
theorem witness_OperandHelpersOfIntegers : ∃ t u : Ty, (t.isInt = true ∧ t.isSigned = true) ∧ u.isInt = true ∧ u.isSigned = false :=
  ⟨.s8, .n64, ⟨rfl, rfl⟩, rfl, rfl⟩

theorem witness_IntegerArithmeticResults : ∀ i ∈ [Instr.add .always 0x25 0 .s8 true, .addX .always 0x25 0 .n64 false 7,
    .addI .always 0x25 (-1), .sub .always 0x25 0 .n8 false, .subX .always 0x25 0 .s64 true 7, .mul .always 0x25 0 .s32 true,
    .mulX .always 0x25 0 .n16 false 7, .mulI .always 0x25 3, .mulh .always 0x25 0 .s64, .mulhX .always 0x25 0 .n64 7,
    .div .always 0x25 0 .s64, .divX .always 0x25 0 .n64 0, .rem .always 0x25 0 .s8, .remX .always 0x25 0 .n64 0], GivesMet i :=
  fun i h => givesMet i (by revert i; decide)
theorem witness_LogicShiftResults : ∀ i ∈ [Instr.and .always 0x25 0 .n8, .andX .always 0x25 0 .n8 7, .andI .always 0x25 1,
    .or .always 0x25 0 .s8, .orX .always 0x25 0 .n8 7, .orI .always 0x25 1, .xor .always 0x25 0 .n8, .xorX .always 0x25 0 .n8 7,
    .xorI .always 0x25 1, .andn .always 0x25 0 .n8, .andnX .always 0x25 0 .n8 7, .shl .always 0x25 0 .n8, .shlX .always 0x25 0 .n8 8,
    .shlI .always 0x25 (-1), .shr .always 0x25 0 .n8, .shrX .always 0x25 0 .n8 7, .shrI .always 0x25 63, .sar .always 0x25 0 .n8,
    .sarX .always 0x25 0 .n8 7, .sarI .always 0x25 64, .rot .always 0x25 0 .n8, .rotX .always 0x25 0 .n8 0], GivesMet i :=
  fun i h => givesMet i (by revert i; decide)
theorem witness_CompareSelectResults : (Cond.le ≠ .uo ∧ Cond.le ≠ .or) ∧ (∀ i ∈ [Instr.min .always 0x25 0 .n8,
    .minX .always 0x25 0 .s8 7, .max .always 0x25 0 .n8, .maxX .always 0x25 0 .s64 7, .cmp .always 0x25 0 .n8 .lt,
    .cmpX .always 0x25 0 .s64 .ge 7, .sel 0x25 0 .n8, .selX 0x25 0 .s8 7], GivesMet i) ∧
    ∃ v : Node → SlotRt → Word, ∀ n r, (Ty.val .s8 r.l = Ty.val .s8 r.r → v n r = 1) ∧ (¬ Ty.val .s8 r.l = Ty.val .s8 r.r → v n r = 0) :=
  ⟨by decide, fun i h => givesMet i (by revert i; decide), fun _ r => if Ty.val .s8 r.l = Ty.val .s8 r.r then 1 else 0,
    fun _ _ => ⟨fun h => if_pos h, fun h => if_neg h⟩⟩
theorem witness_CountFieldAddressResults : ∀ i ∈ [Instr.clz .always 0x25 0 .n8, .popc .always 0x25 0 .n8, .ext .always 0x25 0 .s16,
    .bfx .always 0x25 0 .s64, .bfxX .always 0x25 0 .n64 7, .bfi 0x25 0 .n64, .bfiX 0x25 0 .s64 7, .lea .always 0x25 0 .s32 4,
    .leaX .always 0x25 0 .n64 0 7], GivesMet i :=
  fun i h => givesMet i (by revert i; decide)
def md : FMod := ⟨.rne, false⟩
theorem witness_FloatArithmeticResults : ∀ i ∈ [Instr.fadd .always 0x25 0 .f32 md, .fsub .always 0x25 0 .bf16 md,
    .fmul .always 0x25 0 .f16 ⟨.sr, true⟩, .fma 0x25 0 .f32 ⟨.rd, false⟩, .fdiv .always 0x25 0 .f32 md,
    .fsqrt .always 0x25 0 .f32 md], GivesMet i :=
  fun i h => givesMet i (by revert i; decide)
theorem witness_FloatCompareConvertResults : (∀ i ∈ [Instr.fmin .always 0x25 0 .f32, .fmax .always 0x25 0 .f32,
    .fcmp .always 0x25 0 .f16 .uo, .fcvt .always 0x25 0 .s32 .f32 md, .fclass .always 0x25 0 .e8m0, .fsgn .always 0x25 0 .f32 .cps],
    GivesMet i) ∧ (∃ a : FVal, a.isNan = true) ∧ ∃ a : FVal, a.isNan = false :=
  ⟨fun i h => givesMet i (by revert i; decide), ⟨Ty.dec .f32 0x7FC00000, by decide +kernel⟩, ⟨Ty.dec .f32 0, by decide +kernel⟩⟩
theorem witness_FunctionResults : ∀ i ∈ [Instr.exp2 .always 0x25 0 .f32 md, .log2 .always 0x25 0 .f32 md,
    .vexp2 .always 0x25 0 .f16 md, .vlog2 .always 0x25 0 .f32 md, .vrcp .always 0x25 0 .f32 md, .vrsq .always 0x25 0 .f32 md],
    GivesMet i :=
  fun i h => givesMet i (by revert i; decide)
theorem witness_VectorArithmeticResults : ∀ i ∈ [Instr.vadd .always 0x25 0 .f32 md, .vsub .always 0x25 0 .f32 md,
    .vmul .always 0x25 0 .f32 md, .vfma 0x25 0 .f32 md, .vmin .always 0x25 0 .f32, .vmax .always 0x25 0 .f32,
    .vcvt .always 0x25 0 .f16 .f32 md, .vscale .always 0x25 0 .f32], GivesMet i :=
  fun i h => givesMet i (by revert i; decide)
theorem witness_VectorMoveReduceResults : (∀ i ∈ [Instr.vcmp .always 0x25 0 .n8 .lt, .vsel 0x25 0 .f32,
    .vred .always 0x25 0 .f32 .add, .vscan .always 0x25 0 .n32 .max, .vshuf .always 0x25 0, .vbcast .always 0x25 0 .e2m1,
    .vlut .always 0x25 0 .n8, .viop .always 0x25 0 .s32 .mulh], GivesMet i) ∧ 31 < 32 :=
  ⟨fun i h => givesMet i (by revert i; decide), by decide⟩

/-- The node with every register empty. -/
def hollow : Node := { two 1 2 with regs := { Regs.start with gFull := 0, vFull := 0, pFull := 0 } }

theorem witness_MoveAndReadResults : (∀ i ∈ [Instr.null .always 0x25 0, .mov .always 0x25 0, .movi .always 0x25 1,
    .movi32 .always 0x25 0 true 1, .moviHi .always 0x25 0 1, .rd .always 0x25 0 63, .rdT .always 0x25 0 0, .rdv .always 0x25 0 31,
    .rdvT .always 0x25 0 0, .rdp .always 0x25 0 7, .rdpT .always 0x25 0 0], GivesMet i) ∧
    (∀ k, k < 64 → (two 1 2).regs.gFull.getLsbD k = true) ∧ (∀ k, k < 32 → (two 1 2).regs.vFull.getLsbD k = true) ∧
    (∀ k, k < 8 → (two 1 2).regs.pFull.getLsbD k = true) ∧
    (∀ i ∈ [Instr.rd .always 0x25 0 63, .rdT .always 0x25 0 0, .rdv .always 0x25 0 31, .rdvT .always 0x25 0 0, .rdp .always 0x25 0 7,
      .rdpT .always 0x25 0 0], CondMet i fun _ n _ => n.regs.gFull = 0 ∧ n.regs.vFull = 0 ∧ n.regs.pFull = 0 ∧ n.blk.timed = false) :=
  ⟨fun i h => givesMet i (by revert i; decide), by decide, by decide, by decide,
    fun i h => condMet hollow (by revert i; decide) rfl ⟨rfl, rfl, rfl, rfl⟩⟩

/-- The node whose block holds acts of slot 3 for step 1. -/
def after (acts : List Act) (l : Word) : Node :=
  { two l 0 with
    blk := { (two l 0).blk with effs := [⟨3, 1, 3, acts⟩] }
    rounds := [(5, ⟨0, false, 0x10000, 1, 0x100, 0x20000, 0x20100⟩)] }

theorem witness_RegisterWrites :
    let once (a : SlotRt → Act) (n : Node) : Prop := (n.blk.effs.any fun e => e.acts.any fun b => (a (cur n)).sameReg b) = false
    let twice (a : SlotRt → Act) (n : Node) : Prop := (n.blk.effs.any fun e => e.acts.any fun b => (a (cur n)).sameReg b) = true
    CondMet (.wr .always 7) (fun _ n _ => once (fun r => .setG 7 r.l) n) ∧
    CondMet (.wrv .always 7) (fun _ n _ => once (fun r => .setV 7 r.lv) n) ∧
    CondMet (.wrp .always 7) (fun _ n _ => once (fun r => .setP 7 (r.l.setWidth 32)) n) ∧
    CondMet (.rsetc .always) (fun _ n r => r.l.toNat < 64 ∧ (Tbl.get? r.l.toNat n.rounds).isSome = true) ∧
    CondMet (.wr .always 7) (fun _ n _ => twice (fun r => .setG 7 r.l) n) ∧
    CondMet (.wrv .always 7) (fun _ n _ => twice (fun r => .setV 7 r.lv) n) ∧
    CondMet (.wrp .always 7) (fun _ n _ => twice (fun r => .setP 7 (r.l.setWidth 32)) n) ∧
    CondMet (.rsetc .always) (fun _ n r => 64 ≤ r.l.toNat ∨ Tbl.get? r.l.toNat n.rounds = none) :=
  ⟨condMet (after [.setG 6 0] 5) rfl rfl (by decide +kernel), condMet (after [.setG 7 0] 5) rfl rfl (by decide +kernel),
    condMet (after [.setG 7 0] 5) rfl rfl (by decide +kernel), condMet (after [] 5) rfl rfl (by decide +kernel),
    condMet (after [.setG 7 0] 5) rfl rfl (by decide +kernel), condMet (after [.setV 7 0] 5) rfl rfl (by decide +kernel),
    condMet (after [.setP 7 0] 5) rfl rfl (by decide +kernel), condMet (after [] 6) rfl rfl (by decide +kernel)⟩

/-- The node that stands at an address and has one in g63. -/
def from_ (pc link : Word) (l : Word) : Node := { two l 0 with pc := pc, regs := { Regs.start with g := vset Regs.start.g 63 link } }

/-- The same node with an exit that has fired. -/
def left (n : Node) : Node := { n with blk := { n.blk with exit := some .endNode } }

theorem witness_SecondExitTraps :
    let place (a : Word) : Prop := a.toNat % 16 = 0 ∧ a.toNat < 2 ^ 56
    let second (i : Instr) (ok : Node → SlotRt → Prop) : Prop := CondMet i fun _ n r => n.blk.exit ≠ none ∧ ok n r
    second (.exit .always) (fun _ _ => True) ∧ second (.halt .always) (fun _ _ => True) ∧
    second (.br .always 1) (fun n _ => place (n.pc + (1#22).signExtend 64 * 16)) ∧ second (.bri .always) (fun _ r => place r.l) ∧
    second (.call .always 1) (fun n _ => place (n.pc + (1#22).signExtend 64 * 16)) ∧ second (.calli .always) (fun _ r => place r.l) ∧
    second (.ret .always) (fun n _ => n.regs.gFull.getLsbD 63 = true ∧ place (n.regs.gAt 63)) := by
  let top : Word := BitVec.ofNat 64 (2 ^ 56)
  refine ⟨condMet (left (two 0 0)) rfl rfl ⟨by simp [left], trivial⟩, condMet (left (two 0 0)) rfl rfl ⟨by simp [left], trivial⟩,
    condMet (left (from_ (top - 32) 0 0)) rfl rfl ?_, condMet (left (from_ 0 0 (top - 16))) rfl rfl ?_,
    condMet (left (from_ (top - 32) 0 0)) rfl rfl ?_, condMet (left (from_ 0 0 (top - 16))) rfl rfl ?_,
    condMet (left (from_ 0 (top - 16) 0)) rfl rfl ?_⟩ <;> decide +kernel

theorem witness_Exits :
    let place (a : Word) : Prop := a.toNat % 16 = 0 ∧ a.toNat < 2 ^ 56
    let odd (a : Word) : Prop := a.toNat % 16 ≠ 0
    let far (a : Word) : Prop := a.toNat % 16 = 0 ∧ 2 ^ 56 ≤ a.toNat
    let free (n : Node) : Prop := n.blk.exit = none
    let to_ (n : Node) : Word := n.pc + (1#22).signExtend 64 * 16
    CondMet (.exit .always) (fun _ n _ => free n) ∧ CondMet (.halt .always) (fun _ n _ => free n) ∧
    CondMet (.br .always 1) (fun _ n _ => free n ∧ place (to_ n)) ∧ CondMet (.bri .always) (fun _ n r => free n ∧ place r.l) ∧
    CondMet (.call .always 1) (fun _ n _ => free n ∧ place (to_ n)) ∧ CondMet (.calli .always) (fun _ n r => free n ∧ place r.l) ∧
    CondMet (.ret .always) (fun _ n _ => free n ∧ n.regs.gFull.getLsbD 63 = true ∧ place (n.regs.gAt 63)) ∧
    CondMet (.br .always 1) (fun _ n _ => odd (to_ n)) ∧ CondMet (.br .always 1) (fun _ n _ => far (to_ n)) ∧
    CondMet (.call .always 1) (fun _ n _ => odd (to_ n)) ∧ CondMet (.call .always 1) (fun _ n _ => far (to_ n)) ∧
    CondMet (.bri .always) (fun _ _ r => odd r.l) ∧ CondMet (.bri .always) (fun _ _ r => far r.l) ∧
    CondMet (.calli .always) (fun _ _ r => odd r.l) ∧ CondMet (.calli .always) (fun _ _ r => far r.l) ∧
    CondMet (.ret .always) (fun _ n _ => n.regs.gFull.getLsbD 63 = true ∧ odd (n.regs.gAt 63)) ∧
    CondMet (.ret .always) (fun _ n _ => n.regs.gFull.getLsbD 63 = true ∧ far (n.regs.gAt 63)) := by
  let top : Word := BitVec.ofNat 64 (2 ^ 56)
  refine ⟨condMet (two 0 0) rfl rfl rfl, condMet (two 0 0) rfl rfl rfl, condMet (from_ (top - 32) 0 0) rfl rfl ?_,
    condMet (from_ 0 0 (top - 16)) rfl rfl ?_, condMet (from_ (top - 32) 0 0) rfl rfl ?_, condMet (from_ 0 0 (top - 16)) rfl rfl ?_,
    condMet (from_ 0 (top - 16) 0) rfl rfl ?_, condMet (from_ 8 0 0) rfl rfl ?_, condMet (from_ (top - 16) 0 0) rfl rfl ?_,
    condMet (from_ 8 0 0) rfl rfl ?_, condMet (from_ (top - 16) 0 0) rfl rfl ?_, condMet (from_ 0 0 1) rfl rfl ?_,
    condMet (from_ 0 0 top) rfl rfl ?_, condMet (from_ 0 0 1) rfl rfl ?_, condMet (from_ 0 0 top) rfl rfl ?_,
    condMet (from_ 0 1 0) rfl rfl ?_, condMet (from_ 0 top 0) rfl rfl ?_⟩ <;> decide +kernel

/-! ### Ports, memory, engines, counters, the network, the system: states and what their forms ask -/

/-- What Yields asks of an instruction under a relation. -/
def YieldsMet (i : Instr) (step : Nat) (key : Node → Nat) (c : State → Node → SlotRt → State → Val → List Act → Prop) : Prop :=
  ∃ (s t : State) (n : Node) (b : Blk) (v : Val) (acts : List Act), Fires s n i ∧ c s n (cur n) t v acts ∧
    (also n step (key n) acts).deliver v (n.issueCyc n.slot + Config.latency i) i.targets = .ok b

/-- What HoldsVia asks of an instruction under a relation. -/
def HoldsMet (i : Instr) (c : State → Node → SlotRt → State → List Act → Prop) : Prop :=
  ∃ (s t : State) (n : Node) (acts : List Act), Fires s n i ∧ c s n (cur n) t acts

theorem also_slots (n : Node) (step key : Nat) (acts : List Act) : (also n step key acts).slots = n.blk.slots := by
  unfold also; split <;> rfl

/-- Instruction i fires at the focus. -/
structure At (s : State) (n : Node) (i : Instr) : Prop where
  here : s.here = some n
  noNull : (cur n).hasNull = false
  pred : i.pred = .always

theorem At.fires {s : State} {n : Node} {i : Instr} (h : At s n i) : Fires s n i := ⟨h.here, h.noNull, .inl h.pred⟩

theorem yieldsMet {i : Instr} {step : Nat} {key : Node → Nat} {c : State → Node → SlotRt → State → Val → List Act → Prop}
    {s t : State} {n : Node} {v : Val} {acts : List Act} (h : At s n i) (hr : (n.blk.slotAt 5).input 1 = none)
    (ht : i.targets = [0x25] ∨ i.targets = [0x25, 0]) (hc : c s n (cur n) t v acts) : YieldsMet i step key c := by
  have hr' : ((also n step (key n) acts).slotAt 5).input 1 = none := by
    rw [← hr]; unfold Blk.slotAt; rw [also_slots]
  have ⟨b, hb⟩ := room { n with blk := also n step (key n) acts } hr' v (n.issueCyc n.slot + Config.latency i) _ ht
  exact ⟨s, t, n, b, v, acts, h.fires, hc, hb⟩

theorem holdsMet {i : Instr} {c : State → Node → SlotRt → State → List Act → Prop} {s t : State} {n : Node} {acts : List Act}
    (h : At s n i) (hc : c s n (cur n) t acts) : HoldsMet i c := ⟨s, t, n, acts, h.fires, hc⟩

theorem condMetAt {i : Instr} {c : State → Node → SlotRt → Prop} {s : State} {n : Node} (h : At s n i) (hc : c s n (cur n)) :
    CondMet i c := ⟨s, n, h.fires, hc⟩

/-- Does an access end in a value of which f holds in the state after it? -/
def onOk {α : Type} (g : Got α) (f : α → State → Bool) : Bool :=
  match g with
  | .ok a s => f a s
  | _ => false

theorem of_onOk {α : Type} {g : Got α} {f : α → State → Bool} (h : onOk g f = true) : ∃ a s, g = .ok a s ∧ f a s = true := by
  cases g <;> simp_all [onOk]

theorem of_ok {α : Type} {g : Got α} (h : onOk g (fun _ _ => true) = true) : ∃ a s, g = .ok a s :=
  have ⟨a, s, e, _⟩ := of_onOk h
  ⟨a, s, e⟩

/-- Die 0 of a state with 1 GiB of memory, and the MMIO window above 1 TiB, mapped for context 5, and all rights for it. -/
def mapped (s : State) : State :=
  { s with
    mmio := (List.range 39).map fun t => (accOff t, BitVec.ofNat 64 (2 ^ 63 + (2 ^ 29 - 1) * 2 ^ 29))
    dies := vset s.dies 0 { s.die 0 with
      switched := List.range 39
      rights := (List.range 39).map fun t => (t * 32768 + 40, BitVec.ofNat 64 (2 ^ 32 - 1))
      tiles := [(66, ⟨[], [], [⟨5, 0, 2 ^ 30, 0, true, true, false⟩, ⟨5, 2 ^ 40, 2 ^ 30, 0x1FC000000000, true, true, false⟩]⟩)] } }

/-- Words at an address, over a memory. -/
def words (a : Nat) (l : List Nat) (m : List Host.Cell) : List Host.Cell :=
  Memory.write m a (l.flatMap fun w => Sys2Proof.toBytes w 8)

/-- Descriptors at 0x10000 of a copy, 0x10040 of a load to the matrix unit, 0x10080 of a gather, 0x100C0 of a collective, and
0x10100 of a ring of two slots of 128 bytes. -/
def descs : List Host.Cell :=
  words 0x10000 [0x20000, 0x30000, 127] <| words 0x10040 [0x20000, 3 * 2 ^ 62 + 66, 127, 0, 0, 0, 0x81 * 2 ^ 24] <|
  words 0x10080 [0x20000, 0x30000, 7, 2 ^ 32 + 4, 0, 0, 98 + 100 * 2 ^ 16] <|
  words 0x100C0 [0x20000, 0x30000, 127, 0, 0, 0, 8] <| words 0x10100 [1, 0, 0x40000, 128 * 2 ^ 32 + 1] []

/-- A region of context 5 on die 0 with the CTs at (2, 2) and (4, 4) and the MTs at (3, 2) and (3, 4). -/
def region : Region where
  launch := 1
  ctx := 5
  rank := 0
  replica := 0
  die := 0
  isTask := false
  fixed := false
  live := true
  shape := [(0, 0)]
  originX := 1
  originY := 1
  elems := [66, 98, 100, 132]
  recs := []
  seqs := []
  step := 0
  lastStep := 0
  switching := false
  cutNum := 0
  saving := none
  confirmed := none
  pendingAt := none
  cutAgain := false
  frozen := none
  gated := false
  cyc := 0
  still := 0
  quiet := 0
  spillEdge := none
  spillAsked := false
  spillPool := false
  spillAt := 0
  errorAgain := []
  retried := []
  voteCut := none
  rolling := false
  rollDie := 0
  evicting := none
  ending := false

/-- A data token of .f32 values, a control token that ends an iteration, a start token, a marker. -/
def datum : Token := ⟨7, 0x800⟩
def edgeOf (src dst : Nat) (timed : Option Nat) : Edge := ⟨src, dst, 0, 4, 4, timed, false, [], [], false, false⟩

/-- The node with scalars at its inputs, two round regions declared. -/
def rounds (l r : Word) : Node :=
  { two l r with rounds := [(3, ⟨1, false, 0x10200, 0, 0x80, 0x10400, 0x10408⟩), (4, ⟨1, true, 0x10800, 0, 0x80, 0x10400, 0x10408⟩)] }

/-- A node at work: memory mapped, descriptors in it, an edge to input port 0 with a token there, one from output port 1, and a
timed one from output port 2. -/
def world (n : Node) : State :=
  mapped { with_ n with
    mem := descs
    regions := [(n.region, region)]
    edges := [(1, edgeOf 400 264 none), (2, edgeOf 265 404 none), (3, edgeOf 266 408 (some 0))]
    ports := [(264, { InPort.empty with toks := [⟨1, datum⟩] })] }

theorem at_ (n : Node) (i : Instr) (hp : i.pred = .always) (h0 : (cur n).hasNull = false) : At (world n) n i :=
  ⟨by simp [State.here, State.node?, world, mapped, with_, Tbl.get?], h0, hp⟩

/-- The two with a vector at left. -/
def sendNode (side : Word) : Node := node (some (.vector 7)) (some (.scalar side)) none

theorem witness_Ports :
    YieldsMet (.recv .always 0x25 0 0) 3 own (fun s n _ t v acts => s = t ∧ acts = [.popPort 0 n.slot] ∧
      ∃ k, Arrived s n 0 (n.blk.recvsBelow 0 n.slot) k ∧ v = .vector k.payload) ∧
    YieldsMet (.tagof .always 0x25 0 0) 3 own (fun s n _ t v acts => s = t ∧ acts = [] ∧
      ∃ k, Arrived s n 0 0 k ∧ v = .scalar (k.side.setWidth 64)) ∧
    CondMet (.send .always 1) (fun s n r => s.usesOut n 1 = true ∧ MaySend (sentTok r)) ∧
    CondMet (.sendt .always 1) (fun s n r => s.usesOut n 1 = true ∧ MaySend (sentTok r)) ∧
    CondMet (.settag .always 1) (fun s n _ => s.usesOut n 1 = true) ∧
    CondMet (.edgeset .always 1) (fun s n _ => s.usesOut n 1 = true ∧ s.timedPort n.tile false 1 = false) ∧
    CondMet (.recv .always 0x25 0 3) (fun s n _ => s.usesIn n 3 = false) ∧
    CondMet (.tagof .always 0x25 0 3) (fun s n _ => s.usesIn n 3 = false) ∧
    (∀ i ∈ [Instr.send .always 3, .sendt .always 3, .settag .always 3, .edgeset .always 3],
      CondMet i fun s n _ => s.usesOut n 3 = false) ∧
    CondMet (.edgeset .always 2) (fun s n _ => s.timedPort n.tile false 2 = true) ∧
    CondMet (.send .always 1) (fun s n r => s.usesOut n 1 = true ∧ ¬ MaySend (sentTok r)) ∧
    CondMet (.sendt .always 1) (fun s n r => s.usesOut n 1 = true ∧ ¬ MaySend (sentTok r)) := by
  have ok : MaySend (sentTok (cur (sendNode 0x800))) := by unfold MaySend; decide +kernel
  have bad : ¬ MaySend (sentTok (cur (sendNode 0x10800))) := by unfold MaySend; decide +kernel
  refine ⟨yieldsMet (at_ (two 0 0) _ rfl rfl) rfl (.inr rfl) ⟨rfl, rfl, datum, ?_, rfl⟩,
    yieldsMet (at_ (two 0 0) _ rfl rfl) rfl (.inr rfl) ⟨rfl, rfl, datum, ?_, rfl⟩,
    condMetAt (at_ (sendNode 0x800) _ rfl rfl) ⟨by decide +kernel, ok⟩, condMetAt (at_ (sendNode 0x800) _ rfl rfl) ⟨by decide +kernel, ok⟩,
    condMetAt (at_ (two 0 0) _ rfl rfl) (by decide +kernel), condMetAt (at_ (two 0 0) _ rfl rfl) (by decide +kernel),
    condMetAt (at_ (two 0 0) _ rfl rfl) (by decide +kernel), condMetAt (at_ (two 0 0) _ rfl rfl) (by decide +kernel),
    fun i h => condMetAt (at_ (two 0 0) _ (by revert i; decide) rfl) (by decide +kernel),
    condMetAt (at_ (two 0 0) _ rfl rfl) (by decide +kernel),
    condMetAt (at_ (sendNode 0x10800) _ rfl rfl) ⟨by decide +kernel, bad⟩,
    condMetAt (at_ (sendNode 0x10800) _ rfl rfl) ⟨by decide +kernel, bad⟩⟩ <;>
  exact ⟨by decide +kernel, by decide +kernel, rfl, by decide +kernel, 0, ⟨1, datum⟩, by decide +kernel, rfl, by decide +kernel⟩

def m0 : MOff := ⟨0, 0⟩
def n64 : Attr := plain .n64
def all : LaneMask := ⟨false, 0⟩
def masked : LaneMask := ⟨true, 1⟩

/-- A node with an address at left, a vector of small indexes at right, and lanes 0 and 31 in p1. -/
def lanes : Node :=
  { node (some (.scalar 0x10100)) (some (.vector 0x3_00000002)) none with
    regs := { Regs.start with p := vset Regs.start.p 1 0x80000001 } }

theorem witness_LoadsDeliver :
    let lines (s : State) (n : Node) (way : LoadWay) (l : List LaneAt) (m : Tbl Vec) (sv : Bool) (t : State) : Prop :=
      n.shadow = false ∧ n.blk.storesDone 0 = true ∧ Sound l ∧ s.loadLines s.focus n 0 way (lanesByLine l) = .ok (m, sv) t
    let one (s : State) (n : Node) (r : SlotRt) (way : LoadWay) (t : State) (v : Val) (acts : List Act) : Prop :=
      let at_ : Word := ea r.l 0 8
      ∃ m sv t1 x, lines s n way [⟨0, at_.toNat, 8⟩] m sv t1 ∧
        x = Ty.ext .n64 (BitVec.ofNat 64 (laneRaw m ⟨0, at_.toNat, 8⟩)) ∧ t = seenIf sv t1 n (x.setWidth 1024) ∧
        v = .scalar x ∧ acts = acquires n64 (n.countersIn [⟨0, at_.toNat, 8⟩] m)
    let row (n : Node) (r : SlotRt) : List LaneAt := lanesAt n masked 4 fun i => ea r.l 0 128 + BitVec.ofNat 64 (i * 4)
    let some_ (s : State) (n : Node) (way : LoadWay) (l : List LaneAt) (t : State) (v : Val) (acts : List Act) : Prop :=
      (masked.m = true → n.regs.pFull.getLsbD masked.p.toNat = true) ∧
      ∃ m sv t1, lines s n way l m sv t1 ∧ v = loaded .f32 m l ∧ t = seenIf sv t1 n v.vec ∧ acts = acquires (plain .f32) (n.countersIn l m)
    YieldsMet (.ld .always 0x25 m0 n64) 2 (fun _ => 0) (fun s n r t v acts =>
      ∃ e s1, s.xlateNode s.focus n (ea r.l 0 8) .read = (.ok e, s1) ∧
        s1.isMmio (e.phys (ea r.l 0 8).toNat) = false ∧ one s1 n r (.ordinary .normal) t v acts) ∧
    YieldsMet (.ldk .always 0x25 m0 n64 false all) 2 (fun _ => 0) (fun s n r t v acts => one s n r .const t v acts) ∧
    YieldsMet (.ldk .always 0x25 m0 (plain .f32) true masked) 2 (fun _ => 0) (fun s n r t v acts =>
      (ea r.l 0 128).toNat % 128 = 0 ∧ some_ s n .const (row n r) t v acts) ∧
    YieldsMet (.ldv .always 0x25 m0 (plain .f32) masked) 2 (fun _ => 0) (fun s n r t v acts =>
      (ea r.l 0 128).toNat % 128 = 0 ∧ some_ s n (.ordinary .normal) (row n r) t v acts) ∧
    YieldsMet (.ldvg .always 0x25 m0 (plain .f32) masked 2) 2 (fun _ => 0) (fun s n r t v acts =>
      some_ s n (.ordinary .normal) (lanesAt n masked 4 fun i => ea r.l 0 4 + (lane r.rv i).signExtend 64 <<< 2) t v acts) := by
  intro lines one row some_
  let n := lanes
  have go (s : State) (w : LoadWay) (l : List LaneAt)
      (h1 : ∀ x ∈ l, x.va % x.size = 0 ∧ x.va < 2 ^ 56) (h2 : onOk (s.loadLines s.focus n 0 w (lanesByLine l)) (fun _ _ => true) = true) :
      ∃ m sv t, lines s n w l m sv t :=
    have ⟨⟨m, sv⟩, t, e⟩ := of_ok h2
    ⟨m, sv, t, rfl, by decide +kernel, h1, e⟩
  let x := (world n).xlateNode 66 n 0x10100 .read
  have hx : (match x.1 with
    | .ok e => x.2.isMmio (e.phys 0x10100) == false
    | _ => false) = true := by decide +kernel
  obtain ⟨e, he, hm⟩ : ∃ e, x.1 = .ok e ∧ x.2.isMmio (e.phys 0x10100) = false := by
    revert hx; cases x.1 <;> simp
  have hl (w : LoadWay) (s : State) (h : onOk (s.loadLines s.focus n 0 w (lanesByLine [⟨0, 0x10100, 8⟩])) (fun _ _ => true) = true) :=
    go s w [⟨0, 0x10100, 8⟩] (by decide) h
  obtain ⟨m1, sv1, t1, h1⟩ := hl (.ordinary .normal) x.2 (by decide +kernel)
  obtain ⟨m2, sv2, t2, h2⟩ := hl .const (world n) (by decide +kernel)
  obtain ⟨m3, sv3, t3, h3⟩ := go (world n) .const (row n (cur n)) (by decide +kernel) (by decide +kernel)
  obtain ⟨m4, sv4, t4, h4⟩ := go (world n) (.ordinary .normal) (row n (cur n)) (by decide +kernel) (by decide +kernel)
  obtain ⟨m5, sv5, t5, h5⟩ := go (world n) (.ordinary .normal)
    (lanesAt n masked 4 fun i => ea (cur n).l 0 4 + (lane (cur n).rv i).signExtend 64 <<< 2) (by decide +kernel) (by decide +kernel)
  have hp : masked.m = true → n.regs.pFull.getLsbD masked.p.toNat = true := by decide +kernel
  have a (i : Instr) (h : i.pred = .always) : At (world n) n i := at_ n i h rfl
  exact ⟨yieldsMet (a _ rfl) rfl (.inl rfl) ⟨e, x.2, Prod.ext he rfl, hm, m1, sv1, t1, _, h1, rfl, rfl, rfl, rfl⟩,
    yieldsMet (a _ rfl) rfl (.inl rfl) ⟨m2, sv2, t2, _, h2, rfl, rfl, rfl, rfl⟩,
    yieldsMet (a _ rfl) rfl (.inl rfl) ⟨by decide +kernel, hp, m3, sv3, t3, h3, rfl, rfl, rfl⟩,
    yieldsMet (a _ rfl) rfl (.inl rfl) ⟨by decide +kernel, hp, m4, sv4, t4, h4, rfl, rfl, rfl⟩,
    yieldsMet (a _ rfl) rfl (.inl rfl) ⟨hp, m5, sv5, t5, h5, rfl, rfl, rfl⟩⟩

/-- Is the first of a pair a value of which f holds in the second? -/
def onPair {α ε : Type} (x : Except ε α × State) (f : α → State → Bool) : Bool :=
  match x.1 with
  | .ok e => f e x.2
  | _ => false

theorem of_pair {α ε : Type} {x : Except ε α × State} {f : α → State → Bool} (h : onPair x f = true) :
    ∃ e, x = (.ok e, x.2) ∧ f e x.2 = true := by
  obtain ⟨a, s⟩ := x; cases a <;> simp_all [onPair]

theorem witness_RoundAndMmioLoads :
    let ends (t1 t : State) (n : Node) (y : RoundGot) (sv : Bool) (v : Val) (acts : List Act) : Prop :=
      ∃ x, x = Ty.ext .n64 (BitVec.ofNat 64 (laneRaw [(y.va / 128, y.line)] ⟨0, y.va, 8⟩)) ∧ t = seenIf sv t1 n (x.setWidth 1024) ∧
        v = .scalar x ∧ acts = acquires n64 (n.countersIn [⟨0, y.va, 8⟩] [(y.va / 128, y.line)])
    let ready (n : Node) (r : SlotRt) (g : RoundRegion) : Prop :=
      n.shadow = false ∧ (ea r.l 0 8).toNat % 8 = 0 ∧ (ea r.l 0 8).toNat < 2 ^ 56 ∧ n.blk.storesDone 0 = true ∧
        Tbl.get? 3 n.rounds = some g ∧ g.base ≤ (ea r.l 0 8).toNat ∧ (ea r.l 0 8).toNat < g.base + g.len
    let bounded (s : State) (n : Node) (r : SlotRt) (t : State) (v : Val) (acts : List Act) : Prop :=
      ∃ g y t1, ready n r g ∧ r.r.toNat ≤ 65535 ∧ s.loadBounded s.focus n 0 3 g (ea r.l 0 8).toNat 8
          (if r.r.toNat = 65535 then none else some r.r.toNat) .normal = .ok y t1 ∧ ends t1 t n y (y.sv || n.repMode ≠ 1) v acts
    YieldsMet (.ldb .always 0x25 m0 n64 3) 2 (fun _ => 0) (fun s n r t v acts => r.r.toNat = 65535 ∧ bounded s n r t v acts) ∧
    YieldsMet (.ldb .always 0x25 m0 n64 3) 2 (fun _ => 0) (fun s n r t v acts => r.r.toNat < 65535 ∧ bounded s n r t v acts) ∧
    YieldsMet (.ldn .always 0x25 m0 n64 3) 2 (fun _ => 0) (fun s n r t v acts =>
      ∃ g y t1, ready n r g ∧ s.loadExact s.focus n 0 3 g (ea r.l 0 8).toNat 8 r.r.toNat .normal = .ok y t1 ∧
        ends t1 t n y y.sv v acts) ∧
    YieldsMet (.ld .always 0x25 m0 n64) 2 (fun _ => 0) (fun s n r t v acts =>
      ∃ e s1 b t1 h off, n.shadow = false ∧ n.blk.storesDone 0 = true ∧ Ty.bytes .n64 = 8 ∧ (ea r.l 0 8).toNat % 8 = 0 ∧
        s.xlateNode s.focus n (ea r.l 0 8) .read = (.ok e, s1) ∧ s1.isMmio (e.phys (ea r.l 0 8).toNat) = true ∧
        s1.home (dieOf n.tile) (e.phys (ea r.l 0 8).toNat) = .mmio h off ∧ off % 8 = 0 ∧
        s1.permit (dieOf n.tile) n.master (e.phys (ea r.l 0 8).toNat) 1 = (true, t1) ∧ b = t1.mmioRead h off ∧
        n.blk.storesBelow 0 = [] ∧ n.win.mmio = [] ∧ t = seenIf e.sv t1 n (b.setWidth 1024) ∧ v = .scalar b ∧
        acts = acquires n64 []) := by
  have a (n : Node) (h : (cur n).hasNull = false) (i : Instr) (hi : i.pred = .always) : At (world n) n i := at_ n i hi h
  obtain ⟨y1, t1, h1⟩ := of_ok (g := (world (rounds 0x10208 65535)).loadBounded 66 (rounds 0x10208 65535) 0 3
    ⟨1, false, 0x10200, 0, 0x80, 0x10400, 0x10408⟩ 0x10208 8 none .normal) (by decide +kernel)
  obtain ⟨y2, t2, h2⟩ := of_ok (g := (world (rounds 0x10278 1)).loadBounded 66 (rounds 0x10278 1) 0 3
    ⟨1, false, 0x10200, 0, 0x80, 0x10400, 0x10408⟩ 0x10278 8 (some 1) .normal) (by decide +kernel)
  obtain ⟨y3, t3, h3⟩ := of_ok (g := (world (rounds 0x10200 0)).loadExact 66 (rounds 0x10200 0) 0 3
    ⟨1, false, 0x10200, 0, 0x80, 0x10400, 0x10408⟩ 0x10200 8 0 .normal) (by decide +kernel)
  let n := two 0x10000000010 0
  let at_ := ea (cur n).l 0 8
  let x := (world n).xlateNode (world n).focus n at_ .read
  obtain ⟨e, he, hm⟩ := of_pair (x := x) (f := fun e s => s.isMmio (e.phys at_.toNat) &&
    decide (s.home (dieOf n.tile) (e.phys at_.toNat) = .mmio 0 0x10) && (s.permit (dieOf n.tile) n.master (e.phys at_.toNat) 1).1)
    (by decide +kernel)
  simp only [Bool.and_eq_true, decide_eq_true_eq] at hm
  refine ⟨yieldsMet (a (rounds 0x10208 65535) rfl _ rfl) rfl (.inl rfl) ⟨rfl, _, y1, t1, ?_, by decide, h1, _, rfl, rfl, rfl, rfl⟩,
    yieldsMet (a (rounds 0x10278 1) rfl _ rfl) rfl (.inl rfl) ⟨by decide, _, y2, t2, ?_, by decide, h2, _, rfl, rfl, rfl, rfl⟩,
    yieldsMet (a (rounds 0x10200 0) rfl _ rfl) rfl (.inl rfl) ⟨_, y3, t3, ?_, h3, _, rfl, rfl, rfl, rfl⟩,
    yieldsMet (a n rfl _ rfl) rfl (.inl rfl) ⟨e, x.2, _, _, 0, 0x10, rfl, by decide +kernel, rfl, by decide +kernel, he, hm.1.1, hm.1.2,
      rfl, Prod.ext hm.2 rfl, rfl, by decide +kernel, rfl, rfl, rfl, rfl⟩⟩ <;>
  exact ⟨rfl, by decide +kernel, by decide +kernel, by decide +kernel, rfl, by decide +kernel, by decide +kernel⟩

theorem witness_StoresAreHeld :
    let put (s : State) (n : Node) (l : List LaneAt) (a : Attr) (val : Nat → Nat) (t : State) (acts : List Act) : Prop :=
      Sound l ∧ ∃ pas, s.xlateLanes s.focus n l = .ok pas t ∧ acts = storing 0 a l pas val
    let full (n : Node) : Prop := masked.m = true → n.regs.pFull.getLsbD masked.p.toNat = true
    HoldsMet (.st .always m0 n64) (fun s n r t acts => put s n [⟨0, (ea r.l 0 8).toNat, 8⟩] n64 (fun _ => r.r.toNat) t acts) ∧
    HoldsMet (.stv .always m0 (plain .f32) masked) (fun s n r t acts => full n ∧ (ea r.l 0 128).toNat % 128 = 0 ∧
      put s n (lanesAt n masked 4 fun i => ea r.l 0 128 + BitVec.ofNat 64 (i * 4)) (plain .f32) (fun i => (lane r.rv i).toNat) t acts) ∧
    HoldsMet (.stvs .always m0 (plain .f32) masked (-4)) (fun s n r t acts => full n ∧
      put s n (lanesAt n masked 4 fun i => ea r.l 0 4 + (-4#16).signExtend 64 * BitVec.ofNat 64 i) (plain .f32)
        (fun i => (lane r.rv i).toNat) t acts) := by
  have a (i : Instr) (h : i.pred = .always) : At (world lanes) lanes i := at_ lanes i h rfl
  have x (l : List LaneAt) (h : onOk ((world lanes).xlateLanes (world lanes).focus lanes l) (fun _ _ => true) = true) := of_ok h
  obtain ⟨p1, t1, h1⟩ := x [⟨0, (ea (cur lanes).l 0 8).toNat, 8⟩] (by decide +kernel)
  obtain ⟨p2, t2, h2⟩ := x (lanesAt lanes masked 4 fun i => ea (cur lanes).l 0 128 + BitVec.ofNat 64 (i * 4)) (by decide +kernel)
  obtain ⟨p3, t3, h3⟩ := x (lanesAt lanes masked 4 fun i => ea (cur lanes).l 0 4 + (-4#16).signExtend 64 * BitVec.ofNat 64 i)
    (by decide +kernel)
  have hp : masked.m = true → lanes.regs.pFull.getLsbD masked.p.toNat = true := by decide +kernel
  refine ⟨holdsMet (a _ rfl) ⟨?_, p1, h1, rfl⟩, holdsMet (a _ rfl) ⟨hp, by decide +kernel, ?_, p2, h2, rfl⟩,
    holdsMet (a _ rfl) ⟨hp, ?_, p3, h3, rfl⟩⟩ <;> unfold Sound <;> decide +kernel

/-- An order that acquires and releases. -/
def n64ar : Attr := ⟨.n64, .normal, .dev, ⟨true, true⟩⟩

theorem witness_AtomicsAreHeld :
    let atom (i : Instr) (a : Attr) (op : AtomOp) (es : Nat) (third : SlotRt → Word) (ret : Option (BitVec 6)) (st : Option (BitVec 16)) :
        Prop :=
      HoldsMet i (fun s n r t acts =>
        let at_ : Word := ea r.l 0 es
        let hold := a.ord.rel || a.ord.acq
        ∃ e, at_.toNat % es = 0 ∧ s.xlateNode s.focus n at_ .write = (.ok e, t) ∧
          acts = relActs n a.ord.rel (actionChunks i at_ r.r ++ (if op = .cas then [(at_, third r)] else [])) ++
            [Act.drainIf (e.phys at_.toNat) es, .ownAtom at_.toNat (e.phys at_.toNat) a.ty op r.r (third r) ret st hold] ++
            (if hold then [Act.awaitReply (if a.ord.acq then some (a.scope, at_.toNat) else none)] else []))
    let lda (toV : Bool) : Prop := HoldsMet (.lda .always m0 n64 toV 7) (fun s n r t acts =>
      let es := (if toV then 32 else 1) * 8
      let at_ : Word := ea r.l 0 es
      ∃ e, at_.toNat % es = 0 ∧ s.xlateNode s.focus n at_ .read = (.ok e, t) ∧
        acts = [.lda ⟨at_.toNat, e.phys at_.toNat, e.sv, .n64, toV, .normal, if toV then .v 7 else .g 7⟩])
    lda false ∧ lda true ∧
    atom (.atom m0 n64ar .cas true 7) n64ar .cas 8 (fun r => r.g) (some 7) none ∧
    atom (.atom m0 n64 .add false 0) n64 .add 8 (fun r => r.g) none none ∧
    atom (.atomo .always m0 (plain .f32) .add 0 9) (plain .f32) .add 4 (fun _ => 0) none (some 9) ∧
    atom (.atomo .always m0 (plain .f32) .add 3 9) (plain .f32) .add 4 (fun _ => 0) (some 58) (some 9) := by
  have a (i : Instr) (h : i.pred = .always) : At (world lanes) lanes i := at_ lanes i h rfl
  have x (k : AccKind) (h : onPair ((world lanes).xlateNode (world lanes).focus lanes 0x10100 k) (fun _ _ => true) = true) := of_pair h
  obtain ⟨e, he, _⟩ := x .read (by decide +kernel)
  obtain ⟨f, hf, _⟩ := x .write (by decide +kernel)
  exact ⟨holdsMet (a _ rfl) ⟨e, by decide +kernel, he, rfl⟩, holdsMet (a _ rfl) ⟨e, by decide +kernel, he, rfl⟩,
    holdsMet (a _ rfl) ⟨f, by decide +kernel, hf, rfl⟩, holdsMet (a _ rfl) ⟨f, by decide +kernel, hf, rfl⟩,
    holdsMet (a _ rfl) ⟨f, by decide +kernel, hf, rfl⟩, holdsMet (a _ rfl) ⟨f, by decide +kernel, hf, rfl⟩⟩

theorem witness_MemoryAddressTraps :
    (∀ x ∈ [(Instr.ld .always 0x25 m0 n64, 8), (.ldk .always 0x25 m0 n64 false all, 8), (.ldk .always 0x25 m0 n64 true masked, 256),
      (.ldv .always 0x25 m0 n64 masked, 256), (.ldb .always 0x25 m0 n64 3, 8), (.ldn .always 0x25 m0 n64 3, 8), (.st .always m0 n64, 8),
      (.stv .always m0 n64 masked, 256), (.lda .always m0 n64 false 7, 8), (.lda .always m0 n64 true 7, 256),
      (.atom m0 n64 .add true 7, 8), (.atomo .always m0 (plain .f32) .add 0 9, 4)],
      CondMet x.1 fun _ n r => n.regs.pFull.getLsbD 1 = true ∧ (ea r.l 0 x.2).toNat % x.2 ≠ 0) ∧
    (∀ x ∈ [(Instr.ld .always 0x25 m0 n64, 8), (.ldk .always 0x25 m0 n64 false all, 8), (.ldb .always 0x25 m0 n64 3, 8),
      (.ldn .always 0x25 m0 n64 3, 8), (.st .always m0 n64, 8), (.lda .always m0 n64 false 7, 8), (.lda .always m0 n64 true 7, 256),
      (.atom m0 n64 .add true 7, 8), (.atomo .always m0 (plain .f32) .add 0 9, 4)],
      CondMet x.1 fun _ n r => n.blk.storesDone 0 = true ∧ (ea r.l 0 x.2).toNat % x.2 = 0 ∧ 2 ^ 56 ≤ (ea r.l 0 x.2).toNat) :=
  ⟨fun x h => condMet (two 1 0) (by revert x; decide) rfl ⟨by decide +kernel, by revert x; decide +kernel⟩,
    fun x h => condMet (two (BitVec.ofNat 64 (2 ^ 56)) 0) (by revert x; decide) rfl ⟨by decide +kernel, by revert x; decide +kernel⟩⟩

/-- The state in which context 5 owns retention window 2 of die 0. -/
def owned (n : Node) : State := let s := world n; { s with mmio := s.mmio.set 0x108F8 0x1005 }

theorem ownedAt (n : Node) (i : Instr) (hp : i.pred = .always) (h0 : (cur n).hasNull = false) : At (owned n) n i :=
  ⟨by simp [State.here, State.node?, owned, world, mapped, with_, Tbl.get?], h0, hp⟩

theorem witness_FencesAndHintsAreHeld :
    (∀ i ∈ [Instr.fence .always .dev true true true true, .pref .always m0 n64 true, .tlbpf .always m0 n64 false,
      .ipf .always m0 n64 true, .ipin .always m0 n64 false, .iunpin .always m0 n64 false, .cwb .always m0 n64 false], CondMet i free) ∧
    CondMet (.cinv .always m0 n64 .code) (fun _ n _ => n.priv = true) ∧
    CondMet (.unretain .always m0 n64 2) (fun s n _ => s.ownsWindow (dieOf n.tile) 2 n.ctx = true) ∧
    HoldsMet (.retain .always m0 n64 2 3) (fun s n r t acts =>
      let at_ : Word := ea r.l 0 1
      ∃ e lines ok, s.ownsWindow (dieOf n.tile) 2 n.ctx = true ∧ s.xlateNode s.focus n at_ .read = (.ok e, t) ∧
        (let len := min r.r.toNat (e.va + e.size - at_.toNat)
         lines = if len = 0 then 0 else (e.phys at_.toNat + len - 1) / 128 + 1 - e.phys at_.toNat / 128) ∧
        acts = [.retain 2 3 (e.phys at_.toNat) lines ok] ∧
        (ok = true ↔ e.phys at_.toNat / 2 ^ 45 = t.dom ∧ (e.phys at_.toNat % 2 ^ 45 < 512000000000 ∨
          (0x8000000000 ≤ e.phys at_.toNat % 2 ^ 45 ∧ e.phys at_.toNat % 2 ^ 45 < 0x1E8000000000)) ∧ r.r ≠ 0)) := by
  let n := two 0x10000 0x100
  let x := (owned n).xlateNode (owned n).focus n (ea (cur n).l 0 1) .read
  obtain ⟨e, he, _⟩ := of_pair (x := x) (f := fun _ _ => true) (by decide +kernel)
  exact ⟨fun i h => condMet (two 0x10000 256) (by revert i; decide) rfl trivial,
    condMet { two 0 0 with mode := 4 } rfl rfl (by decide +kernel), condMetAt (ownedAt n _ rfl rfl) (by decide +kernel),
    holdsMet (ownedAt n _ rfl rfl) ⟨e, _, _, by decide +kernel, he, rfl, rfl, decide_eq_true_iff⟩⟩

theorem witness_PrivilegeTraps :
    CondMet (.cinv .always m0 n64 .code) (fun _ n _ => n.priv = false) ∧
    (∀ i ∈ [Instr.retain .always m0 n64 2 3, .unretain .always m0 n64 2, .mts .always 0x402, .mts .always 0x412],
      CondMet i fun s n _ => s.ownsWindow (dieOf n.tile) 2 n.ctx = false) ∧
    (∀ i ∈ [Instr.mfs .always 0x25 0xF00, .mts .always 0xFFF], (CondMet i fun _ n _ => n.priv = false) ∧
      CondMet i fun _ n _ => n.priv = true) :=
  ⟨condMet (two 0 0) rfl rfl (by decide +kernel), fun i h => condMet (two 0 0) (by revert i; decide) rfl (by decide +kernel),
    fun i h => ⟨condMet (two 0 0) (by revert i; decide) rfl (by decide +kernel),
      condMet { two 0 0 with mode := 4 } (by revert i; decide) rfl (by decide +kernel)⟩⟩

/-- What a descriptor's instruction asks. -/
def DescMet (i : Instr) (eng : Nat) (op : EngOp) (ok : State → Node → List Word → Bool) : Prop :=
  HoldsMet i (fun s n r t acts => ∃ m sv, r.l.toNat % 64 = 0 ∧ r.l.toNat < 2 ^ 56 ∧
    s.loadLines s.focus n 0 (.ordinary .normal) (descLines r.l) = .ok (m, sv) t ∧ ok t n (descOf m r.l) = true ∧
    acts = Act.sign (descStore r.l (descOf m r.l)) :: relActs n false [] ++ [Act.command eng (n.cmd op (descOf m r.l))])

theorem descMet {i : Instr} {eng : Nat} {op : EngOp} {ok : State → Node → List Word → Bool} (va : Word) (hi : i.pred = .always)
    (h0 : va.toNat % 64 = 0 ∧ va.toNat < 2 ^ 56)
    (h : onOk ((world (two va 0)).loadLines 66 (two va 0) 0 (.ordinary .normal) (descLines va))
      (fun m t => ok t (two va 0) (descOf m.1 va)) = true) : DescMet i eng op ok :=
  have ⟨⟨m, sv⟩, _, e, hk⟩ := of_onOk h
  holdsMet (at_ (two va 0) i hi rfl) ⟨m, sv, h0.1, h0.2, e, hk, rfl⟩

theorem witness_EngineInstructions :
    DescMet (.cpy .always 15) 15 .cpy (fun _ _ w => cpyOk w) ∧
    DescMet (.cpym .always 0) 0 .cpym (fun s n w => s.cpymOk n w) ∧
    DescMet (.carm .always 0) 0 .carm (fun _ _ w => carmOk w) ∧
    DescMet (.gath .always 0) 0 .gath (fun s n w => s.gathOk n w) ∧
    DescMet (.scat .always 0) 0 .scat (fun s n w => s.gathOk n w) ∧
    DescMet (.collAr .always 3 true) 19 (.coll 0 true) (fun _ _ w => collOk w 0) ∧
    DescMet (.collRs .always 0 false) 16 (.coll 1 false) (fun _ _ w => collOk w 1) ∧
    DescMet (.collAg .always 0 false) 16 (.coll 2 false) (fun _ _ w => collOk w 2) ∧
    CondMet (.cfire .always 0) (fun _ _ r => r.l.toNat ≤ 7) ∧
    CondMet (.cdisarm .always 0) (fun _ _ r => r.l.toNat ≤ 7 ∧ r.r.toNat % 8 = 0) ∧
    (∀ i ∈ [Instr.cpy .always 0, .cpym .always 0, .carm .always 0, .gath .always 0, .scat .always 0, .collAr .always 0 true,
      .collRs .always 0 false, .collAg .always 0 false],
      (CondMet i fun _ _ r => r.l.toNat % 64 ≠ 0) ∧ CondMet i fun _ _ r => r.l.toNat % 64 = 0 ∧ 2 ^ 56 ≤ r.l.toNat) ∧
    CondMet (.collAg .always 0 true) free ∧ CondMet (.cfire .always 0) (fun _ _ r => 7 < r.l.toNat) ∧
    CondMet (.cdisarm .always 0) (fun _ _ r => 7 < r.l.toNat) := by
  exact ⟨descMet 0x10000 rfl (by decide) (by decide +kernel), descMet 0x10040 rfl (by decide) (by decide +kernel),
    descMet 0x10000 rfl (by decide) (by decide +kernel), descMet 0x10080 rfl (by decide) (by decide +kernel),
    descMet 0x10080 rfl (by decide) (by decide +kernel), descMet 0x100C0 rfl (by decide) (by decide +kernel),
    descMet 0x100C0 rfl (by decide) (by decide +kernel), descMet 0x100C0 rfl (by decide) (by decide +kernel),
    condMet (two 7 0) rfl rfl (by decide +kernel), condMet (two 7 8) rfl rfl (by decide +kernel),
    fun i h => ⟨condMet (two 32 0) (by revert i; decide) rfl (by decide +kernel),
      condMet (two (BitVec.ofNat 64 (2 ^ 56)) 0) (by revert i; decide) rfl (by decide +kernel)⟩,
    condMet (two 0 0) rfl rfl trivial, condMet (two 8 0) rfl rfl (by decide +kernel), condMet (two 8 0) rfl rfl (by decide +kernel)⟩

theorem witness_CounterInstructions :
    let reads (i : Instr) (act : SlotRt → CtrRef → Act) : Prop := HoldsMet i (fun s n r t acts =>
      ∃ c s1, s.counterRef n r.l .read = .ok c s1 ∧ s1.counterReadable n c = (true, t) ∧ acts = [act r c])
    let region (n : Node) (r : SlotRt) (g : RoundRegion) : Prop := r.l.toNat < 64 ∧ Tbl.get? r.l.toNat n.rounds = some g
    let adv (n : Node) (r : SlotRt) (c : CtrRef) : List Act :=
      relActs n true (actionChunks (.radv .always .dev) c.va 0) ++ [Act.ownAdd c 1 true, Act.floorReply r.l.toNat]
    let polled (va : Word) : Prop := YieldsMet (.cpoll .always 0x25 0 .dev false) 3 own (fun s n r t v acts => ∃ pa x sv t1,
      n.shadow = false ∧ r.l = va ∧ r.l.toNat % 8 = 0 ∧ s.readWord s.focus n r.l = .ok (pa, x, sv) t1 ∧
      t = seen t1 n ((BitVec.ofNat 64 x).setWidth 1024) ∧ v = .scalar (if r.r ≤ BitVec.ofNat 64 x then 1 else 0) ∧
      acts = if n.rounds.any (fun g => g.2.rctr = r.l.toNat) then [.saw r.l.toNat (BitVec.ofNat 64 x)] else [])
    HoldsMet (.cadd .always .dev true true) (fun s n r t acts => ∃ c, s.counterRef n r.l .write = .ok c t ∧
      acts = relActs n true (actionChunks (.cadd .always .dev true true) c.va r.r) ++ [Act.ownAdd c r.r true] ++
        [Act.awaitReply (some (.dev, c.va.toNat))]) ∧
    reads (.cwait .always .dev true) (fun r c => Act.cwait c r.r .dev true) ∧
    reads (.cread .always .dev true 9) (fun _ c => .cread c .dev true 9) ∧
    HoldsMet (.rngrel .always .dev) (fun s n r t acts => ∃ c, r.l.toNat % 32 = 0 ∧ r.r.getLsbD 63 = true ∧
      s.counterRef n (if r.r.getLsbD 63 then r.l + 8 else r.l) .write = .ok c t ∧
      acts = relActs n true (actionChunks (.rngrel .always .dev) c.va r.r) ++ [Act.ownAdd c 1 true, .awaitReply none]) ∧
    HoldsMet (.radv .always .dev) (fun s n r t acts => ∃ g c s1 l, region n r g ∧ g.ovr = false ∧
      s.counterRef n (BitVec.ofNat 64 g.rctr) .write = .ok c s1 ∧ s1.readRefs n g.words = .ok l t ∧
      acts = Act.radvWait g.slots l :: adv n r c) ∧
    HoldsMet (.radv .always .dev) (fun s n r t acts => ∃ g c s1 s2 pr m, region n r g ∧ g.ovr = true ∧
      s.counterRef n (BitVec.ofNat 64 g.rctr) .write = .ok c s1 ∧ s1.readRound s1.focus n g = .ok pr s2 ∧
      s2.readReclaim s2.focus n g (g.nr + 1) = .ok m t ∧ pr.2 + 2 ≤ m.1 + g.slots ∧ acts = adv n r c) ∧
    HoldsMet (.rrecl .always .dev) (fun s n r t acts => ∃ g c,
      let j := r.l.toNat / 2 ^ 8 % 2 ^ 6
      r.l.toNat / 2 ^ 6 % 4 = 0 ∧ r.l.toNat < 2 ^ 14 ∧ Tbl.get? (r.l.toNat % 64) n.rounds = some g ∧ j ≤ g.nr ∧
      s.counterRef n (BitVec.ofNat 64 (g.rcl + 8 * j)) .write = .ok c t ∧
      acts = relActs n true (actionChunks (.rrecl .always .dev) c.va r.r) ++
        [Act.ownAtom c.va.toNat c.pa .n64 .max r.r 0 none none true, .awaitReply none]) ∧
    HoldsMet (.barr .always .dev) (fun s n r t acts => ∃ c, s.counterRef n r.l .write = .ok c t ∧
      acts = relActs n true (actionChunks (.barr .always .dev) r.l r.r) ++ [Act.ownAdd c 1 true, .awaitReply none, Act.cwait c r.r .dev true]) ∧
    YieldsMet (.cpoll .always 0x25 0 .dev true) 3 own (fun s n r t v acts => ∃ pa x sv t1, n.shadow = false ∧ r.l.toNat % 8 = 0 ∧
      s.readWord s.focus n r.l = .ok (pa, x, sv) t1 ∧ t = seen t1 n ((BitVec.ofNat 64 x).setWidth 1024) ∧
      v = .scalar (if r.r ≤ BitVec.ofNat 64 x then 1 else 0) ∧ acts = [.acquire .dev (some (r.l.toNat, BitVec.ofNat 64 x))]) ∧
    polled 0x10108 ∧ polled 0x10400 ∧
    ∀ consumer, YieldsMet (.rngaw .always 0x25 0 .dev) 3 own (fun s n r t v acts => ∃ m sv s1 base size count pa x sw t1,
      let va := r.l.toNat + 16
      let pos := r.r.toNat % 2 ^ 63
      let ca : Word := if consumer then r.l else r.l + 8
      n.shadow = false ∧ r.l.toNat % 32 = 0 ∧ r.r.getLsbD 63 = consumer ∧
      s.loadLines s.focus n 0 (.ordinary .normal) (lanesByLine [⟨0, va, 8⟩, ⟨1, va + 8, 8⟩]) = .ok (m, sv) s1 ∧
      ringOf (laneRaw m ⟨0, va, 8⟩) (laneRaw m ⟨1, va + 8, 8⟩) = some (base, size, count) ∧
      s1.readWord s1.focus n ca = .ok (pa, x, sw) t1 ∧ x < 2 ^ 64 ∧ (if consumer then pos < x else pos < x + count) ∧
      t = seen t1 n ((BitVec.ofNat 64 x).setWidth 1024) ∧
      v = .scalar (BitVec.ofNat 64 (base + pos % count * size)) ∧ acts = [.acquire .dev (some (ca.toNat, BitVec.ofNat 64 x))]) := by
  have a (n : Node) (h0 : (cur n).hasNull = false) (i : Instr) (h : i.pred = .always) : At (world n) n i := at_ n i h h0
  have ref (n : Node) (va : Word) (k : AccKind) (h : onOk ((world n).counterRef n va k) (fun _ _ => true) = true) := of_ok h
  let n := two 0x10108 1
  obtain ⟨c1, t1, h1⟩ := ref n 0x10108 .write (by decide +kernel)
  obtain ⟨c2, t2, h2, h2'⟩ := of_onOk (g := (world n).counterRef n 0x10108 .read) (f := fun c s => (s.counterReadable n c).1)
    (by decide +kernel)
  obtain ⟨c3, t3, h3⟩ := ref (two 0x10100 (BitVec.ofNat 64 (2 ^ 63))) 0x10108 .write (by decide +kernel)
  let f : RoundRegion := ⟨1, false, 0x10200, 0, 0x80, 0x10400, 0x10408⟩
  obtain ⟨c4, t4, h4, k4⟩ := of_onOk (g := (world (rounds 3 0)).counterRef (rounds 3 0) 0x10400 .write)
    (f := fun _ s1 => onOk (s1.readRefs (rounds 3 0) f.words) fun _ _ => true) (by decide +kernel)
  obtain ⟨l4, u4, j4⟩ := of_ok k4
  let g : RoundRegion := ⟨1, true, 0x10800, 0, 0x80, 0x10400, 0x10408⟩
  obtain ⟨c5, s5, h5, k5⟩ := of_onOk (g := (world (rounds 4 0)).counterRef (rounds 4 0) 0x10400 .write)
    (f := fun _ s1 => onOk (s1.readRound s1.focus (rounds 4 0) g) fun pr s2 => onOk (s2.readReclaim s2.focus (rounds 4 0) g 1) fun m _ =>
      pr.2 + 2 ≤ m.1 + g.slots) (by decide +kernel)
  obtain ⟨pr, s6, h6, k6⟩ := of_onOk k5
  obtain ⟨m6, s7, h7, k7⟩ := of_onOk k6
  obtain ⟨c8, t8, h8⟩ := ref (rounds 3 7) 0x10408 .write (by decide +kernel)
  obtain ⟨⟨pa, x, sv⟩, t9, h9⟩ := of_ok (g := (world n).readWord 66 n 0x10108) (by decide +kernel)
  obtain ⟨⟨pb, y, sy⟩, t10, h10⟩ := of_ok (g := (world (rounds 0x10400 1)).readWord 66 (rounds 0x10400 1) 0x10400) (by decide +kernel)
  refine ⟨holdsMet (a n rfl _ rfl) ⟨c1, h1, rfl⟩, holdsMet (a n rfl _ rfl) ⟨c2, t2, h2, Prod.ext h2' rfl, rfl⟩,
    holdsMet (a n rfl _ rfl) ⟨c2, t2, h2, Prod.ext h2' rfl, rfl⟩,
    holdsMet (a (two 0x10100 (BitVec.ofNat 64 (2 ^ 63))) rfl _ rfl) ⟨c3, by decide +kernel, by decide +kernel, h3, rfl⟩,
    holdsMet (a (rounds 3 0) rfl _ rfl) ⟨f, c4, t4, l4, ⟨by decide +kernel, rfl⟩, rfl, h4, j4, rfl⟩,
    holdsMet (a (rounds 4 0) rfl _ rfl) ⟨g, c5, s5, s6, pr, m6, ⟨by decide +kernel, rfl⟩, rfl, h5, h6, h7, of_decide_eq_true k7, rfl⟩,
    holdsMet (a (rounds 3 7) rfl _ rfl) ⟨_, c8, by decide +kernel, by decide +kernel, rfl, by decide +kernel, h8, rfl⟩,
    holdsMet (a n rfl _ rfl) ⟨c1, h1, rfl⟩,
    yieldsMet (a n rfl _ rfl) rfl (.inr rfl) ⟨pa, x, sv, t9, rfl, by decide +kernel, h9, rfl, rfl, rfl⟩,
    yieldsMet (a n rfl _ rfl) rfl (.inr rfl) ⟨pa, x, sv, t9, rfl, rfl, by decide +kernel, h9, rfl, rfl, rfl⟩,
    yieldsMet (a (rounds 0x10400 1) rfl _ rfl) rfl (.inr rfl) ⟨pb, y, sy, t10, rfl, rfl, by decide +kernel, h10, rfl, rfl, rfl⟩,
    fun consumer => ?_⟩
  let right (b : Bool) : Word := if b then BitVec.ofNat 64 (2 ^ 63) else 1
  let nn := two 0x10100 (right consumer)
  obtain ⟨⟨m, sv⟩, s1, e1, k1⟩ := of_onOk (g := (world nn).loadLines 66 nn 0 (.ordinary .normal)
    (lanesByLine [⟨0, 0x10110, 8⟩, ⟨1, 0x10118, 8⟩])) (f := fun m s1 =>
      decide (ringOf (laneRaw m.1 ⟨0, 0x10110, 8⟩) (laneRaw m.1 ⟨1, 0x10118, 8⟩) = some (0x40000, 128, 2)) &&
      onOk (s1.readWord s1.focus nn (if consumer then 0x10100 else 0x10108)) fun x _ =>
        decide (x.2.1 < 2 ^ 64 ∧ if consumer then (cur nn).r.toNat % 2 ^ 63 < x.2.1 else (cur nn).r.toNat % 2 ^ 63 < x.2.1 + 2)) (by revert consumer; decide +kernel)
  rw [Bool.and_eq_true, decide_eq_true_eq] at k1
  obtain ⟨⟨pa, x, sw⟩, t, e2, k2⟩ := of_onOk k1.2
  refine yieldsMet (a nn rfl _ rfl) rfl (.inr rfl) ⟨m, sv, s1, _, _, _, pa, x, sw, t, rfl, by cases consumer <;> decide +kernel,
    by cases consumer <;> decide +kernel, e1, k1.1, ?_, ?_, ?_, rfl, rfl, rfl⟩
  · cases consumer <;> exact e2
  · exact (of_decide_eq_true k2).1
  · exact (of_decide_eq_true k2).2

/-- The node at work beside a network of context 5 with 16 entries of working memory at 0x20000, 16 table entries at 0x28000, and
a wave in which the firing of name 7 is open. -/
def netWorld (n : Node) : State :=
  let s := world n
  let x := s.die 0
  { s with dies := vset s.dies 0 { x with
      tlb := [⟨5, 0, 2 ^ 30, 0, true, true, false⟩]
      rights := (List.range 39).flatMap fun t => [(t * 32768 + 40, BitVec.ofNat 64 (2 ^ 32 - 1)), (t * 32768 + 44, BitVec.ofNat 64 (2 ^ 32 - 1))]
      net := { Net.reset with
        owner := some 5, status := 1, wm := 0x20000, wmn := 4, st := 0x28000, stm := 4, open_ := true
        wave := [⟨7, 1, ⟨0, [(3, 4)], 0⟩, [], false⟩] } } }

theorem netAt (n : Node) (i : Instr) (hp : i.pred = .always) (h0 : (cur n).hasNull = false) : At (netWorld n) n i :=
  ⟨by simp [State.here, State.node?, netWorld, world, mapped, with_, Tbl.get?], h0, hp⟩

/-- A task of the firing of name 7. -/
def firing (l r : Option Val) : Node := { node l r none with task := some 8 }

/-- An image of entry 15, class 2. -/
def image : Val := .vector (2 ^ 48 + 15)

theorem witness_ScrupleInstructions :
    let net (s : State) (n : Node) : Net := (s.die (dieOf n.tile)).net
    let mine (s : State) (n : Node) : Prop := n.shadow = false ∧ (net s n).owner = some n.ctx
    let delta (i : Instr) (x : SlotRt → Delta) (image : Bool) : Prop :=
      CondMet i (fun s n r => mine s n ∧ (x r).wid < 2 ^ (net s n).wmn ∧ (image = true → (x r).cls ≠ 0) ∧ n.afterFdone (net s n) = false)
    let reads (i : Instr) (ok : State → Node → SlotRt → Prop) (m : Node → SlotRt → NetM Vec) (out : Vec → Val) : Prop :=
      YieldsMet i 3 own (fun s n r t v acts => ∃ x t1, mine s n ∧ ok s n r ∧ (net s n).frozen = false ∧
        (m n r).run s = .ok (x, t1) ∧ t1.here = some n ∧ t = seen t1 n x ∧ v = out x ∧ acts = [])
    delta (.wmasr .always) (fun r => .assert r.lv) true ∧
    delta (.wmret .always) (fun r => .retract (r.l.setWidth 32)) false ∧
    delta (.wmmod .always) (fun r => .modify r.lv) true ∧
    CondMet (.scset .always) (fun s n _ => mine s n) ∧
    CondMet (.fdone .always) (fun s n _ => mine s n ∧ ∃ id, n.firing = some id ∧ (net s n).slotOpen id = true ∧
      (∀ e ∈ n.blk.effs, ∀ a ∈ e.acts, a.isFdone = false ∧ (n.slot < e.slot → a.isDelta = false))) ∧
    HoldsMet (.cswave .always) (fun s n r t _ => ∃ c, mine s n ∧ r.l.toNat % 8 = 0 ∧ 1 ≤ r.r.toNat ∧ r.r.toNat ≤ 64 ∧
      (seen s n 0).counterRef n r.l .write = .ok c t) ∧
    CondMet (.netld .always) (fun s n r => n.shadow = false ∧ (∀ c, (net s n).owner = some c → c = n.ctx ∨ n.priv = true) ∧
      (r.l = 0 ∨ r.r.toNat % 64 = 0)) ∧
    reads (.wmrd .always 0x25 0) (fun s n r => r.l.toNat % 2 ^ 32 < 2 ^ (net s n).wmn)
      (fun n r => do return BitVec.ofNat 1024 (← netEntry (dieOf n.tile) (r.l.toNat % 2 ^ 32))) .vector ∧
    reads (.scget .always 0x25 0) (fun _ _ _ => True) (fun n r => netScget (dieOf n.tile) r.l r.r) (fun x => .scalar (x.setWidth 64)) ∧
    YieldsMet (.csrd .always 0x25 0) 3 own (fun s n r t v acts => ∃ x, mine s n ∧ (net s n).frozen = false ∧
      (net s n).csrd r.l = some x ∧ t = seen s n (BitVec.ofNat 1024 (x % 2 ^ 64)) ∧ v = .scalar (BitVec.ofNat 64 x) ∧ acts = []) := by
  have w (n : Node) (m : NetM Vec) (h : onPair ((match m.run (netWorld n) with
      | .ok (x, t) => (.ok x, t)
      | .error e => (.error e, netWorld n)) : Except NetErr Vec × State) (fun _ t => t.here == some n) = true) :
      ∃ x t, m.run (netWorld n) = .ok (x, t) ∧ t.here = some n := by
    revert h
    cases m.run (netWorld n) with
    | error e => simp [onPair]
    | ok a => exact fun h => ⟨a.1, a.2, rfl, by simpa [onPair] using h⟩
  obtain ⟨x1, t1, h1, k1⟩ := w (two 15 0) (do return BitVec.ofNat 1024 (← netEntry 0 15)) (by decide +kernel)
  obtain ⟨x2, t2, h2, k2⟩ := w (two 15 0) (netScget 0 15 0) (by decide +kernel)
  obtain ⟨c, t3, h3⟩ := of_ok (g := (seen (netWorld (two 0x10108 64)) (two 0x10108 64) 0).counterRef (two 0x10108 64) 0x10108 .write)
    (by decide +kernel)
  have f : ∀ e ∈ (firing none none).blk.effs, ∀ a ∈ e.acts, a.isFdone = false ∧ ((firing none none).slot < e.slot → a.isDelta = false) := by
    decide +kernel
  have y (n : Node) (h : n.shadow = false ∧ n.ctx = 5) : n.shadow = false ∧ ((netWorld n).die 0).net.owner = some n.ctx := ⟨h.1, by rw [h.2]; rfl⟩
  exact ⟨condMetAt (netAt (firing (some image) none) _ rfl rfl) ⟨y _ ⟨rfl, rfl⟩, by decide +kernel, by decide +kernel, by decide +kernel⟩,
    condMetAt (netAt (two 15 0) _ rfl rfl) ⟨y _ ⟨rfl, rfl⟩, by decide +kernel, by decide +kernel, by decide +kernel⟩,
    condMetAt (netAt (firing (some image) none) _ rfl rfl) ⟨y _ ⟨rfl, rfl⟩, by decide +kernel, by decide +kernel, by decide +kernel⟩,
    condMetAt (netAt (two 1 2) _ rfl rfl) (y _ ⟨rfl, rfl⟩),
    condMetAt (netAt (firing none none) _ rfl rfl) ⟨y _ ⟨rfl, rfl⟩, 7, rfl, by decide +kernel, f⟩,
    holdsMet (acts := []) (netAt (two 0x10108 64) _ rfl rfl) ⟨c, y _ ⟨rfl, rfl⟩, by decide +kernel, by decide +kernel, by decide +kernel, h3⟩,
    condMetAt (netAt (two 0x10000 64) _ rfl rfl) ⟨rfl, fun _ h => .inl (Option.some.inj (h.symm.trans (y _ ⟨rfl, rfl⟩).2)), .inr (by decide +kernel)⟩,
    yieldsMet (netAt (two 15 0) _ rfl rfl) rfl (.inr rfl) ⟨x1, t1, y _ ⟨rfl, rfl⟩, by decide +kernel, rfl, h1, k1, rfl, rfl, rfl⟩,
    yieldsMet (netAt (two 15 0) _ rfl rfl) rfl (.inr rfl) ⟨x2, t2, y _ ⟨rfl, rfl⟩, trivial, rfl, h2, k2, rfl, rfl, rfl⟩,
    yieldsMet (netAt (two 0 0) _ rfl rfl) rfl (.inr rfl) ⟨2 ^ 63 + 4 * 2 ^ 32 + 3, y _ ⟨rfl, rfl⟩, rfl, by decide +kernel, rfl, rfl, rfl⟩⟩

theorem witness_MatrixWordsAreHeld : ∀ i ∈ [Instr.mcfg .always, .mzero .always 3, .mma .always 0, .mlda .always 0,
    .mdrain .always 0 .f32 false, .mdrain .always 0 .f32 true, .msteer .always, .mfence .always],
    (∃ w x, encode i = some (w, x)) ∧ CondMet i free := by
  have e (i : Instr) (h : (encode i).isSome = true) : ∃ w x, encode i = some (w, x) := by
    obtain ⟨⟨w, x⟩, h⟩ := Option.isSome_iff_exists.1 h; exact ⟨w, x, h⟩
  exact fun i h => ⟨e i (by revert i; decide), condMet (two 1 2) (by revert i; decide) rfl trivial⟩

/-- The node at work in a fixed-timing region, at cycle 9. -/
def timedWorld (n : Node) : State := { world n with regions := [(n.region, { region with fixed := true })] }

theorem timedAt (n : Node) (i : Instr) (hp : i.pred = .always) (h0 : (cur n).hasNull = false) : At (timedWorld n) n i :=
  ⟨by simp [State.here, State.node?, timedWorld, world, mapped, with_, Tbl.get?], h0, hp⟩

/-- The node at work where its context has a system handler. -/
def handledWorld (n : Node) : State := { world n with mmio := [(0x128000 + 8 * n.ctx.toNat, 0x40000)] }

theorem handledAt (n : Node) (i : Instr) (hp : i.pred = .always) (h0 : (cur n).hasNull = false) : At (handledWorld n) n i :=
  ⟨by simp [State.here, State.node?, handledWorld, world, mapped, with_, Tbl.get?], h0, hp⟩

theorem witness_SystemInstructions :
    (∀ i ∈ [Instr.trap .always 5, .bkpt .always 5, .sysc .always 5], (CondMet i fun _ n _ => ∀ e ∈ n.blk.effs, e.step ≠ 4) ∧
      CondMet i fun _ n _ => ∃ e ∈ n.blk.effs, e.step = 4) ∧
    CondMet (.sysc .always 5) (fun s n _ => (∀ e ∈ n.blk.effs, e.step ≠ 4) ∧ s.mmioAt 0 (0x128000 + 8 * n.ctx.toNat) ≠ 0) ∧
    CondMet (.sysc .always 5) (fun s n _ => (∀ e ∈ n.blk.effs, e.step ≠ 4) ∧ s.mmioAt 0 (0x128000 + 8 * n.ctx.toNat) = 0) ∧
    (∀ r ∈ [(0x100 : BitVec 12), 0x101, 0x200], r.toNat < 0xF00 ∧ YieldsMet (.mfs .always 0x25 r) 3 own (fun s n _ t v acts =>
      n.shadow = false ∧ v = .scalar (s.sysRead n r) ∧ acts = [] ∧
      t = seenIf (r = 0x101 || (r = 0x100 && !s.fixedAt n)) s n ((s.sysRead n r).setWidth 1024))) ∧
    CondMet (.mts .always 0x102) (fun _ _ _ => 0x102 < 0xF00 ∧ ¬ 0x400 ≤ 0x102) ∧
    CondMet (.mts .always 0x402) (fun s n _ => 0x402 < 0xF00 ∧ s.ownsWindow (dieOf n.tile) (0x402 % 8) n.ctx = true) ∧
    CondMet (.mark .always) free ∧ CondMet (.sigchk .always) free ∧
    YieldsMet (.rndr .always 0x25 0) 3 own (fun s n _ t v acts => n.shadow = false ∧ v = .scalar (Config.freeWord s.free) ∧ acts = [] ∧
      t = seen { s with free := s.free + 1 } n ((Config.freeWord s.free).setWidth 1024)) ∧
    CondMet (.cycw .always) (fun s n o => s.fixedAt n = true ∧ n.cyc ≤ o.l) ∧
    CondMet (.cycw .always) (fun s n _ => s.fixedAt n = false) ∧
    CondMet (.cycw .always) (fun s n o => s.fixedAt n = true ∧ o.l < n.cyc) ∧
    CondMet (.cfgsw .always) (fun s n _ => n.task = none ∧ ∃ g, Tbl.get? n.region s.regions = some g ∧ g.switching = false ∧
      g.step < 65535) ∧
    CondMet (.cfgsw .always) (fun _ n _ => n.task ≠ none) := by
  have z (n : Node) (h0 : (cur n).hasNull = false) (i : Instr) (h : i.pred = .always) : At (world n) n i := at_ n i h h0
  exact ⟨fun i h => ⟨condMet (two 0 0) (by revert i; decide) rfl (by decide +kernel),
      condMet { two 0 0 with blk := { (two 0 0).blk with effs := [⟨3, 4, 3, [.trap .trap 5 3]⟩] } } (by revert i; decide) rfl
        ⟨_, .head _, rfl⟩⟩,
    condMetAt (handledAt (two 0 0) _ rfl rfl) (by decide +kernel), condMet (two 0 0) rfl rfl (by decide +kernel),
    fun r h => ⟨by revert r; decide, yieldsMet (z (two 0 0) rfl _ rfl) rfl (.inl rfl) ⟨rfl, rfl, rfl, rfl⟩⟩,
    condMet (two 0 0) rfl rfl (by decide +kernel), condMetAt (ownedAt (two 0 0) _ rfl rfl) (by decide +kernel),
    condMet (two 0 0) rfl rfl trivial, condMet (two 0 0) rfl rfl trivial,
    yieldsMet (z (two 0 0) rfl _ rfl) rfl (.inr rfl) ⟨rfl, rfl, rfl, rfl⟩,
    condMetAt (timedAt { two 9 0 with cyc := 9 } _ rfl rfl) (by decide +kernel),
    condMet (two 0 0) rfl rfl (by decide +kernel),
    condMetAt (timedAt { two 8 0 with cyc := 9 } _ rfl rfl) (by decide +kernel),
    condMetAt (z (two 0 0) rfl _ rfl) ⟨rfl, region, rfl, rfl, by decide⟩,
    condMet (firing none none) rfl rfl (by decide +kernel)⟩

/-! ### Every instruction and the node's steps -/

/-- What an outcome goes on with exists. -/
def goes (o : Host.Outcome State Fault Refusal) (f : State → Bool) : Bool :=
  match o with
  | .next t => f t
  | _ => false

theorem of_goes {o : Host.Outcome State Fault Refusal} {f : State → Bool} (h : goes o f = true) : ∃ t, o = .next t ∧ f t = true := by
  cases o <;> simp_all [goes]

theorem here (n : Node) : (with_ n).here = some n := by simp [State.here, State.node?, with_, Tbl.get?]

theorem witness_TrapTaken :
    let vec (s : State) (n : Node) (c : Cause) : Word := if c = .sysc then s.mmioAt 0 (0x128000 + 8 * n.ctx.toNat) else n.tr.vec
    let met (c : Cause) (f : Node → Word → Prop) : Prop := ∃ (s : State) (t : Nat) (n : Node) (slot code : Nat), s.node? t = some n ∧
      slot < 256 ∧ code < 2 ^ 15 ∧ f n (vec s n c)
    met .align (fun n v => n.tr.act = false ∧ v ≠ 0) ∧ met .trap (fun n v => n.tr.act = false ∧ v ≠ 0) ∧
    met .align (fun n _ => n.tr.act = true) ∧ met .align (fun n v => n.tr.act = false ∧ v = 0) ∧
    met .sysc (fun n v => n.tr.act = false ∧ v = 0) ∧ met .sysc (fun n v => n.tr.act = true ∧ v = 0) := by
  let up : Node := { two 0 0 with tr := { (two 0 0).tr with act := true } }
  let bare : Node := { two 0 0 with tr := { (two 0 0).tr with vec := 0 } }
  refine ⟨⟨with_ (two 0 0), 66, two 0 0, 255, 0, here _, ?_⟩, ⟨with_ (two 0 0), 66, two 0 0, 31, 32767, here _, ?_⟩,
    ⟨with_ up, 66, up, 0, 0, here _, ?_⟩, ⟨with_ bare, 66, bare, 0, 0, here _, ?_⟩, ⟨with_ (two 0 0), 66, two 0 0, 0, 0, here _, ?_⟩,
    ⟨with_ up, 66, up, 0, 0, here _, ?_⟩⟩ <;>
  decide +kernel

theorem witness_NullSettlesAndUnmatchedResolves :
    (∀ v, ∃ (i : Instr) (s : State) (n : Node) (b : Blk), Coded i ∧ s.here = some n ∧ (cur n).hasNull = true ∧
      n.blk.deliver v (n.issueCyc n.slot + Config.latency i) i.targets = .ok b) ∧
    ∀ owed, ∃ (i : Instr) (s : State) (n : Node), Coded i ∧ s.here = some n ∧ (cur n).hasNull = false ∧ i.pred ≠ .always ∧
      i.pred.matches (cur n).g = false ∧ n.blk.owed n.slot = owed := by
  let n := node (some .null) (some (.scalar 1)) none
  let g (x : Bool) : Node := { two 1 2 with blk := { (node (some (.scalar 1)) (some (.scalar 2)) (some (.scalar 0))).blk with
    header := if x then 1 else 0 } }
  refine ⟨fun v => ?_, fun x => ⟨.addI .onTrue 0x25 7, _, g x, by unfold Coded; decide, here _, ?_⟩⟩
  · have ⟨b, hb⟩ := room n rfl v (n.issueCyc n.slot + Config.latency (.addI .always 0x25 7)) (Instr.targets (.addI .always 0x25 7)) (.inl rfl)
    exact ⟨.addI .always 0x25 7, _, n, b, by unfold Coded; decide, here _, rfl, hb⟩
  · cases x <;> decide +kernel

theorem witness_QuietInstructionsStayInTheirSlot : ∃ (i : Instr) (s : State) (n : Node), quiet i = true ∧ s.here = some n :=
  ⟨.addI .always 0x25 7, _, two 1 2, rfl, here _⟩

theorem witness_InstructionsStoreNothingAsTheyFire : ∀ i ∈ [Instr.addI .always 0x25 7, .st .always m0 n64],
    ∃ (s t : State) (n m : Node), Coded i ∧ readsNetwork i = false ∧ s.here = some n ∧ exec i s = .next t ∧ t.here = some m ∧
      m.stop ≠ some .walk := by
  intro i hi
  have hc : Coded i ∧ readsNetwork i = false := by
    show (encode i).isSome = true ∧ _
    revert i; decide
  obtain ⟨t, h, k⟩ := of_goes (o := exec i (world (two 0x10100 7))) (f := fun t => match t.here with
    | some m => decide (m.stop ≠ some .walk)
    | none => false) (by clear hc; revert i; decide +kernel)
  split at k
  · next m hm =>
    exact ⟨_, t, two 0x10100 7, m, hc.1, hc.2, (at_ (two 0x10100 7) (.exit .always) rfl rfl).here, h, hm, of_decide_eq_true k⟩
  · simp at k

theorem witness_InstructionStepsKeepInvariant : ∃ (s t : State), Inv s ∧ (∃ i, s.current = some (some i)) ∧ s.clocksStopped = false ∧
    s.bringUp = none ∧ step s = .next t := by
  obtain ⟨t, h, _⟩ := of_goes (o := step (with_ (two 1 2))) (f := fun _ => true) (by decide +kernel)
  refine ⟨_, t, ⟨rfl, fun k n h => ?_⟩, ⟨.null .always 0 0, by decide +kernel⟩, rfl, rfl, h⟩
  change Tbl.get? k [(66, two 1 2)] = some n at h
  simp only [Tbl.get?] at h
  split at h
  · next e =>
    cases h
    have e : 66 = k := by simpa using e
    exact e
  · cases h

/-- A block of one exit, fired, that holds effects. -/
def decidedNode (l : List Eff) : Node :=
  { two 0 0 with
    issued := false
    blk := { Blk.empty with words := [0x03000000], slots := vset Blk.empty.slots 0 ⟨none, none, none, .fired, 0⟩, exit := some .endNode, effs := l } }

theorem witness_BlockCommitOrdersEffects : ∃ (s : State) (t : Nat) (n : Node), s.node? t = some n ∧ n.phase = .fire ∧ n.runs = true ∧
    n.issued = false ∧ n.blk.complete = true ∧ n.blk.timed = false ∧ s.fixedAt n = false ∧
    (∀ e ∈ n.blk.effs, e.key < 2 ^ 15 ∧ e.slot < 2 ^ 16) := by
  let n := decidedNode [⟨5, 3, 5, [.mark]⟩, ⟨2, 2, 9, []⟩, ⟨1, 1, 1, [.setG 5 1]⟩]
  exact ⟨with_ n, 66, n, here n, by decide +kernel⟩

theorem witness_DeliveredValuesFillInputs : (∀ v, ∃ (b c : Blk), b.deliver v 7 [0x25, 0] = .ok c) ∧
    ∃ (b : Blk) (k : Nat) (t : Tgt), k = tgtSlot t ∧ tgtCode t ≠ 0 ∧ (b.slotAt k).input (tgtCode t) ≠ none :=
  ⟨fun v => ⟨_, room (two 1 2) rfl v 7 _ (.inr rfl)⟩, (two 1 2).blk, 0, 0x20, by decide, by decide, by decide +kernel⟩

theorem witness_OwnDieLoadsSeeWindowAndBlock : ∃ (s s1 u : State) (t : Nat) (n : Node) (lsid vk sl : Nat) (w : Word32) (p : Policy)
    (e : TlbEnt) (v : Vec) (sv : Bool),
    let k := e.phys (vk * 128) / 128
    s.xlateNode t n (BitVec.ofNat 64 (vk * 128)) .read = (.ok e, s1) ∧ s1.home (dieOf t) (k * 128) = .slice (dieOf t) sl ∧
    n.slotOf (vk * 128) = none ∧ s.loadVirt t n lsid vk w (.ordinary p) = .ok (v, sv) u := by
  let n := two 0 0
  let x := (world n).xlateNode 66 n (BitVec.ofNat 64 (0x202 * 128)) .read
  obtain ⟨e, he, k⟩ := of_pair (x := x) (f := fun e s => match s.home (dieOf 66) (e.phys (0x202 * 128) / 128 * 128) with
    | .slice h _ => h == 0
    | _ => false) (by decide +kernel)
  obtain ⟨⟨v, sv⟩, u, hu⟩ := of_ok (g := (world n).loadVirt 66 n 3 0x202 1 (.ordinary .normal)) (by decide +kernel)
  split at k
  · next h sl hs =>
    obtain rfl : h = 0 := by simpa using k
    exact ⟨_, x.2, u, 66, n, 3, 0x202, sl, 1, .normal, e, v, sv, he, hs, rfl, hu⟩
  · cases k

/-- The master that node 66's accesses are made as. -/
def five : Master := ⟨5, 0⟩

theorem of_not {α ε : Type} {x : Except ε α × State} (h : onPair x (fun _ _ => true) = false) : ∃ e, x = (.error e, x.2) := by
  obtain ⟨a, s⟩ := x; cases a <;> simp_all [onPair]

theorem witness_HomeWritesReadBack :
    (∃ (s t : State) (d : Nat) (m : Master) (pa : Nat) (b : List Byte) (r : Except AccErr Unit),
      Memory.wf s.mem = true ∧ s.homeWrite d m pa b = (r, t) ∧ r = .ok ()) ∧
    ∃ (s t : State) (d : Nat) (m : Master) (pa : Nat) (b : List Byte) (r : Except AccErr Unit),
      Memory.wf s.mem = true ∧ s.homeWrite d m pa b = (r, t) ∧ r ≠ .ok () := by
  have w : Memory.wf (world (two 0 0)).mem = true := by decide +kernel
  obtain ⟨_, h, _⟩ := of_pair (x := (world (two 0 0)).homeWrite 0 five 0x10100 [1, 0, 3]) (f := fun _ _ => true) (by decide +kernel)
  obtain ⟨e, k⟩ := of_not (x := (world (two 0 0)).homeWrite 0 ⟨6, 0⟩ 0x10100 [1, 0, 3]) (by decide +kernel)
  exact ⟨⟨_, _, 0, five, 0x10100, [1, 0, 3], _, w, h, rfl⟩, _, _, 0, ⟨6, 0⟩, 0x10100, [1, 0, 3], _, w, k, by simp⟩

theorem witness_CounterAddsSaturate :
    (∃ (s t : State) (d : Nat) (m : Master) (pa : Nat) (a : Word) (x : Nat × Nat), Memory.wf s.mem = true ∧
      s.counterAt d m pa a = (.ok x, t) ∧ s.peek (s.key pa) 8 + a.toNat < 2 ^ 64) ∧
    ∃ (s t : State) (d : Nat) (m : Master) (pa : Nat) (a : Word) (x : Nat × Nat), Memory.wf s.mem = true ∧
      s.counterAt d m pa a = (.ok x, t) ∧ 2 ^ 64 ≤ s.peek (s.key pa) 8 + a.toNat := by
  let top : Word := 0xFFFFFFFFFFFFFFFF
  have w : Memory.wf (world (two 0 0)).mem = true := by decide +kernel
  have p : (world (two 0 0)).peek ((world (two 0 0)).key 0x10100) 8 = 1 := by decide +kernel
  obtain ⟨x, h, _⟩ := of_pair (x := (world (two 0 0)).counterAt 0 five 0x10100 7) (f := fun _ _ => true) (by decide +kernel)
  obtain ⟨y, k, _⟩ := of_pair (x := (world (two 0 0)).counterAt 0 five 0x10100 top) (f := fun _ _ => true) (by decide +kernel)
  exact ⟨⟨_, _, 0, five, 0x10100, 7, x, w, h, by rw [p]; decide⟩, _, _, 0, five, 0x10100, top, y, w, k, by rw [p]; decide⟩

/-- A node that watches a counter. -/
def watching (w : Watch) : Node := { two 0 0 with watch := some w }

theorem witness_WatchesWakeAtTheirValue : ∀ w ∈ [(⟨0x10100, 1, true⟩ : Watch), ⟨0x10100, 2, true⟩, ⟨0x10108, 0, true⟩, ⟨0x10100, 1, false⟩],
    ∃ (s : State) (n : Node), s.node? 66 = some n ∧ n.watch = some w ∧ (∀ p ∈ s.nodes, p.1 = 66 → p.2 = n) ∧
      ((w.held = true ∧ w.pa = 0x10100 ∧ w.target ≤ BitVec.ofNat 64 (s.peek (s.key 0x10100) 8)) ↔ w = ⟨0x10100, 1, true⟩) := by
  intro w hw
  exact ⟨world (watching w), watching w, by simp [State.node?, world, mapped, with_, watching, two, node, Node.start, Tbl.get?], rfl,
    fun p hp h => by simp_all [world, mapped, with_], by revert w; decide +kernel⟩

theorem witness_RingWatchesWake : ∀ w ∈ [(⟨0x10100, 1, true⟩ : Watch), ⟨0x10100, 2, true⟩],
    ∃ (s : State) (n : Node), s.node? 66 = some n ∧ n.watch = some ⟨0x10108, 0, true⟩ ∧ Tbl.get? 3 n.blk.sleep = some w ∧
      ((w.pa = 0x10100 ∧ w.target ≤ BitVec.ofNat 64 (s.peek (s.key 0x10100) 8)) ↔ w = ⟨0x10100, 1, true⟩) := by
  intro w hw
  let n : Node := { watching ⟨0x10108, 0, true⟩ with blk := { (two 0 0).blk with sleep := [(3, w)] } }
  exact ⟨world n, n, by simp [State.node?, world, mapped, with_, n, watching, two, node, Node.start, Tbl.get?], rfl, rfl,
    by revert w; decide +kernel⟩

/-- The module with a pending fault of context 5 for page 1 on die 0. -/
def pending : State :=
  { State.reset with dies := vset State.reset.dies 0 { State.reset.die 0 with
      pend := [⟨5, 1, 5, 0, true, false, false, 1, 0, 0, 0, 0, none, [.nobody]⟩] } }

/-- The module with a miss of context 5 for page 1 on die 0: how far its walk has come, and the fault that it has ended in. Tables of
levels 2 and 1 stand at 0x8000 and 0x9000. -/
def missing (at_ : Option (Nat × Nat)) (why : Option (Nat × Nat × Word)) : State :=
  { State.reset with
    mem := words 0x8000 [2 ^ 63 + 0x9000] (words 0x9008 [2 ^ 63 + 2 ^ 62 + 0x20000] [])
    dies := vset State.reset.dies 0 { State.reset.die 0 with misses := [⟨5, 1, at_, false, why, [⟨.nobody, .read⟩]⟩] } }

theorem witness_TranslationFaultsArePending :
    2 ^ 56 ≤ (BitVec.ofNat 64 (2 ^ 56)).toNat ∧
    (∃ s e, State.tlbFind s 0 (some 66) 5 0x10000 .read = some e) ∧
    (pending.tlbFind 0 none 5 0x10000 .read = none ∧ ∃ p, pending.pendingAt 0 5 1 = some p) ∧
    (∀ why ∈ [none, some (2, 1, 7)],
      let s := missing none why
      let ended := (s.die 0).misses.find? fun m => m.why.isSome && m.awaits 5 1 ⟨.nobody, .read⟩
      s.tlbFind 0 none 5 0x10000 .read = none ∧ s.pendingAt 0 5 1 = none ∧ (s.mmioAt 0 (0x100000 + 8 * 5)).getLsbD 63 = false ∧
      (s.die 0).pend.length < 256 ∧ ((s.die 0).misses.filter fun m => m.why.isNone).length < 4160 ∧
      ended.bind (fun m => m.why) = why ∧ (why = none → ended = none ∧
        ∃ m, (s.die 0).walking 5 1 = some m ∧ m.at_ = none ∧ m.stale = false)) := by
  refine ⟨by decide, ⟨world (two 0 0), _, rfl⟩, ⟨by decide +kernel, _, rfl⟩, fun why h => ?_⟩
  rcases List.mem_cons.1 h with rfl | h
  · exact ⟨by decide +kernel, by decide +kernel, by decide +kernel, by decide +kernel, by decide +kernel, by decide +kernel,
      fun _ => ⟨by decide +kernel, _, rfl, rfl, rfl⟩⟩
  · obtain rfl := List.mem_singleton.1 h
    exact ⟨by decide +kernel, by decide +kernel, by decide +kernel, by decide +kernel, by decide +kernel, by decide +kernel,
      fun h => by cases h⟩

theorem witness_StoppedClocksServeTheManagementPort :
    (∃ s : State, s.clocksStopped = true ∧ ∀ i ∈ s.agenda, servedStopped i = false) ∧
    ∃ s t : State, s.clocksStopped = true ∧ (∀ i ∈ s.agenda, i ≠ .reset ∧ ∀ off x, i ≠ .mgmtMmioWrite off x) ∧ step s = .next t := by
  let s : State := { State.reset with clocksStopped := true, agenda := [.mgmtMmioRead 8] }
  obtain ⟨t, h, _⟩ := of_goes (o := step s) (f := fun _ => true) (by decide +kernel)
  refine ⟨⟨{ State.reset with clocksStopped := true, agenda := [.thermalTrip] }, rfl, by decide⟩, s, t, rfl, fun i h => ?_, h⟩
  obtain rfl : i = .mgmtMmioRead 8 := by simpa [s] using h
  exact ⟨by decide, fun _ _ => by simp⟩

/-- A node of a shadow replica, and what its leader has forwarded. -/
def shadow (l : List (FwdKey × Vec)) : Node :=
  { two 0 0 with repMode := 2, red := { (two 0 0).red with lead := false }, fwd := l }

theorem witness_ShadowsTakeForwardedValues : ∀ i ∈ [Instr.mfs .always 0x25 0x101, .rndr .always 0x25 0, .csrd .always 0x25 0,
    .scget .always 0x25 0, .wmrd .always 0x25 0],
    (CondMet i fun _ n _ => n.shadow = true ∧ n.forwarded (n.fwdKey 0) = none ∧ n.forwarded (n.fwdKey 1) = none ∧ n.blk.timed = false) ∧
    ∀ out : Vec → Val, ∃ (s : State) (n : Node) (b : Blk) (y : Vec), Fires s n i ∧ n.shadow = true ∧
      n.forwarded (n.fwdKey 0) = some y ∧ n.forwarded (n.fwdKey 1) = none ∧
      n.blk.deliver (out y) (n.issueCyc n.slot + Config.latency i) i.targets = .ok b := by
  intro i hi
  have hp : i.pred = .always := by revert i; decide
  refine ⟨condMet (shadow []) hp rfl (by decide +kernel), fun out => ?_⟩
  let n := shadow [(⟨0, 0, 0⟩, 7)]
  have ⟨b, hb⟩ := room n rfl (out 7) (n.issueCyc n.slot + Config.latency i) i.targets (by revert i; decide)
  exact ⟨_, n, b, 7, fires n i hp rfl, by decide +kernel, by decide +kernel, by decide +kernel, hb⟩

/-! ### Events: what the statements about them ask -/

/-- A block of MOVI and EXIT in memory at 0x1000. -/
def coded (n : Node) : State :=
  let s := world n
  { s with mem := words 0x1000 [(Blk.single 0x02000000 0).header.toNat, 0x0300000002000000] s.mem }

/-- The node that fetches, and the node whose commit is at an act. -/
def fetching : Node := { two 0 0 with phase := .fetch, issued := false }
def committing (a : Act) : Node := { two 0 0 with phase := .commit [a], issued := false }

/-- What a clause about an act of a commit asks. -/
def ActMet (a : Act) (f : State → Node → Prop) : Prop := ∃ (s : State) (n : Node), Sys2Proof.Claims.At s 66 n a [] ∧ f s n

theorem atWorld (n : Node) (a : Act) (f : State → Node → Prop) (e : n.tile = 66 := by rfl)
    (h : n.runs = true ∧ n.phase = .commit [a] ∧ n.implicitReq = false ∧ n.again = [] := by exact ⟨rfl, rfl, rfl, rfl⟩)
    (k : f (world n) n := by decide +kernel) : ActMet a f :=
  ⟨world n, n, ⟨by simp [State.node?, world, mapped, with_, Tbl.get?, e], h⟩, k⟩

/-- A node that is a shadow; a window with one line; a trigger port at output 1 of CT (2, 2). -/
def follows (n : Node) : Node := { n with repMode := 2, red := RedRegs.start false }
def oneLine : Window := ⟨[(0x20100 / 128, ⟨[(0, 7)], .normal, [], 0⟩)], []⟩
def trigger : CfgRec := ⟨BitVec.ofNat 64 (7 * 2 ^ 56 + 2 ^ 29 + 2 ^ 27 + 1), 0, 0, 0⟩
def someWord : MatWord := ⟨0, none, none, true, []⟩
def someCmd : Cmd := ⟨.cpy, [], 5, 66, 0, 0, 0, 0, 0, 0, []⟩

theorem witness_CommitActs :
    ActMet (.setCur 3 7) (fun _ _ => True) ∧
    (∃ r : StoreReq, r.lanes ≠ [] ∧ ActMet (.store r) fun s n => s.winPrefix n.win true r.pol r.lanes = r.lanes.length) ∧
    (∀ b : Bool, ActMet .relPerform fun _ n => n.shadow = b ∧ n.win.lines = [] ∧ n.win.mmio = []) ∧
    (∀ a ∈ [Act.ownAtom 0x10100 0x10100 .n64 .add 1 0 none none false, .ownAtom 0x10100 0x10100 .n64 .add 1 0 none (some 3) true],
      ActMet a fun _ n => n.shadow = false) ∧
    (∀ b : Bool, ActMet (.ownAdd ⟨0x10100, 0x10100⟩ 1 false) fun _ n => n.shadow = b) ∧
    (ActMet (.popPort 0 0) fun s n => (nthTok (s.port 264).toks 0 (n.blk.recvsBelow 0 0 - n.blk.poppedBelow 0 0)).isSome = true) ∧
    (ActMet (.send 1 datum true) fun s n => n.shadow = true ∧ s.triggerOf 265 ≠ none) ∧
    (∀ own : Bool, ActMet (.send 1 datum own) fun s n => n.shadow = false ∧ (s.sendOut 265 datum).isSome = true ∧
      (s.sendOut 265 { datum with side := (datum.side &&& 0xFFFF0000#32) ||| (vget n.tags 1 0).setWidth 32 }).isSome = true) ∧
    (ActMet (.send 1 datum true) fun s n => n.shadow = false ∧ s.sendOut 265 datum = none ∧ s.endingAt n = false) ∧
    ActMet (.setTag 1 7) (fun _ _ => True) ∧
    (∀ a ∈ [Act.mts 0x300 7, .mts 0x304 1, .mts 0x304 2, .mts 0x305 7, .mts 0x306 7, .mts 0x307 7, .mts 0x308 7],
      ActMet a fun _ n => n.tile = 66) ∧
    (∀ v ∈ [none, some 31], ActMet (.matrix someWord v) fun _ n => n.mat.queue.length < 16 ∧ n.regs.vFull.getLsbD 31 = true) ∧
    (ActMet (.matrix someWord none) fun s n => 16 ≤ n.mat.queue.length ∧ s.endingAt n = false) ∧
    (∀ k ∈ [63, 64], ActMet (.command 0 someCmd) fun s n => n.shadow = false ∧ (s.engQ 0 0 0).cmds.length = k ∧ s.endingAt n = false) ∧
    (∀ b : Bool, ActMet (.netMsg (.netld 5 0 0 0)) fun s n => n.shadow = false ∧
      (s.netSend (s.leaderDie n) n.ctx (.netld 5 0 0 0)).isSome = b ∧ s.endingAt n = false) ∧
    (∀ a ∈ [Act.exit, .trap .trap 32767 3, .trap .sysc 1 3], ActMet a fun _ n => n.blk.exit = some (.goto 0x40)) ∧
    (∀ b : Bool, ActMet (.trap .bkpt 5 31) fun s n => n.blk.exit = some (.goto 0x40) ∧ (s.mmioAt 0 (ctxOff n.ctx 6)).getLsbD 0 = b) ∧
    ∀ e ∈ [ExitKind.endNode, .endRegion], ActMet .exit fun _ n => n.blk.exit = some e := by
  let lane : LaneStore := ⟨0x20100, 0x20100, 8, 7⟩
  refine ⟨atWorld (committing _) _ _, ⟨⟨0, [lane], .normal, none⟩, by simp, atWorld (committing _) _ _⟩, fun b => ?_, fun a ha => ?_,
    fun b => ?_, atWorld (committing _) _ _, ?_, fun own => ?_, ?_, atWorld (committing _) _ _, fun a ha => ?_, fun v hv => ?_, ?_, fun k hk => ?_, fun b => ?_,
    fun a ha => ?_, fun b => ?_, fun e he => ?_⟩
  · exact atWorld (if b then follows (committing .relPerform) else committing .relPerform) _ _ (by cases b <;> rfl)
      (by cases b <;> exact ⟨rfl, rfl, rfl, rfl⟩) (by cases b <;> decide +kernel)
  · exact atWorld (committing a) _ _ (k := by rcases List.mem_cons.1 ha with rfl | ha; · rfl
                                              · rcases List.mem_singleton.1 ha with rfl; rfl)
  · exact atWorld (if b then follows (committing _) else committing _) _ _ (by cases b <;> rfl)
      (by cases b <;> exact ⟨rfl, rfl, rfl, rfl⟩) (by cases b <;> decide +kernel)
  · let n := follows (committing (.send 1 datum true))
    exact ⟨{ world n with regions := [(0, { region with recs := [trigger] })] }, n, ⟨rfl, rfl, rfl, rfl, rfl⟩, by decide +kernel⟩
  · exact atWorld (committing _) _ _ (k := by cases own <;> decide +kernel)
  · let n := committing (.send 1 datum true)
    exact ⟨{ world n with edges := [(1, { edgeOf 265 404 none with credits := 0 })] }, n, ⟨rfl, rfl, rfl, rfl, rfl⟩, by decide +kernel⟩
  · exact atWorld (committing a) _ _ (k := rfl)
  · exact atWorld (committing (.matrix someWord v)) _ _ (k := ⟨by decide +revert +kernel, by decide +revert +kernel⟩)
  · exact atWorld { committing (.matrix someWord none) with mat := { (two 0 0).mat with queue := List.replicate 16 someWord } } _ _
  · let n := committing (.command 0 someCmd)
    exact ⟨(world n).setEngQ 0 0 0 { EngQueue.empty with cmds := List.replicate k someCmd }, n, ⟨rfl, rfl, rfl, rfl, rfl⟩,
      by revert k; decide +kernel⟩
  · let n := committing (.netMsg (.netld 5 0 0 0))
    exact ⟨(world n).modDie 0 fun x => { x with net := { Net.reset with open_ := !b } }, n, ⟨rfl, rfl, rfl, rfl, rfl⟩,
      by cases b <;> decide +kernel⟩
  · exact atWorld { committing a with blk := { Blk.empty with exit := some (.goto 0x40) } } _ _ (k := rfl)
  · let n : Node := { committing (.trap .bkpt 5 31) with blk := { Blk.empty with exit := some (.goto 0x40) } }
    exact ⟨{ world n with mmio := [(ctxOff 5 6, if b then 1 else 0)] }, n, ⟨rfl, rfl, rfl, rfl, rfl⟩, rfl, by cases b <;> decide +kernel⟩
  · exact atWorld { committing .exit with blk := { Blk.empty with exit := some e } } _ _ (k := rfl)

/-- A release has a line to perform. -/
theorem witness_CommitActs_perform : ∃ (i k : Nat) (x : WinLine) (s s0 s1 : State) (n : Node),
    Sys2Proof.Claims.At s 66 n .relPerform [] ∧ n.shadow = false ∧ s.pick n.win.lines.length = (i, s0) ∧ n.win.lines[i]? = some (k, x) ∧
    ((s0.lasting 66 fun n => { n with win := { n.win with lines := n.win.lines.erase k } }).modRegion (s0.regionOf 66)
      fun r => { r with quiet := 0 }).performLine 66 k n.master true x = (.ok (), s1) := by
  let n : Node := { committing .relPerform with win := oneLine }
  let k := 0x20100 / 128
  have hp : (world n).pick 1 = (0, ((world n).pick 1).2) := by
    refine Prod.ext ?_ rfl
    have := Nat.mod_one (Config.freeNat 0)
    exact this
  obtain ⟨_, h, _⟩ := of_pair (x := ((((world n).pick 1).2.lasting 66 fun n => { n with win := { n.win with lines := n.win.lines.erase k } }).modRegion
      (((world n).pick 1).2.regionOf 66) fun r => { r with quiet := 0 }).performLine 66 k n.master true ⟨[(0, 7)], .normal, [], 0⟩)
    (f := fun _ _ => true) (by decide +kernel)
  exact ⟨0, k, _, world n, _, _, n, ⟨rfl, rfl, rfl, rfl, rfl⟩, rfl, hp, rfl, h⟩

theorem witness_NodeSteps :
    (∃ (s s1 s2 : State) (t : Nat) (n m : Node) (hb rest : List Byte) (x y : Bool),
      let h : Word := BitVec.ofNat 64 (Sys2Proof.ofBytes hb)
      let b := Blk.ofBytes h rest (s2.fixedAt n) (n.ready.getD (if n.blocks = 0 then n.cyc.toNat else n.cyc.toNat + 1))
      s.node? t = some n ∧ n.phase = .fetch ∧ n.runs = true ∧ s.endingAt n = false ∧ n.pc.toNat % 16 = 0 ∧
      s.fetchCode t n n.pc.toNat 8 = .ok (hb, x) s1 ∧ headerBad h = false ∧
      s1.fetchCode t n (n.pc.toNat + 8) (restBytes h) = .ok (rest, y) s2 ∧ s2.node? t = some m ∧
      b.check (s2.fixedAt n) (s2.timedPort t) = none ∧ b.privBad = [] ∧ (b.timed = true → x = true ∧ y = true)) ∧
    (∃ (s : State) (t k : Nat) (n : Node) (i : Instr), s.node? t = some n ∧ n.phase = .fire ∧ n.runs = true ∧ n.issued = false ∧
      n.blk.waiting k = true ∧ n.blk.instr k = some i ∧ (n.blk.slotAt k).full i.accept = true ∧
      n.arrived k = true ∧ n.blk.timed = false ∧ (n.anyUnmatched = true → n.blk.unmatched k i = true)) ∧
    (∀ a ∈ [Act.setG 63 7, .setV 31 7, .setP 7 7], ∀ full, ∃ (s : State) (n : Node), Sys2Proof.Claims.At s 66 n a [] ∧ s.endingAt n = false ∧
      n.regs.gFull.getLsbD 63 = full ∧ n.regs.vFull.getLsbD 31 = full ∧ n.regs.pFull.getLsbD 7 = full) ∧
    (∀ r ∈ [DstReg.g 63, .v 31], ∃ (s : State) (n : Node), s.node? 66 = some n ∧ n.phase ≠ .ended ∧ n.regs.isEmpty r = true ∧
      n.drainDue = none) ∧
    ∃ (s : State) (n : Node), s.node? 66 = some n ∧ Tbl.get? 66 s.mts = none := by
  refine ⟨?_, ⟨with_ { two 0 0 with issued := false }, 66, 0, { two 0 0 with issued := false }, .null .always 0 0, here _, by decide +kernel⟩, fun a ha full => ?_,
    fun r hr => ⟨with_ hollow, hollow, here hollow, by revert r; decide +kernel⟩, with_ (two 0 0), two 0 0, here _, rfl⟩
  · let n := fetching
    let bad (hb rest : List Byte) (s2 : State) : Bool :=
      let b := Blk.ofBytes (BitVec.ofNat 64 (Sys2Proof.ofBytes hb)) rest (s2.fixedAt n) (n.ready.getD (if n.blocks = 0 then n.cyc.toNat else n.cyc.toNat + 1))
      decide (b.check (s2.fixedAt n) (s2.timedPort 66) = none ∧ b.privBad = [] ∧ b.timed = false)
    obtain ⟨⟨hb, x⟩, s1, h1, k1⟩ := of_onOk (g := (coded n).fetchCode 66 n n.pc.toNat 8) (f := fun hb s1 =>
      let h : Word := BitVec.ofNat 64 (Sys2Proof.ofBytes hb.1)
      !headerBad h && onOk (s1.fetchCode 66 n (n.pc.toNat + 8) (restBytes h)) fun rest s2 =>
        (s2.node? 66).isSome && bad hb.1 rest.1 s2) (by decide +kernel)
    rw [Bool.and_eq_true] at k1
    obtain ⟨⟨rest, y⟩, s2, h2, k2⟩ := of_onOk k1.2
    rw [Bool.and_eq_true] at k2
    obtain ⟨m, hm⟩ := Option.isSome_iff_exists.1 k2.1
    have k3 := of_decide_eq_true k2.2
    exact ⟨coded n, s1, s2, 66, n, m, hb, rest, x, y, by simp [State.node?, coded, world, mapped, with_, n, fetching, two, node, Node.start, Tbl.get?],
      rfl, rfl, by decide +kernel, by decide +kernel, h1, by simpa using k1.1, h2, hm, k3.1, k3.2.1, fun e => by rw [k3.2.2] at e; cases e⟩
  · let n : Node := { committing a with regs := if full then Regs.start else hollow.regs }
    exact ⟨with_ n, n, ⟨here _, by decide +revert +kernel, rfl, rfl, rfl⟩, by decide +revert +kernel⟩

/-- What Ends and Does ask of an event. -/
def Asked (c : State → Prop) : Prop := ∃ s, c s

/-- An atomic of node 66 on the counter at 0x10108, and a counter add. -/
def atomReq (ret : Option (BitVec 6 × FwdKey)) : AtomReq := ⟨five, 66, 0x10108, 0x10108, .n64, .add, 7, 0, ret, true⟩

theorem witness_HomeEvents :
    (∀ ret, ∃ (s s1 : State) (r : AtomReq) (v : Nat × Nat) (n : Node), r.ret = ret ∧
      s.atomicAt (dieOf r.tile) r.m r.pa r.ty r.op r.right r.third false = (.ok v, s1) ∧
      (applied s s1 r.tile r.pa r.ty.bytes).node? 66 = some n ∧ n.repMode = 1) ∧
    (∃ (s s1 : State) (v : Nat × Nat), s.counterAt (dieOf 66) five 0x10108 7 = (.ok v, s1)) ∧
    (∀ (gap : Word32), ∀ first : Bool, ∃ (s0 s : State) (r : OrdReq) (d sl : Nat) (n : Node),
      (if first = true then r.accepted = false ∧ s0.permit (dieOf r.req.tile) r.req.m r.req.pa 3 = (true, s) else r.accepted = true ∧ s = s0) ∧
      s.orderHome r.req = some (d, sl) ∧ (s.mmioAt d (0x10928 + 8 * r.req.m.ctx.toNat)).getLsbD 0 = true ∧
      r.seqNo - s.expected d { r with accepted := true } = gap ∧ r.remote = false ∧ (s.die d).aoBuf = [] ∧
      (s.touch (s.key (s.streamAt d r.req.m.ctx r.stream))).node? r.req.tile = some n ∧ n.late = none) ∧
    (∃ (s s2 : State) (r : OrdReq) (v : Nat × Nat), r.accepted = true ∧ s.orderHome r.req = some (0, 0) ∧
      (s.mmioAt 0 (0x10928 + 8 * r.req.m.ctx.toNat)).getLsbD 0 = true ∧ r.seqNo = s.expected 0 r ∧
      (s.touch (s.key (s.streamAt 0 r.req.m.ctx r.stream))).orderAtom r = (.ok v, s2) ∧ (s2.die 0).aoBuf = []) ∧
    (∃ (s s1 : State) (t : Nat) (n : Node) (w : Watch) (b : List Byte), s.node? t = some n ∧ n.watch = some w ∧ w.held = false ∧
      s.readCounter (dieOf t) n.master w.pa = (.ok b, s1) ∧ w.target ≤ BitVec.ofNat 64 (Sys2Proof.ofBytes b)) ∧
    ∃ (s : State) (key l : Nat), s.proxyOf key = some (l, false) ∧ s.hostUp l = true := by
  have hn (n : Node) (h : n.tile = 66) : (world n).node? 66 = some n := by simp [State.node?, world, mapped, with_, Tbl.get?, h]
  obtain ⟨v, h1, k1⟩ := of_pair (x := (world (two 0 0)).atomicAt (dieOf 66) five 0x10108 .n64 .add 7 0 false)
    (f := fun _ t => match (applied (world (two 0 0)) t 66 0x10108 8).node? 66 with
      | some n => n.repMode == 1
      | none => false) (by decide +kernel)
  obtain ⟨w, h2, _⟩ := of_pair (x := (world (two 0 0)).counterAt (dieOf 66) five 0x10108 7) (f := fun _ _ => true) (by decide +kernel)
  let n := watching ⟨0x10100, 1, false⟩
  obtain ⟨b, h3, k3⟩ := of_pair (x := (world n).readCounter 0 n.master 0x10100)
    (f := fun b _ => decide (1 ≤ BitVec.ofNat 64 (Sys2Proof.ofBytes b))) (by decide +kernel)
  let ord : State := let s := world (two 0 0); { s with mmio := s.mmio.set (0x10928 + 40) (0x80001) }
  let late (s : State) : Bool := decide (s.orderHome (atomReq none) = some (0, 0) ∧ (s.mmioAt 0 (0x10928 + 40)).getLsbD 0 = true ∧
    (s.die 0).aoBuf = []) && match (s.touch (s.key (s.streamAt 0 5 65535))).node? 66 with
      | some n => n.late.isNone
      | none => false
  obtain ⟨r1, r2⟩ : (ord.permit 0 five 0x10108 3).1 = true ∧ late (ord.permit 0 five 0x10108 3).2 = true := by decide +kernel
  have r3 : late ord = true := by decide +kernel
  have from_ (s : State) (k : late s = true) : (s.orderHome (atomReq none) = some (0, 0) ∧ (s.mmioAt 0 (0x10928 + 40)).getLsbD 0 = true ∧
      (s.die 0).aoBuf = []) ∧ ∃ n, (s.touch (s.key (s.streamAt 0 5 65535))).node? 66 = some n ∧ n.late = none := by
    simp only [late, Bool.and_eq_true] at k
    refine ⟨of_decide_eq_true k.1, ?_⟩
    have k2 := k.2
    split at k2
    · next n hn => exact ⟨n, hn, by simpa using k2⟩
    · cases k2
  have same (s : State) (a b : OrdReq) (h : a.req = b.req) (k : a.stream = b.stream) : s.expected 0 a = s.expected 0 b := by
    unfold State.expected; rw [h, k]
  let rq (s : State) (gap : Word32) (b : Bool) : OrdReq :=
    ⟨atomReq none, 65535, gap + s.expected 0 ⟨atomReq none, 65535, 0, 0, false, true⟩, 0, false, b⟩
  have hgap (s : State) (gap : Word32) (b : Bool) : (rq s gap b).seqNo - s.expected 0 { rq s gap b with accepted := true } = gap := by
    show gap + s.expected 0 ⟨atomReq none, 65535, 0, 0, false, true⟩ - s.expected 0 ⟨atomReq none, 65535, 0, 0, false, true⟩ = gap
    exact BitVec.add_sub_cancel _ _
  obtain ⟨a, h5, k5⟩ := of_pair (x := (ord.touch (ord.key (ord.streamAt 0 5 65535))).orderAtom (rq ord 0 true))
    (f := fun _ t => decide ((t.die 0).aoBuf = [])) (by decide +kernel)
  split at k1
  · next m hm =>
    refine ⟨fun ret => ⟨world (two 0 0), _, atomReq ret, v, m, rfl, h1, hm, by simpa using k1⟩, ⟨world (two 0 0), _, w, h2⟩,
      fun gap first => ?_, ⟨ord, _, rq ord 0 true, a, rfl, (from_ ord r3).1.1, (from_ ord r3).1.2.1, (BitVec.zero_add _).trans (same ord _ _ rfl rfl), h5,
        of_decide_eq_true k5⟩,
      ⟨world n, _, 66, n, ⟨0x10100, 1, false⟩, b, hn n rfl, rfl, rfl, h3, of_decide_eq_true k3⟩,
      let s := State.reset
      { s with mmio := s.mmio.set 0x08 (2 ^ 14), hostCxl := 0 }, 0x1E8000000000, 0, by decide +kernel⟩
    cases first
    · have ⟨⟨q1, q2, q3⟩, m, q4, q5⟩ := from_ ord r3
      exact ⟨ord, ord, rq ord gap true, 0, 0, m, ⟨rfl, rfl⟩, q1, q2, hgap _ _ _, rfl, q3, q4, q5⟩
    · have ⟨⟨q1, q2, q3⟩, m, q4, q5⟩ := from_ _ r2
      have e : ord.permit (dieOf (atomReq none).tile) (atomReq none).m (atomReq none).pa 3 = (true, (ord.permit 0 five 0x10108 3).2) :=
        Prod.ext r1 rfl
      exact ⟨ord, (ord.permit 0 five 0x10108 3).2, rq (ord.permit 0 five 0x10108 3).2 gap false, 0, 0, m, ⟨rfl, e⟩, q1, q2, hgap _ _ _, rfl,
        q3, q4, q5⟩
  · cases k1

/-- A master with every right before the access tables are switched on (R72). -/
def mgmt : Master := ⟨0, 7⟩

theorem witness_CacheAndTranslationEvents :
    (∀ f ∈ [0, 31], let w := spanMask f 1
      Asked fun s => s.ownLine (dieOf 66) (s.global (515 * 128)) = true ∧
        ∃ v s1, s.homeLine (dieOf 66) five (s.dom * 2 ^ 38 + 515) w false false = (.ok v, s1) ∧ s1.ownLine (dieOf 66) (s1.global (515 * 128)) = true) ∧
    (∃ ln, Asked fun s => s.farLine 0 (ln * 128) = true ∧ ∃ v s1, s.homeLine 0 mgmt ln (BitVec.allOnes 32) false true = (.ok v, s1) ∧
      s1.rdcFits 0 ln = true) ∧
    (let met (l table : Nat) (f : WalkGot → Prop) : Prop := ∃ (s : State) (m : Miss), (s.die 0).walking 5 1 = some m ∧ m.stale = false ∧
        m.at_ = some (l, table) ∧ f ((s.readEntry 0 65536 table l).entryAt 5 65536 table l)
     met 2 0x8000 (fun g => ∃ n, g = .next n) ∧ met 1 0x9000 (fun g => ∃ e w, g = .page e w) ∧ met 1 0xA000 fun g => ∃ why, g = .fault why) ∧
    (∃ r fill k, Asked fun s => (s.die 0).fltDefer = [r] ∧ s.ringRoom 0 2 = some (fill, k)) ∧
    Asked fun s => (s.die 0).tlbBusy = true ∧ (s.die 0).tlbHeld = [] ∧ (∀ p ∈ s.mts, dieOf p.1 = 0 → p.2.implicitReq = false) ∧
      (∀ p ∈ s.nodes, dieOf p.1 = 0 → p.2.implicitReq = false ∧ p.2.commitUses (s.die 0).tlbReq = false) ∧
      s.requestsUse 0 (s.die 0).tlbReq = false ∧
      (∀ q ∈ (s.die 0).engines, ∀ f ∈ q.2.fly, ∀ a, f.name = some a → tlbNames (s.die 0).tlbReq a.1 a.2 = false) ∧
      ∀ m ∈ (s.die 0).misses, m.stale = false := by
  refine ⟨fun f hf => ?_, ⟨64, State.reset, by decide +kernel, ?_⟩, ⟨⟨missing (some (2, 0x8000)) none, _, rfl, rfl, rfl, 0x9000, ?_⟩,
    ⟨missing (some (1, 0x9000)) none, _, rfl, rfl, rfl, ⟨5, 65536, 65536, 0x20000, false, false, false⟩, 0xC000000000020000, ?_⟩,
    missing (some (1, 0xA000)) none, _, rfl, rfl, rfl, (1, 1, 0), ?_⟩, ?_, ?_⟩
  · obtain ⟨v, h, k⟩ := of_pair (x := (world (two 0 0)).homeLine 0 five ((world (two 0 0)).dom * 2 ^ 38 + 515) (spanMask f 1) false false)
      (f := fun _ s => s.ownLine 0 (s.global (515 * 128))) (by decide +revert +kernel)
    exact ⟨_, by decide +kernel, v, _, h, k⟩
  · obtain ⟨v, h, k⟩ := of_pair (x := State.reset.homeLine 0 mgmt 64 (BitVec.allOnes 32) false true)
      (f := fun _ s => s.rdcFits 0 64) (by decide +kernel)
    exact ⟨v, _, h, k⟩
  · decide +kernel
  · decide +kernel
  · decide +kernel
  · let s := State.reset
    exact ⟨⟨.align, 0, false, 5, 66, 0, 0, 0, 0, 0, 0⟩, 0, 4, { s with
      mmio := s.mmio.set 0x10058 (2 ^ 63 + 2 ^ 60 + 0x1000)
      dies := vset s.dies 0 { s.die 0 with fltDefer := [⟨.align, 0, false, 5, 66, 0, 0, 0, 0, 0, 0⟩] } }, by decide +kernel⟩
  · let s := State.reset
    exact ⟨{ s with dies := vset s.dies 0 { s.die 0 with tlbBusy := true } }, by decide +kernel⟩

/-- Is the first of a pair present, and does f hold of it in the second? -/
def onSome {α : Type} (x : Option α × State) (f : α → State → Bool) : Bool :=
  match x.1 with
  | some a => f a x.2
  | none => false

theorem of_some {α : Type} {x : Option α × State} {f : α → State → Bool} (h : onSome x f = true) :
    ∃ a, x = (some a, x.2) ∧ f a x.2 = true := by
  obtain ⟨a, s⟩ := x; cases a <;> simp_all [onSome]

/-- The module with a memory tile of context 5 at (3, 2), an edge to its port 0 with a token there and one from it, and the record
of a counter-add port 1, at which a token stands too. -/
def mtWorld (m : Mt) (tok : Token) : State :=
  let s := netWorld (two 0 0)
  { s with
    mts := [(98, m)]
    regions := [(0, { region with recs := [⟨BitVec.ofNat 64 (7 * 2 ^ 56 + 2 ^ 30 + 2 ^ 28 + 1), 0x10108, 0, 0⟩] })]
    edges := [(1, edgeOf 400 392 none), (2, edgeOf 392 264 none)]
    ports := [(392, { InPort.empty with toks := [⟨1, tok⟩] }), (393, { InPort.empty with toks := [⟨1, tok⟩] })] }

/-- A memory tile in a mode, and one with requests at port 0. -/
def mt (k : MtMode) : Mt := { Mt.start 98 5 with mode := k }
def asked (k : MtMode) (tok : Token) (arrival : Bool) : Mt := { mt k with portQ := [(0, [⟨tok, 0⟩])], arrival := arrival }
/-- Addresses as INT32 lanes; an update of sequence number 63. -/
def lanes32 : Token := ⟨0x80, 0x38080000⟩
def update (tag : Nat) : Token := ⟨0, BitVec.ofNat 32 tag⟩

/-- A carrier whose frame begins with one block of zeros. -/
def carrier : PortTok := ⟨9, ⟨0, 0x38000000⟩⟩

theorem px8_ok : ∃ a : List Nat × List Nat × Nat, px8Frame [carrier.tok.payload] InPort.empty.bit = .ok a ∧ a.2.2 < 1024 := by
  have g : onPair (px8Frame [carrier.tok.payload] InPort.empty.bit, State.reset) (fun a _ => a.2.2 < 1024) = true := by decide +kernel
  generalize px8Frame [carrier.tok.payload] InPort.empty.bit = x at g
  cases x with
  | ok a => exact ⟨a, rfl, of_decide_eq_true g⟩
  | error e => cases g

theorem hasMt (m : Mt) (k : Token) : Tbl.get? 98 (mtWorld m k).mts = some m := by simp [mtWorld, Tbl.get?]

/-- A memory tile whose walk of .s8 elements of a scratchpad, or of global memory, has begun. -/
def walking (glob : Bool) (f : Mt → Mt) : Mt :=
  f { mt .streaming with started := true, seqr := [if glob then 0x4000000000010100 else 0, 1, 0, 0x1000] }

/-- The region of the memory tile keeps cuts. -/
def keeping (s : State) : State := { s with nodes := [(66, { two 0 0 with mode := 2 })] }

theorem witness_MemoryTileEvents :
    (∃ (s : State) (m : Mt), Tbl.get? 98 s.mts = some m ∧ s.acts 98 = true ∧ m.mode = .streaming ∧ m.started = false) ∧
    (∀ k ∈ [MtMode.random, .ordered], ∃ (s : State) (m : Mt) (x : PortTok), Tbl.get? 98 s.mts = some m ∧ s.acts 98 = true ∧ m.mode = k ∧
      m.done = false ∧ s.headTok (4 * 98 + 0) = some x ∧ x.tok.kind = 0 ∧ s.isCaddPort 98 0 = false ∧ (m.portQ.getD 0 []).length = 15 ∧
      (m.mode = .random → x.tok.fmt = 7)) ∧
    (∃ (s s1 : State) (m m1 : Mt) (q : MtReq) (l : List MtReq) (w : List Word32), Tbl.get? 98 s.mts = some m ∧ s.acts 98 = true ∧
      m.mode = .random ∧ m.tile = 98 ∧ m.fly.getD 0 [] = [] ∧ m.portQ.getD 0 [] = q :: l ∧
      s.randomWords m (s.isGlobalPort 98 0) q.tok (List.range (q.tok.count + 1)) = (some (w, m1), s1)) ∧
    (∀ full : Bool, ∃ (s u : State) (m : Mt) (r : MtReq) (l : List MtReq), Tbl.get? 98 s.mts = some m ∧ s.acts 98 = true ∧ m.mode = .random ∧
      m.tile = 98 ∧ m.fly.getD 0 [] = r :: l ∧ (if full = true then m.portQ.getD 0 [] ≠ [] ∧ l.length = 63 else m.portQ.getD 0 [] = []) ∧
      s.timedPort 98 true 0 = false ∧ s.sendOut 392 r.tok = some u) ∧
    (∃ (s u : State) (m : Mt) (k : Nat), Tbl.get? 98 s.mts = some m ∧ s.acts 98 = true ∧ m.mode = .random ∧ s.randomSend m 0 ≠ s ∧
      s.randomRead m 0 ≠ s ∧ s.pick 2 = (k, u)) ∧
    (∀ updates : List (Nat × Word32), updates = [(0, 1)] → ∃ (s s1 : State) (m m1 : Mt) (q : MtReq) (l : List MtReq),
      Tbl.get? 98 s.mts = some m ∧ s.acts 98 = true ∧ m.mode = .ordered ∧ m.portQ.getD 0 [] = q :: l ∧ m.waiting.getD 0 [] = [] ∧
      m.arrival = true ∧ s.applyUpdates m updates = (some m1, s1)) ∧
    (∀ a ∈ [1, 63], ∃ (s : State) (m : Mt) (q : MtReq) (l : List MtReq), Tbl.get? 98 s.mts = some m ∧ s.acts 98 = true ∧ m.mode = .ordered ∧
      m.portQ.getD 0 [] = q :: l ∧ m.waiting.getD 0 [] = [] ∧ m.arrival = false ∧ (q.tok.tag.toNat + 65536 - m.expected.getD 0 0) % 65536 = a) ∧
    (∀ updates : List (Nat × Word32), updates = [(0, 1)] → ∃ (s s1 : State) (m m1 : Mt) (q r : MtReq) (l : List MtReq),
      Tbl.get? 98 s.mts = some m ∧ s.acts 98 = true ∧ m.mode = .ordered ∧ m.arrival = false ∧ m.portQ.getD 0 [] = q :: l ∧
      (m.waiting.getD 0 []).length = 63 ∧ m.expected.getD 0 0 = 0 ∧
      (∀ x ∈ m.waiting.getD 0 [], x.1 ≠ 0 ∧ (x.1 + 65536) % 65536 ≤ 63) ∧ (q.tok.tag.toNat + 65536) % 65536 = 5 ∧
      listFind (fun (r : MtReq) => r.tok.tag.toNat = 0) (q :: l) 0 = some (1, r) ∧ s.applyUpdates m updates = (some m1, s1)) ∧
    (let walks (s : State) (m : Mt) : Prop := Tbl.get? 98 s.mts = some m ∧ s.acts 98 = true ∧ m.mode = .streaming ∧ m.started = true ∧
       m.done = false ∧ m.implicitReq = false ∧ m.seqWrites = false
     (∃ (s : State) (m : Mt), walks s m ∧ s.seqDue m = [.issue]) ∧
     (∃ (s u : State) (m : Mt) (k : Nat), walks s m ∧ s.seqDue m = [.send, .issue] ∧ s.pick 2 = (k, u)) ∧
     (∀ k ∈ [0, 63], ∃ (s : State) (m m1 : Mt) (b : List Byte), walks s m ∧ m.issued = false ∧ m.seqGlobal = false ∧ m.buf.length = k ∧
       (pieces m.seqAddr m.seqTy.bytes 3).length = 1 ∧ s.spadRead m (pieces m.seqAddr m.seqTy.bytes 3) = .ok (b, m1)) ∧
     (∃ (s s1 : State) (m : Mt) (a n : Nat) (b : List Byte), walks s m ∧ m.buf[1]? = some ⟨a, n, none⟩ ∧
       s.mtRead m m.seqPolicy [(a, n)] = (some b, s1)) ∧
     (∃ (s u : State) (m : Mt), walks s m ∧ m.pack.length = 128 ∧ s.sendOut (4 * m.tile + m.seqPort) (seqToken m.seqTy m.pack) = some u)) ∧
    (∀ due : Bool, ∃ (s s1 s2 : State) (va n : Word) (x : PortTok) (e : TlbEnt) (v : Nat × Nat),
      (if due = true then (s.port 393).due = [(va, n)]
       else (s.port 393).due = [] ∧ s.caddOf 98 1 = some (va, 0) ∧ s.headTok 393 = some x ∧ x.tok.kind = 0 ∧ s.barred 393 x = false ∧
        s.keeps 98 = false ∧ n = (lane x.tok.payload 0).setWidth 64) ∧ s.acts 98 = true ∧ s.shadowAt 98 = false ∧ va.toNat % 8 = 0 ∧
      s.xlate (dieOf 98) (some 98) (s.ctxOfTile 98) va .write 0 (s.tileAssist 98).1 (s.tileAssist 98).2 = (.ok e, s1) ∧
      s1.counterAt (dieOf 98) ⟨s.ctxOfTile 98, 0⟩ (e.phys va.toNat) n = (.ok v, s2) ∧ (s2.port 393).due = (s.port 393).due) ∧
    (∃ (s : State) (va amount : Word) (x : PortTok), s.acts 98 = true ∧ (s.port 393).due = [] ∧ s.caddOf 98 1 = some (va, amount) ∧
      s.headTok 393 = some x ∧ x.tok.kind = 0 ∧ s.barred 393 x = false ∧ s.keeps 98 = true) ∧
    (∃ (s : State) (x : PortTok), (s.port 392).carriers = [x] ∧ s.acts 98 = true ∧ x.tok.isMarker = true) ∧
    (∃ (s : State) (x : PortTok) (y : Edge) (sc es : List Nat) (j : Nat), (s.port 392).carriers = [x] ∧ s.acts 98 = true ∧ x.tok.kind = 0 ∧
      x.tok.fmt = 7 ∧ (s.port 392).taken = [] ∧ (∀ y ∈ (s.port 392).toks, y.tok.isMarker = false) ∧ Tbl.get? x.edge s.edges = some y ∧
      s.buffered x.edge y + 2 ≤ y.depth ∧ px8Frame [x.tok.payload] (s.port 392).bit = .ok (sc, es, j) ∧ j < 1024) ∧
    ∃ (s : State) (x : PortTok), (s.port 392).carriers = [x] ∧ s.acts 98 = true ∧ x.tok.kind = 0 ∧ x.tok.fmt = 7 ∧ (s.port 392).taken = [] ∧
      (∀ y ∈ (s.port 392).toks, y.tok.isMarker = false) ∧ px8Frame [x.tok.payload] (s.port 392).bit = .error .more := by
  let entry (k : Nat) : MtReq := ⟨lanes32, k⟩
  refine ⟨⟨mtWorld (mt .streaming) datum, _, hasMt _ _, by decide +kernel⟩,
    fun k hk => ⟨mtWorld { mt k with portQ := [(0, List.replicate 15 ⟨datum, 0⟩)] } lanes32, _, ⟨1, lanes32⟩, hasMt _ _, by decide +revert +kernel⟩,
    ?_, fun full => ?_,
    ⟨mtWorld { asked .random lanes32 false with fly := [(0, [entry 0])] } datum, _, _, _, hasMt _ _, by decide +kernel, rfl, by decide +kernel,
      by decide +kernel, rfl⟩, fun u hu => ?_,
    fun a ha => ⟨mtWorld (asked .ordered (update a) false) datum, _, ⟨update a, 0⟩, [], hasMt _ _, by decide +revert +kernel⟩, fun u hu => ?_,
    ⟨⟨mtWorld (walking false id) datum, _, ⟨hasMt _ _, by decide +kernel⟩, by decide +kernel⟩,
     ⟨mtWorld (walking false fun m => { m with pack := List.replicate 128 0 }) datum, _, _, _, ⟨hasMt _ _, by decide +kernel⟩, by decide +kernel, rfl⟩,
     fun k hk => ?_, ?_, ?_⟩, fun due => ?_,
    ⟨keeping (mtWorld (mt .random) datum), 0x10108, 0, ⟨1, datum⟩, by decide +kernel⟩,
    ⟨{ mtWorld (mt .random) datum with ports := [(392, { InPort.empty with carriers := [⟨1, markerToken 1⟩] })] }, ⟨1, markerToken 1⟩, by decide +kernel⟩, ?_, ?_⟩
  · let m := asked .random lanes32 false
    let s := mtWorld m datum
    obtain ⟨⟨w, m1⟩, h, _⟩ := of_some (x := s.randomWords m (s.isGlobalPort 98 0) lanes32 (List.range (lanes32.count + 1)))
      (f := fun _ _ => true) (by decide +kernel)
    exact ⟨s, _, m, m1, ⟨lanes32, 0⟩, [], w, hasMt _ _, by decide +kernel, rfl, rfl, rfl, rfl, h⟩
  · let m : Mt := { (if full then asked .random lanes32 false else mt .random) with fly := [(0, List.replicate (if full then 64 else 1) (entry 0))] }
    obtain ⟨u, k⟩ := Option.isSome_iff_exists.1 (show ((mtWorld m datum).sendOut 392 lanes32).isSome = true by cases full <;> decide +kernel)
    exact ⟨mtWorld m datum, u, m, entry 0, List.replicate (if full then 63 else 0) (entry 0), hasMt _ _, by cases full <;> decide +kernel,
      by cases full <;> rfl, by cases full <;> rfl, by cases full <;> rfl, by cases full <;> decide +kernel, by cases full <;> decide +kernel, k⟩
  · subst hu
    let m := asked .ordered datum true
    obtain ⟨m1, h, _⟩ := of_some (x := (mtWorld m datum).applyUpdates m [(0, 1)]) (f := fun _ _ => true) (by decide +kernel)
    exact ⟨_, _, m, m1, ⟨datum, 0⟩, [], hasMt _ _, by decide +kernel, rfl, rfl, rfl, rfl, h⟩
  · subst hu
    let m : Mt := { mt .ordered with
      portQ := [(0, [⟨update 5, 0⟩, ⟨update 0, 0⟩])], waiting := [(0, (List.range 63).map fun k => (k + 1, update (k + 1)))] }
    obtain ⟨m1, h, _⟩ := of_some (x := (mtWorld m datum).applyUpdates m [(0, 1)]) (f := fun _ _ => true) (by decide +kernel)
    exact ⟨_, _, m, m1, ⟨update 5, 0⟩, ⟨update 0, 0⟩, [⟨update 0, 0⟩], hasMt _ _, by decide +kernel, rfl, rfl, rfl, by decide +kernel, rfl,
      by decide +kernel, by decide +kernel, by decide +kernel, h⟩
  · let m := walking false fun m => { m with buf := List.replicate k ⟨0, 1, none⟩ }
    obtain ⟨⟨b, m1⟩, h, _⟩ := of_pair (x := ((mtWorld m datum).spadRead m (pieces m.seqAddr m.seqTy.bytes 3), State.reset)) (f := fun _ _ => true)
      (by revert k; decide +kernel)
    exact ⟨mtWorld m datum, m, m1, b, ⟨hasMt _ _, by clear h; revert k; decide +kernel⟩, rfl, by clear h; revert k; decide +kernel, List.length_replicate ..,
      by clear h; revert k; decide +kernel, congrArg Prod.fst h⟩
  · let m := walking true fun m => { m with buf := [⟨0x10101, 1, none⟩, ⟨0x10100, 1, none⟩] }
    obtain ⟨b, h, _⟩ := of_some (x := (mtWorld m datum).mtRead m m.seqPolicy [(0x10100, 1)]) (f := fun _ _ => true) (by decide +kernel)
    exact ⟨mtWorld m datum, _, m, 0x10100, 1, b, ⟨hasMt _ _, by decide +kernel⟩, rfl, h⟩
  · let m := walking false fun m => { m with pack := List.replicate 128 0 }
    obtain ⟨u, k⟩ := Option.isSome_iff_exists.1
      (show ((mtWorld m datum).sendOut (4 * m.tile + m.seqPort) (seqToken m.seqTy m.pack)).isSome = true by decide +kernel)
    exact ⟨mtWorld m datum, u, m, ⟨hasMt _ _, by decide +kernel⟩, rfl, k⟩
  · let n : Word := (lane datum.payload 0).setWidth 64
    let s0 := mtWorld (mt .random) datum
    let s := if due then s0.modPort 393 fun p => { p with due := [(0x10108, n)] } else s0
    obtain ⟨e, h, k⟩ := of_pair (x := s.xlate (dieOf 98) (some 98) (s.ctxOfTile 98) 0x10108 .write 0 (s.tileAssist 98).1 (s.tileAssist 98).2)
      (f := fun e s1 => onPair (s1.counterAt (dieOf 98) ⟨s.ctxOfTile 98, 0⟩ (e.phys (0x10108 : Word).toNat) n) fun _ t =>
        decide ((t.port 393).due = (s.port 393).due)) (by cases due <;> decide +kernel)
    obtain ⟨v, k, k2⟩ := of_pair k
    exact ⟨s, _, _, 0x10108, n, ⟨1, datum⟩, e, v, by clear h k k2; cases due <;> decide +kernel, by clear h k k2; cases due <;> decide +kernel,
      by clear h k k2; cases due <;> decide +kernel, by decide, h, k, of_decide_eq_true k2⟩
  · obtain ⟨a, h, k⟩ := px8_ok
    let s : State := { mtWorld (mt .random) datum with
      ports := [(392, { InPort.empty with carriers := [carrier] })], edges := [(9, edgeOf 400 392 none)] }
    have hb : (s.port 392).bit = InPort.empty.bit := by decide +kernel
    exact ⟨s, carrier, edgeOf 400 392 none, a.1, a.2.1, a.2.2, by decide +kernel, by decide +kernel, by decide +kernel, by decide +kernel,
      by decide +kernel, by decide +kernel, by decide +kernel, by decide +kernel, by rw [hb]; exact h, k⟩
  · let s : State := { mtWorld (mt .random) datum with ports := [(392, { InPort.empty with carriers := [carrier], bit := 1000 })] }
    exact ⟨s, carrier, by decide +kernel⟩

/-- An edge to port 0 of node 66 with a token on its link, in a state with a loop bound and a token barrier. -/
def linkWorld (n : Node) (tok : Token) (bounds : Tbl Bound) : State :=
  { with_ n with
    edges := [(1, { edgeOf 400 264 none with link := [⟨tok, 0⟩] })]
    bounds := bounds
    tbars := [(66 * 16 + 3, ⟨3, 5, 0⟩)]
    ports := [(264, { InPort.empty with toks := [⟨1, ctlToken 3 0 21⟩] }), (265, { InPort.empty with toks := [⟨1, ctlToken 3 0 21⟩] })] }

/-- A node whose matrix unit takes operands for one buffer from port 0, and a state with a token of four BF16 values, or a steer
token, at that port. -/
def operands (b : Bool) : Node := { two 0 0 with mat := { Matrix.start with cfg := if b then 0x1000 else 0x10000 } }
def portWorld (n : Node) (tok : Token) : State := { with_ n with ports := [(264, { InPort.empty with toks := [⟨1, tok⟩] })] }

theorem witness_TokenEvents :
    let brings (s : State) (e : Nat) (x : Edge) (k : LinkTok) (l : List LinkTok) : Prop :=
      Tbl.get? e s.edges = some x ∧ x.link = k :: l ∧ s.inEdges x.dst = [(e, x)] ∧ x.timed = none ∧ x.spilling = false ∧
        x.dst < hiddenPort ∧ s.isPx8 x.dst = false ∧ s.acts (x.dst / 4) = true ∧ s.ended (x.dst / 4) = false ∧ k.tok.bad = false
    (∃ (e : Nat) (x : Edge) (k : LinkTok) (l : List LinkTok), Asked fun s => brings s e x k l ∧ s.boundsAt x.dst = []) ∧
    (∃ (b e : Nat) (y : Bound) (x : Edge) (k : LinkTok) (l : List LinkTok), Asked fun s => Tbl.get? b s.bounds = some y ∧
      s.boundsAt x.dst = [(b, y)] ∧ x.dst = y.entry ∧ x.dst ≠ y.exit ∧ brings s e x k l ∧ k.tok.inLoop = true ∧ k.tok.tag ∉ y.tags ∧
      y.tags.length < y.k) ∧
    (∃ (b e : Nat) (y : Bound) (x : Edge) (k : LinkTok) (l : List LinkTok), Asked fun s => Tbl.get? b s.bounds = some y ∧
      s.boundsAt x.dst = [(b, y)] ∧ x.dst = y.exit ∧ x.dst ≠ y.entry ∧ brings s e x k l ∧ k.tok.isCtl 3 = true ∧ k.tok.tag ∈ y.tags) ∧
    (∃ (b c e : Nat) (y z : Bound) (x : Edge) (k : LinkTok) (l : List LinkTok), Asked fun s => Tbl.get? b s.bounds = some y ∧
      Tbl.get? c s.bounds = some z ∧ b ≠ c ∧ s.boundsAt x.dst = [(b, y), (c, z)] ∧ x.dst = y.exit ∧ x.dst ≠ y.entry ∧ x.dst = z.entry ∧
      x.dst ≠ z.exit ∧ brings s e x k l ∧ k.tok.isCtl 3 = true ∧ k.tok.tag ∈ y.tags ∧ k.tok.tag ∉ z.tags ∧ z.tags.length < z.k) ∧
    (∃ (t key : Nat) (b : TBar) (tag : BitVec 16), Asked fun s => s.barsOf t = [(key, b)] ∧ s.acts t = true ∧ s.barFault t b = none ∧
      s.barTag t b = some tag) ∧
    (∃ (t p : Nat) (x : PortTok) (n : Node), Asked fun s => s.headTok (4 * t + p) = some x ∧ x.tok.kind = 3 ∧ s.acts t = true ∧
      s.node? t = some n) ∧
    ∀ b, ∃ (t p : Nat) (ty : Ty) (x : PortTok) (n : Node), Asked fun s => s.headTok (4 * t + p) = some x ∧ s.node? t = some n ∧
      s.acts t = true ∧ x.tok.kind = 0 ∧ fmtTy x.tok.fmt = some ty ∧ n.mat.takes b p = true ∧ n.mat.takes (!b) p = false ∧
      (x.tok.count + 1) % 4 = 0 ∧ tyBytes ty (x.tok.count + 1) ≤ (n.mat.buf b).free := by
  let e (k : Token) : Edge := { edgeOf 400 264 none with link := [⟨k, 0⟩] }
  let steer : Token := ⟨5, 0xC0000000⟩
  let bf : Token := ⟨7, 0x8180000⟩
  exact ⟨⟨1, e datum, ⟨datum, 0⟩, [], linkWorld (two 0 0) datum [], by decide +kernel⟩,
    ⟨9, 1, ⟨264, 268, 2, [3], 0⟩, e datum, ⟨datum, 0⟩, [], linkWorld (two 0 0) datum [(9, ⟨264, 268, 2, [3], 0⟩)], by decide +kernel⟩,
    ⟨9, 1, ⟨268, 264, 2, [21], 0⟩, e (ctlToken 3 0 21), ⟨ctlToken 3 0 21, 0⟩, [],
      linkWorld (two 0 0) (ctlToken 3 0 21) [(9, ⟨268, 264, 2, [21], 0⟩)], by decide +kernel⟩,
    ⟨9, 8, 1, ⟨268, 264, 2, [21], 0⟩, ⟨264, 272, 2, [3], 0⟩, e (ctlToken 3 0 21), ⟨ctlToken 3 0 21, 0⟩, [],
      linkWorld (two 0 0) (ctlToken 3 0 21) [(9, ⟨268, 264, 2, [21], 0⟩), (8, ⟨264, 272, 2, [3], 0⟩)], by decide +kernel⟩,
    ⟨66, 66 * 16 + 3, ⟨3, 5, 0⟩, 21, linkWorld (two 0 0) datum [], by decide +kernel⟩,
    ⟨66, 0, ⟨1, steer⟩, two 0 0, portWorld (two 0 0) steer, by decide +kernel⟩,
    fun b => ⟨66, 0, .bf16, ⟨1, bf⟩, operands b, portWorld (operands b) bf, by decide +revert +kernel⟩⟩

/-- A word of the matrix queue at work. -/
def runOf (w : Word32) (lines : List Nat) : MatRun := ⟨⟨w, none, none, true, []⟩, true, 9, lines, [], [], [], [], [], 0, some 1⟩

/-- A node whose matrix unit is at work, at cycle 9. -/
def matNode (f : Matrix → Matrix) : Node := { two 0 0 with cyc := 9, mat := f Matrix.start }

theorem witness_MatrixEvents :
    (∃ (t : Nat) (n : Node) (w : MatWord) (l : List MatWord) (p : Pred) (a : BitVec 2), Asked fun s => s.node? t = some n ∧ n.gated = false ∧
      n.mat.faulted = none ∧ n.mat.fetchWait = false ∧ n.mat.queue = w :: l ∧ w.instr = some (.mzero p a) ∧ n.mat.accIdle n.cyc.toNat w.acc = true ∧
      n.mat.mma.all (fun r => r.occupied) = true) ∧
    (∃ (t : Nat) (n : Node) (r : MatRun), Asked fun s => s.node? t = some n ∧ n.gated = false ∧ n.mat.mma = some r ∧ r.occupied = true ∧
      r.until_ ≤ n.cyc.toNat ∧ matSrc n.mat.cfg false ≠ 2 ∧ matSrc n.mat.cfg true ≠ 2) ∧
    (∃ (t : Nat) (n : Node) (r : MatRun) (l : List MatRun), Asked fun s => s.node? t = some n ∧ n.gated = false ∧ n.mat.tail = r :: l ∧
      r.until_ ≤ n.cyc.toNat ∧ r.pins = []) ∧
    (∀ route ∈ [some 1, none], ∃ (s s1 : State) (t : Nat) (n : Node) (r : MatRun) (l : List MatRun) (p : Nat), s.node? t = some n ∧
      n.gated = false ∧ n.mat.faulted = none ∧ n.mat.drains = r :: l ∧ r.w.left = none ∧ r.until_ ≤ n.cyc.toNat ∧ r.route = route ∧
      (r.route = some p ∨ (r.route = none ∧ n.routeOf n.steerNow.toNat = some p)) ∧
      s.sendOut (4 * t + p) (r.drainTok r.w.oty r.sent (vget n.tags p 0)) = some s1) ∧
    ∀ l ∈ [[], [0x203]], ∃ (s s1 : State) (t vk : Nat) (n : Node) (r : MatRun) (v : Vec) (pin : Option Nat)
      (o : List MatRun), s.node? t = some n ∧ n.gated = false ∧ n.mat.fetchWait = false ∧ n.mat.faulted = none ∧ n.mat.mma = none ∧
      n.mat.loads = r :: o ∧ r.lines = vk :: l ∧ s.matFetch t n r.w.seen vk = (some (v, pin), s1) := by
  have h (n : Node) (i : n.tile = 66) : (world n).node? 66 = some n := by simp [State.node?, world, mapped, with_, Tbl.get?, i]
  let z : MatWord := ⟨(encode (.mzero .always 3)).elim 0 Prod.fst, none, none, true, []⟩
  let n1 := matNode fun m => { m with queue := [z] }
  let n2 := matNode fun m => { m with cfg := 0x11000, mma := some (runOf 0 []) }
  let n3 := matNode fun m => { m with tail := [runOf 0 []] }
  let n4 (route : Option Nat) := matNode fun m => { m with drains := [{ runOf 0 [] with route := route }] }
  refine ⟨⟨66, n1, z, [], .always, 3, with_ n1, by decide +kernel⟩, ⟨66, n2, runOf 0 [], with_ n2, by decide +kernel⟩,
    ⟨66, n3, runOf 0 [], [], with_ n3, by decide +kernel⟩, fun route hr => ?_, fun l hl => ?_⟩
  · let r : MatRun := { runOf 0 [] with route := route }
    let n : Node := { n4 route with route := [0xA000] }
    obtain ⟨s1, k⟩ := Option.isSome_iff_exists.1 (by decide +revert +kernel :
      ((world n).sendOut (4 * 66 + 1) (r.drainTok r.w.oty r.sent (vget n.tags 1 0))).isSome = true)
    exact ⟨_, s1, 66, n, r, [], 1, h n rfl, rfl, rfl, rfl, rfl, by decide +revert +kernel, rfl, by decide +revert +kernel, k⟩
  · let n := matNode fun m => { m with loads := [runOf 0 (0x202 :: l)] }
    obtain ⟨⟨v, pin⟩, k, _⟩ := of_some (x := (world n).matFetch 66 n [] 0x202) (f := fun _ _ => true) (by decide +revert +kernel)
    exact ⟨_, _, 66, 0x202, n, _, v, pin, [], h n rfl, rfl, rfl, rfl, rfl, rfl, rfl, k⟩

/-- The module with a queue of an engine, all rights for engines of context 5, and at port 0 of the MT at (3, 2) an index token. -/
def engWorld (e q : Nat) (x : EngQueue) : State :=
  let s := netWorld (two 0 0)
  let y := s.die 0
  { s with
    mts := [(98, mt .random)]
    ports := [(392, { InPort.empty with toks := [⟨1, lanes32⟩] })]
    dies := vset s.dies 0 { y with
      engines := [(8 * e + q, x)]
      rights := (List.range 39).flatMap fun t => [1, 2].map fun c => (t * 32768 + 40 + c, BitVec.ofNat 64 (2 ^ 32 - 1)) } }

/-- A command of node 66, and the queue that holds it alone. -/
def cmd (op : EngOp) (w : List Nat) (moved : Nat) : Cmd := ⟨op, w.map (BitVec.ofNat 64), 5, 66, 0, 0, 0, moved, 0, 1, []⟩
def queued (c : Cmd) : EngQueue := { EngQueue.empty with cmds := [c] }

theorem witness_EngineEvents :
    (∃ (s : State) (d e q j : Nat), s.engMoves d e = [.land q j]) ∧
    (∃ (s u : State) (d e j q : Nat), 1 < (s.engMoves d e).length ∧ s.pick (s.engMoves d e).length = (j, u) ∧
      (s.engMoves d e)[0]? = some (.chunk q) ∧ (s.engMoves d e)[1]? = some (.land q 0)) ∧
    (∃ (s : State) (d e j q : Nat) (c : Cmd), (s.engMoves d e)[j]? = some (.blend q c)) ∧
    (∃ (s : State) (d e q : Nat) (c : Cmd), s.engMoves d e = [.chunk q] ∧ (s.engQ d e q).armed = none ∧ (s.engQ d e q).cmds.head? = some c ∧
      c.op = .cpy ∧ (s.engQ d e q).left = [] ∧ c.moved < dLen c.words) ∧
    (∃ (s s0 s1 s2 : State) (d e q j off n : Nat) (c : Cmd) (b : List Byte), s.engMoves d e = [.chunk q] ∧ (s.engQ d e q).armed = none ∧
      (s.engQ d e q).cmds.head? = some c ∧ c.op = .cpy ∧
      s.pick (s.engQ d e q).left.length = (j, s0) ∧ (s.engQ d e q).left[j]? = some (off, n) ∧
      s0.engReads d e q c (dSspace c.words) (dSdev c.words) (linesOf (dSrc c.words + off) n) = (.ok b, s1) ∧
      s1.engPut d e q c off (dDst c.words + off) ((wordsFrom (dDst c.words) off n (n + 1)).flatMap fun w =>
        (Tbl.get? w.1 (s.engQ d e q).got).getD ((b.drop (w.1 - off)).take w.2)) (fun _ => true) = (.ok (), s2)) ∧
    (∃ (s : State) (d e q j : Nat) (f : EngFly) (pa : Nat), s.engMoves d e = [.land q j] ∧ (s.engQ d e q).fly[j]? = some f ∧ f.pa = some pa) ∧
    (∀ done ∈ [0, 3], ∀ ok : Bool, ∃ (s s1 : State) (d e q : Nat) (c : Cmd) (a : Armed) (r : Except EngErr Unit),
      (s.engQ d e q).cmds = [c] ∧ c.op = .cdisarm ∧ (s.engQ d e q).armed = some a ∧ a.live = false ∧ (s.engQ d e q).runs = true ∧ a.done = done ∧
      dword c.words 4 ≠ 0 ∧ (s.setEngQ d e q { s.engQ d e q with armed := none, cmds := [{ c with moved := a.done }] }).engAdd d e q c
        (dword c.words 4) (BitVec.ofNat 64 a.done) = (r, s1) ∧ (if ok = true then r = .ok () else ∃ y, r = .error y)) ∧
    (∃ (s s1 : State) (d e q : Nat) (c : Cmd), (s.engQ d e q).armed = none ∧ (s.engQ d e q).cmds.head? = some c ∧ (s.engQ d e q).runs = true ∧
      c.op = .cpy ∧ dLen c.words ≤ c.moved ∧ dAmount c.words ≠ 0 ∧ (s.engQ d e q).fly.any (fun f => f.live) = false ∧
      s.engAdd d e q c (dCctr c.words) (dAmount c.words) = (.ok (), s1)) ∧
    (∃ (s : State) (d e q : Nat) (c : Cmd), (s.engQ d e q).armed = none ∧ (s.engQ d e q).cmds.head? = some c ∧ (s.engQ d e q).runs = true ∧
      c.op = .carm) ∧
    (∀ got ∈ [[(0, [(1 : Byte)])], []], ∃ (s : State) (d e q : Nat) (c : Cmd) (n : Node), (s.engQ d e q).armed = none ∧
      (s.engQ d e q).cmds.head? = some c ∧ (s.engQ d e q).runs = true ∧ c.op = .cpym ∧ (s.engQ d e q).landed = false ∧
      s.cpymTarget c = some n ∧ n.gated = false ∧ dLen c.words ≤ c.moved ∧ (s.engQ d e q).got = got ∧
      dLen c.words ≤ (n.mat.buf (bitAt (dDst c.words) 12)).free ∧ n.mat.queue.length < 16 ∧ n.matrixNext = false) ∧
    (∃ (s : State) (d e q : Nat) (c : Cmd) (k : PortTok), (s.engQ d e q).armed = none ∧ (s.engQ d e q).cmds.head? = some c ∧
      (s.engQ d e q).runs = true ∧ s.headTok (4 * dCoalesce c.words + dPort c.words) = some k ∧ c.op.isRows = true ∧
      (s.engQ d e q).rows + (s.engQ d e q).idx.length < dLen c.words ∧ s.acts (dCoalesce c.words) = true ∧ k.tok.kind = 0 ∧ k.tok.fmt = 7) ∧
    (∃ (s : State) (d e q : Nat) (a : Armed), (s.engQ d e q).armed = some a ∧ (s.engQ d e q).cmds = [] ∧ (s.engQ d e q).runs = true ∧
      a.live = false ∧ 0 < a.waiting) ∧
    ∃ (s s1 : State) (d e op : Nat) (fp32 : Bool) (c : Cmd) (ranks : List (Option (Nat × Nat × Nat × Cmd))) (ins : List (List Byte)),
      let all := s.collOf c.launch (dTag c.words)
      s.collNext d (16 + e) = some c ∧ c.op = .coll op fp32 ∧ (∀ p ∈ all, collAgree c p.2.2.2 = true) ∧ collRanks all c = some ranks ∧
      (∀ r ∈ ranks, r ≠ none) ∧ s.collRead (dLen c.words) ranks = (some ins, s1) := by
  let f1 : EngFly := ⟨0, some 0x30000, 0x30000, none, [1, 2, 3, 4], false, true⟩
  let same := cmd .cpy [0x20000, 0x20004, 8191, 1, 0x10108, 0, 0, 0] 4096
  let c6 (to_ : Nat) := cmd .cdisarm [0, 0, 0, 0, to_] 0
  let s6 (done to_ : Nat) := engWorld 0 0 { queued (c6 to_) with armed := some ⟨cmd .carm [] 0, done, done, 0, false⟩ }
  let c1 := cmd .cpy [0x20000, 0x30000, 8191, 1, 0x10108, 0, 0, 0] 4096
  let c2 := cmd .cpy [0x20000, 0x30000, 127, 1, 0x10108, 0, 0, 0] 128
  let c3 := cmd .cpym [0x20000, 3 * 2 ^ 62 + 66, 127, 0, 0, 0, 0x81 * 2 ^ 24, 0] 128
  let c4 := cmd .gath [0x20000, 0x30000, 7, 2 ^ 32 + 4, 0, 0, 98 + 100 * 2 ^ 16, 0] 0
  let c5 := cmd (.coll 0 true) [0x20000, 0x30000, 127, 0, 0, 0, 8, 0] 0
  let s1 := engWorld 15 7 { queued c1 with left := [(4100, 4)], upTo := 8192 }
  let s2 := engWorld 0 0 (queued c2)
  let s5 := engWorld 19 0 (queued c5)
  let ranks := [some (0, 19, 0, c5)]
  have p : s1.pick (s1.engQ 0 15 7).left.length = (0, { s1 with free := s1.free + 1 }) := by
    simp [State.pick, show (s1.engQ 0 15 7).left.length = 1 by decide +kernel, Nat.mod_one]
  obtain ⟨b, h1, k1⟩ := of_pair (x := ({ s1 with free := s1.free + 1 } : State).engReads 0 15 7 c1 (dSspace c1.words)
      (dSdev c1.words) (linesOf (dSrc c1.words + 4100) 4))
    (f := fun b s => onPair (s.engPut 0 15 7 c1 4100 (dDst c1.words + 4100) ((wordsFrom (dDst c1.words) 4100 4 (4 + 1)).flatMap fun w =>
      (Tbl.get? w.1 (s1.engQ 0 15 7).got).getD ((b.drop (w.1 - 4100)).take w.2)) (fun _ => true)) fun _ _ => true)
    (by decide +kernel)
  obtain ⟨_, k1, _⟩ := of_pair k1
  obtain ⟨_, h2, _⟩ := of_pair (x := s2.engAdd 0 0 0 c2 (dCctr c2.words) (dAmount c2.words)) (f := fun _ _ => true) (by decide +kernel)
  obtain ⟨i5, h5, _⟩ := of_some (x := s5.collRead 128 ranks) (f := fun _ _ => true) (by decide +kernel)
  exact ⟨⟨engWorld 15 7 { EngQueue.empty with fly := [f1] }, 0, 15, 7, 0, by decide +kernel⟩,
    ⟨engWorld 15 7 { queued c1 with fly := [f1] }, _, 0, 15, _, 7, by decide +kernel, rfl, by decide +kernel, by decide +kernel⟩,
    ⟨engWorld 15 7 { queued same with left := [(4100, 4)], upTo := 8192 }, 0, 15, 1, 7, same, by decide +kernel⟩,
    ⟨engWorld 15 7 (queued c1), 0, 15, 7, c1, by decide +kernel⟩,
    ⟨s1, _, _, _, 0, 15, 7, 0, 4100, 4, c1, b, by decide +kernel, rfl, by decide +kernel, rfl, p, by decide +kernel, h1, k1⟩,
    ⟨engWorld 15 7 { EngQueue.empty with fly := [f1] }, 0, 15, 7, 0, f1, 0x30000, by decide +kernel, by decide +kernel, rfl⟩,
    fun done hd ok => by
      let to_ := if ok then 0x10108 else 2 ^ 56 + 8
      let s := s6 done to_
      let x := (s.setEngQ 0 0 0 { s.engQ 0 0 0 with armed := none, cmds := [{ c6 to_ with moved := done }] }).engAdd 0 0 0 (c6 to_)
        (dword (c6 to_).words 4) (BitVec.ofNat 64 done)
      have h : onPair x (fun _ _ => true) = ok := by revert done; cases ok <;> decide +kernel
      refine ⟨s, x.2, 0, 0, 0, c6 to_, ⟨cmd .carm [] 0, done, done, 0, false⟩, x.1, rfl, rfl, rfl, rfl, rfl, rfl, ?_, rfl, ?_⟩
      · cases ok <;> decide
      · cases ok
        · exact (of_not (x := x) h).elim fun y hy => ⟨y, congrArg Prod.fst hy⟩
        · exact (of_pair h).elim fun y hy => congrArg Prod.fst hy.1,
    ⟨s2, _, 0, 0, 0, c2, rfl, by decide +kernel, by decide +kernel, rfl, by decide +kernel, by decide +kernel, by decide +kernel, h2⟩,
    ⟨engWorld 0 0 (queued (cmd .carm [] 0)), 0, 0, 0, cmd .carm [] 0, rfl, by decide +kernel, by decide +kernel, rfl⟩,
    fun got h => ⟨engWorld 0 0 { queued c3 with got := got }, 0, 0, 0, c3, two 0 0, rfl, by decide +revert +kernel, by decide +revert +kernel,
      rfl, by decide +revert +kernel, by decide +revert +kernel, by decide +kernel, by decide +kernel, by decide +revert +kernel, by decide +kernel,
      by decide +kernel, by decide +kernel⟩,
    ⟨engWorld 0 0 (queued c4), 0, 0, 0, c4, ⟨1, lanes32⟩, by decide +kernel⟩,
    ⟨engWorld 0 0 { EngQueue.empty with armed := some ⟨c2, 0, 0, 1, false⟩ }, 0, 0, 0, ⟨c2, 0, 0, 1, false⟩, by decide +kernel⟩,
    s5, _, 0, 3, 0, true, c5, ranks, i5, by decide +kernel, rfl, by decide +kernel, by decide +kernel, by decide +kernel, h5⟩

/-- The network of `netWorld`, changed. -/
def inbox (f : Net → Net) : State :=
  let s := netWorld (two 0 0)
  s.modDie 0 fun x => { x with net := f x.net }

/-- The first message taken out of the inbox, and an arrival. -/
def pop (m : NetM Unit) (s : State) : Except NetErr (Unit × State) :=
  ((netMod 0 fun n => { n with inbox := n.inbox.drop 1 }) >>= fun _ => m).run s

theorem popOk (m : NetM Unit) (s : State) (h : (pop m s).isOk = true) : ∃ t, pop m s = .ok ((), t) := by
  cases e : pop m s with
  | ok a => exact ⟨a.2, rfl⟩
  | error e' => rw [e] at h; cases h

/-- Does a piece of a network's work give a value that f holds of? -/
def onNet (x : Except NetErr (Unit × State)) (f : State → Bool) : Bool := match x with
  | .ok a => f a.2
  | .error _ => false

theorem of_net {x : Except NetErr (Unit × State)} {f : State → Bool} (h : onNet x f = true) : ∃ t, x = .ok ((), t) ∧ f t = true := by
  cases x with
  | ok a => exact ⟨a.2, rfl, h⟩
  | error _ => cases h

theorem witness_NetworkEvents :
    let net (s : State) : Net := (s.die 0).net
    let head (s : State) (m : NetMsg) (l : List NetMsg) : Prop := (net s).inbox = m :: l ∧ (net s).runs = true ∧ (net s).filling = none ∧
      (net s).owner ≠ none
    (∃ t id x l, Asked fun s => head s (.delta t (some id) x) l ∧ (net s).open_ = true ∧ (net s).allDone = false) ∧
    (∃ t x l, Asked fun s => head s (.delta t none x) l ∧ (net s).open_ = true ∧ (net s).allDone = false) ∧
    (∃ t f x l s1, Asked fun s => head s (.delta t f x) l ∧ (net s).open_ = false ∧
      64 * ((net s).tokens.length + (net s).stamps.length) ≤ (net s).heapsz.toNat ∧ pop (netDelta 0 x) s = .ok ((), s1)) ∧
    (∃ h key l, Asked fun s => head s (.scset h key) l ∧ (net s).open_ = true) ∧
    (∃ h key l s1, Asked fun s => head s (.scset h key) l ∧ (net s).open_ = false ∧ pop (netScset 0 h key) s = .ok ((), s1) ∧
      64 * ((net s1).tokens.length + (net s1).stamps.length) ≤ (net s1).heapsz.toNat) ∧
    (∃ t c ctx limit l, Asked fun s => head s (.cswave t c ctx limit) l ∧ (net s).acts = [] ∧ l ≠ [] ∧
      64 * ((net s).tokens.length + (net s).stamps.length) ≤ (net s).heapsz.toNat) ∧
    (∃ t c ctx limit l s1, Asked fun s =>
      let n : Net := { net s with inbox := l }
      let acc := n.form limit
      let slots := (List.range acc.length).filterMap fun k => (acc[k]?).map fun a => (⟨s.nextId + k, a.1 / 65536, a.2, [], false⟩ : WaveSlot)
      head s (.cswave t c ctx limit) l ∧ acc ≠ [] ∧ 64 * ((net s).tokens.length + (net s).stamps.length) ≤ (net s).heapsz.toNat ∧
      (netFirings 0 0 slots).run ({ s with nextId := s.nextId + acc.length }.modNet 0 fun _ => { n with
        acts := n.acts.filter fun p => !(acc.map fun (a : Nat × Activation) => a.1).contains p.1
        wave := slots, waveCtr := some (c, ctx), open_ := true }) = .ok ((), s1)) ∧
    (∃ c ctx pa v s1 s2, Asked fun s => (net s).runs = true ∧ (net s).waveCtr = some (c, ctx) ∧ (net s).addDue = true ∧
      (netXlate 0 c.va.toNat .write).run s = .ok (pa, s1) ∧ s1.counterAt 0 ⟨ctx, 4⟩ pa 1 = (.ok v, s2)) ∧
    (∃ i s1, Asked fun s => (net s).filling = some i ∧ (net s).runs = true ∧
      64 * ((net s).tokens.length + (net s).stamps.length) ≤ (net s).heapsz.toNat ∧ (netFill 0 i).run s = .ok ((), s1)) ∧
    (∃ id l, Asked fun s => (net s).inbox = .fdone id :: l ∧ (net s).runs = true ∧ (net s).filling = none ∧ (net s).open_ = true ∧
      ∃ w ∈ (net s).wave, w.done = false ∧ w.id ≠ id) ∧
    (Asked fun s => (net s).runs = true ∧ (net s).allDone = true ∧ (∀ w ∈ (net s).wave, w.deltas = []) ∧
      (net s).held ++ (net s).inbox ≠ []) ∧
    (∃ a x left s1, Asked fun s => (net s).runs = true ∧ (net s).allDone = true ∧ firstDelta (net s).wave = some (a, x, left) ∧
      64 * ((net s).tokens.length + (net s).stamps.length) ≤ (net s).heapsz.toNat ∧ (netBuffered 0 a x left).run s = .ok ((), s1)) ∧
    ∃ ctx assist block l, Asked fun s => (net s).inbox = .netld ctx assist 0 block :: l ∧ (net s).runs = true ∧
      (net s).filling = none := by
  let x : Delta := .retract 15
  let s1 := inbox fun n => { n with inbox := [.delta 66 none x], open_ := false }
  let s2 := inbox fun n => { n with inbox := [.scset 15 0], open_ := false }
  obtain ⟨t1, h1⟩ := popOk (netDelta 0 x) s1 (by decide +kernel)
  obtain ⟨t2, h2, k2⟩ := of_net (x := pop (netScset 0 15 0) s2) (f := fun t =>
    decide (64 * ((t.die 0).net.tokens.length + (t.die 0).net.stamps.length) ≤ (t.die 0).net.heapsz.toNat)) (by decide +kernel)
  have k2 := of_decide_eq_true k2
  let a : Activation := ⟨0, [(3, 4)], 0⟩
  let s3 := inbox fun n => { n with wave := [⟨7, 1, a, [x], true⟩] }
  obtain ⟨t3, h3, _⟩ := of_net (x := (netBuffered 0 a x [⟨7, 1, a, [], true⟩]).run s3) (f := fun _ => true) (by decide +kernel)
  let cs : Net → Net := fun n => { n with inbox := [.cswave 66 ⟨0x10108, 0x10108⟩ 5 64], acts := [(65536, a)], wave := [], open_ := false }
  let s4 := inbox cs
  let n4 : Net := { (s4.die 0).net with inbox := [] }
  let acc := n4.form 64
  let slots := (List.range acc.length).filterMap fun k => (acc[k]?).map fun a => (⟨s4.nextId + k, a.1 / 65536, a.2, [], false⟩ : WaveSlot)
  obtain ⟨t4, h4, _⟩ := of_net (x := (netFirings 0 0 slots).run ({ s4 with nextId := s4.nextId + acc.length }.modNet 0 fun _ => { n4 with
        acts := n4.acts.filter fun p => !(acc.map fun (a : Nat × Activation) => a.1).contains p.1
        wave := slots, waveCtr := some (⟨0x10108, 0x10108⟩, 5), open_ := true })) (f := fun _ => true) (by decide +kernel)
  let s5 := inbox fun n => { n with inbox := [], wave := [], open_ := false, waveCtr := some (⟨0x10108, 0⟩, 5) }
  obtain ⟨pa, t5, h5, k5⟩ : ∃ pa t, (netXlate 0 (0x10108 : Word).toNat .write).run s5 = .ok (pa, t) ∧
      onPair (t.counterAt 0 ⟨5, 4⟩ pa 1) (fun _ _ => true) = true := by
    have g : (match (netXlate 0 (0x10108 : Word).toNat .write).run s5 with
      | .ok p => onPair (p.2.counterAt 0 ⟨5, 4⟩ p.1 1) (fun _ _ => true)
      | .error _ => false) = true := by decide +kernel
    split at g
    · next p hp => exact ⟨p.1, p.2, hp, g⟩
    · cases g
  obtain ⟨v5, h6, _⟩ := of_pair k5
  let s7 := inbox fun n => { n with inbox := [], filling := some 15 }
  obtain ⟨t7, h7, _⟩ := of_net (x := (netFill 0 15).run s7) (f := fun _ => true) (by decide +kernel)
  exact ⟨⟨66, 7, x, [], inbox fun n => { n with inbox := [.delta 66 (some 7) x] }, by decide +kernel⟩,
    ⟨66, x, [], inbox fun n => { n with inbox := [.delta 66 none x] }, by decide +kernel⟩,
    ⟨66, none, x, [], t1, s1, by decide +kernel, by decide +kernel, by decide +kernel, h1⟩,
    ⟨15, 0, [], inbox fun n => { n with inbox := [.scset 15 0] }, by decide +kernel⟩,
    ⟨15, 0, [], t2, s2, by decide +kernel, by decide +kernel, h2, k2⟩,
    ⟨66, ⟨0x10108, 0x10108⟩, 5, 64, [.scset 15 0], inbox fun n => { n with inbox := [.cswave 66 ⟨0x10108, 0x10108⟩ 5 64, .scset 15 0], open_ := false },
      by decide +kernel⟩,
    ⟨66, ⟨0x10108, 0x10108⟩, 5, 64, [], t4, s4, by decide +kernel, by decide +kernel, by decide +kernel, h4⟩,
    ⟨⟨0x10108, 0⟩, 5, pa, v5, t5, _, s5, by decide +kernel, rfl, by decide +kernel, h5, h6⟩,
    ⟨15, t7, s7, rfl, by decide +kernel, by decide +kernel, h7⟩,
    ⟨8, [], inbox fun n => { n with inbox := [.fdone 8] }, by decide +kernel⟩,
    ⟨inbox fun n => { n with wave := [⟨7, 1, a, [], true⟩], inbox := [.scset 15 0] }, by decide +kernel⟩,
    ⟨a, x, [⟨7, 1, a, [], true⟩], t3, s3, by decide +kernel, by decide +kernel, by decide +kernel, by decide +kernel, h3⟩,
    ⟨5, 0, 64, [], inbox fun n => { n with inbox := [.netld 5 0 0 64] }, by decide +kernel⟩⟩

/-- A launch of context 5 on die 0 by queue 0. -/
def launch (w : List Nat) : Launch where
  queue := 0
  pkt := 0
  die := 0
  words := w.map (BitVec.ofNat 64)
  ctx := 5
  mode := 0
  assist := 0
  seed := 0
  rrTable := 0
  man := Manifest.zero
  rounds := []
  lateRun := false
  recs := []
  seqs := []
  map := [0]
  gang := []
  tickT := 0
  attempt := 0
  emitted := 0
  running := 0
  status := none
  foreign := false

/-- Die 0 with a queue 0 of context 5 in slot 3: packet 0, of the given words, posted and not consumed. -/
def queueWorld (w : List Nat) (assist : Nat) : State :=
  let s := netWorld (two 0 0)
  let y := s.die 0
  { s with
    locked := true
    mem := words 0x200000 [2 ^ 63 + 5 * 2 ^ 44 + 4 * 2 ^ 32, 0x40000, 0x50000, 0x50008] (words 0x40000 w (words 0x50000 [1, 0] s.mem))
    mmio := (s.mmio.set 0x100D8 0x200001).set (ctxOff 5 2) (BitVec.ofNat 64 assist)
    dies := vset s.dies 0 { y with
      slots := [(3, 0)]
      queues := [(0, ⟨true, some 3, 0, false, none, none, none, none⟩), (1, ⟨true, none, 0, false, none, none, none, none⟩)]
      rights := (List.range 39).map fun t => (t * 32768 + 43, BitVec.ofNat 64 (2 ^ 32 - 1)) } }

/-- Template 0 of context 5, of one node without code, resident. -/
def resident : Tbl Template := [(5 * 65536, ⟨[[0x70000, 0, 0, 0]], [], 0, 5⟩)]

/-- Queue 0 with a packet of one task of the resident template, or with a gang of the image at 0x60000, of one region of one quad, with
its rank map at 0x61000. -/
def tasksQueue : State :=
  let s := queueWorld [2 * 2 ^ 60 + 2 ^ 58 + 1, 0, 0, 0, 0, 0, 0, 0] 0
  s.modDie 0 fun x => { x with tmpls := resident }
def gangQueue : State :=
  let s := queueWorld [2 ^ 60 + 2 ^ 58, 0, 0x60000, 0x61000, 0, 0, 0, 0] 0
  { s with mem := words 0x60000 [1, 0x62000, 0, 96] (words 0x60020 [2 ^ 56, 0, 0, 0] (words 0x60040 [2 ^ 57, 0, 0, 0] s.mem)) }

/-- Die 0 with one record in its task queue, and the template. -/
def taskWorld (r : TaskRec) (t : Tbl Template) : State :=
  let s := State.reset
  { s with dies := vset s.dies 0 { s.die 0 with tasks := [r], onDie := 1, tmpls := t } }

/-- A region for whose shape there is room on its die can be reserved. -/
theorem reserve_fits (s : State) (r : Region) (one : Bool) (X Y : Nat) (hX : X < 32) (hY : Y < 32)
    (h : s.fits r.shape (r.fixed || one) r.die X Y = true) : ∃ a t, s.reserve r one = (some a, t) := by
  let l := ((List.range 32).flatMap fun X => (List.range 32).map fun Y => (X, Y)).filter fun p => s.fits r.shape (r.fixed || one) r.die p.1 p.2
  have m : (X, Y) ∈ l := List.mem_filter.2 ⟨by simp [hX, hY], h⟩
  have k : (s.pick l.length).1 < l.length := Nat.mod_lt _ (List.length_pos_of_mem m)
  have p : s.place r.shape (r.fixed || one) r.die = (some l[(s.pick l.length).1], (s.pick l.length).2) := by
    rw [← List.getElem?_eq_getElem k]; rfl
  exact ⟨_, _, by rw [State.reserve, p]⟩

/-- Is one head found of which f holds, and does a piece of the controller's work give a value of which f holds? -/
def onOne (x : List Head × State) (f : Head → State → Bool) : Bool := match x with
  | ([h], t) => f h t
  | _ => false
def onRun {α : Type} (x : Except LErr (α × State)) (f : α → State → Bool) : Bool := match x with
  | .ok a => f a.1 a.2
  | .error _ => false

theorem of_one {x : List Head × State} {f : Head → State → Bool} (h : onOne x f = true) : ∃ a t, x = ([a], t) ∧ f a t = true := by
  unfold onOne at h
  split at h
  · exact ⟨_, _, rfl, h⟩
  · cases h

theorem of_run {α : Type} {x : Except LErr (α × State)} {f : α → State → Bool} (h : onRun x f = true) :
    ∃ a t, x = .ok (a, t) ∧ f a t = true := by
  cases x with
  | ok a => exact ⟨a.1, a.2, rfl, h⟩
  | error _ => cases h

/-- Is one head chosen, of which f holds after its checks? -/
def onCheck (s : State) (f : Head → Check → State → Bool) : Bool :=
  (s.mmioAt 0 0x100D8).getLsbD 0 && !s.launchesHeld && onOne (s.heads 0 (s.die 0).slots) fun h t =>
    (t.eligible 0 h false && t.locked && (t.unplaced 0).isEmpty && (t.queueAt 0 h.q).aborted.isNone && !pMalformed h.words &&
      pKind h.words != 3 && pRed h.words == 1) &&
    onRun ((lCheck (t.forQueue 0 h.q h.e) h.words (t.ctxReg h.e.ctx 1) (t.ctxReg h.e.ctx 8) (t.resident 0 h)).run t) fun c u =>
      decide (u.now.toNat ≤ pDeadline h.words) && f h c u

/-- A state, the head chosen in it, and its checks' outcome. -/
def Chosen (s s1 s2 : State) (h : Head) (c : Check) : Prop := (s.mmioAt 0 0x100D8).getLsbD 0 = true ∧
  s.launchesHeld = false ∧ s.heads 0 (s.die 0).slots = ([h], s1) ∧ s1.eligible 0 h false = true ∧ s1.locked = true ∧
  s1.unplaced 0 = [] ∧ (s1.queueAt 0 h.q).aborted = none ∧ pMalformed h.words = false ∧ pKind h.words ≠ 3 ∧ pRed h.words = 1 ∧
  (lCheck (s1.forQueue 0 h.q h.e) h.words (s1.ctxReg h.e.ctx 1) (s1.ctxReg h.e.ctx 8) (s1.resident 0 h)).run s1 = .ok (c, s2) ∧
  (s2.now.toNat ≤ pDeadline h.words ∨ pLate h.words = true)

theorem of_check {s : State} {f : Head → Check → State → Bool} (k : onCheck s f = true) :
    ∃ s1 s2 h c, Chosen s s1 s2 h c ∧ f h c s2 = true := by
  simp only [onCheck, Bool.and_eq_true, Bool.not_eq_true'] at k
  obtain ⟨h, s1, h1, k1⟩ := of_one k.2
  simp only [Bool.and_eq_true, List.isEmpty_iff, Option.isNone_iff_eq_none, Bool.not_eq_true', bne_iff_ne, beq_iff_eq] at k1
  obtain ⟨c, s2, h2, k2⟩ := of_run k1.2
  rw [Bool.and_eq_true] at k2
  obtain ⟨⟨⟨⟨⟨⟨⟨a, b⟩, d⟩, e⟩, g⟩, i⟩, j⟩, _⟩ := k1
  exact ⟨s1, s2, h, c, ⟨k.1.1, k.1.2, h1, a, b, d, e, g, i, j, h2, .inl (of_decide_eq_true k2.1)⟩, k2.2⟩

theorem tasksBegin : ∃ s s1 s2 s3 s5 d h t rounds, (d = 0 ∧ Chosen s s1 s2 h (.tasks t rounds)) ∧ s2.freeCts d ≠ [] ∧
    s2.residentOn (tmplKey h.e.ctx (pTmpl h.words)) t [d] = some s3 ∧
    (lAdd ((s3.pickWords 6).2.pickWord.2.forQueue d h.q h.e) h.e.consumed 1).run (s3.pickWords 6).2.pickWord.2 = .ok ((), s5) := by
  obtain ⟨s1, s2, h, c, k, m⟩ := of_check (s := tasksQueue) (f := fun h c s => match c with
    | .tasks t _ => !(s.freeCts 0).isEmpty && (match s.residentOn (tmplKey h.e.ctx (pTmpl h.words)) t [0] with
      | some s3 => onRun ((lAdd ((s3.pickWords 6).2.pickWord.2.forQueue 0 h.q h.e) h.e.consumed 1).run (s3.pickWords 6).2.pickWord.2)
          fun _ _ => true
      | none => false)
    | _ => false) (by decide +kernel)
  cases c with
  | tasks t g =>
    simp only [Bool.and_eq_true] at m
    obtain ⟨m1, m2⟩ := m
    split at m2
    · next s3 e =>
      obtain ⟨_, s5, e5, _⟩ := of_run m2
      exact ⟨_, s1, s2, s3, s5, 0, h, t, g, ⟨rfl, k⟩, by simpa using m1, e, e5⟩
    · cases m2
  | gang _ _ _ _ _ => cases m
  | refuse _ _ => cases m

theorem gangBegins : ∃ s s1 s2 s5 d h recs seqs map bin rounds, (d = 0 ∧ Chosen s s1 s2 h (.gang recs seqs map bin rounds)) ∧
    (∃ x ∈ map, x < 4) ∧
    (∀ x ∈ map, x < 4 →
      let l := { s2.newLaunch d h rounds with recs := recs, seqs := seqs, map := map }
      (s2.reserveAll 0 l x (l.onDie x)).1.isSome = true) ∧ (s2.ctxReg h.e.ctx 2).getLsbD 6 = false ∧
    let T := s2.startTick (s2.ctxReg h.e.ctx 2) 20000
    (lAdd (T.2.forQueue d h.q h.e) h.e.consumed 1).run T.2 = .ok ((), s5) := by
  obtain ⟨s1, s2, h, c, k, m⟩ := of_check (s := gangQueue) (f := fun h c s => match c with
    | .gang recs _ map _ _ =>
      let l := { s.newLaunch 0 h [] with recs := recs, map := map }
      map == [0] && l.onDie 0 == [(0, 0)] && (!(s.ctxReg h.e.ctx 2).getLsbD 6 && s.fits (shapeOf ((recs[0]?).getD [])) (fixedOf ((recs[0]?).getD []) || decide (1 < pRed h.words)) 0 0 0 &&
        onRun ((lAdd (s.forQueue 0 h.q h.e) h.e.consumed 1).run s) fun _ _ => true)
    | _ => false) (by decide +kernel)
  cases c with
  | gang recs seqs map bin g =>
    simp only [Bool.and_eq_true, beq_iff_eq] at m
    obtain ⟨⟨rfl, m2⟩, ⟨m0, m3⟩, m4⟩ := m
    obtain ⟨_, s5, e5, _⟩ := of_run m4
    rw [Bool.not_eq_true'] at m0
    refine ⟨_, s1, s2, s5, 0, h, recs, seqs, [0], bin, g, ⟨rfl, k⟩, ⟨0, by simp, by decide⟩, fun x hx _ => ?_, m0, by
      have q : s2.startTick (s2.ctxReg h.e.ctx 2) 20000 = (s2.now.toNat + 20000, s2) := by
        simp only [State.startTick, m0]
        rfl
      simp only [q]
      exact e5⟩
    obtain rfl := List.mem_singleton.1 hx
    have e : ({ s2.newLaunch 0 h g with recs := recs, seqs := seqs, map := [0] } : Launch).onDie 0 = [(0, 0)] := m2
    obtain ⟨a, t, ha⟩ := reserve_fits s2 (Region.blank 0 h.e.ctx 0 0 0 ((recs[0]?).getD []) ((seqs[0]?).getD []))
      (decide (1 < pRed h.words)) 0 0 (by decide) (by decide) m3
    simp only [e, State.reserveAll]
    have reps (l : Launch) (e : l.words = h.words) : l.replicas = pRed h.words := by rw [Launch.replicas, e]
    rw [show ({ s2.newLaunch 0 h g with recs := recs, seqs := seqs, map := [0] } : Launch).ctx = h.e.ctx from rfl, reps, ha]
    · rfl
    · rfl
  | tasks _ _ => cases m
  | refuse _ _ => cases m

/-- What the wait packet's clauses ask, below its target and at it. -/
def WaitMet (low : Bool) : Prop := ∃ (s s1 s2 s3 : State) (d q n v : Nat) (e : QEntry) (w : List Word),
      let u := s.tableRead q
      let lf := u.forQueue d q e
      (s.mmioAt 0 0x100D8).getLsbD 0 = true ∧ s.qEntry q = some e ∧ (s.queueAt d q).slot ≠ none ∧
      (s.queueAt d q).waiting = false ∧ (s.queueAt d q).aborted = none ∧ e.die = d ∧ (lHead lf e).run u = .ok (some (n, w), s1) ∧ pKind w = 3 ∧
      pMalformed w = false ∧ u.eligible d ⟨q, e, n, w⟩ false = true ∧ (lCounter lf (pImage w)).run s1 = .ok (v, s2) ∧
      (if low = true then v < pWord w 3 ∧ (lWatch lf (pImage w)).run s2 = .ok ((), s3)
       else pWord w 3 ≤ v ∧ (lAdd lf e.consumed 1).run s2 = .ok ((), s3))

theorem waitMet (low : Bool) : WaitMet low := by
  let e : QEntry := ⟨0, 0, 5, 4, 0x40000, 0x50000, 0x50008⟩
  let s := queueWorld [3 * 2 ^ 60 + 2 ^ 58, 0, 0x10100, if low then 2 else 1, 0, 0, 0, 0] 0
  let u := s.tableRead 0
  let lf := u.forQueue 0 0 e
  obtain ⟨⟨n, w⟩, u2, h2, k2⟩ := of_run (x := ((lHead lf e).run u).bind fun a => match a.1 with
      | some b => .ok (b, a.2)
      | none => .error (.fail 0)) (f := fun a t => pKind a.2 == 3 && !pMalformed a.2 && u.eligible 0 ⟨0, e, a.1, a.2⟩ false &&
    onRun ((lCounter lf (pImage a.2)).run t) fun v t => decide (v < pWord a.2 3) == low &&
      (if low then onRun ((lWatch lf (pImage a.2)).run t) fun _ _ => true else onRun ((lAdd lf e.consumed 1).run t) fun _ _ => true))
    (by cases low <;> decide +kernel)
  simp only [Bool.and_eq_true] at k2
  obtain ⟨v, u3, h3, k3⟩ := of_run k2.2
  rw [Bool.and_eq_true] at k3
  have h2 : (lHead lf e).run u = .ok (some (n, w), u2) := by
    revert h2
    cases (lHead lf e).run u with
    | error _ => exact fun h => nomatch h
    | ok a =>
      obtain ⟨_ | b, t⟩ := a
      · exact fun h => nomatch h
      · intro h; cases h; rfl
  have ⟨u4, h4⟩ : ∃ u4, if low = true then v < pWord w 3 ∧ (lWatch lf (pImage w)).run u3 = .ok ((), u4)
      else pWord w 3 ≤ v ∧ (lAdd lf e.consumed 1).run u3 = .ok ((), u4) := by
    clear h2 k2 h3
    cases low
    · obtain ⟨_, u4, h4, _⟩ := of_run (show onRun ((lAdd lf e.consumed 1).run u3) (fun _ _ => true) = true from k3.2)
      exact ⟨u4, by simpa using k3.1, h4⟩
    · obtain ⟨_, u4, h4, _⟩ := of_run (show onRun ((lWatch lf (pImage w)).run u3) (fun _ _ => true) = true from k3.2)
      exact ⟨u4, by simpa using k3.1, h4⟩
  exact ⟨s, u2, u3, u4, 0, 0, n, v, e, w, by cases low <;> decide +kernel, by cases low <;> decide +kernel, by cases low <;> decide +kernel,
    by cases low <;> decide +kernel, by cases low <;> decide +kernel, rfl, h2, by simpa using k2.1.1.1, by simpa using k2.1.1.2, k2.1.2, h3, h4⟩

theorem witness_LaunchEvents :
    (∃ (q : Nat) (e : QEntry), e.die < 4 ∧ Asked fun s => s.qEntry q = some e) ∧
    (∃ (d k : Nat) (x : Word), Asked fun s => d < 4 ∧ k < 256 ∧ x.getLsbD 63 = true ∧ s.hostMaps (x.toNat % 2 ^ 16) = true ∧
      Tbl.get? k (s.die d).slots = none) ∧
    (∃ (d q k : Nat), Asked fun s => d < 4 ∧ s.unmapped d = [q] ∧ ((List.range 256).find? fun k => s.slotFree d k) = some k) ∧
    (∃ (s s1 : State) (d : Nat) (h : Head), (s.mmioAt 0 0x100D8).getLsbD 0 = true ∧ s.launchesHeld = false ∧
      s.heads d (s.die d).slots = ([h], s1) ∧ s1.eligible d h false = true ∧ s1.locked = true ∧ s1.unplaced d = [] ∧
      (s1.queueAt d h.q).aborted = none ∧ pMalformed h.words = true) ∧
    (∃ s s1 s2 s3 s5 d h t rounds, (d = 0 ∧ Chosen s s1 s2 h (.tasks t rounds)) ∧ s2.freeCts d ≠ [] ∧
      s2.residentOn (tmplKey h.e.ctx (pTmpl h.words)) t [d] = some s3 ∧
      (lAdd ((s3.pickWords 6).2.pickWord.2.forQueue d h.q h.e) h.e.consumed 1).run (s3.pickWords 6).2.pickWord.2 = .ok ((), s5)) ∧
    (∃ s s1 s2 s5 d h recs seqs map bin rounds, (d = 0 ∧ Chosen s s1 s2 h (.gang recs seqs map bin rounds)) ∧ (∃ x ∈ map, x < 4) ∧
      (∀ x ∈ map, x < 4 →
        let l := { s2.newLaunch d h rounds with recs := recs, seqs := seqs, map := map }
        (s2.reserveAll 0 l x (l.onDie x)).1.isSome = true) ∧ (s2.ctxReg h.e.ctx 2).getLsbD 6 = false ∧
      let T := s2.startTick (s2.ctxReg h.e.ctx 2) 20000
      (lAdd (T.2.forQueue d h.q h.e) h.e.consumed 1).run T.2 = .ok ((), s5)) ∧
    (∀ low, WaitMet low) ∧
    (∃ (id : Nat) (l : Launch), Asked fun s => Tbl.get? id s.launches = some l ∧ s.launchOver id l = true ∧
      (s.queueAt l.die l.queue).waiting = false ∧ pCctr l.words = 0) ∧
    (∀ first : Bool, ∃ (id d : Nat) (l : Launch), d < 4 ∧ (if first = true then l.emitted = 0 else l.emitted = pCount l.words) ∧
      Asked fun s => Tbl.get? id s.launches = some l ∧ pKind l.words = 2 ∧ l.map = [d] ∧ l.emitted ≤ pCount l.words ∧
        (s.die d).onDie = (s.die d).tasks.length ∧ (s.die d).ovf = 0 ∧ (s.die d).onDie < 4096) ∧
    (∀ cancelled : Bool, ∃ (d : Nat) (r : TaskRec) (l : List TaskRec), Asked fun s => ((s.die d).tasks = r :: l ∧ s.settleDue d = false ∧
      0 < (s.die d).onDie) ∧ r.cancelled = cancelled ∧
      (cancelled = false → r.launch = none ∧ Tbl.get? (tmplKey r.ctx (field r.w0.toNat 63 48)) (s.die d).tmpls = none)) ∧
    ∃ (s s1 : State) (d k : Nat) (r : TaskRec) (l : List TaskRec) (e : List Word), d < 4 ∧ (s.die d).tasks = r :: l ∧
      s.settleDue d = false ∧ 0 < (s.die d).onDie ∧ r.cancelled = false ∧ s.taskEntry d r = some e ∧
      s.freeCts d ≠ [] ∧ s.pick (s.freeCts d).length = (k, s1) := by
  let e : QEntry := ⟨0, 0, 5, 4, 0x40000, 0x50000, 0x50008⟩
  let s1 := queueWorld [0, 0, 0, 0, 0, 0, 0, 0] 2
  let s2 := queueWorld [3 * 2 ^ 60 + 2 ^ 58, 0, 0x10100, 1, 0, 0, 0, 0] 0
  let l2 (k : Nat) : Launch := { launch [2 * 2 ^ 60 + 5, 0, 0, 2 ^ 32, 9, 0, 0, 0] with emitted := k }
  let l3 : Launch := launch [2 ^ 60, 0, 0, 0, 0, 0, 0, 0]
  let r (c : Bool) : TaskRec := ⟨1, 0, 0, 5, none, 0, none, [], c, none⟩
  obtain ⟨h, u1, h1, k1⟩ := of_one (x := s1.heads 0 (s1.die 0).slots)
    (f := fun h t => t.eligible 0 h false && t.locked && (t.unplaced 0).isEmpty && (t.queueAt 0 h.q).aborted.isNone && pMalformed h.words)
    (by decide +kernel)
  simp only [Bool.and_eq_true, List.isEmpty_iff, Option.isNone_iff_eq_none] at k1
  exact ⟨⟨0, e, by decide, s2, by decide +kernel⟩, ⟨0, 255, BitVec.ofNat 64 (2 ^ 63), s1, by decide +kernel⟩,
    ⟨0, 1, 0, s2, by decide +kernel⟩,
    ⟨s1, u1, 0, h, by decide +kernel, by decide +kernel, h1, k1.1.1.1.1, k1.1.1.1.2, k1.1.1.2, k1.1.2, k1.2⟩, tasksBegin, gangBegins,
    waitMet,
    ⟨7, { l3 with gang := [⟨0, true, true, true, true, false⟩] },
      { State.reset with launches := [(7, { l3 with gang := [⟨0, true, true, true, true, false⟩] })] },
      by decide +kernel⟩,
    fun first => ⟨7, 0, l2 (if first then 0 else 5), by decide, by cases first <;> decide +kernel,
      { State.reset with launches := [(7, l2 (if first then 0 else 5))] }, by cases first <;> decide +kernel⟩,
    fun c => ⟨0, r c, [], taskWorld (r c) [], by cases c <;> decide +kernel⟩,
    taskWorld (r false) resident, _, 0, _, r false, [], [0x70000, 0, 0, 0], by decide, by decide +kernel, by decide +kernel,
    by decide +kernel, rfl, by decide +kernel, by decide +kernel, rfl⟩

/-- The module with a launch 7 that is a gang. -/
def gang (f : Launch → Launch) : Launch := f (launch [2 ^ 60, 0, 0, 0, 0, 0, 0, 0])
def gangWorld (l : Launch) (now : Nat) : State := { State.reset with launches := [(7, l)], now := BitVec.ofNat 64 now }
/-- A die's part. -/
def part (acked go : Bool) : GangMember := ⟨0, true, acked, go, false, false⟩

/-- Launch 7 with one die's part, to start at 12,000, after `k` attempts. -/
def gangOf (m : GangMember) (k : Nat) : Launch := gang fun l => { l with gang := [m], tickT := 12000, attempt := k }
theorem gangOf_here (m : GangMember) (k now : Nat) : Tbl.get? 7 (gangWorld (gangOf m k) now).launches = some (gangOf m k) := by
  simp [gangWorld, Tbl.get?]

theorem witness_GangEvents :
    let due (s : State) (l : Launch) : Prop := Tbl.get? 7 s.launches = some l ∧ l.foreign = false ∧ l.status = none ∧ l.gang ≠ [] ∧ l.tickT ≤ s.now.toNat + 2000 ∧
      s.goSent 7 l = false ∧ ∀ m ∈ l.gang, m.started = false
    let has (s : State) (l : Launch) (g : GangMember) : Prop := Tbl.get? 7 s.launches = some l ∧ l.member 0 = some g ∧ l.status = none
    (∀ late : Bool, ∃ (s s1 : State) (l : Launch) (g : GangMember) (hs : List Nat), has s l g ∧ g.reserved = false ∧
      s.reserveAll 7 l 0 (l.onDie 0) = (some hs, s1) ∧ decide (s.now.toNat + 2000 ≤ l.tickT) = !late) ∧
    (∃ (l : Launch), Asked fun s => due s l ∧ ∀ m ∈ l.gang, m.acked = true) ∧
    (∀ k ∈ [0, 7], ∃ (l : Launch), l.attempt = k ∧ Asked fun s => due s l ∧ (∃ m ∈ l.gang, m.acked = false) ∧
      ∀ m ∈ l.gang, s.reservedOn 7 m.die = []) ∧
    (∃ (l : Launch), Asked fun s => Tbl.get? 7 s.launches = some l) ∧
    (∀ foreign : Bool, ∃ (l : Launch), Asked fun s => Tbl.get? 7 s.launches = some l ∧ l.foreign = foreign ∧ s.reservedOn 7 0 = [2]) ∧
    (∃ (l : Launch), Asked fun s => Tbl.get? 7 s.launches = some l ∧ s.reservedOn 7 0 = []) ∧
    (∀ go : Bool, ∃ (l : Launch) (g : GangMember), Asked fun s => has s l g ∧ l.tickT ≤ s.now.toNat ∧ g.acked = true ∧ g.started = false ∧ g.go = go ∧
      l.foreign = false) ∧
    ∃ (l : Launch), Asked fun s => Tbl.get? 7 s.launches = some l ∧ l.member 0 ≠ none ∧
      (s.regions.filter fun p => p.2.launch = 7 && p.2.die = 0 && !p.2.isTask).map (·.1) = [2] := by
  have late : ∀ k ∈ [0, 7], ∃ (l : Launch), l.attempt = k ∧ Asked fun s => (Tbl.get? 7 s.launches = some l ∧ l.foreign = false ∧ l.status = none ∧ l.gang ≠ [] ∧
      l.tickT ≤ s.now.toNat + 2000 ∧ s.goSent 7 l = false ∧ ∀ m ∈ l.gang, m.started = false) ∧ (∃ m ∈ l.gang, m.acked = false) ∧
      ∀ m ∈ l.gang, s.reservedOn 7 m.die = [] := by
    intro k hk
    rcases List.mem_cons.1 hk with rfl | hk
    · exact ⟨gangOf (part false false) 0, rfl, gangWorld (gangOf (part false false) 0) 10000, by decide +kernel⟩
    · rcases List.mem_singleton.1 hk with rfl
      exact ⟨gangOf (part false false) 7, rfl, gangWorld (gangOf (part false false) 7) 10000, by decide +kernel⟩
  refine ⟨fun late => ?_, ⟨gangOf (part true false) 0, gangWorld (gangOf (part true false) 0) 10000, by decide +kernel⟩, late,
    ⟨_, gangWorld (gangOf (part true false) 0) 0, gangOf_here _ _ _⟩,
    fun b => by
      let l : Launch := { gangOf (part true false) 0 with foreign := b }
      exact ⟨l, { gangWorld l 0 with regions := [(2, { region with launch := 7, live := false })] }, by simp [gangWorld, Tbl.get?], rfl,
        by decide +revert +kernel⟩,
    ⟨_, gangWorld (gangOf (part true false) 0) 0, gangOf_here _ _ _, by decide +kernel⟩,
    fun go => ⟨_, part true go, gangWorld (gangOf (part true go) 0) 12000, ⟨gangOf_here _ _ _, by cases go <;> decide +kernel, rfl⟩,
      by cases go <;> decide +kernel, rfl, rfl, rfl, rfl⟩,
    ⟨_, { gangWorld (gangOf (part true false) 0) 0 with regions := [(2, { region with launch := 7 })] }, gangOf_here (part true false) 0 0,
      by decide +kernel, by decide +kernel⟩⟩
  exact ⟨gangWorld (gangOf ⟨0, false, false, false, false, false⟩ 0) (if late then 10001 else 10000), _, _, ⟨0, false, false, false, false, false⟩, [],
    ⟨gangOf_here _ _ _, by decide +kernel, rfl⟩, rfl, rfl, by cases late <;> decide +kernel⟩

/-- Region 0 changed, about a node on CT (2, 2). -/
def regionWorld (n : Node) (f : Region → Region) : State := { with_ n with regions := [(0, f region)] }

/-- An edge without credits in region 0. -/
def full : Edge := { edgeOf 264 400 none with credits := 0 }

/-- Nodes of two replicas, in regions 0 and 1: the leader on CT (2, 2) and its shadow on CT (4, 4). -/
def leader : Node := { two 0 0 with phase := .fetch, repMode := 2, rep := 0, launch := 1, stream := 9 }
def follower (stop : Option Stop) : Node :=
  { Node.start 132 5 0x1000 0x2000 with
    region := 1, repMode := 2, rep := 1, launch := 1, stream := 9, stop := stop, red := { RedRegs.start true with lead := false } }
def saved (n : Nat) : Saved := ⟨n, [], [], [], [], [], [], []⟩
def pair (stop : Option Stop) (l : List Report) (now : Nat) : State :=
  { with_ leader with
    now := BitVec.ofNat 64 now
    nodes := [(66, leader), (132, follower stop)]
    regions := [(0, { region with elems := [66], confirmed := some (saved 3) }), (1, { region with elems := [132], replica := 1, voteCut := some 2 })]
    dies := vset State.reset.dies 0 { State.reset.die 0 with reports := [(4, l)] } }

theorem witness_RegionEvents :
    (∃ (s : State) (t : Nat) (r : Region), s.reg (s.regionOf t) = some r ∧ s.maySwitch t = true) ∧
    (∃ (s : State) (t : Nat) (r : Region) (v : Saved), s.reg (s.regionOf t) = some r ∧ s.staleMarker t = none ∧ s.maySave t = true ∧
      r.saving = some v ∧ s.insOf t = [] ∧ s.outsOf t = []) ∧
    (∃ (h : Nat) (r : Region) (x : FaultRec), Asked fun s => s.reg h = some r ∧ r.rolling = false ∧ r.gated = false ∧ 64 ≤ r.still ∧
      s.faultIn h = some x ∧ x.cause ≠ .uncorrectable) ∧
    (∃ (h : Nat) (r : Region), Asked fun s => s.reg h = some r ∧ s.silent h = true ∧ r.spillEdge = none ∧ (s.assistOf h).getLsbD 3 = true) ∧
    (∃ (h : Nat) (r : Region), Asked fun s => s.reg h = some r ∧ s.silent h = true ∧ r.spillEdge ≠ none) ∧
    (∃ (s : State) (d g t u : Nat) (a b : Report), ((s.die d).reports.getD g [] = [a, b] ∧ s.jury t = [t, u] ∧ a.tile = t ∧ b.tile = u ∧ t ≠ u ∧
      s.awayOf t = [] ∧ s.queuedOf t = 0) ∧ a.sig = b.sig ∧ a.cnt = b.cnt ∧ a.seqNo = b.seqNo ∧
      (s.modDie d fun x => { x with reports := x.reports.erase g }).queuedOf t = 0) ∧
    (∃ (s : State) (d g t u : Nat) (a : Report), (s.die d).reports.getD g [] = [a] ∧ a.tile = t ∧ s.jury t = [t, u] ∧ t ≠ u ∧
      a.tick.toNat + 1000000 ≤ s.now.toNat) ∧
    ∃ (t l : Nat), Asked fun s => s.resyncDue t = true ∧ s.leaderOf (s.regionOf t) = some l := by
  let n1 : Node := { two 0 0 with phase := .fetch }
  let n2 : Node := { two 0 0 with phase := .fetch, atMarker := true }
  let x : FaultRec := ⟨.align, 0, false, 5, 66, 0, 0, 0, 0, 0, 0⟩
  let n3 : Node := { two 0 0 with phase := .fetch, stop := some (.fault x) }
  let a (t k : Nat) : Report := ⟨k, 5, 1, 0, t, 0⟩
  let quiet (e : Option Nat) (r : Region) : Region := { r with quiet := 4096, spillEdge := e }
  let silent (e : Option Nat) : State := { regionWorld n1 (quiet e) with
    edges := [(1, full)], launches := [(1, { launch [2 ^ 60] with assist := 8 })] }
  exact ⟨⟨regionWorld n1 fun r => { r with switching := true }, 66, _, rfl, by decide +kernel⟩,
    ⟨regionWorld n2 fun r => { r with saving := some (saved 1) }, 66, _, saved 1, rfl, by decide +kernel, by decide +kernel, rfl, rfl, rfl⟩,
    ⟨0, _, x, regionWorld n3 fun r => { r with still := 64 }, rfl, by decide +kernel⟩,
    ⟨0, _, silent none, rfl, by decide +kernel⟩, ⟨0, _, silent (some 1), rfl, by decide +kernel⟩,
    ⟨pair none [a 66 0, a 132 1] 0, 0, 4, 66, 132, a 66 0, a 132 1, by decide +kernel⟩,
    ⟨pair none [a 66 0] 1000000, 0, 4, 66, 132, a 66 0, by decide +kernel⟩,
    ⟨132, 0, pair (some .vote) [] 0, by decide +kernel⟩⟩

/-- A fault record of a region. -/
def faultOf (c : Cause) : FaultRec := ⟨c, 0, false, 5, 66, 0, 0, 0, 0, 0, 0⟩
/-- The node that waits for the translation of page 3, and the die's fault with its record. -/
def pageWait : Node := { two 0 0 with stop := some .walk }
def pageWorld : State :=
  { with_ pageWait with
    dies := vset State.reset.dies 0 { State.reset.die 0 with pend := [⟨5, 3 * 65536, 0, 0, false, false, false, 1, 0, 0, 0, 0, none, [.node 66]⟩] } }
/-- Region 1, changed, about a node on CT (2, 2). -/
def region1 (f : Region → Region) : State := { with_ { two 0 0 with region := 1 } with regions := [(1, f region)] }

theorem witness_HostToolEvents :
    let d := 0
    let x : Word := BitVec.ofNat 64 (5 * 2 ^ 40 + 3 * 65536)
    let c : BitVec 12 := x.extractLsb' 40 12
    let page := x.toNat % 2 ^ 40
    let y : Word := 1
    let h := ctlHandle y
    let frozen (s : State) (g : Region) (r : FaultRec) : Prop :=
      ctlEngine y = false ∧ h ≠ 0 ∧ s.reg h = some g ∧ ∃ b, g.frozen = some ⟨r, b⟩
    let asks (s : State) (g : Region) : Prop := s.reg h = some g ∧ g.spillAsked = true ∧ g.die = d
    (∃ (t : Nat) (n : Node) (p : PendFault), Asked fun s => s.pendingAt d c page = some p ∧ p.waiters = [.node t] ∧ (s.die d).unrec = [] ∧
      s.node? t = some n ∧ n.stop = some .walk) ∧
    (∃ (t : Nat) (p : PendFault), Asked fun s => s.pendingAt d c page = some p ∧ p.waiters = [.node t] ∧ s.hasElem t = true) ∧
    (∃ (g : Region) (r : FaultRec), Asked fun s => frozen s g r ∧ r.resumes = true) ∧
    (∃ (g : Region) (r : FaultRec), Asked fun s => frozen s g r ∧ r.cause = .deadlock ∧ s.mayRollBack h = true) ∧
    (∃ (g : Region) (e : Nat × Edge), Asked fun s => asks s g ∧ firstBuffer g (s.fullEdges h) = some e ∧ Tbl.get? e.1 s.edges = some e.2) ∧
    (∃ (g : Region), Asked fun s => s.reg h = some g ∧ g.live = true ∧ g.evicting = none) ∧
    (Asked fun s => s.saveAt (s.preAddr d) = none) ∧
    ∀ fits : Bool, ∃ (k : Nat) (a : SaveArea), Asked fun s => s.saveAt (s.preAddr d) = some (k, a) ∧
      s.mayRestore a h (field y.toNat 25 21) (field y.toNat 20 16) = fits := by
  let frz (c : Cause) (r : Region) : Region := { r with frozen := some ⟨faultOf c, true⟩, confirmed := some (saved 3) }
  let a : SaveArea := ⟨1, region, saved 1, true, [], [], []⟩
  exact ⟨⟨66, pageWait, _, pageWorld, rfl, by decide +kernel⟩, ⟨66, _, pageWorld, rfl, by decide +kernel⟩,
    ⟨_, faultOf .align, region1 (frz .align), ⟨by decide, by decide, rfl, _, rfl⟩, by decide⟩,
    ⟨_, faultOf .deadlock, region1 (frz .deadlock), ⟨by decide, by decide, rfl, _, rfl⟩, rfl, by decide +kernel⟩,
    ⟨_, (1, { full with region := 1 }), { region1 fun r => { r with spillAsked := true } with edges := [(1, { full with region := 1 })] },
      ⟨rfl, rfl, rfl⟩, by decide +kernel⟩,
    ⟨_, region1 id, rfl, rfl, rfl⟩, ⟨State.reset, by decide +kernel⟩,
    fun fits => ⟨0, a, { State.reset with saves := [(0, a)], regions := if fits then [] else [(1, region)] }, by cases fits <;> decide +kernel⟩⟩

theorem witness_RegisterWriteEvents :
    okAcc 0 = true ∧ okAcc 38 = true ∧ okAcc 64 = true ∧ okAcc 575 = true ∧
    (∀ b : Bool, Asked fun s => (s.mmioAt 0 0x10).getLsbD 1 = b) ∧
    (∀ d ∈ [0, 3], ∀ b : Bool, Asked fun s => (s.die d).tlbBusy = b) ∧
    (∀ d ∈ [0, 3], Asked fun s => (s.die d).fltDefer = [] ∧ (s.die d).pend = []) ∧
    (∀ b : Bool, Asked fun s => (s.mmioAt 0 0x30).getLsbD 3 = b) ∧
    (∃ x : Word, x.toNat % 4 ≠ 3) ∧ (∃ x : Word, x.getLsbD 0 = true) ∧
    ∀ off ∈ [0x18, 2 ^ 36 + 0x80], ∃ (s s1 : State) (m : Master) (k o : Nat), s.home (off / 2 ^ 36 % 4) (s.global (0x1FC000000000 + off % 2 ^ 38)) = .mmio k o ∧
      s.permit (off / 2 ^ 36 % 4) m (s.global (0x1FC000000000 + off % 2 ^ 38)) 2 = (true, s1) ∧ o % 8 = 0 := by
  refine ⟨rfl, rfl, rfl, rfl, fun b => ⟨{ State.reset with mmio := [(0x10, if b then 2 else 0)] }, by cases b <;> decide⟩, fun d hd b => ?_,
    fun d hd => ⟨State.reset, by revert d; decide +kernel⟩,
    fun b => ⟨{ State.reset with mmio := [(0x30, if b then 8 else 0)] }, by cases b <;> decide⟩, ⟨1, by decide⟩, ⟨1, by decide⟩, fun off ho => ?_⟩
  · refine ⟨{ State.reset with dies := (List.range 4).foldl (fun v k => vset v k { State.reset.die k with tlbBusy := b }) State.reset.dies }, ?_⟩
    revert d; cases b <;> decide +kernel
  · have hp : (State.reset.permit (off / 2 ^ 36 % 4) mgmt (State.reset.global (0x1FC000000000 + off % 2 ^ 38)) 2).1 = true := by
      revert off; decide +kernel
    have hh : ∃ k o, State.reset.home (off / 2 ^ 36 % 4) (State.reset.global (0x1FC000000000 + off % 2 ^ 38)) = .mmio k o ∧ o % 8 = 0 := by
      rcases List.mem_cons.1 ho with rfl | ho
      · exact ⟨0, 0x18, by decide +kernel⟩
      · rcases List.mem_singleton.1 ho with rfl
        exact ⟨1, 0x80, by decide +kernel⟩
    obtain ⟨k, o, h1, h2⟩ := hh
    exact ⟨State.reset, _, mgmt, k, o, h1, Prod.ext hp rfl, h2⟩

/-- The module with its host links up. -/
def hosted : State := { State.reset with mmio := [(0x08, BitVec.ofNat 64 (2 ^ 14 + 2 ^ 15))] }

theorem hostWords_watch (s : State) (pa n : Nat) :
    (s.hostWords pa n).nodes = s.nodes ∧ (s.hostWords pa n).queueWatches = s.queueWatches := by
  induction n generalizing s pa with
  | zero => exact ⟨rfl, rfl⟩
  | succ n ih =>
    rw [State.hostWords, (ih _ _).1, (ih _ _).2]
    unfold State.hostWord
    simp only
    split <;> exact ⟨rfl, rfl⟩

theorem witness_OutsideEvents :
    (∀ line ∈ [0x3D00000000], ∃ (s : State), s.snooped line = true ∧ ∃ u : State,
      u = (((s.dropLine (s.global (128 * line) / 128)).setHostLine line .m).hand (.answer line 0)).hostWords (s.global (128 * line)) 16 ∧
      u.watched (s.global (128 * line)) = false) ∧
    (∀ link ∈ [0, 1], ∃ (s s1 : State) (off n : Nat) (c : Option (BitVec 12)) (b : List Byte), s.hostUp link = true ∧ off < 0x1E8000000000 ∧
      s.mmioBad (proxyDie link) (s.global off) n = false ∧
      s.homeReadAll (proxyDie link) (hostMaster c) false (pieces (s.global off) n (n / 128 + 2)) = (.ok b, s1)) ∧
    (∀ off ∈ [0x40, 0x1F8000100000], ∃ (s s1 : State) (n : Nat) (c : Option (BitVec 12)) (b : List Byte),
      s.hostUp 0 = true ∧ s.hostIsCxl 0 = true ∧ (off < 0x8000000000 ∨ (0x1F8000000000 ≤ off ∧ off < 0x1F8100000000)) ∧
      s.mmioBad (proxyDie 0) (s.global off) n = false ∧
      s.homeReadAll (proxyDie 0) (hostMaster c) false (pieces (s.global off) n (n / 128 + 2)) = (.ok b, s1)) ∧
    (∃ (port k : Nat), Asked fun s => (Tbl.get? port s.peerSeq).getD 0 ≠ k) ∧
    (∃ (port k : Nat), Asked fun s => (Tbl.get? port s.peerSeq).getD 0 = k ∧ (s.mmioAt 0 0x08).getLsbD (16 + port) = false) ∧
    (∃ (t pa : Nat) (n : Node), Asked fun s => s.node? t = some n ∧ n.late = none ∧ pa / 2 ^ 45 ≠ s.dom ∧
      ∀ i ∈ s.agenda, isValueTo t i = false) ∧
    (∃ (s s1 : State) (b : List Byte), s.homeReadAll 0 ⟨0, 7⟩ false (pieces (s.global (0x1FC000000000 + 8)) 8 2) = (.ok b, s1)) ∧
    ∃ (s s1 : State) (x : Word), s.regWrite 0 ⟨0, 7⟩ (s.global (0x1FC000000000 + 0x18)) 8 x = (.ok (), s1) := by
  refine ⟨fun line hl => ⟨hosted, ?_, _, rfl, ?_⟩, fun link hl => ?_, fun off ho => ?_, ⟨0, 1, State.reset, by decide⟩, ⟨0, 0, State.reset, by decide⟩,
    ⟨66, 5 * 2 ^ 45, _, with_ (two 0 0), here _, rfl, by decide +kernel, fun i hi => nomatch hi⟩, ?_, ?_⟩
  · rcases List.mem_singleton.1 hl with rfl
    decide +kernel
  · rw [State.watched, (hostWords_watch _ _ _).1, (hostWords_watch _ _ _).2]
    rcases List.mem_singleton.1 hl with rfl
    decide +kernel
  · obtain ⟨b, h, _⟩ := of_pair (x := hosted.homeReadAll (proxyDie link) (hostMaster none) false (pieces (hosted.global 0x40) 8 (8 / 128 + 2)))
      (f := fun _ _ => true) (by revert link; decide +kernel)
    exact ⟨hosted, _, 0x40, 8, none, b, by clear h; revert link; decide +kernel, by decide, by clear h; revert link; decide +kernel, h⟩
  · obtain ⟨b, h, _⟩ := of_pair (x := hosted.homeReadAll (proxyDie 0) (hostMaster none) false
      (pieces (hosted.global off) 8 (8 / 128 + 2))) (f := fun _ _ => true) (by revert off; decide +kernel)
    exact ⟨hosted, _, 8, none, b, by decide +kernel, by decide +kernel, by clear h; revert off; decide,
      by clear h; revert off; decide +kernel, h⟩
  · obtain ⟨b, h, _⟩ := of_pair (x := State.reset.homeReadAll 0 ⟨0, 7⟩ false (pieces (State.reset.global (0x1FC000000000 + 8)) 8 2))
      (f := fun _ _ => true) (by decide +kernel)
    exact ⟨_, _, b, h⟩
  · obtain ⟨b, h, _⟩ := of_pair (x := State.reset.regWrite 0 ⟨0, 7⟩ (State.reset.global (0x1FC000000000 + 0x18)) 8 2000)
      (f := fun _ _ => true) (by decide +kernel)
    exact ⟨_, _, 2000, h⟩

theorem witness_FailureEvents :
    (Asked fun s => s.locked = false ∧ s.sinceSync = 0) ∧ (Asked fun s => s.locked = true) ∧ (Asked fun s => s.locked = false ∧ 0 < s.sinceSync) ∧
    (Asked fun s => s.locked = true ∧ 10000000 ≤ s.sinceSync) ∧
    (∀ d ∈ [0, 3], ∀ e ∈ [1, 4], ∀ p ∈ [0, 63], Asked fun s =>
      d < 4 ∧ 1 ≤ e ∧ e ≤ 4 ∧ ((s.die d).patch p).pinned = 0 ∧ ((s.die d).patch p).stretched = false ∧
        ((s.die d).patch p).used + e ≤ 2048) ∧
    (∀ w ∈ [4001, 0], ∃ celsius : Nat, Asked fun s => ((s.mmioAt 0 0x18).toNat < w ∨ 100 < celsius) ∧ ((s.die 0).patch 0).pinned = 0) ∧
    (∀ d ∈ [0, 3], Asked fun s => s.dieDead d = false ∧ ∀ p ∈ s.regions, ∀ t ∈ p.2.elems, dieOf t ≠ d) ∧
    (Asked fun s => (s.mmioAt 0 0x30).toNat % 4 = 0) ∧ (Asked fun s => 2 ≤ s.debugFails ∧ (s.mmioAt 0 0x30).toNat % 4 = 0) ∧
    (Asked fun s => s.debugFails < 2) :=
  ⟨⟨State.reset, rfl, rfl⟩, ⟨{ State.reset with locked := true }, rfl⟩, ⟨{ State.reset with sinceSync := 1 }, rfl, by decide⟩, ⟨{ State.reset with locked := true, sinceSync := 10000000 }, rfl, by decide⟩,
    fun d hd e he p hp => ⟨State.reset, by revert d e p; decide +kernel⟩,
    fun w hw => ⟨101, State.reset, by revert w; decide +kernel⟩,
    fun d hd => ⟨State.reset, by revert d; decide +kernel, fun p hp => nomatch hp⟩, ⟨State.reset, by decide +kernel⟩,
    ⟨{ State.reset with debugFails := 2 }, by decide, by decide +kernel⟩, ⟨State.reset, by decide⟩⟩

/-- The worked translation of spec/03_hbm_and_translation.md: 0x2_4000_1234 lies in stack 1 at stack address 0x4800_0234. -/
theorem test_stackAddr : State.reset.stackOf 0x240001234 = 1 ∧ State.reset.stackAddr 0x240001234 = 0x48000234 := by decide +kernel

end Sys2Proof.Tests
end

section
/-! SUPPORT. The integer operations of R268 and R274 to R281 in exact integers, bits and natural numbers, and what an instruction
that computes its result answers where it fires. -/

namespace Sys2Proof

/-! ### Operands and results (R268) -/

theorem Ty.width_le (t : Ty) : t.width ≤ 64 := by cases t <;> decide

/-- val in exact integers (R268). -/
theorem Ty.val_eq (t : Ty) (x : Word) :
    t.val x = if t.isSigned then Int.bmod x.toNat (2 ^ t.width) else (x.toNat % 2 ^ t.width : Nat) := by
  unfold Ty.val
  split
  · rw [BitVec.toInt_eq_toNat_bmod, BitVec.toNat_setWidth, Int.natCast_emod, Int.emod_bmod]
  · rw [BitVec.toNat_setWidth]

/-- What out emits for a signed type is congruent to the result, and in the type's range (R268). -/
theorem Ty.toInt_out (t : Ty) (v : Int) (h : t.isSigned = true) : (t.out v).toInt = Int.bmod v (2 ^ t.width) := by
  rw [Ty.out, Ty.ext, if_pos h, BitVec.toInt_signExtend_of_le t.width_le, Ty.wrap, BitVec.toInt_ofInt]

/-- What out emits for an unsigned type is the result's remainder (R268). -/
theorem Ty.toNat_out (t : Ty) (v : Int) (h : t.isSigned = false) :
    ((t.out v).toNat : Int) = v % (2 ^ t.width : Nat) := by
  have hpos : ((2 ^ t.width : Nat) : Int) ≠ 0 := by exact_mod_cast (Nat.two_pow_pos t.width).ne'
  rw [Ty.out, Ty.ext, if_neg (by simp [h]), BitVec.toNat_setWidth_of_le t.width_le, Ty.wrap, BitVec.toNat_ofInt,
    Int.toNat_of_nonneg (Int.emod_nonneg v hpos)]

theorem Ty.lo_le_hi (t : Ty) : t.lo ≤ t.hi := by cases t <;> decide

/-- sat is the nearest value between the type's least and greatest (R268). -/
theorem Ty.clamp_eq (t : Ty) (v : Int) : t.clamp v = min (max v t.lo) t.hi := by
  have h := t.lo_le_hi
  unfold Ty.clamp
  split
  · omega
  · split <;> omega

/-- The low bits of an operand under .n64 are all of it. -/
theorem Ty.low_n64 (x : Word) : Ty.low .n64 x = x := BitVec.setWidth_eq x

/-- A result of 64 bits is emitted under .n64 as it is. -/
theorem Ty.ext_n64 (x : Word) : Ty.ext .n64 x = x := BitVec.setWidth_eq x

/-- Under .n64, the type of the I forms, an operation on the low bits of its operand is one on the operand (R273). -/
theorem Ty.ext_low_n64 (f : Word → Word) (x : Word) : Ty.ext .n64 (f (Ty.low .n64 x)) = f x :=
  (Ty.ext_n64 _).trans (congrArg f (Ty.low_n64 x))

/-- Under .n64, an operation on the low bits of two operands is one on the operands (R273). -/
theorem Ty.ext_low_low_n64 (f : Word → Word → Word) (x y : Word) :
    Ty.ext .n64 (f (Ty.low .n64 x) (Ty.low .n64 y)) = f x y :=
  (Ty.ext_n64 _).trans (congrArg₂ f (Ty.low_n64 x) (Ty.low_n64 y))

/-! ### Rotation, minimum, maximum and relations (R276, R278) -/

/-- ROT turns its bits toward bit w − 1, and leaves them where they are for the amount 0 (R276). -/
theorem Ty.opRot_eq (t : Ty) (l r : Word) : t.opRot l r = (t.low l).rotateLeft (t.amount r) := by
  rw [Ty.opRot, BitVec.rotateLeft_def, Ty.amount, Nat.mod_mod]

theorem Ty.opMin_eq (t : Ty) (l r : Word) : t.opMin l r = t.wrap (min (t.val l) (t.val r)) := by
  rw [Ty.opMin, min_def]

theorem Ty.opMax_eq (t : Ty) (l r : Word) : t.opMax l r = t.wrap (max (t.val l) (t.val r)) := by
  rw [Ty.opMax, max_comm, max_def]

/-- CMP's result is the only one that is 1 where the relation holds and 0 where it does not (R278). -/
theorem eq_flag_of_iff {b : Bool} {P : Prop} {v : Word} (h : b = true ↔ P) (hv : (P → v = 1) ∧ (¬ P → v = 0)) :
    v = flag b := by
  cases b with
  | true => exact hv.1 (h.1 rfl)
  | false => exact hv.2 fun hp => nomatch h.2 hp

/-! ### Counts (R277) -/

theorem bitAt_eq_testBit (x i : Nat) : bitAt x i = x.testBit i := Nat.testBit_eq_decide_div_mod_eq.symm

/-- The leading zeros of n bits are those above the highest one bit. -/
theorem clzNat_eq (x n : Nat) (h : x < 2 ^ n) : clzNat x n = n - if x = 0 then 0 else x.log2 + 1 := by
  induction n with
  | zero => simp [clzNat]
  | succ n ih =>
    rw [clzNat, bitAt_eq_testBit]
    by_cases hx : x < 2 ^ n
    · rw [Nat.testBit_lt_two_pow hx, ih hx, if_neg Bool.false_ne_true]
      by_cases h0 : x = 0
      · simp [h0]
      · have hlog : x.log2 < n := (Nat.log2_lt h0).2 hx
        rw [if_neg h0]
        omega
    · have h0 : x ≠ 0 := by have := Nat.two_pow_pos n; omega
      have hlog : x.log2 = n := (Nat.log2_eq_iff h0).2 ⟨by omega, h⟩
      have htop : x.testBit n = true := hlog ▸ Nat.testBit_log2 h0
      simp [htop, h0, hlog]

/-- The one bits among n bits are those whose test holds. -/
theorem popcNat_eq (x n : Nat) : popcNat x n = ((List.range n).filter fun k => x.testBit k).length := by
  induction n with
  | zero => rfl
  | succ n ih =>
    rw [popcNat, bitAt_eq_testBit, ih, List.range_succ, List.filter_append, List.length_append, Nat.add_comm]
    cases h : x.testBit n <;> simp [b2n, h]

/-! ### Bit fields and addresses (R280, R281) -/

theorem bfCtl_eq (c : Word) :
    bfCtl c = (c.toNat % 64, min (c.toNat / 256 % 128) (64 - c.toNat % 64)) := by
  simp [bfCtl, field]

/-- A field sign-extended is its number taken as signed at its length (R280). -/
theorem signExtend_field (x : Word) (p n : Nat) :
    (x.extractLsb' p n).signExtend 64 = BitVec.ofInt 64 (Int.bmod (x.toNat / 2 ^ p % 2 ^ n : Nat) (2 ^ n)) := by
  rw [BitVec.signExtend, BitVec.toInt_eq_toNat_bmod, BitVec.extractLsb'_toNat, Nat.shiftRight_eq_div_pow]

/-- A field zero-extended is its number (R280). -/
theorem setWidth_field (x : Word) (p n : Nat) :
    (x.extractLsb' p n).setWidth 64 = BitVec.ofNat 64 (x.toNat / 2 ^ p % 2 ^ n) := by
  rw [← BitVec.ofNat_toNat, BitVec.extractLsb'_toNat, Nat.shiftRight_eq_div_pow]

/-- BFX with the position and the length of its field written out (R280). -/
theorem Ty.opBfx_eq (t : Ty) (l c : Word) :
    let p := c.toNat % 64
    let n := min (c.toNat / 256 % 128) (64 - p)
    let f := l.toNat / 2 ^ p % 2 ^ n
    t.opBfx l c = if n = 0 then 0
      else if t.isSigned then BitVec.ofInt 64 (Int.bmod f (2 ^ n)) else BitVec.ofNat 64 f := by
  simp only [Ty.opBfx, bfCtl_eq, signExtend_field, setWidth_field]
  rfl

/-- BFI with the position and the length of its field written out (R280). -/
theorem opBfi_eq (l r c : Word) :
    let p := c.toNat % 64
    let n := min (c.toNat / 256 % 128) (64 - p)
    let m : Word := BitVec.ofNat 64 ((2 ^ n - 1) * 2 ^ p)
    opBfi l r c = (l &&& ~~~m) ||| ((r <<< p) &&& m) := by
  rw [opBfi, bfCtl_eq]

/-- LEA is the exact sum mod 2^64 (R281). -/
theorem Ty.opLea_eq (t : Ty) (sc : Nat) (l r : Word) : t.opLea sc l r = BitVec.ofInt 64 (l.toNat + t.val r * 2 ^ sc) := by
  rw [Ty.opLea, BitVec.ofInt_add, BitVec.ofInt_natCast, BitVec.ofNat_toNat, BitVec.setWidth_eq]
  norm_cast

end Sys2Proof

namespace Sys2Proof.Claims

open Sys2Proof.Machine

/-- An instruction that computes f of its operands gives f of them. -/
theorem Gives.of_compute {i : Instr} {f : SlotRt → Val} {v : Node → SlotRt → Val}
    (he : ∀ s, exec i s = .next (s.compute i f)) (hv : ∀ n r, v n r = f r) : Gives i v := by
  intro s n b hf hd
  rw [hv] at hd
  rw [he, State.compute_ok s n i f b hf.here hf.noNull hf.pred hd]
  rfl

end Sys2Proof.Claims
end

section
/-! SUPPORT. The integer helpers and instructions (R268, R273 to R281). -/

namespace Sys2Proof.Proofs

open Sys2Proof.Machine Sys2Proof.Claims

/-- Settles O5: each helper of R268 has its equation in exact integers. -/
theorem operandHelpersOfIntegers : Obligations.OperandHelpersOfIntegers :=
  fun ty x v _ => ⟨ty.val_eq x, ty.toInt_out v, ty.toNat_out v, ty.clamp_eq v⟩

/-- ADD, SUB, MUL and MULH compute their entries' results as the entries write them. -/
theorem addSubMulResults : AddSubMulResults := fun p t u ty sat imm k =>
  ⟨.of_compute (exec_add p t u ty sat) fun _ _ => rfl,
    .of_compute (exec_addX p t u ty sat imm) fun _ _ => rfl,
    .of_compute (exec_addI p t k) fun _ _ => rfl,
    .of_compute (exec_sub p t u ty sat) fun _ _ => rfl,
    .of_compute (exec_subX p t u ty sat imm) fun _ _ => rfl,
    .of_compute (exec_mul p t u ty sat) fun _ _ => rfl,
    .of_compute (exec_mulX p t u ty sat imm) fun _ _ => rfl,
    .of_compute (exec_mulI p t k) fun _ _ => rfl,
    .of_compute (exec_mulh p t u ty) fun _ _ => rfl,
    .of_compute (exec_mulhX p t u ty imm) fun _ _ => rfl⟩

/-- DIV and REM compute the quotient and the remainder of R275 with their border cases. -/
theorem divRemResults : DivRemResults := fun p t u ty imm =>
  ⟨.of_compute (exec_div p t u ty) fun _ _ => rfl,
    .of_compute (exec_divX p t u ty imm) fun _ _ => rfl,
    .of_compute (exec_rem p t u ty) fun _ _ => rfl,
    .of_compute (exec_remX p t u ty imm) fun _ _ => rfl⟩

/-- Settles O6. -/
theorem integerArithmeticResults : Obligations.IntegerArithmeticResults := ⟨addSubMulResults, divRemResults⟩

/-- The logic instructions act on the low bits; an I form on all 64 (R273). -/
theorem logicResults : LogicResults := fun p t u ty imm k =>
  ⟨.of_compute (exec_and p t u ty) fun _ _ => rfl,
    .of_compute (exec_andX p t u ty imm) fun _ _ => rfl,
    .of_compute (exec_andI p t k) fun _ r => congrArg Val.scalar (Ty.ext_low_low_n64 (· &&& ·) r.l (sx k)).symm,
    .of_compute (exec_or p t u ty) fun _ _ => rfl,
    .of_compute (exec_orX p t u ty imm) fun _ _ => rfl,
    .of_compute (exec_orI p t k) fun _ r => congrArg Val.scalar (Ty.ext_low_low_n64 (· ||| ·) r.l (sx k)).symm,
    .of_compute (exec_xor p t u ty) fun _ _ => rfl,
    .of_compute (exec_xorX p t u ty imm) fun _ _ => rfl,
    .of_compute (exec_xorI p t k) fun _ r => congrArg Val.scalar (Ty.ext_low_low_n64 (· ^^^ ·) r.l (sx k)).symm,
    .of_compute (exec_andn p t u ty) fun _ _ => rfl,
    .of_compute (exec_andnX p t u ty imm) fun _ _ => rfl⟩

/-- The shifts act on the low bits, by an amount below w; an I form on all 64 (R273). -/
theorem shiftRotateResults : ShiftRotateResults := fun p t u ty imm k =>
  ⟨.of_compute (exec_shl p t u ty) fun _ _ => rfl,
    .of_compute (exec_shlX p t u ty imm) fun _ _ => rfl,
    .of_compute (exec_shlI p t k) fun _ r => congrArg Val.scalar (Ty.ext_low_n64 (· <<< amt .n64 (sx k)) r.l).symm,
    .of_compute (exec_shr p t u ty) fun _ _ => rfl,
    .of_compute (exec_shrX p t u ty imm) fun _ _ => rfl,
    .of_compute (exec_shrI p t k) fun _ r => congrArg Val.scalar (Ty.ext_low_n64 (· >>> amt .n64 (sx k)) r.l).symm,
    .of_compute (exec_sar p t u ty) fun _ _ => rfl,
    .of_compute (exec_sarX p t u ty imm) fun _ _ => rfl,
    .of_compute (exec_sarI p t k) fun _ r => congrArg Val.scalar (Ty.ext_low_n64 (·.sshiftRight (amt .n64 (sx k))) r.l).symm,
    .of_compute (exec_rot p t u ty) fun _ r => congrArg (bitsOut ty) (ty.opRot_eq r.l r.r).symm,
    .of_compute (exec_rotX p t u ty imm) fun _ r => congrArg (bitsOut ty) (ty.opRot_eq r.l (ty.imm imm)).symm⟩

/-- Settles O7. -/
theorem logicShiftResults : Obligations.LogicShiftResults := ⟨logicResults, shiftRotateResults⟩

/-- Settles O8: the relation of each condition is the model's, and the rest are the minimum, the maximum and the chosen value. -/
theorem compareSelectResults : Obligations.CompareSelectResults := by
  intro p t u ty c imm huo hor rel
  have hrel : ∀ a b, c.holdsInt a b = true ↔ rel a b := by
    intro a b
    cases c with
    | uo => exact absurd rfl huo
    | or => exact absurd rfl hor
    | eq | ne | lt | le | gt | ge => simp [Cond.holdsInt, rel]
  exact ⟨.of_compute (exec_min p t u ty) fun _ r => congrArg (bitsOut ty) (ty.opMin_eq r.l r.r).symm,
    .of_compute (exec_minX p t u ty imm) fun _ r => congrArg (bitsOut ty) (ty.opMin_eq r.l (ty.imm imm)).symm,
    .of_compute (exec_max p t u ty) fun _ r => congrArg (bitsOut ty) (ty.opMax_eq r.l r.r).symm,
    .of_compute (exec_maxX p t u ty imm) fun _ r => congrArg (bitsOut ty) (ty.opMax_eq r.l (ty.imm imm)).symm,
    fun _ hv => .of_compute (exec_cmp p t u ty c) fun n r => congrArg Val.scalar (eq_flag_of_iff (hrel _ _) (hv n r)),
    fun _ hv => .of_compute (exec_cmpX p t u ty c imm) fun n r => congrArg Val.scalar (eq_flag_of_iff (hrel _ _) (hv n r)),
    .of_compute (exec_sel t u ty) fun _ _ => rfl,
    .of_compute (exec_selX t u ty imm) fun _ _ => rfl⟩

/-- The counts are of the w low bits, and EXT is out of val (R277). -/
theorem countExtendResults : CountExtendResults := fun p t u ty =>
  ⟨.of_compute (exec_clz p t u ty) fun _ r =>
      congrArg (fun k => Val.scalar (BitVec.ofNat 64 k)) (clzNat_eq _ _ (Nat.mod_lt r.l.toNat (Nat.two_pow_pos ty.width))).symm,
    .of_compute (exec_popc p t u ty) fun _ _ => congrArg (fun k => Val.scalar (BitVec.ofNat 64 k)) (popcNat_eq _ _).symm,
    .of_compute (exec_ext p t u ty) fun _ _ => rfl⟩

/-- The bit fields and LEA by their equations (R280, R281). -/
theorem fieldAddressResults : FieldAddressResults := fun p t u ty sc imm =>
  ⟨.of_compute (exec_bfx p t u ty) fun _ r => congrArg Val.scalar (ty.opBfx_eq r.l r.r).symm,
    .of_compute (exec_bfxX p t u ty imm) fun _ r => congrArg Val.scalar (ty.opBfx_eq r.l (ty.imm imm)).symm,
    .of_compute (exec_bfi t u ty) fun _ r => congrArg Val.scalar (opBfi_eq r.l r.r r.g).symm,
    .of_compute (exec_bfiX t u ty imm) fun _ r => congrArg Val.scalar (opBfi_eq r.l (ty.imm imm) r.g).symm,
    .of_compute (exec_lea p t u ty sc) fun _ r => congrArg Val.scalar (ty.opLea_eq sc.toNat r.l r.r).symm,
    .of_compute (exec_leaX p t u ty sc imm) fun _ r => congrArg Val.scalar (ty.opLea_eq sc.toNat r.l (ty.imm imm)).symm⟩

/-- Settles O9. -/
theorem countFieldAddressResults : Obligations.CountFieldAddressResults := ⟨countExtendResults, fieldAddressResults⟩

end Sys2Proof.Proofs
end

section
/-! SUPPORT. The decoder against the encoder (R16 to R19, R36 to R46): each field of a written word is read back, each code names what
it was made from, and so each group's reader gives back the instruction whose words it reads. -/

namespace Sys2Proof.Laws

open Sys2Proof

/-! ### Codes read back -/

@[simp] theorem predOfCode_code (p : Pred) : Pred.ofCode p.code = some p := by cases p <;> rfl
@[simp] theorem tyOfCode_code (t : Ty) : Ty.ofCode t.code = some t := by cases t <;> rfl
@[simp] theorem scopeOfCode_code (s : Scope) : Scope.ofCode s.code = some s := by cases s <;> rfl
@[simp] theorem condOfCode_code (c : Cond) : Cond.ofCode c.code = some c := by cases c <;> rfl
@[simp] theorem sgnOpOfCode_code (o : SgnOp) : SgnOp.ofCode o.code = some o := by cases o <;> rfl
@[simp] theorem redOpOfCode_code (o : RedOp) : RedOp.ofCode o.code = some o := by cases o <;> rfl
@[simp] theorem vOpOfCode_code (o : VOp) : VOp.ofCode o.code = some o := by cases o <;> rfl
@[simp] theorem atomOpOfCode_code (o : AtomOp) : AtomOp.ofCode o.code = some o := by cases o <;> rfl
@[simp] theorem invKindOfCode_bits (k : InvKind) : InvKind.ofCode k.bits = some k := by cases k <;> rfl
@[simp] theorem policyOfCode_code (p : Policy) : Policy.ofCode p.code = p := by cases p <;> rfl

@[simp] theorem fModOfCode_code (m : FMod) : FMod.ofCode m.code = some m := by
  obtain ⟨r, s⟩ := m
  cases r <;> cases s <;> rfl

/-- The three low code bits name an integer type (R41). -/
theorem tyOfCode3_code (t : Ty) (h : t.isInt = true) : Ty.ofCode3 (t.code.setWidth 3) = t := by
  cases t <;> first | rfl | exact absurd h (by decide)

/-- ATOMO's two bits name the operations that it takes (R188). -/
theorem atomOpOfCode2_code2 {t : Ty} (o : AtomOp) (h : atomoOk t o = true) : AtomOp.ofCode2 o.code2 = o := by
  cases o <;> first | rfl | exact absurd h (by cases t <;> decide)

/-! ### Fields of a word read back -/

@[simp] theorem t0_wG (op : BitVec 8) (p : Pred) (t u : Tgt) (x : BitVec 8) : t0 (wG op p t u x) = t := by
  simp (disch := decide) only [t0, wG, BitVec.extractLsb'_append_eq_of_le, BitVec.extractLsb'_append_eq_of_add_le,
    BitVec.extractLsb'_eq_self, Nat.reduceSub]

@[simp] theorem t1_wG (op : BitVec 8) (p : Pred) (t u : Tgt) (x : BitVec 8) : t1 (wG op p t u x) = u := by
  simp (disch := decide) only [t1, wG, BitVec.extractLsb'_append_eq_of_le, BitVec.extractLsb'_append_eq_of_add_le,
    BitVec.extractLsb'_eq_self, Nat.reduceSub]

@[simp] theorem xop_wG (op : BitVec 8) (p : Pred) (t u : Tgt) (x : BitVec 8) : xop (wG op p t u x) = x := by
  simp (disch := decide) only [xop, wG, BitVec.extractLsb'_append_eq_of_add_le,
    BitVec.extractLsb'_eq_self]

@[simp] theorem ty4_wG (op : BitVec 8) (p : Pred) (t u : Tgt) (x : BitVec 8) : ty4 (wG op p t u x) = x.extractLsb' 4 4 := by
  simp (disch := decide) only [ty4, wG, BitVec.extractLsb'_append_eq_of_add_le]

@[simp] theorem mod4_wG (op : BitVec 8) (p : Pred) (t u : Tgt) (x : BitVec 8) : mod4 (wG op p t u x) = x.extractLsb' 0 4 := by
  simp (disch := decide) only [mod4, wG, BitVec.extractLsb'_append_eq_of_add_le]

@[simp] theorem acc_wG (op : BitVec 8) (p : Pred) (t u : Tgt) (x : BitVec 8) : acc (wG op p t u x) = x.extractLsb' 6 2 := by
  simp (disch := decide) only [acc, wG, BitVec.extractLsb'_append_eq_of_add_le]

@[simp] theorem sc3_wG (op : BitVec 8) (p : Pred) (t u : Tgt) (x : BitVec 8) : sc3 (wG op p t u x) = x.extractLsb' 5 3 := by
  simp (disch := decide) only [sc3, wG, BitVec.extractLsb'_append_eq_of_add_le]

@[simp] theorem t0_wI (op : BitVec 8) (p : Pred) (t : Tgt) (x : BitVec 15) : t0 (wI op p t x) = t := by
  simp (disch := decide) only [t0, wI, BitVec.extractLsb'_append_eq_of_le, BitVec.extractLsb'_append_eq_of_add_le,
    BitVec.extractLsb'_eq_self, Nat.reduceSub]

@[simp] theorem imm15_wI (op : BitVec 8) (p : Pred) (t : Tgt) (x : BitVec 15) : imm15 (wI op p t x) = x := by
  simp (disch := decide) only [imm15, wI, BitVec.extractLsb'_append_eq_of_add_le,
    BitVec.extractLsb'_eq_self]

@[simp] theorem disp22_wB (op : BitVec 8) (p : Pred) (d : BitVec 22) : disp22 (wB op p d) = d := by
  simp (disch := decide) only [disp22, wB, BitVec.extractLsb'_append_eq_of_add_le,
    BitVec.extractLsb'_eq_self]

@[simp] theorem t0_wC (op : BitVec 8) (p : Pred) (t u : Tgt) (k : BitVec 2) (n : BitVec 6) : t0 (wC op p t u k n) = t := by
  simp (disch := decide) only [t0, wC, BitVec.extractLsb'_append_eq_of_le, BitVec.extractLsb'_append_eq_of_add_le,
    BitVec.extractLsb'_eq_self, Nat.reduceSub]

@[simp] theorem t1_wC (op : BitVec 8) (p : Pred) (t u : Tgt) (k : BitVec 2) (n : BitVec 6) : t1 (wC op p t u k n) = u := by
  simp (disch := decide) only [t1, wC, BitVec.extractLsb'_append_eq_of_le, BitVec.extractLsb'_append_eq_of_add_le,
    BitVec.extractLsb'_eq_self, Nat.reduceSub]

@[simp] theorem sel_wC (op : BitVec 8) (p : Pred) (t u : Tgt) (k : BitVec 2) (n : BitVec 6) : sel (wC op p t u k n) = n := by
  simp (disch := decide) only [sel, wC, BitVec.extractLsb'_append_eq_of_add_le,
    BitVec.extractLsb'_eq_self]

@[simp] theorem t0_wM (op : BitVec 8) (p : Pred) (t : Tgt) (m : MOff) : t0 (wM op p t m) = t := by
  simp (disch := decide) only [t0, wM, BitVec.extractLsb'_append_eq_of_le, BitVec.extractLsb'_append_eq_of_add_le,
    BitVec.extractLsb'_eq_self, Nat.reduceSub]

@[simp] theorem moff_wM (op : BitVec 8) (p : Pred) (t : Tgt) (m : MOff) : moff (wM op p t m) = m := by
  simp (disch := decide) only [moff, wM, BitVec.extractLsb'_append_eq_of_le, BitVec.extractLsb'_append_eq_of_add_le,
    BitVec.extractLsb'_eq_self, Nat.reduceSub]

theorem attr_wA (a : Attr) (x : BitVec 21) : attr (wA a x) = some a := by
  have hty : (wA a x).extractLsb' 28 4 = a.ty.code := by
    simp (disch := decide) only [wA, BitVec.extractLsb'_append_eq_of_le, BitVec.extractLsb'_eq_self, Nat.reduceSub]
  have hsc : (wA a x).extractLsb' 23 3 = a.scope.code := by
    simp (disch := decide) only [wA, BitVec.extractLsb'_append_eq_of_le, BitVec.extractLsb'_append_eq_of_add_le,
      BitVec.extractLsb'_eq_self, Nat.reduceSub]
  have hpol : (wA a x).extractLsb' 26 2 = a.pol.code := by
    simp (disch := decide) only [wA, BitVec.extractLsb'_append_eq_of_le, BitVec.extractLsb'_append_eq_of_add_le,
      BitVec.extractLsb'_eq_self, Nat.reduceSub]
  have hacq : (wA a x).getLsbD 21 = a.ord.acq := by
    simp only [wA, BitVec.getLsbD_append, b1]
    cases a.ord.acq <;> rfl
  have hrel : (wA a x).getLsbD 22 = a.ord.rel := by
    simp only [wA, BitVec.getLsbD_append, b1]
    cases a.ord.rel <;> rfl
  unfold attr
  rw [hty, hsc, hpol, hacq, hrel, tyOfCode_code, scopeOfCode_code, policyOfCode_code]
  rfl

/-- The spec field of the word of R44 is read back bit by bit, and so is each part of it. -/
@[simp] theorem specPart_wA (a : Attr) (x : BitVec 21) (i n : Nat) (h : i + n ≤ 21) :
    (wA a x).extractLsb' i n = x.extractLsb' i n :=
  BitVec.extractLsb'_append_eq_of_add_le h

@[simp] theorem specLow_wA (a : Attr) (x : BitVec 21) (n : Nat) (h : n ≤ 21) : (wA a x).setWidth n = x.extractLsb' 0 n := by
  rw [BitVec.setWidth_eq_extractLsb' (by omega), specPart_wA a x 0 n (by omega)]

@[simp] theorem specBit_wA (a : Attr) (x : BitVec 21) (i : Nat) (h : i < 21) : (wA a x)[i] = x[i] := by
  rw [← BitVec.getLsbD_eq_getElem, wA, BitVec.getLsbD_append, if_pos h, BitVec.getLsbD_eq_getElem]

@[simp] theorem lmask_wA (a : Attr) (x : BitVec 21) : lmask (wA a x) = ⟨x[19], x.extractLsb' 16 3⟩ := by
  rw [lmask, BitVec.getLsbD_eq_getElem (by decide), specBit_wA a x 19 (by decide), specPart_wA a x 16 3 (by decide)]

@[simp] theorem ity_xInt (op : BitVec 8) (p : Pred) (t u : Tgt) (b : Bool) (ty : Ty) (m : BitVec 4) (h : ty.isInt = true) :
    ity (wG op p t u (xInt b ty m)) = ty := by
  have e : (wG op p t u (xInt b ty m)).extractLsb' 4 3 = ty.code.setWidth 3 := by
    simp (disch := decide) only [wG, xInt, BitVec.extractLsb'_append_eq_of_le, BitVec.extractLsb'_append_eq_of_add_le,
      BitVec.extractLsb'_eq_self, Nat.reduceSub]
  rw [ity, e, tyOfCode3_code ty h]

theorem modOf_xInt (b : Bool) (ty : Ty) (m : BitVec 4) : (xInt b ty m).extractLsb' 0 4 = m := by
  simp (disch := decide) only [xInt, BitVec.extractLsb'_append_eq_of_add_le, BitVec.extractLsb'_eq_self]

theorem satOf_xInt (b : Bool) (ty : Ty) (s : Bool) : (xInt b ty (if s = true then 1#4 else 0#4))[0] = s := by
  rw [← BitVec.getLsbD_eq_getElem, xInt, BitVec.getLsbD_append]
  cases s <;> rfl

theorem tyOf_pair (x y : BitVec 4) : (x ++ y).extractLsb' 4 4 = x := BitVec.extractLsb'_append_eq_left

theorem modOf_pair (x y : BitVec 4) : (x ++ y).extractLsb' 0 4 = y := BitVec.extractLsb'_append_eq_right

theorem lowOf_code (x : BitVec 4) : (x.setWidth 32).setWidth 4 = x := by simp

/-! ### Layouts of the last fields (R40 to R45, R174 to R194) -/

@[simp] theorem accOnly_acc (a : BitVec 2) :
    (a ++ 0#6).extractLsb' 6 2 = a := by
  simp (disch := decide) only [BitVec.extractLsb'_append_eq_of_le, BitVec.extractLsb'_eq_self, Nat.reduceSub]

@[simp] theorem drain_acc (a : BitVec 2) (o : BitVec 4) (r : Bool) :
    (a ++ o ++ (if r = true then 1#2 else 0#2)).extractLsb' 6 2 = a := by
  simp (disch := decide) only [BitVec.extractLsb'_append_eq_of_le, BitVec.extractLsb'_eq_self, Nat.reduceSub]

@[simp] theorem drain_ty (a : BitVec 2) (o : BitVec 4) (r : Bool) :
    (a ++ o ++ (if r = true then 1#2 else 0#2)).extractLsb' 2 4 = o := by
  simp (disch := decide) only [BitVec.extractLsb'_append_eq_of_le, BitVec.extractLsb'_append_eq_of_add_le,
    BitVec.extractLsb'_eq_self, Nat.reduceSub]

@[simp] theorem drain_toReg (a : BitVec 2) (o : BitVec 4) (r : Bool) :
    (a ++ o ++ (if r = true then 1#2 else 0#2))[0] = r := by
  grind [b1]

@[simp] theorem mask16_on (m : Bool) (p : BitVec 3) (x : BitVec 16) :
    (0#1 ++ (if m = true then 1#1 else 0#1) ++ p ++ x : BitVec 21)[19] = m := by
  grind [b1]

@[simp] theorem mask16_reg (m : Bool) (p : BitVec 3) (x : BitVec 16) :
    (0#1 ++ (if m = true then 1#1 else 0#1) ++ p ++ x : BitVec 21).extractLsb' 16 3 = p := by
  simp (disch := decide) only [BitVec.extractLsb'_append_eq_of_le, BitVec.extractLsb'_append_eq_of_add_le,
    BitVec.extractLsb'_eq_self, Nat.reduceSub]

@[simp] theorem mask16_low (m : Bool) (p : BitVec 3) (x : BitVec 16) :
    (0#1 ++ (if m = true then 1#1 else 0#1) ++ p ++ x : BitVec 21).extractLsb' 0 16 = x := by
  simp (disch := decide) only [BitVec.extractLsb'_append_eq_of_add_le,
    BitVec.extractLsb'_eq_self]

@[simp] theorem mask15_on (m v : Bool) (p : BitVec 3) :
    (0#1 ++ (if m = true then 1#1 else 0#1) ++ p ++ 0#15 ++ (if v = true then 1#1 else 0#1) : BitVec 21)[19] = m := by
  grind [b1]

@[simp] theorem mask15_reg (m v : Bool) (p : BitVec 3) :
    (0#1 ++ (if m = true then 1#1 else 0#1) ++ p ++ 0#15 ++ (if v = true then 1#1 else 0#1) : BitVec 21).extractLsb' 16 3 = p := by
  simp (disch := decide) only [BitVec.extractLsb'_append_eq_of_le, BitVec.extractLsb'_append_eq_of_add_le,
    BitVec.extractLsb'_eq_self, Nat.reduceSub]

@[simp] theorem mask15_low (m v : Bool) (p : BitVec 3) :
    (0#1 ++ (if m = true then 1#1 else 0#1) ++ p ++ 0#15 ++ (if v = true then 1#1 else 0#1) : BitVec 21)[0] = v := by
  grind [b1]

@[simp] theorem mask14_on (m : Bool) (p : BitVec 3) (x : BitVec 2) :
    (0#1 ++ (if m = true then 1#1 else 0#1) ++ p ++ 0#14 ++ x : BitVec 21)[19] = m := by
  grind [b1]

@[simp] theorem mask14_reg (m : Bool) (p : BitVec 3) (x : BitVec 2) :
    (0#1 ++ (if m = true then 1#1 else 0#1) ++ p ++ 0#14 ++ x : BitVec 21).extractLsb' 16 3 = p := by
  simp (disch := decide) only [BitVec.extractLsb'_append_eq_of_le, BitVec.extractLsb'_append_eq_of_add_le,
    BitVec.extractLsb'_eq_self, Nat.reduceSub]

@[simp] theorem mask14_low (m : Bool) (p : BitVec 3) (x : BitVec 2) :
    (0#1 ++ (if m = true then 1#1 else 0#1) ++ p ++ 0#14 ++ x : BitVec 21).extractLsb' 0 2 = x := by
  simp (disch := decide) only [BitVec.extractLsb'_append_eq_of_add_le,
    BitVec.extractLsb'_eq_self]

@[simp] theorem lda_toV (v : Bool) (n : BitVec 6) :
    (0#14 ++ (if v = true then 1#1 else 0#1) ++ n : BitVec 21)[6] = v := by
  grind [b1]

@[simp] theorem lda_reg (v : Bool) (n : BitVec 6) :
    (0#14 ++ (if v = true then 1#1 else 0#1) ++ n : BitVec 21).extractLsb' 0 6 = n := by
  simp (disch := decide) only [BitVec.extractLsb'_append_eq_of_add_le,
    BitVec.extractLsb'_eq_self]

@[simp] theorem low6_spec (n : BitVec 6) :
    (0#15 ++ n : BitVec 21).extractLsb' 0 6 = n := by
  simp (disch := decide) only [BitVec.extractLsb'_append_eq_of_add_le,
    BitVec.extractLsb'_eq_self]

@[simp] theorem atom_op (r : Bool) (n : BitVec 6) (o : BitVec 4) :
    (0#10 ++ (if r = true then 1#1 else 0#1) ++ n ++ o : BitVec 21).extractLsb' 0 4 = o := by
  simp (disch := decide) only [BitVec.extractLsb'_append_eq_of_add_le,
    BitVec.extractLsb'_eq_self]

@[simp] theorem atom_reg (r : Bool) (n : BitVec 6) (o : BitVec 4) :
    (0#10 ++ (if r = true then 1#1 else 0#1) ++ n ++ o : BitVec 21).extractLsb' 4 6 = n := by
  simp (disch := decide) only [BitVec.extractLsb'_append_eq_of_le, BitVec.extractLsb'_append_eq_of_add_le,
    BitVec.extractLsb'_eq_self, Nat.reduceSub]

@[simp] theorem atom_ret (r : Bool) (n : BitVec 6) (o : BitVec 4) :
    (0#10 ++ (if r = true then 1#1 else 0#1) ++ n ++ o : BitVec 21)[10] = r := by
  grind [b1]

@[simp] theorem atomo_op (r : BitVec 3) (o : BitVec 2) (x : BitVec 16) :
    (r ++ o ++ x : BitVec 21).extractLsb' 16 2 = o := by
  simp (disch := decide) only [BitVec.extractLsb'_append_eq_of_le, BitVec.extractLsb'_append_eq_of_add_le,
    BitVec.extractLsb'_eq_self, Nat.reduceSub]

@[simp] theorem atomo_sel (r : BitVec 3) (o : BitVec 2) (x : BitVec 16) :
    (r ++ o ++ x : BitVec 21).extractLsb' 18 3 = r := by
  simp (disch := decide) only [BitVec.extractLsb'_append_eq_of_le, BitVec.extractLsb'_eq_self, Nat.reduceSub]

@[simp] theorem atomo_stream (r : BitVec 3) (o : BitVec 2) (x : BitVec 16) :
    (r ++ o ++ x : BitVec 21).extractLsb' 0 16 = x := by
  simp (disch := decide) only [BitVec.extractLsb'_append_eq_of_add_le,
    BitVec.extractLsb'_eq_self]

@[simp] theorem level_spec (b : Bool) :
    (0#20 ++ b1 b : BitVec 21)[0] = b := by
  grind [b1]

@[simp] theorem retain_slot (w : BitVec 4) (k : BitVec 3) :
    (0#14 ++ w ++ k : BitVec 21).extractLsb' 0 3 = k := by
  simp (disch := decide) only [BitVec.extractLsb'_append_eq_of_add_le,
    BitVec.extractLsb'_eq_self]

@[simp] theorem retain_ways (w : BitVec 4) (k : BitVec 3) :
    (0#14 ++ w ++ k : BitVec 21).extractLsb' 3 4 = w := by
  simp (disch := decide) only [BitVec.extractLsb'_append_eq_of_le, BitVec.extractLsb'_append_eq_of_add_le,
    BitVec.extractLsb'_eq_self, Nat.reduceSub]

@[simp] theorem low3_spec (k : BitVec 3) :
    (0#18 ++ k : BitVec 21).extractLsb' 0 3 = k := by
  simp (disch := decide) only [BitVec.extractLsb'_append_eq_of_add_le,
    BitVec.extractLsb'_eq_self]

@[simp] theorem low2_spec (k : BitVec 2) :
    (0#19 ++ k : BitVec 21).extractLsb' 0 2 = k := by
  simp (disch := decide) only [BitVec.extractLsb'_append_eq_of_add_le,
    BitVec.extractLsb'_eq_self]

@[simp] theorem fence_scope (s : BitVec 3) (a r k e : Bool) :
    (s ++ b1 a ++ b1 r ++ b1 k ++ b1 e ++ 0#1).extractLsb' 5 3 = s := by
  simp (disch := decide) only [BitVec.extractLsb'_append_eq_of_le, BitVec.extractLsb'_eq_self, Nat.reduceSub]

@[simp] theorem fence_acq (s : BitVec 3) (a r k e : Bool) :
    (s ++ b1 a ++ b1 r ++ b1 k ++ b1 e ++ 0#1)[4] = a := by
  grind [b1]

@[simp] theorem fence_rel (s : BitVec 3) (a r k e : Bool) :
    (s ++ b1 a ++ b1 r ++ b1 k ++ b1 e ++ 0#1)[3] = r := by
  grind [b1]

@[simp] theorem fence_const (s : BitVec 3) (a r k e : Bool) :
    (s ++ b1 a ++ b1 r ++ b1 k ++ b1 e ++ 0#1)[2] = k := by
  grind [b1]

@[simp] theorem fence_engines (s : BitVec 3) (a r k e : Bool) :
    (s ++ b1 a ++ b1 r ++ b1 k ++ b1 e ++ 0#1)[1] = e := by
  grind [b1]

@[simp] theorem engine_xop (e : BitVec 4) :
    (e ++ 0#4).extractLsb' 4 4 = e := by
  simp (disch := decide) only [BitVec.extractLsb'_append_eq_of_le, BitVec.extractLsb'_eq_self, Nat.reduceSub]

@[simp] theorem coll_engine (e : BitVec 4) (f : Bool) (x : BitVec 3) :
    (e ++ b1 f ++ x).extractLsb' 4 4 = e := by
  simp (disch := decide) only [BitVec.extractLsb'_append_eq_of_le, BitVec.extractLsb'_eq_self, Nat.reduceSub]

@[simp] theorem coll_fp32 (e : BitVec 4) (f : Bool) (x : BitVec 3) :
    (e ++ b1 f ++ x)[3] = f := by
  grind [b1]

@[simp] theorem coll_op (e : BitVec 4) (f : Bool) (x : BitVec 3) :
    (e ++ b1 f ++ x).extractLsb' 0 3 = x := by
  simp (disch := decide) only [BitVec.extractLsb'_append_eq_of_add_le,
    BitVec.extractLsb'_eq_self]

@[simp] theorem orders_scope (s : BitVec 3) (a r : Bool) :
    (s ++ b1 a ++ b1 r ++ 0#3).extractLsb' 5 3 = s := by
  simp (disch := decide) only [BitVec.extractLsb'_append_eq_of_le, BitVec.extractLsb'_eq_self, Nat.reduceSub]

@[simp] theorem orders_acq (s : BitVec 3) (a r : Bool) :
    (s ++ b1 a ++ b1 r ++ 0#3)[4] = a := by
  grind [b1]

@[simp] theorem orders_rel (s : BitVec 3) (a r : Bool) :
    (s ++ b1 a ++ b1 r ++ 0#3)[3] = r := by
  grind [b1]

@[simp] theorem order_scope (s : BitVec 3) (a : Bool) :
    (s ++ b1 a ++ 0#4).extractLsb' 5 3 = s := by
  simp (disch := decide) only [BitVec.extractLsb'_append_eq_of_le, BitVec.extractLsb'_eq_self, Nat.reduceSub]

@[simp] theorem order_acq (s : BitVec 3) (a : Bool) :
    (s ++ b1 a ++ 0#4)[4] = a := by
  grind [b1]

@[simp] theorem scope_xop (s : BitVec 3) (x : BitVec 5) :
    (s ++ x).extractLsb' 5 3 = s := by
  simp (disch := decide) only [BitVec.extractLsb'_append_eq_of_le, BitVec.extractLsb'_eq_self, Nat.reduceSub]

/-! ### The readers by group (R40 to R45) -/

/-- The group of opcodes that an instruction belongs to; a step of the device belongs to none. -/
inductive Group where
  | ctl | int | fp | vec | mat | mem | eng | sys | none

def Group.of : Instr → Group
  | .null .. | .mov .. | .movi .. | .movi32 .. | .moviHi .. | .exit .. | .br .. | .bri .. | .call .. | .calli ..
    | .ret .. | .rd .. | .rdT .. | .rdv .. | .rdvT .. | .rdp .. | .rdpT .. | .wr .. | .wrv .. | .wrp ..
    | .recv .. | .send .. | .sendt .. | .tagof .. | .settag .. => .ctl
  | .add .. | .addX .. | .addI .. | .sub .. | .subX .. | .mul .. | .mulX .. | .mulI .. | .mulh .. | .mulhX ..
    | .div .. | .divX .. | .rem .. | .remX .. | .and .. | .andX .. | .andI .. | .or .. | .orX .. | .orI ..
    | .xor .. | .xorX .. | .xorI .. | .andn .. | .andnX .. | .shl .. | .shlX .. | .shlI .. | .shr .. | .shrX ..
    | .shrI .. | .sar .. | .sarX .. | .sarI .. | .rot .. | .rotX .. | .clz .. | .popc .. | .min .. | .minX ..
    | .max .. | .maxX .. | .cmp .. | .cmpX .. | .sel .. | .selX .. | .ext .. | .bfx .. | .bfxX .. | .bfi ..
    | .bfiX .. | .lea .. | .leaX .. => .int
  | .fadd .. | .fsub .. | .fmul .. | .fma .. | .fdiv .. | .fsqrt .. | .fmin .. | .fmax .. | .fcmp .. | .fcvt ..
    | .fclass .. | .fsgn .. | .exp2 .. | .log2 .. => .fp
  | .vadd .. | .vsub .. | .vmul .. | .vfma .. | .vmin .. | .vmax .. | .vcmp .. | .vsel .. | .vcvt .. | .vexp2 ..
    | .vlog2 .. | .vrcp .. | .vrsq .. | .vred .. | .vscan .. | .vshuf .. | .vbcast .. | .vscale .. | .vlut .. | .viop .. => .vec
  | .mcfg .. | .mzero .. | .mma .. | .mlda .. | .mdrain .. | .msteer .. | .mfence .. => .mat
  | .ld .. | .ldv .. | .ldk .. | .st .. | .stv .. | .ldvg .. | .stvs .. | .lda .. | .ldb .. | .ldn ..
    | .atom .. | .atomo .. | .fence .. | .pref .. | .tlbpf .. | .ipf .. | .ipin .. | .iunpin .. | .retain .. | .unretain ..
    | .cwb .. | .cinv .. => .mem
  | .cpy .. | .cpym .. | .carm .. | .cdisarm .. | .cfire .. | .gath .. | .scat .. | .collAr .. | .collRs .. | .collAg ..
    | .cadd .. | .cwait .. | .cread .. | .cpoll .. | .rngaw .. | .rngrel .. | .radv .. | .rrecl .. | .rsetc .. | .barr .. => .eng
  | .halt .. | .edgeset .. | .wmasr .. | .wmret .. | .wmmod .. | .wmrd .. | .cswave .. | .fdone .. | .scset .. | .scget ..
    | .netld .. | .csrd .. | .trap .. | .sysc .. | .bkpt .. | .mfs .. | .mts .. | .mark .. | .sigchk .. | .rndr ..
    | .cycw .. | .cfgsw .. => .sys
  | _ => .none

theorem encode_of_none {i : Instr} (h : Group.of i = .none) : encode i = none := by
  cases i <;> first | rfl | cases h

theorem parse_eq {w : Word32} {op : BitVec 8} {p : Pred} (x : Word32) (ho : opOf w = op) (hp : predOf w = p.code) :
    parse w x =
      if op.toNat < 0x20 then parseCtl op.toNat p w x
      else if op.toNat < 0x40 then parseInt op.toNat p w x
      else if op.toNat < 0x60 then parseFp op.toNat p w x
      else if op.toNat < 0x80 then parseVec op.toNat p w x
      else if op.toNat < 0x90 then parseMat op.toNat p w x
      else if op.toNat < 0xB0 then parseMem op.toNat p w x
      else if op.toNat < 0xD0 then parseEng op.toNat p w x
      else parseSys op.toNat p w x := by
  rw [parse, hp, predOfCode_code, ho]

theorem parseCtl_encode {i : Instr} {w : Word32} {x : Option Word32} (y : Word32) (hg : Group.of i = .ctl) (hw : i.wf = true)
    (he : encode i = some (w, x)) : parse w (x.getD y) = some i := by
  cases i with
  | movi =>
    cases he
    rw [parse_eq _ (opOf_wI ..) (predOf_wI ..)]
    simp [parseCtl]
  | br | call =>
    cases he
    rw [parse_eq _ (opOf_wB ..) (predOf_wB ..)]
    simp [parseCtl]
  | rd | rdT | rdv | rdvT | rdp | rdpT | wr | wrv | wrp | recv | send | sendt
  | tagof | settag =>
    cases he
    rw [parse_eq _ (opOf_wC ..) (predOf_wC ..)]
    simp [parseCtl]
  | null | mov | moviHi | exit | bri | calli | ret =>
    cases he
    rw [parse_eq _ (opOf_wG ..) (predOf_wG ..)]
    simp [parseCtl]
  | movi32 p t u zx imm =>
    cases he
    rw [parse_eq _ (opOf_wG ..) (predOf_wG ..)]
    cases zx <;> simp [parseCtl]
  | _ => cases hg

/-- The bit fields take the two types of 64 bits, which are integers (R280). -/
theorem isInt_of_field {t : Ty} (h : (t = .n64 || t = .s64) = true) : t.isInt = true := by
  cases t <;> first | rfl | exact absurd h (by decide)

theorem parseInt_encode {i : Instr} {w : Word32} {x : Option Word32} (y : Word32) (hg : Group.of i = .int) (hw : i.wf = true)
    (he : encode i = some (w, x)) : parse w (x.getD y) = some i := by
  cases i with
  | addI | andI | orI | xorI | shlI | shrI | sarI | mulI =>
    cases he
    rw [parse_eq _ (opOf_wI ..) (predOf_wI ..)]
    simp [parseInt]
  | add | addX | sub | subX | mul | mulX =>
    cases he
    rw [parse_eq _ (opOf_wG ..) (predOf_wG ..)]
    simp [parseInt, isX_wG, ity_xInt _ _ _ _ _ _ _ hw, satOf_xInt]
  | bfx | bfxX | bfi | bfiX =>
    cases he
    rw [parse_eq _ (opOf_wG ..) (predOf_wG ..)]
    have hty := isInt_of_field hw
    simp [parseInt, isX_wG, hty]
  | cmp | cmpX | lea | leaX =>
    cases he
    rw [parse_eq _ (opOf_wG ..) (predOf_wG ..)]
    simp only [Instr.wf, Bool.and_eq_true] at hw
    simp [parseInt, isX_wG, hw, modOf_xInt]
  | mulh | mulhX | div | divX | rem | remX | and | andX | or | orX | xor | xorX
  | andn | andnX | shl | shlX | shr | shrX | sar | sarX | rot | rotX | clz | popc
  | min | minX | max | maxX | sel | selX | ext =>
    cases he
    rw [parse_eq _ (opOf_wG ..) (predOf_wG ..)]
    simp [parseInt, isX_wG, ity_xInt _ _ _ _ _ _ _ hw]
  | _ => cases hg

theorem parseFp_encode {i : Instr} {w : Word32} {x : Option Word32} (y : Word32) (hg : Group.of i = .fp) (hw : i.wf = true)
    (he : encode i = some (w, x)) : parse w (x.getD y) = some i := by
  cases i with
  | fadd | fsub | fmul | fma | fdiv | fsqrt | fmin | fmax | fcmp | fclass | fsgn | exp2
  | log2 =>
    cases he
    rw [parse_eq _ (opOf_wG ..) (predOf_wG ..)]
    simp [parseFp, tyOf_pair, modOf_pair]
  | fcvt =>
    cases he
    rw [parse_eq _ (opOf_wG ..) (predOf_wG ..)]
    simp [parseFp, tyOf_pair, modOf_pair]
  | _ => cases hg

theorem parseVec_encode {i : Instr} {w : Word32} {x : Option Word32} (y : Word32) (hg : Group.of i = .vec) (hw : i.wf = true)
    (he : encode i = some (w, x)) : parse w (x.getD y) = some i := by
  cases i with
  | vadd | vsub | vmul | vfma | vmin | vmax | vcmp | vsel | vexp2 | vlog2 | vrcp | vrsq
  | vred | vscan | vbcast | vscale | vlut | viop =>
    cases he
    rw [parse_eq _ (opOf_wG ..) (predOf_wG ..)]
    simp [parseVec, tyOf_pair, modOf_pair]
  | vcvt =>
    cases he
    rw [parse_eq _ (opOf_wG ..) (predOf_wG ..)]
    simp [parseVec, tyOf_pair, modOf_pair]
  | vshuf =>
    cases he
    rw [parse_eq _ (opOf_wG ..) (predOf_wG ..)]
    simp [parseVec]
  | _ => cases hg

theorem parseMat_encode {i : Instr} {w : Word32} {x : Option Word32} (y : Word32) (hg : Group.of i = .mat) (hw : i.wf = true)
    (he : encode i = some (w, x)) : parse w (x.getD y) = some i := by
  cases i with
  | mcfg | mzero | mma | mlda | mdrain | msteer | mfence =>
    cases he
    rw [parse_eq _ (opOf_wG ..) (predOf_wG ..)]
    simp [parseMat]
  | _ => cases hg

theorem parseMem_encode {i : Instr} {w : Word32} {x : Option Word32} (y : Word32) (hg : Group.of i = .mem) (hw : i.wf = true)
    (he : encode i = some (w, x)) : parse w (x.getD y) = some i := by
  cases i with
  | ld | ldv | ldk | st | stv | ldvg | stvs | lda | ldb | ldn | atom | pref
  | tlbpf | ipf | ipin | iunpin | retain | unretain | cwb | cinv =>
    cases he
    rw [parse_eq _ (opOf_wM ..) (predOf_wM ..)]
    simp [parseMem, attr_wA]
  | atomo =>
    cases he
    rw [parse_eq _ (opOf_wM ..) (predOf_wM ..)]
    simp only [Instr.wf, Bool.and_eq_true] at hw
    simp [parseMem, attr_wA, atomOpOfCode2_code2 _ hw.1.1]
  | fence =>
    cases he
    rw [parse_eq _ (opOf_wG ..) (predOf_wG ..)]
    simp [parseMem]
  | _ => cases hg

theorem parseEng_encode {i : Instr} {w : Word32} {x : Option Word32} (y : Word32) (hg : Group.of i = .eng) (hw : i.wf = true)
    (he : encode i = some (w, x)) : parse w (x.getD y) = some i := by
  cases i with
  | cpy | cpym | carm | cdisarm | cfire | gath | scat | cadd | cwait | cread | cpoll | rngaw
  | rngrel | radv | rrecl | rsetc | barr =>
    cases he
    rw [parse_eq _ (opOf_wG ..) (predOf_wG ..)]
    simp [parseEng]
  | collAr | collRs | collAg =>
    cases he
    rw [parse_eq _ (opOf_wG ..) (predOf_wG ..)]
    simp [parseEng, BitVec.setWidth_eq_extractLsb']
  | _ => cases hg

theorem parseSys_encode {i : Instr} {w : Word32} {x : Option Word32} (y : Word32) (hg : Group.of i = .sys) (hw : i.wf = true)
    (he : encode i = some (w, x)) : parse w (x.getD y) = some i := by
  cases i with
  | trap | sysc | bkpt | mfs | mts =>
    cases he
    rw [parse_eq _ (opOf_wI ..) (predOf_wI ..)]
    simp [parseSys]
  | edgeset =>
    cases he
    rw [parse_eq _ (opOf_wC ..) (predOf_wC ..)]
    simp [parseSys]
  | halt | wmasr | wmret | wmmod | wmrd | cswave | fdone | scset | scget | netld | csrd | mark
  | sigchk | rndr | cycw | cfgsw =>
    cases he
    rw [parse_eq _ (opOf_wG ..) (predOf_wG ..)]
    simp [parseSys]
  | _ => cases hg

/-! ### The round trip -/

/-- The words of a well-formed instruction are read back as that instruction, whatever follows an instruction of one word. -/
theorem parse_encode {i : Instr} {w : Word32} {x : Option Word32} (y : Word32) (hw : i.wf = true)
    (he : encode i = some (w, x)) : parse w (x.getD y) = some i := by
  cases hg : Group.of i with
  | ctl => exact parseCtl_encode y hg hw he
  | int => exact parseInt_encode y hg hw he
  | fp => exact parseFp_encode y hg hw he
  | vec => exact parseVec_encode y hg hw he
  | mat => exact parseMat_encode y hg hw he
  | mem => exact parseMem_encode y hg hw he
  | eng => exact parseEng_encode y hg hw he
  | sys => exact parseSys_encode y hg hw he
  | none => exact absurd (he.symm.trans (encode_of_none hg)) nofun

/-- No written word has an opcode that R46 reserves. -/
theorem opKnown_of_encode {i : Instr} {w : Word32} {x : Option Word32} (he : encode i = some (w, x)) :
    opKnown (opOf w).toNat = true := by
  cases i <;> cases he <;> simp only [opOf_wG, opOf_wI, opOf_wB, opOf_wC, opOf_wM] <;> rfl

theorem predOf_of_encode {i : Instr} {w : Word32} {x : Option Word32} (he : encode i = some (w, x)) :
    predOf w = i.pred.code := by
  cases i <;> cases he <;> simp only [predOf_wG, predOf_wI, predOf_wB, predOf_wC, predOf_wM] <;> rfl

theorem encodesTo_of_encode {i : Instr} {w : Word32} {x : Option Word32} (y : Word32) (he : encode i = some (w, x)) :
    encodesTo i w (x.getD y) = true := by
  cases x <;> simp [encodesTo, he]

theorem encode_of_encodesTo {i : Instr} {w x : Word32} (h : encodesTo i w x = true) :
    ∃ y, encode i = some (w, y) ∧ (y = none ∨ y = some x) := by
  unfold encodesTo at h
  split at h
  · rename_i a e
    exact ⟨none, by rw [e, of_decide_eq_true h], .inl rfl⟩
  · rename_i a b e
    simp only [Bool.and_eq_true, decide_eq_true_eq] at h
    exact ⟨some b, by rw [e, h.1], .inr (congrArg some h.2)⟩
  · cases h

/-- The decoder accepts a term exactly where it is what was read, is well formed, and encodes to the words (R15, R46). -/
theorem decode_ok {w x : Word32} {i : Instr} (h : decode w x = .ok i) : i.wf = true ∧ encodesTo i w x = true := by
  unfold decode at h
  split at h
  · cases h
  split at h
  · cases h
  split at h
  · cases h
  split at h
  · cases h
  next hwf =>
    split at h
    · next hto =>
      cases h
      exact ⟨by simpa using hwf, hto⟩
    · split at h <;> cases h

end Sys2Proof.Laws
end

section
/-! SUPPORT. The decoder and the encoder. -/

namespace Sys2Proof.Proofs

open Sys2Proof.Laws

/-- Settles O3: the words' opcode and predicate are legal, their fields are read back, and the term found encodes to them. -/
theorem decodeOfEncodeIsSame : Obligations.DecodeOfEncodeIsSame := by
  intro i w x y hw he
  have hpred : (Pred.ofCode (predOf w)).isNone = false := by rw [predOf_of_encode he, predOfCode_code]; rfl
  simp [decode, opKnown_of_encode he, hpred, parse_encode y hw he, hw, encodesTo_of_encode y he]

/-- Settles O4: the decoder accepts only after it has compared the term's own words with those read. -/
theorem acceptedWordsAreTheirEncoding : Obligations.AcceptedWordsAreTheirEncoding :=
  fun _ _ _ h => ⟨(decode_ok h).1, encode_of_encodesTo (decode_ok h).2⟩

end Sys2Proof.Proofs
end

section
/-! SUPPORT. Blocks and their slots: what a slot reads after another was written, what a delivery fills (R17, R20), how a slot settles and
is resolved (R20 to R23), and how a trap is taken (R27, R417 to R419). -/

namespace Sys2Proof.Machine

open Sys2Proof.Laws

/-! ### Slots -/

@[simp] theorem Blk.slotAt_setSlot_self (b : Blk) (k : Nat) (r : SlotRt) (h : k < 32) : (b.setSlot k r).slotAt k = r :=
  vget_vset_self _ _ _ _ h

theorem Blk.slotAt_setSlot_ne (b : Blk) {k j : Nat} (r : SlotRt) (h : k ≠ j) : (b.setSlot k r).slotAt j = b.slotAt j :=
  vget_vset_ne _ _ _ h

theorem tgtSlot_lt (t : Tgt) : tgtSlot t < 32 := (t.extractLsb' 0 5).isLt

theorem SlotRt.input_fill_self (r : SlotRt) (c : BitVec 2) (v : Val) (cyc : Nat) : (r.fill c v cyc).input c = some v := by
  unfold SlotRt.fill SlotRt.input
  split_ifs <;> rfl

theorem SlotRt.input_fill_ne (r : SlotRt) {c x : BitVec 2} (v : Val) (cyc : Nat) (hc : c ≠ 0) (hx : x ≠ 0) (h : c ≠ x) :
    (r.fill c v cyc).input x = r.input x := by
  have hcase : ∀ a : BitVec 2, a ≠ 0 → a = 1 ∨ a = 2 ∨ a = 3 := by decide
  unfold SlotRt.fill SlotRt.input
  rcases hcase c hc with rfl | rfl | rfl <;> rcases hcase x hx with rfl | rfl | rfl <;> first | rfl | exact absurd rfl h

@[simp] theorem SlotRt.fill_st (r : SlotRt) (c : BitVec 2) (v : Val) (cyc : Nat) : (r.fill c v cyc).st = r.st := by
  unfold SlotRt.fill
  split_ifs <;> rfl

@[simp] theorem SlotRt.fill_arr (r : SlotRt) (c : BitVec 2) (v : Val) (cyc : Nat) : (r.fill c v cyc).arr = max r.arr cyc := by
  unfold SlotRt.fill
  split_ifs <;> rfl

/-! ### Delivery -/

/-- The block with a value at the input that a target names. -/
def Blk.filled (b : Blk) (t : Tgt) (v : Val) (cyc : Nat) : Blk :=
  b.setSlot (tgtSlot t) ((b.slotAt (tgtSlot t)).fill (tgtCode t) v cyc)

theorem Blk.slotAt_filled_self (b : Blk) (t : Tgt) (v : Val) (cyc : Nat) :
    (b.filled t v cyc).slotAt (tgtSlot t) = (b.slotAt (tgtSlot t)).fill (tgtCode t) v cyc :=
  b.slotAt_setSlot_self _ _ (tgtSlot_lt t)

theorem Blk.slotAt_filled_ne (b : Blk) (t : Tgt) (v : Val) (cyc : Nat) {k : Nat} (h : tgtSlot t ≠ k) :
    (b.filled t v cyc).slotAt k = b.slotAt k :=
  b.slotAt_setSlot_ne _ h

theorem Blk.filled_st (b : Blk) (t : Tgt) (v : Val) (cyc k : Nat) : ((b.filled t v cyc).slotAt k).st = (b.slotAt k).st := by
  by_cases h : tgtSlot t = k
  · subst h; rw [b.slotAt_filled_self, SlotRt.fill_st]
  · rw [b.slotAt_filled_ne t v cyc h]

theorem Blk.filled_arr (b : Blk) (t : Tgt) (v : Val) (cyc k : Nat) : (b.slotAt k).arr ≤ ((b.filled t v cyc).slotAt k).arr := by
  by_cases h : tgtSlot t = k
  · subst h; rw [b.slotAt_filled_self, SlotRt.fill_arr]; exact Nat.le_max_left ..
  · rw [b.slotAt_filled_ne t v cyc h]

/-- A fill leaves every input but its own. -/
theorem Blk.filled_input_ne (b : Blk) {t : Tgt} (v : Val) (cyc : Nat) {k : Nat} {x : BitVec 2} (ht : tgtCode t ≠ 0) (hx : x ≠ 0)
    (h : ¬ (tgtSlot t = k ∧ tgtCode t = x)) : ((b.filled t v cyc).slotAt k).input x = (b.slotAt k).input x := by
  by_cases hk : tgtSlot t = k
  · subst hk
    rw [b.slotAt_filled_self, SlotRt.input_fill_ne _ _ _ ht hx fun e => h ⟨rfl, e⟩]
  · rw [b.slotAt_filled_ne t v cyc hk]

/-- What one more target adds to a delivery: a code of 0 names no input; the input named must be empty. -/
theorem Blk.deliver_cons (b : Blk) (v : Val) (cyc : Nat) (t : Tgt) (ts : List Tgt) :
    b.deliver v cyc (t :: ts) =
      if tgtCode t = 0 then b.deliver v cyc ts
      else if (b.slotAt (tgtSlot t)).input (tgtCode t) = none then (b.filled t v cyc).deliver v cyc ts
      else .error (tgtSlot t) := by
  rw [Blk.deliver]
  by_cases h0 : tgtCode t = 0
  · simp [h0]
  · cases hi : (b.slotAt (tgtSlot t)).input (tgtCode t) <;> simp [h0, hi, Blk.filled]

/-- A delivery that succeeds does so target by target. -/
theorem Blk.deliver_cons_ok {b c : Blk} {v : Val} {cyc : Nat} {t : Tgt} {ts : List Tgt} (h : b.deliver v cyc (t :: ts) = .ok c) :
    (tgtCode t = 0 ∧ b.deliver v cyc ts = .ok c) ∨
      (tgtCode t ≠ 0 ∧ (b.slotAt (tgtSlot t)).input (tgtCode t) = none ∧ (b.filled t v cyc).deliver v cyc ts = .ok c) := by
  rw [Blk.deliver_cons] at h
  split at h
  · exact .inl ⟨by assumption, h⟩
  · split at h
    · exact .inr ⟨by assumption, by assumption, h⟩
    · cases h

/-- A delivery changes the slots alone, no slot's state, and no arrival to an earlier cycle. -/
theorem Blk.deliver_frame {b c : Blk} {v : Val} {cyc : Nat} {ts : List Tgt} (h : b.deliver v cyc ts = .ok c) :
    c = { b with slots := c.slots } ∧ ∀ k, (c.slotAt k).st = (b.slotAt k).st ∧ (b.slotAt k).arr ≤ (c.slotAt k).arr := by
  induction ts generalizing b with
  | nil => cases h; exact ⟨rfl, fun k => ⟨rfl, le_rfl⟩⟩
  | cons t ts ih =>
    rcases Blk.deliver_cons_ok h with ⟨-, h⟩ | ⟨-, -, h⟩
    · exact ih h
    · obtain ⟨hc, hk⟩ := ih h
      refine ⟨hc, fun k => ⟨(hk k).1.trans (b.filled_st t v cyc k), (b.filled_arr t v cyc k).trans (hk k).2⟩⟩

/-- A delivery leaves every input that no target names. -/
theorem Blk.deliver_other {b c : Blk} {v : Val} {cyc : Nat} {ts : List Tgt} (h : b.deliver v cyc ts = .ok c) (k : Nat) (x : BitVec 2)
    (hx : x ≠ 0) (ho : ∀ t ∈ ts, ¬ (tgtSlot t = k ∧ tgtCode t = x)) : (c.slotAt k).input x = (b.slotAt k).input x := by
  induction ts generalizing b with
  | nil => cases h; rfl
  | cons t ts ih =>
    have ho' := fun u hu => ho u (List.mem_cons_of_mem t hu)
    rcases Blk.deliver_cons_ok h with ⟨-, h⟩ | ⟨ht, -, h⟩
    · exact ih h ho'
    · exact (ih h ho').trans (b.filled_input_ne v cyc ht hx (ho t List.mem_cons_self))

/-- Every input that a target names was empty and holds the value. -/
theorem Blk.deliver_fills {b c : Blk} {v : Val} {cyc : Nat} {ts : List Tgt} (h : b.deliver v cyc ts = .ok c) (t : Tgt) (ht : t ∈ ts)
    (hc : tgtCode t ≠ 0) : (c.slotAt (tgtSlot t)).input (tgtCode t) = some v ∧ (b.slotAt (tgtSlot t)).input (tgtCode t) = none ∧
      cyc ≤ (c.slotAt (tgtSlot t)).arr := by
  induction ts generalizing b t with
  | nil => cases ht
  | cons u us ih =>
    rcases Blk.deliver_cons_ok h with ⟨h0, h⟩ | ⟨hu, he, h⟩
    · rcases List.mem_cons.1 ht with rfl | ht
      · exact absurd h0 hc
      · exact ih h t ht hc
    · have hnow : ((b.filled u v cyc).slotAt (tgtSlot u)).input (tgtCode u) = some v := by
        rw [b.slotAt_filled_self, SlotRt.input_fill_self]
      rcases List.mem_cons.1 ht with rfl | ht
      · have hother : ∀ w ∈ us, ¬ (tgtSlot w = tgtSlot t ∧ tgtCode w = tgtCode t) := by
          rintro w hw ⟨e1, e2⟩
          have hnone := (ih h w hw (e2 ▸ hc)).2.1
          rw [e1, e2, hnow] at hnone
          cases hnone
        refine ⟨(Blk.deliver_other h _ _ hc hother).trans hnow, he, ?_⟩
        refine le_trans ?_ ((Blk.deliver_frame h).2 _).2
        rw [b.slotAt_filled_self, SlotRt.fill_arr]
        exact Nat.le_max_right ..
      · obtain ⟨hv, hn, ha⟩ := ih h t ht hc
        refine ⟨hv, ?_, ha⟩
        rw [← hn, b.filled_input_ne v cyc hu hc]
        rintro ⟨e1, e2⟩
        rw [← e1, ← e2, hnow] at hn
        cases hn

/-! ### Settling, resolving and trapping -/

theorem State.precise_eq {s : State} {t : Nat} {n : Node} (c : Cause) (slot : Nat) (addr : Word) (h : s.node? t = some n) :
    s.precise t c slot addr = s.takeTrap t c slot 0 addr n.pc := by
  unfold State.precise
  rw [h]

/-- Where the last exit is decided without an exit the exit fault is raised, else the node is written (R22). -/
theorem State.checkExit_eq {s : State} {n : Node} (i : Instr) (m : Node) (h : s.here = some n) (hs : m.slot = n.slot) :
    s.checkExit i m = if i.isExit = true ∧ m.blk.noExit = true then s.takeTrap s.focus .exit n.slot 0 0 n.pc else s.putHere m := by
  unfold State.checkExit
  rw [State.precise_eq .exit m.slot 0 h, hs]
  simp

/-- A null goes to the slot's targets, and the slot has settled (R21). -/
theorem State.settle_ok {s : State} {n : Node} {b : Blk} (i : Instr) (h : s.here = some n)
    (hd : n.blk.deliver .null (n.issueCyc n.slot + Config.latency i) i.targets = .ok b) :
    s.settle i = s.checkExit i (n.fired b .settled) := by
  unfold State.settle
  simp only [h, hd]

/-- A slot that holds no null is resolved, and one that is owed raises the block fault (R20, R23). -/
theorem State.resolve_eq {s : State} {n : Node} (i : Instr) (h : s.here = some n) (hn : (n.blk.slotAt n.slot).hasNull = false) :
    s.resolve i = if n.blk.owed n.slot = true then s.takeTrap s.focus .block n.slot 0 0 n.pc
      else s.checkExit i (n.fired n.blk .resolved) := by
  have hp : s.precise s.focus .block n.slot 0 = s.takeTrap s.focus .block n.slot 0 0 n.pc := State.precise_eq .block n.slot 0 h
  rw [← hp]
  simp [State.resolve, h, hn]

/-! ### Every instruction fires -/

/-- exec of an instruction with an encoding is its firing, with some effect (R20, R21). -/
theorem exec_eq_fire {i : Instr} (s : State) (h : Group.of i ≠ .none) : ∃ eff, exec i s = .next (s.fire i eff) := by
  cases i with
  | collAg p e fp32 =>
    cases fp32
    · exact ⟨fun n r => s.descSlot n (16 + e.toNat % 4) (.coll 2 false) r.l fun _ w => collOk w 2, rfl⟩
    · exact ⟨fun _ r => s.trapHere .command r.l, rfl⟩
  | _ => first | exact absurd rfl h | exact ⟨_, rfl⟩

theorem coded_group {i : Instr} (h : Claims.Coded i) : Group.of i ≠ .none := by
  intro hg
  rw [Claims.Coded, encode_of_none hg] at h
  cases h

end Sys2Proof.Machine
end

section
/-! SUPPORT. What holds of every block and of every instruction's slot. -/

namespace Sys2Proof.Proofs

open Sys2Proof.Machine Sys2Proof.Laws Sys2Proof.Claims

/-- Settles O32. -/
theorem nullSettlesAndUnmatchedResolves : Obligations.NullSettlesAndUnmatchedResolves := by
  intro i s n hi h
  obtain ⟨eff, he⟩ := exec_eq_fire s (coded_group hi)
  rw [he]
  refine ⟨fun hn b hd => ?_, fun hn hp hm => ?_⟩
  · rw [State.fire_null s n i eff h hn, State.settle_ok i h hd, State.checkExit_eq i (n.fired b .settled) h rfl]
    rfl
  · rw [State.fire_unmatched s n i eff h hn hp hm, State.resolve_eq i h hn, State.checkExit_eq i (n.fired n.blk .resolved) h rfl]
    rfl

/-- Settles O38, target by target of the delivery. -/
theorem deliveredValuesFillInputs : Obligations.DeliveredValuesFillInputs := by
  intro b c v cyc ts h
  obtain ⟨hc, hk⟩ := Blk.deliver_frame h
  refine ⟨Blk.deliver_fills h, Blk.deliver_other h, fun k => (hk k).1, hc, ?_⟩
  rintro k t rfl ht hv
  rw [Blk.deliver_cons, if_neg ht, if_neg hv]

end Sys2Proof.Proofs
end

section
/-! SUPPORT. What a slot may change of its own node: its block, where the node goes on, and its trap frame (R20 to R27, R417). -/

namespace Sys2Proof.Machine

open Sys2Proof.Laws

/-! ### Nodes that differ in what a slot may change -/

/-- A node with another's block, place and trap frame. -/
def Node.placed (n m : Node) : Node :=
  { n with
    blk := m.blk, issued := m.issued, phase := m.phase, pc := m.pc, tr := m.tr, sysEntry := m.sysEntry, stop := m.stop
    atMarker := m.atMarker, ready := m.ready }

/-- Do two nodes differ in their block, their place and their trap frame at most, and not in the handler and the scratch words? -/
def Node.Near (n m : Node) : Prop := m = n.placed m ∧ m.tr.vec = n.tr.vec ∧ m.tr.scr = n.tr.scr

namespace Node.Near

variable {n m l : Node}

theorem refl (n : Node) : n.Near n := ⟨rfl, rfl, rfl⟩

theorem trans (h : n.Near m) (k : m.Near l) : n.Near l := by
  obtain ⟨hm, hv, hs⟩ := h
  obtain ⟨kl, kv, ks⟩ := k
  exact ⟨kl.trans (congrArg (fun x => x.placed l) hm), kv.trans hv, ks.trans hs⟩

theorem fired (n : Node) (b : Blk) (x : SlotSt) : n.Near (n.fired b x) := ⟨rfl, rfl, rfl⟩

theorem freeze (n : Node) (r : FaultRec) (pc : Word) : n.Near (n.freeze r pc) := ⟨rfl, rfl, rfl⟩

theorem enterTrap (n : Node) (c : Cause) (slot code : Nat) (addr epc vec : Word) : n.Near (n.enterTrap c slot code addr epc vec) :=
  ⟨rfl, rfl, rfl⟩

end Node.Near

/-- A state that a slot of a node leaves, where it changes the node alone: the slot has not issued, or waits again. -/
def State.Stays (s : State) (n : Node) (t : State) : Prop := ∃ m, t = s.putHere m ∧ m.issued = false ∧ n.Near m

namespace State.Stays

variable {s t : State} {n m : Node}

theorem fired (b : Blk) (x : SlotSt) : s.Stays n (s.putHere (n.fired b x)) := ⟨_, rfl, rfl, .fired n b x⟩

/-- What a slot does after it has changed its node is a change of that node. -/
theorem after (h : n.Near m) (k : (s.putHere m).Stays m t) : s.Stays n t := by
  obtain ⟨l, rfl, hi, hl⟩ := k
  exact ⟨l, s.putHere_putHere m l, hi, h.trans hl⟩

theorem ite {c : Prop} [Decidable c] {t u : State} (h : s.Stays n t) (k : s.Stays n u) : s.Stays n (if c then t else u) := by
  split
  · exact h
  · exact k

variable (h : s.here = some n)

include h

theorem takeTrap (c : Cause) (slot code : Nat) (addr epc : Word) : s.Stays n (s.takeTrap s.focus c slot code addr epc) := by
  have hn : s.node? s.focus = some n := h
  unfold State.takeTrap
  simp only [hn]
  exact .ite ⟨_, rfl, rfl, .freeze n _ _⟩ (.ite ⟨_, rfl, rfl, .freeze n _ _⟩ ⟨_, rfl, rfl, .enterTrap n _ _ _ _ _ _⟩)

theorem precise (c : Cause) (slot : Nat) (addr : Word) : s.Stays n (s.precise s.focus c slot addr) := by
  rw [State.precise_eq c slot addr h]
  exact takeTrap h c slot 0 addr n.pc

theorem trapHere (c : Cause) (a : Word) : s.Stays n (s.trapHere c a) := by
  rw [State.trapHere_eq s n c a h]
  exact takeTrap h c n.slot 0 a n.pc

theorem retry : s.Stays n s.retry := by
  unfold State.retry
  simp only [h]
  exact .ite (trapHere h _ _) ⟨_, rfl, rfl, rfl, rfl, rfl⟩

theorem emit (i : Instr) (v : Val) : s.Stays n (s.emit i v) := by
  cases hd : n.blk.deliver v (n.issueCyc n.slot + Config.latency i) i.targets with
  | ok b => rw [State.emit_ok s n i v b h hd]; exact fired b .fired
  | error k => rw [State.emit_error s n i v k h hd]; exact takeTrap h _ _ _ _ _

theorem hold (step key : Nat) (acts : List Act) : s.Stays n (s.hold step key acts) := by
  rw [State.hold_eq s n step key acts h]
  exact ⟨_, rfl, rfl, rfl, rfl, rfl⟩

theorem checkExit (i : Instr) (b : Blk) (x : SlotSt) : s.Stays n (s.checkExit i (n.fired b x)) := by
  rw [State.checkExit_eq i (n.fired b x) h rfl]
  exact .ite (takeTrap h _ _ _ _ _) (fired b x)

theorem settle (i : Instr) : s.Stays n (s.settle i) := by
  unfold State.settle
  simp only [h]
  split
  · exact precise h _ _ _
  · exact checkExit h i _ _

theorem resolve (i : Instr) : s.Stays n (s.resolve i) := by
  unfold State.resolve
  simp only [h]
  exact .ite (precise h _ _ _) (checkExit h i _ _)

/-- An instruction stays in its slot where its effect does. -/
theorem fire {i : Instr} {eff : Node → SlotRt → State} (k : s.Stays n (eff n (n.blk.slotAt n.slot))) : s.Stays n (s.fire i eff) := by
  unfold State.fire
  simp only [h]
  exact .ite (settle h i) (.ite (resolve h i) k)

theorem compute (i : Instr) (f : SlotRt → Val) : s.Stays n (s.compute i f) := fire h (emit h i _)

/-- Acts that a slot holds besides its result change its block alone. -/
theorem withEff_emit (step key : Nat) (acts : List Act) (i : Instr) (v : Val) : s.Stays n ((s.withEff step key acts).emit i v) := by
  unfold State.withEff
  simp only [h]
  exact after (m := { n with blk := { n.blk with effs := n.blk.effs ++ [⟨n.slot, step, key, acts⟩] } }) ⟨rfl, rfl, rfl⟩
    (emit (s.here_putHere _) i v)

theorem exitAs (k : ExitKind) (acts : List Act) : s.Stays n (s.exitAs k acts) := by
  unfold State.exitAs
  simp only [h]
  exact .ite (trapHere h _ _) ⟨_, rfl, rfl, rfl, rfl, rfl⟩

theorem exitTo (a : Word) (acts : List Act) : s.Stays n (s.exitTo a acts) :=
  .ite (trapHere h _ _) (.ite (trapHere h _ _) (exitAs h _ _))

theorem readReg (i : Instr) (full trap : Bool) (v : Val) : s.Stays n (s.readReg i full trap v) :=
  .ite (emit h i v) (.ite (trapHere h _ _) (retry h))

theorem writeReg (d : Node) (a : Act) : s.Stays n (s.writeReg d a) := .ite (trapHere h _ _) (hold h _ _ _)

theorem onToken {port pos : Nat} {k : Token → State} (hk : ∀ x, s.Stays n (k x)) : s.Stays n (s.onToken n port pos k) := by
  unfold State.onToken
  simp only
  refine .ite (trapHere h _ _) ?_
  split
  · exact retry h
  · exact .ite ⟨_, rfl, rfl, rfl, rfl, rfl⟩ (.ite (retry h) (hk _))

theorem sendSlot (d : Node) (r : SlotRt) (port : Nat) (own : Bool) : s.Stays n (s.sendSlot d r port own) :=
  .ite (trapHere h _ _) (.ite (trapHere h _ _) (hold h _ _ _))

theorem trapSlot (d : Node) (k : TrapKind) (code : BitVec 15) : s.Stays n (s.trapSlot d k code) :=
  .ite (trapHere h _ _) (.ite (takeTrap h _ _ _ _ _) (hold h _ _ _))

theorem queueSlot (d : Node) (eng : Nat) (op : EngOp) (q r : Word) : s.Stays n (s.queueSlot d eng op q r) :=
  .ite (trapHere h _ _) (hold h _ _ _)

end State.Stays

/-! ### The instructions -/

/-- Does a step of an instruction stay in its node's slot? -/
def State.StaysIn (s : State) (n : Node) (o : Host.Outcome State Fault Refusal) : Prop := ∃ t, o = .next t ∧ s.Stays n t

theorem State.StaysIn.fire {s : State} {n : Node} (h : s.here = some n) {i : Instr} {eff : Node → SlotRt → State}
    (k : s.Stays n (eff n (n.blk.slotAt n.slot))) : s.StaysIn n (.next (s.fire i eff)) := ⟨_, rfl, .fire h k⟩

/-- The classes whose instructions compute a value from their operands alone. -/
def computes : Group → Bool
  | .int | .fp | .vec => true
  | _ => false

/-- The integer, floating-point and vector classes emit a value of their node and operands (R272 to R298). -/
theorem exec_eq_emit {i : Instr} (s : State) (h : computes (Group.of i) = true) :
    ∃ f : Node → SlotRt → Val, exec i s = .next (s.fire i fun n r => s.emit i (f n r)) := by
  cases i with
  | _ => first | exact absurd h Bool.false_ne_true | exact ⟨_, rfl⟩

/-- The rest of the quiet instructions: each waits, traps, emits, holds acts or exits. -/
theorem exec_stays {i : Instr} {s : State} {n : Node} (h : s.here = some n) (hq : Claims.quiet i = true)
    (hg : computes (Group.of i) = false) : s.StaysIn n (exec i s) := by
  cases i with
  | null | mov | movi | movi32 | moviHi => exact .fire h (.emit h _ _)
  | exit | halt => exact .fire h (.exitAs h _ _)
  | br | bri | call | calli => exact .fire h (.exitTo h _ _)
  | ret => exact .fire h (.ite (.exitTo h _ _) (.retry h))
  | rd | rdT | rdv | rdvT | rdp | rdpT => exact .fire h (.readReg h _ _ _ _)
  | wr | wrv | wrp => exact .fire h (.writeReg h _ _)
  | recv => exact .fire h (.onToken h fun _ => .withEff_emit h _ _ _ _ _)
  | tagof => exact .fire h (.onToken h fun _ => .emit h _ _)
  | send | sendt => exact .fire h (.sendSlot h _ _ _ _)
  | settag => exact .fire h (.ite (.hold h _ _ _) (.trapHere h _ _))
  | edgeset => exact .fire h (.ite (.hold h _ _ _) (.trapHere h _ _))
  | trap | sysc | bkpt => exact .fire h (.trapSlot h _ _ _)
  | mts => exact .fire h (.ite (.trapHere h _ _) (.ite (.trapHere h _ _) (.hold h _ _ _)))
  | mark | sigchk | fence | pref | tlbpf | ipf | ipin | iunpin | cwb => exact .fire h (.hold h _ _ _)
  | mcfg | mzero | mma | mlda | msteer | mfence => exact .fire h (.hold h _ _ _)
  | mdrain => exact .fire h (.ite (.hold h _ _ _) (.hold h _ _ _))
  | cinv => exact .fire h (.ite (.trapHere h _ _) (.hold h _ _ _))
  | unretain => exact .fire h (.ite (.trapHere h _ _) (.hold h _ _ _))
  | cycw => exact .fire h (.ite (.trapHere h _ _) (.hold h _ _ _))
  | cfire => exact .fire h (.queueSlot h _ _ _ _ _)
  | cdisarm => exact .fire h (.ite (.trapHere h _ _) (.queueSlot h _ _ _ _ _))
  | rsetc =>
    refine .fire h ?_
    split
    · exact .trapHere h _ _
    · exact .hold h _ _ _
  | cfgsw =>
    refine .fire h ?_
    split
    · exact .trapHere h _ _
    · exact .ite (.trapHere h _ _) (.hold h _ _ _)
  | _ => first | exact absurd hq Bool.false_ne_true | exact absurd hg.symm Bool.false_ne_true

/-- Each quiet instruction emits a value, or is one of the few whose effect is given above. -/
theorem quiet_staysIn {i : Instr} {s : State} {n : Node} (h : s.here = some n) (hq : Claims.quiet i = true) : s.StaysIn n (exec i s) := by
  cases hg : computes (Group.of i) with
  | false => exact exec_stays h hq hg
  | true =>
    obtain ⟨f, hf⟩ := exec_eq_emit s hg
    rw [hf]
    exact .fire h (.emit h i _)

end Sys2Proof.Machine
end

section
/-! SUPPORT. What an instruction may change as its slot fires. -/

namespace Sys2Proof.Proofs

open Sys2Proof.Machine Sys2Proof.Laws Sys2Proof.Claims

/-- Settles O33. -/
theorem quietInstructionsStayInTheirSlot : Obligations.QuietInstructionsStayInTheirSlot := by
  intro i s n hq h
  obtain ⟨t, ht, m, rfl, hi, hm, hv, hx⟩ := quiet_staysIn h hq
  exact ⟨m, ht, hi, hm, hv, hx⟩

end Sys2Proof.Proofs
end

section
/-! SUPPORT. What a write of the device's own leaves as it was: which requesters wait on a pending fault (R92). -/

namespace Sys2Proof.Machine

/-! ### The pending faults of the dies -/

/-- What each die holds of pending faults and of unrecorded ones (R92). -/
def State.pends (s : State) : List (List PendFault × List Requester) := s.dies.toList.map fun x => (x.pend, x.unrec)

theorem State.faulting_eq (s : State) (r : Requester) :
    s.faulting r = s.pends.any fun x => x.2.contains r || x.1.any fun p => p.waiters.contains r := by
  simp [State.faulting, State.pends, List.any_map, Function.comp_def]

theorem State.pends_setDie (s : State) (d : Nat) (x : Die) (h : d < 4 → x.pend = (s.die d).pend ∧ x.unrec = (s.die d).unrec) :
    (s.setDie d x).pends = s.pends := by
  unfold State.pends State.setDie vset
  rw [Vector.toList_setIfInBounds, List.map_set]
  by_cases hd : d < 4
  · obtain ⟨hp, hu⟩ := h hd
    rw [hp, hu]
    have hdie : s.die d = s.dies.toList[d]'(by simpa using hd) := by
      unfold State.die vget
      rw [List.getElem?_eq_getElem (by simpa using hd)]
      rfl
    rw [hdie]
    apply List.ext_getElem (by simp)
    intro i h1 h2
    rw [List.getElem_set]
    split
    · subst i; simp
    · rfl
  · rw [List.set_eq_of_length_le (by simpa using hd)]

@[simp] theorem State.pends_modDie (s : State) (d : Nat) (f : Die → Die) (h : ∀ x, (f x).pend = x.pend ∧ (f x).unrec = x.unrec) :
    (s.modDie d f).pends = s.pends := s.pends_setDie d _ fun _ => h _

theorem State.pends_foldl {α : Type} (f : State → α → State) (h : ∀ s x, (f s x).pends = s.pends) (l : List α) (s : State) :
    (l.foldl f s).pends = s.pends := by
  induction l generalizing s with
  | nil => rfl
  | cons a l ih => exact (ih _).trans (h s a)

section
variable (s : State)

@[simp] theorem State.pends_setCache (t : Nat) (c : TileCache) : (s.setCache t c).pends = s.pends := s.pends_modDie _ _ fun _ => ⟨rfl, rfl⟩
@[simp] theorem State.pends_setL1 (t k : Nat) (l : L1Line) : (s.setL1 t k l).pends = s.pends := s.pends_setCache _ _
@[simp] theorem State.pends_setDir (d k : Nat) (e : DirEntry) : (s.setDir d k e).pends = s.pends := s.pends_modDie _ _ fun _ => ⟨rfl, rfl⟩
@[simp] theorem State.pends_l2Dirty (d k : Nat) : (s.l2Dirty d k).pends = s.pends := s.pends_modDie _ _ fun _ => ⟨rfl, rfl⟩
@[simp] theorem State.pends_setRetain (d r k : Nat) (v : Word) : (s.setRetain d r k v).pends = s.pends :=
  s.pends_modDie _ _ fun _ => ⟨rfl, rfl⟩
@[simp] theorem State.pends_bumpRetain (d r k : Nat) : (s.bumpRetain d r k).pends = s.pends := s.pends_setRetain _ _ _ _
@[simp] theorem State.pends_tickUse : s.tickUse.2.pends = s.pends := rfl
@[simp] theorem State.pends_useAt (b : Bool) : (s.useAt b).2.pends = s.pends := rfl
@[simp] theorem State.pends_hand (m : OutMsg) : (s.hand m).pends = s.pends := rfl
@[simp] theorem State.pends_setHostLine (l : Nat) (x : Mesi) : (s.setHostLine l x).pends = s.pends := rfl
@[simp] theorem State.pends_poke (k n x : Nat) : (s.poke k n x).pends = s.pends := rfl
@[simp] theorem State.pends_lift (k n : Nat) : (s.lift k n).pends = s.pends := rfl
@[simp] theorem State.pends_unjournal (t off n : Nat) : (s.unjournal t off n).pends = s.pends := rfl
@[simp] theorem State.pends_modNode (t : Nat) (f : Node → Node) : (s.modNode t f).pends = s.pends := rfl

@[simp] theorem State.pends_touch (k : Nat) : (s.touch k).pends = s.pends := by
  unfold State.touch
  split
  · rfl
  · rfl

@[simp] theorem State.pends_event (d ty k : Nat) (c : BitVec 12) (x y : Word) : (s.event d ty c k x y).pends = s.pends := by
  unfold State.event
  simp only
  split
  · rfl
  · exact s.pends_setDie d _ fun _ => ⟨rfl, rfl⟩

@[simp] theorem State.pends_saturated (d : Nat) (m : Master) (pa : Nat) : (s.saturated d m pa).pends = s.pends :=
  State.pends_event _ _ _ _ _ _ _

@[simp] theorem State.pends_modHolder (d p ln : Nat) (f : L1Line → L1Line) : (s.modHolder d p ln f).pends = s.pends := by
  unfold State.modHolder
  split
  · rfl
  · exact s.pends_setL1 _ _ _

@[simp] theorem State.pends_recallHost (ln : Nat) : (s.recallHost ln).pends = s.pends := by
  unfold State.recallHost
  split
  · rfl
  · rfl

@[simp] theorem State.pends_dirInval (d ln : Nat) (keep : Option Nat) (w : Word32) : (s.dirInval d ln keep w).pends = s.pends := by
  unfold State.dirInval
  simp only [State.pends_setDir]
  rw [State.pends_foldl]
  · split
    · simp
    · simp
  · intro s p
    split
    · rfl
    · simp

@[simp] theorem State.pends_l2Evict (d ln : Nat) : (s.l2Evict d ln).pends = s.pends := by
  unfold State.l2Evict
  simp

@[simp] theorem State.pends_l2Fill (d ln : Nat) (lru : Bool) : (s.l2Fill d ln lru).pends = s.pends := by
  have hroom : (if ((s.die d).l2.filter fun p => l2Set p.1 = l2Set ln).length < 16 then s
      else match lruOf (·.use) (((s.die d).l2.filter fun p => l2Set p.1 = l2Set ln).filter fun p =>
          p.2.prot.isNone && p.2.code.isNone && p.2.fetchPins = 0) with
        | none => s
        | some v => s.l2Evict d v.1).pends = s.pends := by
    split
    · rfl
    · split
      · rfl
      · exact s.pends_l2Evict _ _
  unfold State.l2Fill
  cases hw : (s.die d).windowOf ln with
  | none =>
    simp only [hw, State.pends_modDie, State.pends_useAt, and_self, implies_true]
    exact hroom
  | some k =>
    simp only [hw]
    split
    · simp only [State.pends_modDie, State.pends_useAt, and_self, implies_true]
      exact hroom
    · simp only [State.pends_bumpRetain, State.pends_modDie, State.pends_useAt, and_self, implies_true]
      exact hroom

@[simp] theorem State.pends_l2Use (d ln : Nat) (lru : Bool) : (s.l2Use d ln lru).pends = s.pends := by
  unfold State.l2Use
  split
  · simp
  · simp only
    split
    · simp
    · simp

@[simp] theorem State.pends_l1Evict (t k : Nat) : (s.l1Evict t k).pends = s.pends := by
  unfold State.l1Evict
  simp only
  split
  · simp
  · split
    · simp
    · simp

@[simp] theorem State.pends_dropL1 (d k : Nat) : (s.dropL1 d k).pends = s.pends := State.pends_foldl _ (fun s p => by simp) _ _

@[simp] theorem State.pends_dropLine (k : Nat) : (s.dropLine k).pends = s.pends :=
  State.pends_foldl _ (fun s d => by simp) _ _

@[simp] theorem State.pends_hostReq (l what ln : Nat) : (s.hostReq l what ln).pends = s.pends := by
  unfold State.hostReq
  simp only
  split_ifs <;> simp

end

end Sys2Proof.Machine
end

section
/-! SUPPORT. What an access of a slot does to the state around it, whatever it ends in: it keeps memory and the nodes, but that a fault
writes its record (R91, R92). -/

namespace Sys2Proof.Machine

/-! ### Tables -/

theorem Tbl.get?_mapAll {α : Type} (t : Tbl α) (f : Nat → α → α) (k : Nat) : Tbl.get? k (t.mapAll f) = (Tbl.get? k t).map (f k) := by
  induction t with
  | nil => rfl
  | cons p t ih =>
    obtain ⟨j, x⟩ := p
    unfold Tbl.mapAll at ih ⊢
    by_cases h : j = k
    · subst h; simp [Tbl.get?]
    · simp only [List.map_cons, Tbl.get?, if_neg h, ih]

theorem State.node?_modNode (s : State) (t k : Nat) (f : Node → Node) :
    (s.modNode t f).node? k = if k = t then (s.node? k).map f else s.node? k := by
  unfold State.node? State.modNode
  split
  · next h => subst h; exact Tbl.get?_modify_self _ _ _
  · next h => exact Tbl.get?_modify_ne _ _ h

/-! ### States between which nodes keep their tiles -/

/-- Two states with the same nodes but for what a node holds under its tile, and both with memory in canonical form where the first
has it. -/
structure State.Tame (s t : State) : Prop where
  focus : t.focus = s.focus
  wf : Memory.wf s.mem = true → Memory.wf t.mem = true
  tiles : ∀ k m, t.node? k = some m → ∃ n, s.node? k = some n ∧ m.tile = n.tile

namespace State.Tame

variable {s t u : State}

theorem refl (s : State) : s.Tame s := ⟨rfl, id, fun _ m h => ⟨m, h, rfl⟩⟩

theorem trans (h : s.Tame t) (k : t.Tame u) : s.Tame u := by
  refine ⟨k.focus.trans h.focus, k.wf ∘ h.wf, fun j l hl => ?_⟩
  obtain ⟨m, hm, e⟩ := k.tiles j l hl
  obtain ⟨n, hn, e'⟩ := h.tiles j m hm
  exact ⟨n, hn, e.trans e'⟩

/-- States with the same memory, focus and nodes. -/
theorem of_same (m : t.mem = s.mem) (f : t.focus = s.focus) (n : t.nodes = s.nodes) : s.Tame t := by
  refine ⟨f, fun h => m ▸ h, fun k x h => ⟨x, ?_, rfl⟩⟩
  rw [← h]
  unfold State.node?
  rw [n]

theorem of_kept (h : s.Kept t) : s.Tame t := of_same h.mem h.focus h.nodes

/-- The invariant of O35 goes over. -/
theorem inv (h : s.Tame t) (i : Claims.Inv s) : Claims.Inv t := by
  refine ⟨h.wf i.1, fun k m hm => ?_⟩
  obtain ⟨n, hn, e⟩ := h.tiles k m hm
  exact e.trans (i.2 k n hn)

theorem mapNodes (s : State) (f : Nat → Node → Node) (h : ∀ k n, (f k n).tile = n.tile) :
    s.Tame { s with nodes := s.nodes.mapAll f } := by
  refine ⟨rfl, id, fun k m hm => ?_⟩
  have hk : Tbl.get? k (s.nodes.mapAll f) = some m := hm
  rw [Tbl.get?_mapAll, Option.map_eq_some_iff] at hk
  obtain ⟨n, hn, rfl⟩ := hk
  exact ⟨n, hn, h k n⟩

theorem modNode (s : State) (t : Nat) (f : Node → Node) (h : ∀ n, (f n).tile = n.tile) : s.Tame (s.modNode t f) := by
  refine ⟨rfl, id, fun k m hm => ?_⟩
  rw [State.node?_modNode] at hm
  split at hm
  · obtain ⟨n, hn, rfl⟩ := Option.map_eq_some_iff.1 hm
    exact ⟨n, hn, h n⟩
  · exact ⟨m, hm, rfl⟩

theorem putHere {n m : Node} (h : s.here = some n) (e : m.tile = n.tile) : s.Tame (s.putHere m) := by
  refine ⟨rfl, id, fun k x hx => ?_⟩
  by_cases hk : k = s.focus
  · subst hk
    have : (s.putHere m).here = some x := hx
    rw [State.here_putHere, Option.some.injEq] at this
    exact ⟨n, h, this ▸ e⟩
  · exact ⟨x, (s.node?_setNode_ne m hk).symm.trans hx, rfl⟩

end State.Tame

/-- A step of the device's own: besides, the pending faults are as they were. -/
structure State.Dev (s t : State) : Prop where
  tame : s.Tame t
  pends : t.pends = s.pends

namespace State.Dev

variable {s t u : State}

theorem refl (s : State) : s.Dev s := ⟨.refl s, rfl⟩

theorem trans (h : s.Dev t) (k : t.Dev u) : s.Dev u := ⟨h.tame.trans k.tame, k.pends.trans h.pends⟩

theorem foldl {α : Type} {f : State → α → State} (h : ∀ (s : State) x, s.Dev (f s x)) (l : List α) (s : State) : s.Dev (l.foldl f s) := by
  induction l generalizing s with
  | nil => exact .refl s
  | cons a l ih => exact (h s a).trans (ih _)

theorem touch (s : State) (k : Nat) : s.Dev (s.touch k) := ⟨.of_kept (State.Kept.refl s).touch, by simp⟩

theorem unjournal (s : State) (t off n : Nat) : s.Dev (s.unjournal t off n) := ⟨.of_same rfl rfl rfl, rfl⟩

theorem poke (s : State) (k n x : Nat) : s.Dev (s.poke k n x) := ⟨⟨rfl, s.poke_wf k n x, fun _ m h => ⟨m, h, rfl⟩⟩, rfl⟩

theorem lift (s : State) (k n : Nat) : s.Dev (s.lift k n) := ⟨.of_same rfl rfl rfl, rfl⟩

theorem noteWrite (s : State) (b : Option Nat) (k n : Nat) (v : Vec) : s.Dev (s.noteWrite b k n v) := by
  unfold State.noteWrite
  split
  · exact ⟨.mapNodes s _ fun _ _ => rfl, rfl⟩
  · exact .refl s

theorem answered_tile (n : Node) (pa : Nat) (v : Word) : (n.answered pa v).tile = n.tile := by
  unfold Node.answered
  split
  · rfl
  · rfl

theorem notify (s : State) (pa : Nat) : s.Dev (s.notify pa) := by
  unfold State.notify
  simp only
  refine trans (t := { s with nodes := s.nodes.mapAll fun _ n => n.answered pa _ })
    ⟨.mapNodes s _ fun _ n => answered_tile n pa _, rfl⟩ (foldl (fun s p => ?_) _ _)
  refine trans ⟨.modNode s p.1 (fun n => { n with watch := none, reply := some _ }) fun _ => rfl, rfl⟩ (foldl (fun s d => ?_) _ _)
  exact ⟨.of_kept (State.Kept.refl s).modDie, by simp⟩

theorem saturated (s : State) (d : Nat) (m : Master) (pa : Nat) : s.Dev (s.saturated d m pa) := by
  unfold State.saturated
  exact .trans (t := { s with satFlags := if s.satFlags.contains m.ctx.toNat then s.satFlags else m.ctx.toNat :: s.satFlags })
    ⟨.of_same rfl rfl rfl, rfl⟩ ⟨.of_kept (State.Kept.refl _).event, State.pends_event _ _ _ _ _ _ _⟩

theorem dirInval (s : State) (d ln : Nat) (keep : Option Nat) (w : Word32) : s.Dev (s.dirInval d ln keep w) :=
  ⟨.of_kept (State.Kept.refl s).dirInval, s.pends_dirInval _ _ _ _⟩

theorem l2Use (s : State) (d ln : Nat) (lru : Bool) : s.Dev (s.l2Use d ln lru) := ⟨.of_kept (State.Kept.refl s).l2Use, s.pends_l2Use _ _ _⟩

theorem l2Dirty (s : State) (d ln : Nat) : s.Dev (s.l2Dirty d ln) := ⟨.of_kept (State.Kept.refl s).l2Dirty, s.pends_l2Dirty _ _⟩

theorem hostReq (s : State) (l what ln : Nat) : s.Dev (s.hostReq l what ln) := ⟨.of_kept (State.Kept.refl s).hostReq, s.pends_hostReq _ _ _⟩

theorem recallHost (s : State) (ln : Nat) : s.Dev (s.recallHost ln) := ⟨.of_kept (State.Kept.refl s).recallHost, s.pends_recallHost _⟩

theorem hand (s : State) (m : OutMsg) : s.Dev (s.hand m) := ⟨.of_kept (State.Kept.refl s).hand, rfl⟩

theorem devHome {pa n : Nat} {add : Bool} {op : ExtOp} (h : s.devHome pa n add op = some t) : s.Dev t := by
  unfold State.devHome at h
  simp only at h
  split at h
  · rw [← Option.some.inj h]
    exact (((touch s _).trans (dirInval _ _ _ _ _)).trans (l2Use _ _ _ _)).trans (l2Dirty _ _ _)
  · split at h
    · cases h
    · rw [← Option.some.inj h]
      exact (touch s _).trans (hostReq _ _ _ _)
  · rw [← Option.some.inj h]
    exact ((touch s _).trans (recallHost _ _)).trans (unjournal _ _ _ _)
  · rw [← Option.some.inj h]
    exact (touch s _).trans (hand _ _)
  · cases h
  · cases h

theorem devPut (s : State) (pa n x : Nat) : s.Dev (s.devPut pa n x) :=
  .trans (.trans (.trans (poke s _ n x) (lift _ _ n)) (noteWrite _ none _ n _)) (notify _ _)

theorem devWrite (s : State) (pa n x : Nat) : s.Dev (s.devWrite pa n x) := by
  unfold State.devWrite
  split
  · exact .refl s
  · next h => exact .trans (devHome h) (devPut _ pa n x)

theorem devAdd (s : State) (d pa : Nat) (amount : Word) : s.Dev (s.devAdd d pa amount) := by
  unfold State.devAdd
  split
  · exact .refl s
  · next u h =>
    simp only
    split
    · exact .trans (.trans (devHome h) (devPut u pa 8 _)) (saturated _ d ⟨0, 7⟩ pa)
    · exact .trans (devHome h) (devPut u pa 8 _)

theorem msix (s : State) (v : Word) : s.Dev (s.msix v) := by
  unfold State.msix
  split
  · exact ⟨.of_same rfl rfl rfl, rfl⟩
  · exact .refl s

theorem ringLook (s : State) (d r : Nat) : s.Dev (s.ringLook d r) := by
  unfold State.ringLook
  simp only
  split
  · exact .refl s
  · exact .trans (touch s _) (touch _ _)

theorem ringPut (s : State) (d r fill n : Nat) (w : Word × Word × Word × Word) : s.Dev (s.ringPut d r fill n w) := by
  unfold State.ringPut
  simp only
  have hput := (((((ringLook s d r).trans (devWrite _ (s.ringAddr d r fill n + 8) 8 w.2.1.toNat)).trans
    (devWrite _ (s.ringAddr d r fill n + 16) 8 w.2.2.1.toNat)).trans (devWrite _ (s.ringAddr d r fill n + 24) 8 w.2.2.2.toNat)).trans
    (devWrite _ (s.ringAddr d r fill n) 8 w.1.toNat))
  split
  · exact hput.trans (devAdd _ d _ 1)
  · exact (hput.trans (devAdd _ d _ 1)).trans (msix _ _)

theorem pendPut (s : State) (d : Nat) (p : PendFault) : s.Dev (s.pendPut d p).2 := by
  unfold State.pendPut
  split
  · exact ringLook s d _
  · exact ringPut s d _ _ _ _

theorem pendUpdate (s : State) (d : Nat) (p : PendFault) (b : Bool) : s.Dev (s.pendUpdate d p b) := by
  unfold State.pendUpdate
  simp only
  split
  · split
    · split
      · exact .trans (.trans (ringLook s d _) (devWrite _ _ _ _)) (devWrite _ _ _ _)
      · exact .trans (ringLook s d _) (devWrite _ _ _ _)
    · exact ringLook s d _
  · exact .refl s

end State.Dev

end Sys2Proof.Machine
end

section
/-! SUPPORT. How an access of a slot ends (R20, R88, R91, R92): every outcome but a fault's leaves memory and the nodes as they were. -/

namespace Sys2Proof.Machine

/-! ### A fault leaves its requester waiting -/

theorem State.die_eq_reset (s : State) {d : Nat} (h : ¬ d < 4) : s.die d = Die.reset := by
  unfold State.die vget
  rw [List.getElem?_eq_none (by simpa using h)]
  rfl

theorem State.die_mem (s : State) {d : Nat} (h : d < 4) : s.die d ∈ s.dies.toList := by
  unfold State.die vget
  rw [List.getElem?_eq_getElem (by simpa using h)]
  exact List.getElem_mem _

@[simp] theorem State.die_setDie (s : State) {d : Nat} (x : Die) (h : d < 4) : (s.setDie d x).die d = x := vget_vset_self _ _ _ _ h

@[simp] theorem State.die_modDie (s : State) {d : Nat} (f : Die → Die) (h : d < 4) : (s.modDie d f).die d = f (s.die d) :=
  s.die_setDie _ h

theorem State.faulting_of_unrec {s : State} {d : Nat} {r : Requester} (hd : d < 4) (h : r ∈ (s.die d).unrec) : s.faulting r = true :=
  List.any_eq_true.2 ⟨s.die d, s.die_mem hd, by simp [h]⟩

theorem State.faulting_of_pend {s : State} {d : Nat} {r : Requester} {p : PendFault} (hd : d < 4) (hp : p ∈ (s.die d).pend)
    (h : r ∈ p.waiters) : s.faulting r = true :=
  List.any_eq_true.2 ⟨s.die d, s.die_mem hd, by
    rw [Bool.or_eq_true]
    exact .inr (List.any_eq_true.2 ⟨p, hp, by simpa using h⟩)⟩

theorem State.pendingAt_some {s : State} {d : Nat} {c : BitVec 12} {page : Nat} {p : PendFault} (h : s.pendingAt d c page = some p) :
    d < 4 ∧ p ∈ (s.die d).pend := by
  unfold State.pendingAt at h
  refine ⟨?_, List.mem_of_find?_eq_some h⟩
  by_contra hd
  rw [s.die_eq_reset hd] at h
  cases h

/-- A pending fault that is put in the place of its key waits there. -/
theorem State.faulting_setPend {s : State} {d : Nat} {p q : PendFault} {r : Requester} (hd : d < 4) (hp : p ∈ (s.die d).pend)
    (hk : p.ctx = q.ctx ∧ p.page = q.page) (hr : r ∈ q.waiters) : (s.setPend d q).faulting r = true := by
  refine State.faulting_of_pend (p := q) hd ?_ hr
  unfold State.setPend
  rw [State.die_modDie _ _ hd]
  exact List.mem_map.2 ⟨p, hp, by simp [hk]⟩

theorem State.Dev.faulting {s t : State} (h : s.Dev t) (r : Requester) : t.faulting r = s.faulting r := by
  rw [State.faulting_eq, State.faulting_eq, h.pends]

theorem State.pendJoin_sound {s : State} {d : Nat} {c : BitVec 12} {page : Nat} {p : PendFault} (kind : AccKind) (r : Requester)
    (h : s.pendingAt d c page = some p) : s.Tame (s.pendJoin d p kind r) ∧ (s.pendJoin d p kind r).faulting r = true := by
  obtain ⟨hd, hp⟩ := State.pendingAt_some h
  unfold State.pendJoin
  simp only
  refine ⟨.trans (.of_kept (State.Kept.refl s).modDie) (State.Dev.pendUpdate _ _ _ _).tame, ?_⟩
  rw [(State.Dev.pendUpdate _ _ _ _).faulting]
  refine State.faulting_setPend hd hp ⟨rfl, rfl⟩ ?_
  simp only
  split
  · next hc => simpa using hc
  · simp

/-- The record of a pending fault is that of the same key and the same waiters. -/
theorem State.pendPut_fst (s : State) (d : Nat) (p : PendFault) :
    (s.pendPut d p).1.ctx = p.ctx ∧ (s.pendPut d p).1.page = p.page ∧ (s.pendPut d p).1.waiters = p.waiters := by
  unfold State.pendPut
  split
  · exact ⟨rfl, rfl, rfl⟩
  · exact ⟨rfl, rfl, rfl⟩

theorem State.pends_die {s t : State} (h : t.pends = s.pends) (d : Nat) : (t.die d).pend = (s.die d).pend := by
  have hd : ∀ u : State, (u.die d).pend = ((u.pends[d]?).map (·.1)).getD [] := by
    intro u
    unfold State.die vget State.pends
    rw [List.getElem?_map]
    cases u.dies.toList[d]? <;> rfl
  rw [hd, hd, h]

/-- A new pending fault waits once its record has been written, or is to be. -/
theorem State.pendNew_sound (s : State) {d : Nat} (p : PendFault) {r : Requester} (hd : d < 4) (hr : r ∈ p.waiters) :
    let u := s.modDie d fun x => { x with pend := x.pend ++ [p] }
    s.Tame ((u.pendPut d p).2.setPend d (u.pendPut d p).1) ∧ ((u.pendPut d p).2.setPend d (u.pendPut d p).1).faulting r = true := by
  intro u
  refine ⟨.trans (.of_kept (State.Kept.refl s).modDie) (.trans (State.Dev.pendPut u d p).tame (.of_kept (State.Kept.refl _).modDie)), ?_⟩
  obtain ⟨hc, hp, hw⟩ := State.pendPut_fst u d p
  refine State.faulting_setPend (p := p) hd ?_ ⟨hc.symm, hp.symm⟩ (hw ▸ hr)
  rw [State.pends_die (State.Dev.pendPut u d p).pends, State.die_modDie _ _ hd]
  simp

theorem State.pendFault_sound (s : State) {d : Nat} (c : BitVec 12) (page : Nat) (kind : AccKind) (cls : BitVec 3) (assist : Word)
    (r : Requester) (why : Nat × Nat × Word) (hd : d < 4) :
    s.Tame (s.pendFault d c page kind cls assist r why) ∧ (s.pendFault d c page kind cls assist r why).faulting r = true := by
  unfold State.pendFault
  split
  · next h => exact State.pendJoin_sound kind r h
  · split
    · refine ⟨.of_kept (State.Kept.refl s).modDie, State.faulting_of_unrec hd ?_⟩
      rw [State.die_modDie _ _ hd]
      simp
    · exact s.pendNew_sound _ hd List.mem_cons_self

/-! ### What an access ends in -/

/-- A state with the same memory, edges, nodes and focus. -/
structure State.Alike (s t : State) : Prop where
  mem : t.mem = s.mem
  poison : t.poison = s.poison
  mts : t.mts = s.mts
  edges : t.edges = s.edges
  ports : t.ports = s.ports
  nodes : t.nodes = s.nodes
  focus : t.focus = s.focus

namespace State.Alike

variable {s t u : State}

theorem refl (s : State) : s.Alike s := ⟨rfl, rfl, rfl, rfl, rfl, rfl, rfl⟩

theorem trans (h : s.Alike t) (k : t.Alike u) : s.Alike u :=
  ⟨k.mem.trans h.mem, k.poison.trans h.poison, k.mts.trans h.mts, k.edges.trans h.edges, k.ports.trans h.ports,
    k.nodes.trans h.nodes, k.focus.trans h.focus⟩

theorem of_kept (h : s.Kept t) : s.Alike t :=
  have at_ {α : Type} (f : State → α) : f t.still = f s.still := congrArg f h
  ⟨at_ State.mem, at_ State.poison, at_ State.mts, at_ State.edges, at_ State.ports, at_ State.nodes, at_ State.focus⟩

theorem here (h : s.Alike t) : t.here = s.here := by
  unfold State.here State.node?
  rw [h.nodes, h.focus]

theorem tame (h : s.Alike t) : s.Tame t := .of_same h.mem h.focus h.nodes

end State.Alike

/-- The requester of a translation for a tile's element. -/
def State.asker (s : State) (t : Nat) : Requester := if s.nodes.has t then .node t else .mt t

/-- A request has faulted, and waits on a pending fault. -/
def State.Faults (s : State) (t : Nat) (u : State) : Prop := s.Tame u ∧ u.faulting (s.asker t) = true

/-- An access of a tile's element that changes neither memory nor a node, or faults. -/
def Got.Sound {α : Type} (s : State) (t : Nat) : Got α → Prop
  | .ok _ u | .trap _ _ u | .poison u | .sleep _ u => s.Alike u
  | .walk u => s.Alike u ∨ s.Faults t u

theorem State.Alike.faults {s t u : State} {k : Nat} (h : s.Alike t) (f : t.Faults k u) : s.Faults k u := by
  refine ⟨h.tame.trans f.1, ?_⟩
  have hk : s.asker k = t.asker k := by unfold State.asker; rw [h.nodes]
  rw [hk]
  exact f.2

theorem Got.Sound.after {α : Type} {s t : State} {k : Nat} {g : Got α} (h : s.Alike t) (hg : g.Sound t k) : g.Sound s k := by
  cases g with
  | walk u => exact hg.imp h.trans h.faults
  | _ => exact h.trans hg

/-- A translation that gives nothing: only a fault changes more than a lookup does (R91, R92). -/
theorem State.xlate_error {s u : State} {d : Nat} {tile : Option Nat} {c : BitVec 12} {va : Word} {kind : AccKind} {cls : BitVec 3}
    {assist : Word} {r : Requester} {x : XErr} (h : s.xlate d tile c va kind cls assist r = (.error x, u)) :
    s.Kept u ∨ (x = .fault ∧ s.Tame u ∧ u.faulting r = true) := by
  unfold State.xlate at h
  simp only at h
  have hr : s.Kept (s.reissued d r) := (State.Kept.refl s).reissued
  split at h
  · cases h
    exact .inl hr
  · split at h
    · cases h
    · split at h
      · next hp =>
        cases h
        obtain ⟨ht, hf⟩ := State.pendJoin_sound kind r hp
        exact .inr ⟨rfl, .trans (.of_kept hr) ht, hf⟩
      · split at h
        · next m hm =>
          cases h
          have hd : d < 4 := by
            by_contra hd
            rw [State.die_eq_reset _ hd] at hm
            cases hm
          obtain ⟨ht, hf⟩ := State.pendFault_sound ((s.reissued d r).missTake d c (va.toNat / 65536) ⟨r, kind⟩) c (va.toNat / 65536)
            kind cls assist r (m.why.getD (5, 0, 0)) hd
          exact .inr ⟨rfl, .trans (.of_kept hr.missTake) ht, hf⟩
        · split at h
          · split at h
            · cases h
              exact .inl hr
            · cases h
              exact .inl hr.missJoin
          · cases h
            exact .inl hr.missJoin

theorem State.xlateNode_error {s u : State} {t : Nat} {n : Node} {va : Word} {kind : AccKind} {x : XErr}
    (h : s.xlateNode t n va kind = (.error x, u)) (a : Word) (α : Type) : (x.got a u : Got α).Sound s t := by
  rcases State.xlate_error h with hk | ⟨rfl, hf⟩
  · cases x with
    | fault => exact .inl (.of_kept hk)
    | _ => exact .of_kept hk
  · exact .inr hf

/-! ### Each access of a slot -/

section
variable {s : State} {t : Nat} {n : Node}

theorem State.Kept.sound {α : Type} {u : State} (h : s.Kept u) {g : Got α} (hg : g.Sound u t) : g.Sound s t := hg.after (.of_kept h)

theorem State.readRound_sound (r : RoundRegion) : (s.readRound t n r).Sound s t := by
  unfold State.readRound
  split
  · next h => exact State.xlateNode_error h _ _
  · next h =>
    have hk := (State.Kept.refl s).xlateNode h
    split
    all_goals next h' => exact .of_kept (hk.readCounter_eq h')

theorem State.readReclaim_sound (r : RoundRegion) (c : Nat) : (s.readReclaim t n r c).Sound s t := by
  induction c with
  | zero => exact .refl s
  | succ c ih =>
    unfold State.readReclaim
    split
    · next h =>
      rw [h] at ih
      simp only
      split
      · next h' => exact (State.xlateNode_error h' _ _).after ih
      · next h' =>
        have hk := (State.Kept.refl _).xlateNode h'
        split
        · next h'' => exact ih.trans (.of_kept (hk.readCounter_eq h''))
        · next h'' => exact ih.trans (.of_kept (hk.readCounter_eq h''))
        · next h'' =>
          have hc := ih.trans (.of_kept (hk.readCounter_eq h''))
          split
          · exact hc
          · exact hc
    · exact ih

theorem State.takeCopy_sound (lsid reg : Nat) (c : Copy) (w : Word32) (p : Policy) : (s.takeCopy t n lsid reg c w p).Sound s t := by
  unfold State.takeCopy
  split
  · exact .refl s
  · exact .of_kept (State.Kept.refl s).useCopy

theorem State.loadSlot_sound (k reg : Nat) (r : RoundRegion) (j : Nat) (w : Word32) (p : Policy) :
    (s.loadSlot t k n reg r j w p).Sound s t := by
  unfold State.loadSlot
  simp only
  split
  · exact .of_kept (State.Kept.refl s).useCopy
  · have hr := State.readRound_sound (s := s) (t := t) (n := n) r
    split
    · next h =>
      have hk := (State.Kept.refl s).readRound h
      split
      · exact .of_kept hk
      · split
        all_goals next h' => exact .of_kept (hk.loadStamped_eq h')
    all_goals next h => rw [h] at hr; exact hr

theorem State.loadVirt_sound (lsid vk : Nat) (w : Word32) (way : LoadWay) : (s.loadVirt t n lsid vk w way).Sound s t := by
  unfold State.loadVirt
  simp only
  split
  · next h => exact State.xlateNode_error h _ _
  · next e u h =>
    have hk := (State.Kept.refl s).xlateNode h
    split
    · exact .of_kept hk
    · split
      · split
        · next h' => exact .of_kept (hk.loadConst_eq h')
        · next h' => exact .of_kept (hk.loadConst_eq h')
        · next h' =>
          split
          · exact .of_kept (hk.loadConst_eq h')
          · exact .of_kept (State.Kept.pick (n := 2) (hk.loadConst_eq h'))
      · next p =>
        split
        · next reg r j _ =>
          have hs := hk.sound (State.loadSlot_sound (t := t) (n := n) (e.phys (vk * 128) / 128) reg r j w p)
          split
          all_goals next h' => rw [h'] at hs; exact hs
        · split
          all_goals next h' => exact .of_kept (hk.loadLine_eq h')

theorem State.loadLines_sound (lsid : Nat) (way : LoadWay) (l : List (Nat × Word32)) : (s.loadLines t n lsid way l).Sound s t := by
  induction l generalizing s with
  | nil => exact .refl s
  | cons a l ih =>
    have hv := State.loadVirt_sound (s := s) (t := t) (n := n) lsid a.1 a.2 way
    unfold State.loadLines
    split
    · next h =>
      rw [h] at hv
      have hl := ih.after hv
      split
      · next h' => rw [h'] at hl; exact hl
      · exact hl
    all_goals next h => rw [h] at hv; exact hv

theorem State.loadShared_sound (lsid : Nat) (way : LoadWay) (l : List (Nat × Word32)) : (s.loadShared t n lsid way l).Sound s t := by
  induction l generalizing s with
  | nil => exact .refl s
  | cons a l ih =>
    unfold State.loadShared
    split
    · exact State.loadLines_sound lsid way _
    · split
      · next h => exact State.xlateNode_error h _ _
      · next e u h =>
        have hk := (State.Kept.refl s).xlateNode h
        have hv : (if e.sv then .ok (0, true) u else u.loadVirt t n lsid a.1 a.2 way : Got (Vec × Bool)).Sound s t := by
          split
          · exact .of_kept hk
          · exact hk.sound (State.loadVirt_sound lsid a.1 a.2 way)
        split
        · next h' =>
          rw [h'] at hv
          have hl := ih.after hv
          split
          · next h'' => rw [h''] at hl; exact hl
          · exact hl
        all_goals next h' => rw [h'] at hv; exact hv

theorem State.xlateLanes_sound (l : List LaneAt) : (s.xlateLanes t n l).Sound s t := by
  induction l generalizing s with
  | nil => exact .refl s
  | cons a l ih =>
    unfold State.xlateLanes
    split
    · next h => exact State.xlateNode_error h _ _
    · next h =>
      have hl := ((State.Kept.refl s).xlateNode h).sound ih
      split
      · next h' => rw [h'] at hl; exact hl
      · exact hl

theorem State.readSlot_sound (lsid reg va : Nat) (w : Word32) (p : Policy) (round : Nat) :
    (s.readSlot t n lsid reg va w p round).Sound s t := by
  unfold State.readSlot
  split
  · next h => exact State.xlateNode_error h _ _
  · next h =>
    have hk := (State.Kept.refl s).xlateNode h
    simp only
    split
    all_goals
      split
      · exact .of_kept hk
      · split
        · exact .of_kept hk
        · split
          all_goals next h' => exact .of_kept (hk.loadStamped_eq h')

theorem State.loadBounded_sound (lsid reg : Nat) (r : RoundRegion) (va es : Nat) (bound : Option Nat) (p : Policy) :
    (s.loadBounded t n lsid reg r va es bound p).Sound s t := by
  unfold State.loadBounded
  simp only
  split
  · exact .refl s
  · split
    · next h => exact .inl (.of_kept ((State.Kept.refl s).copiesOf_eq h))
    · next u h =>
      have hk := (State.Kept.refl s).copiesOf_eq h
      split
      · exact hk.sound (State.takeCopy_sound ..)
      · have hr := hk.sound (State.readRound_sound (t := t) (n := n) r)
        split
        · next h' =>
          have hk' := hk.readRound h'
          split
          · exact .of_kept hk'
          · exact hk'.sound (State.readSlot_sound ..)
        all_goals next h' => rw [h'] at hr; exact hr

theorem State.loadRound_sound (lsid reg : Nat) (r : RoundRegion) (va es round : Nat) (p : Policy) :
    (s.loadRound t n lsid reg r va es round p).Sound s t := by
  unfold State.loadRound
  simp only
  split
  · next h => exact .inl (.of_kept ((State.Kept.refl s).copiesOf_eq h))
  · next u h =>
    have hk := (State.Kept.refl s).copiesOf_eq h
    split
    · exact hk.sound (State.takeCopy_sound ..)
    · have hr := hk.sound (State.readRound_sound (t := t) (n := n) r)
      split
      · next h' =>
        have hk' := hk.readRound h'
        have hm := hk'.sound (State.readReclaim_sound (t := t) (n := n) r (r.nr + 1))
        split
        · next h'' =>
          have hk'' := hk'.readReclaim h''
          split
          · exact .of_kept hk''
          · split
            · exact .of_kept hk''
            · exact hk''.sound (State.readSlot_sound ..)
        all_goals next h'' => rw [h''] at hm; exact hm
      all_goals next h' => rw [h'] at hr; exact hr

theorem State.loadExact_sound (lsid reg : Nat) (r : RoundRegion) (va es round : Nat) (p : Policy) :
    (s.loadExact t n lsid reg r va es round p).Sound s t := by
  unfold State.loadExact
  simp only
  split
  · exact State.loadRound_sound ..
  · split
    · next h => exact State.xlateNode_error h _ _
    · next h =>
      have hk := (State.Kept.refl s).xlateNode h
      split
      · exact .of_kept hk
      · exact hk.sound (State.loadRound_sound ..)

theorem State.counterRef_sound (va : Word) (kind : AccKind) : (s.counterRef n va kind).Sound s s.focus := by
  unfold State.counterRef
  split
  · exact .refl s
  · split
    · next h => exact State.xlateNode_error h _ _
    · next h => exact .of_kept ((State.Kept.refl s).xlateNode h)

theorem State.readWord_sound (va : Word) : (s.readWord t n va).Sound s t := by
  unfold State.readWord
  split
  · next h => exact State.xlateNode_error h _ _
  · next h =>
    have hk := (State.Kept.refl s).xlateNode h
    split
    all_goals next h' => exact .of_kept (hk.readCounter_eq h')

theorem State.readForAll_sound (va : Word) : (s.readForAll n va).Sound s s.focus := by
  unfold State.readForAll
  split
  · exact .refl s
  · exact State.readWord_sound va

theorem State.readRefs_sound (l : List Nat) : (s.readRefs n l).Sound s s.focus := by
  induction l generalizing s with
  | nil => exact .refl s
  | cons a l ih =>
    have hv := State.readWord_sound (s := s) (t := s.focus) (n := n) (BitVec.ofNat 64 a)
    unfold State.readRefs
    split
    · next h =>
      have hk := (State.Kept.refl s).readWord h
      have hl := hk.sound (t := s.focus) (hk.focus ▸ ih)
      split
      · next h' => rw [h'] at hl; exact hl
      · exact hl
    all_goals next h => rw [h] at hv; exact hv

end

end Sys2Proof.Machine
end

section
/-! SUPPORT. What an instruction changes as its slot fires (R24): its own node, as a slot may, and what a lookup may; or it has come to
wait for a translation. -/

namespace Sys2Proof.Machine

open Sys2Proof.Laws

/-! ### A state that differs in one node, in what a slot may change -/

/-- A state with the same memory and edges, and the same nodes but for what a slot may change of the one at the focus. -/
structure State.Local (s : State) (n : Node) (t : State) : Prop where
  mem : t.mem = s.mem
  poison : t.poison = s.poison
  mts : t.mts = s.mts
  edges : t.edges = s.edges
  ports : t.ports = s.ports
  focus : t.focus = s.focus
  others : ∀ k, k ≠ s.focus → t.node? k = s.node? k
  own : ∃ m, t.here = some m ∧ n.Near m

/-- What a slot's step does: it changes its node as a slot may, or has met a fault, and waits for its end (R91). -/
def State.After (s : State) (n : Node) (t : State) : Prop :=
  s.Local n t ∨ (s.Tame t ∧ ∀ m, t.here = some m → m.stop = some .walk)

namespace State.Local

variable {s t u : State} {n m : Node}

theorem of_alike (h : s.here = some n) (a : s.Alike t) : s.Local n t := by
  refine ⟨a.mem, a.poison, a.mts, a.edges, a.ports, a.focus, fun k _ => ?_, n, a.here.trans h, .refl n⟩
  unfold State.node?
  rw [a.nodes]

theorem putHere (k : n.Near m) : s.Local n (s.putHere m) :=
  ⟨rfl, rfl, rfl, rfl, rfl, rfl, fun _ h => s.node?_setNode_ne m h, m, s.here_putHere m, k⟩

theorem trans (h : s.Local n t) (k : ∀ m, t.here = some m → t.Local m u) : s.Local n u := by
  obtain ⟨m, hm, hn⟩ := h.own
  have l := k m hm
  obtain ⟨x, hx, hmx⟩ := l.own
  refine ⟨l.mem.trans h.mem, l.poison.trans h.poison, l.mts.trans h.mts, l.edges.trans h.edges, l.ports.trans h.ports,
    l.focus.trans h.focus, fun j hj => ?_, x, hx, hn.trans hmx⟩
  exact (l.others j (h.focus ▸ hj)).trans (h.others j hj)

theorem of_stays (h : s.Stays n t) : s.Local n t := by
  obtain ⟨m, rfl, -, hm⟩ := h
  exact putHere hm

theorem tame (h : s.here = some n) (l : s.Local n t) : s.Tame t := by
  refine ⟨l.focus, fun w => l.mem ▸ w, fun k x hx => ?_⟩
  by_cases hk : k = s.focus
  · subst hk
    obtain ⟨m, hm, he, -, -⟩ := l.own
    have hx' : t.here = some x := by unfold State.here; rw [l.focus]; exact hx
    rw [hm, Option.some.injEq] at hx'
    subst hx'
    exact ⟨n, h, by rw [he]; rfl⟩
  · exact ⟨x, (l.others k hk).symm.trans hx, rfl⟩

theorem here_modHere (s : State) (f : Node → Node) : (s.modNode s.focus f).here = s.here.map f := by
  show (s.modNode s.focus f).node? s.focus = _
  rw [State.node?_modNode, if_pos rfl]
  rfl

theorem modHere {f : Node → Node} (h : s.here = some n) (k : n.Near (f n)) : s.Local n (s.modNode s.focus f) := by
  refine ⟨rfl, rfl, rfl, rfl, rfl, rfl, fun j hj => ?_, f n, ?_, k⟩
  · rw [State.node?_modNode, if_neg hj]
  · rw [here_modHere, h]
    rfl

end State.Local

/-! ### How an access ends, at its slot -/

theorem State.poisonNode_local {s : State} {n : Node} (h : s.here = some n) (a : Word) : s.Local n (s.poisonNode s.focus a) := by
  refine .modHere h ?_
  simp only
  split
  · exact ⟨rfl, rfl, rfl⟩
  · exact .freeze n _ _

theorem State.proxyWatch_kept (s : State) (pa : Nat) : s.Kept (s.proxyWatch pa) := by
  unfold State.proxyWatch
  simp only
  split
  · split
    · exact .refl s
    · split
      · exact (State.Kept.refl s).hostReq
      · exact (State.Kept.refl s).hostReq.timeStamp.rdcPut
  · exact .refl s

theorem State.sleepHere_local {s : State} {n : Node} (h : s.here = some n) (w : Watch) : s.Local n (s.sleepHere w) := by
  unfold State.sleepHere
  simp only [h]
  have hp : ∀ b : Blk, s.Local n (s.putHere { n with issued := false, blk := b }) := fun b => .putHere ⟨rfl, rfl, rfl⟩
  split
  · exact (hp _).trans fun m hm => .of_alike hm (.of_kept (State.proxyWatch_kept _ _))
  · exact hp _

namespace State.After

variable {s t u : State} {n m : Node}

theorem of_stays (h : s.Stays n t) : s.After n t := .inl (.of_stays h)

theorem of_alike (h : s.here = some n) (a : s.Alike t) : s.After n t := .inl (.of_alike h a)

/-- After a lookup. -/
theorem after (h : s.here = some n) (a : s.Alike t) (k : t.After n u) : s.After n u := by
  rcases k with k | ⟨k, hm⟩
  · refine .inl (.trans (.of_alike h a) fun m hm => ?_)
    rw [a.here, h, Option.some.injEq] at hm
    exact hm ▸ k
  · exact .inr ⟨a.tame.trans k, hm⟩

theorem tame (h : s.here = some n) (a : s.After n t) : s.Tame t := a.elim (State.Local.tame h) (·.1)

theorem ite {c : Prop} [Decidable c] (h : s.After n t) (k : s.After n u) : s.After n (if c then t else u) := by
  split
  · exact h
  · exact k

variable (h : s.here = some n)

include h

theorem has : s.asker s.focus = .node s.focus := by
  unfold State.asker Tbl.has
  have hn : Tbl.get? s.focus s.nodes = some n := h
  rw [hn]
  rfl

theorem retry : s.After n s.retry := of_stays (.retry h)

theorem trapHere (c : Cause) (a : Word) : s.After n (s.trapHere c a) := of_stays (.trapHere h c a)

theorem emit (i : Instr) (v : Val) : s.After n (s.emit i v) := of_stays (.emit h i v)

theorem hold (step key : Nat) (acts : List Act) : s.After n (s.hold step key acts) := of_stays (.hold h step key acts)

theorem withEff_emit (step key : Nat) (acts : List Act) (i : Instr) (v : Val) : s.After n ((s.withEff step key acts).emit i v) :=
  of_stays (.withEff_emit h step key acts i v)

theorem acts_emit (step key : Nat) (acts : List Act) (i : Instr) (v : Val) :
    s.After n ((if acts.isEmpty then s else s.withEff step key acts).emit i v) := by
  split
  · exact emit h i v
  · exact withEff_emit h step key acts i v

/-- A request that waits: the node stops where it has faulted, and else asks again. -/
theorem freezeWalk (hw : s.Alike t ∨ s.Faults s.focus t) : s.After n (t.freezeWalk (.node t.focus)) := by
  unfold State.freezeWalk
  rcases hw with a | ⟨ht, hf⟩
  · have hn : t.here = some n := a.here.trans h
    refine after h a (ite ?_ (.inl (.modHere hn ⟨rfl, rfl, rfl⟩)))
    have hn' : t.node? t.focus = some n := hn
    simp only [State.missAgain, hn']
    exact ite (retry hn) (of_alike hn (.refl t))
  · rw [has h, ← ht.focus] at hf
    rw [hf]
    refine .inr ⟨ht.trans (.modNode t t.focus _ fun _ => rfl), fun m hm => ?_⟩
    have hm' : (t.modNode t.focus fun n => { n.abandon n.pc with stop := some .walk }).here = some m := hm
    rw [State.Local.here_modHere] at hm'
    obtain ⟨x, -, rfl⟩ := Option.map_eq_some_iff.1 hm'
    rfl

/-- An access goes on where it ends in a value, and else ends the slot's step. -/
theorem on_from {α : Type} {g : Got α} (hg : g.Sound s s.focus) {k : α → State → State} (hk : ∀ x u, s.Alike u → s.After n (k x u)) :
    s.After n (g.on k) := by
  cases g with
  | ok x u => exact hk x u hg
  | trap c a u => exact after h hg (trapHere (State.Alike.here hg |>.trans h) c a)
  | walk u => exact freezeWalk h hg
  | poison u =>
    have hn : u.here = some n := (State.Alike.here hg).trans h
    exact after h hg (.inl (State.poisonNode_local hn 0))
  | sleep w u =>
    have hn : u.here = some n := (State.Alike.here hg).trans h
    exact after h hg (.inl (State.sleepHere_local hn w))

theorem on {α : Type} {g : Got α} (hg : g.Sound s s.focus) {k : α → State → State} (hk : ∀ x u, s.Alike u → u.After n (k x u)) :
    s.After n (g.on k) := on_from h hg fun x u a => after h a (hk x u a)

theorem fire {i : Instr} {eff : Node → SlotRt → State} (k : s.After n (eff n (n.blk.slotAt n.slot))) : s.After n (s.fire i eff) := by
  unfold State.fire
  simp only [h]
  exact ite (of_stays (.settle h i)) (ite (of_stays (.resolve h i)) k)

omit h

theorem forward_alike (s : State) (n : Node) (k : FwdKey) (x : Vec) : s.Alike (s.forward n k x) := by
  have hpost : ∀ (l : List (Nat × Node)) (f : Nat → Instr) (s : State), s.Alike (l.foldl (fun s p => s.post (f p.1)) s) := by
    intro l f s
    induction l generalizing s with
    | nil => exact .refl s
    | cons a l ih => exact State.Alike.trans (t := s.post (f a.1)) ⟨rfl, rfl, rfl, rfl, rfl, rfl, rfl⟩ (ih _)
  unfold State.forward
  split
  · obtain ⟨a, b, c, d, e, f, g⟩ := hpost (s.twins n) (fun t => .forwardedValueArrive t k x) s
    exact ⟨a, b, c, d, e, f, g⟩
  · exact .refl s

include h

/-- A slot's step that observes a value: the leader forwards it, and a shadow takes the forwarded one or waits (R213, R380). -/
theorem observe (a : s.Alike t) (x : Word) {k : Word → State → State} (hk : ∀ x u, s.Alike u → u.After n (k x u)) :
    s.After n (State.observe s t n x k) := by
  unfold State.observe
  split
  · split
    · exact hk _ s (.refl s)
    · exact retry h
  · have b := a.trans (forward_alike t n (n.fwdKey 0) (x.setWidth 1024))
    exact after h b (hk x _ b)

theorem netObserve (a : s.Alike t) (x : Vec) {k : Vec → State → State} (hk : ∀ x u, s.Alike u → u.After n (k x u)) :
    s.After n (State.netObserve s t n x k) := by
  unfold State.netObserve
  split
  · split
    · exact hk _ s (.refl s)
    · exact retry h
  · have b := a.trans (forward_alike t n (n.fwdKey 0) x)
    exact after h b (hk x _ b)

theorem netCheck (bad : Option Cause) {k : State → State} (hk : ∀ u, s.Alike u → u.After n (k u)) : s.After n (s.netCheck n bad k) := by
  unfold State.netCheck
  refine netObserve h (.refl s) _ fun x u a => ?_
  have hn : u.here = some n := a.here.trans h
  exact ite (hk u a) (trapHere hn _ _)

end State.After

/-! ### The effects that reach beyond the node -/

namespace State.After

variable {s t u : State} {n : Node} (h : s.here = some n)

include h

theorem loadEnd (a : s.Alike t) (i : Instr) (x : Attr) (lsid : Nat) (lanes : List LaneAt) (m : Tbl Vec) (shared vec : Bool) (v : Vec) :
    s.After n (s.loadEnd t n i x lsid lanes m shared vec v) := by
  have hdone : ∀ u : State, s.Alike u → ∀ acts y, s.After n ((if List.isEmpty acts then u else u.withEff 2 lsid acts).emit i y) :=
    fun u b acts y => after h b (acts_emit (b.here.trans h) 2 lsid acts i y)
  unfold State.loadEnd
  simp only
  split
  · split
    · exact hdone s (.refl s) _ _
    · exact retry h
  · refine hdone _ (a.trans ?_) _ _
    split
    · exact forward_alike t n _ _
    · exact .refl t

theorem loadSlots (i : Instr) (x : Attr) (lsid : Nat) (ea : Word) (way : LoadWay) (own vec : Bool) (align : Nat) (lanes : List LaneAt) :
    s.After n (s.loadSlots n i x lsid ea way own vec align lanes) := by
  unfold State.loadSlots
  refine ite (trapHere h _ _) (ite (retry h) ?_)
  split
  · exact trapHere h _ _
  · split
    · exact trapHere h _ _
    · have hg := State.loadShared_sound (s := s) (t := s.focus) (n := n) lsid way (lanesByLine lanes)
      split
      · next e => rw [e] at hg; exact loadEnd h hg _ _ _ _ _ _ _ _
      · next e => rw [e] at hg; exact after h hg (trapHere (hg.here.trans h) _ _)
      · next e => rw [e] at hg; exact freezeWalk h hg
      · next e => rw [e] at hg; exact after h hg (.inl (State.poisonNode_local (hg.here.trans h) _))
      · next e => rw [e] at hg; exact after h hg (.inl (State.sleepHere_local (hg.here.trans h) _))

theorem loadMmio (i : Instr) (x : Attr) (lsid : Nat) (ea : Word) (pa : Nat) (sv : Bool) :
    s.After n (s.loadMmio n i x lsid ea pa sv) := by
  have hk : s.Kept (if sv && n.shadow then (.ok [], s) else s.homeRead (dieOf n.tile) n.master pa x.ty.bytes false :
      Except AccErr (List Byte) × State).2 := by
    split
    · exact .refl s
    · exact (State.Kept.refl s).homeRead
  unfold State.loadMmio
  simp only
  split
  · next e => rw [e] at hk; exact after h (.of_kept hk) (trapHere (hk.here.trans h) _ _)
  · next e => rw [e] at hk; exact after h (.of_kept hk) (.inl (State.poisonNode_local (hk.here.trans h) _))
  · next e => rw [e] at hk; exact loadEnd h (.of_kept hk) _ _ _ _ _ _ _ _

theorem roundEnd (i : Instr) (x : Attr) (lsid : Nat) (always : Bool) {g : Got RoundGot} (hg : g.Sound s s.focus) :
    s.After n (s.roundEnd n i x lsid always g) := by
  unfold State.roundEnd
  split
  · exact loadEnd h hg _ _ _ _ _ _ _ _
  · exact on h hg fun _ u a => of_alike (a.here.trans h) (.refl u)

theorem storeSlots (x : Attr) (lsid : Nat) (ea : Word) (own : Bool) (align : Nat) (lanes : List LaneAt) (val : Nat → Nat) :
    s.After n (s.storeSlots n x lsid ea own align lanes val) := by
  unfold State.storeSlots
  refine ite (trapHere h _ _) ?_
  split
  · exact trapHere h _ _
  · split
    · exact trapHere h _ _
    · exact on h (State.xlateLanes_sound lanes) fun _ u a => hold (a.here.trans h) _ _ _

/-- A translation of a slot that goes on with a page. -/
theorem xlateNode {va : Word} {kind : AccKind} {k : TlbEnt → State → State} (hk : ∀ e u, s.Alike u → u.After n (k e u)) :
    s.After n (match s.xlateNode s.focus n va kind with
      | (.error x, s) => (x.got va s : Got Unit).on fun _ s => s
      | (.ok e, s) => k e s) := by
  split
  · next e => exact on h (State.xlateNode_error e va Unit) fun _ u a => of_alike (a.here.trans h) (.refl u)
  · next e =>
    have a := State.Alike.of_kept ((State.Kept.refl s).xlateNode e)
    exact after h a (hk _ _ a)

theorem atomSlot (i : Instr) (w : MOff) (x : Attr) (op : AtomOp) (es : Nat) (l r th : Word) (ret : Option (BitVec 6))
    (stream : Option (BitVec 16)) : s.After n (s.atomSlot n i w x op es l r th ret stream) :=
  ite (trapHere h _ _) (xlateNode h fun _ _ a => hold (a.here.trans h) _ _ _)

theorem counterReadSlot (va : Word) (act : CtrRef → Act) : s.After n (s.counterReadSlot n va act) := by
  refine on h (State.counterRef_sound va .read) fun c u a => ?_
  have hn : u.here = some n := a.here.trans h
  have hk : u.Kept (u.counterReadable n c).2 := by
    unfold State.counterReadable
    split
    · exact .refl u
    · exact .refl u
    · exact (State.Kept.refl u).permit
  split
  · next e => rw [e] at hk; exact after hn (.of_kept hk) (hold (hk.here.trans hn) _ _ _)
  · next e => rw [e] at hk; exact after hn (.of_kept hk) (trapHere (hk.here.trans hn) _ _)

theorem descSlot (eng : Nat) (op : EngOp) (va : Word) (ok : State → List Word → Bool) : s.After n (s.descSlot n eng op va ok) := by
  unfold State.descSlot
  refine ite (trapHere h _ _) (ite (trapHere h _ _) (on h (State.loadLines_sound ..) fun m u a => ?_))
  exact ite (hold (a.here.trans h) _ _ _) (trapHere (a.here.trans h) _ _)

theorem deltaSlot (ops : List Word) (x : Delta) (image : Bool) : s.After n (s.deltaSlot n ops x image) :=
  netCheck h _ fun _ a => hold (a.here.trans h) _ _ _

end State.After

/-! ### The instructions -/

/-- Does a step of an instruction end so? -/
def State.AfterIn (s : State) (n : Node) (o : Host.Outcome State Fault Refusal) : Prop := ∃ t, o = .next t ∧ s.After n t

theorem State.AfterIn.fire {s : State} {n : Node} (h : s.here = some n) {i : Instr} {eff : Node → SlotRt → State}
    (k : s.After n (eff n (n.blk.slotAt n.slot))) : s.AfterIn n (.next (s.fire i eff)) := ⟨_, rfl, .fire h k⟩

theorem rngaw_after {s : State} {n : Node} (h : s.here = some n) (p : Pred) (t u : Tgt) (scope : Scope) :
    s.AfterIn n (execRngaw p t u scope s) := by
  refine .fire h (.ite (.trapHere h _ _) (.on h (State.loadLines_sound ..) fun m u a => ?_))
  have hn : u.here = some n := a.here.trans h
  simp only
  split
  · exact .trapHere hn _ _
  · refine .on_from hn (State.readForAll_sound _) fun v x b => ?_
    refine .ite (.after hn b (.inl (State.sleepHere_local (b.here.trans hn) _))) (.observe hn b _ fun y z c => ?_)
    have hz : z.here = some n := c.here.trans hn
    exact .ite (.retry hz) (.withEff_emit hz _ _ _ _ _)

/-- The memory class (R174 to R192). -/
theorem exec_mem_after {i : Instr} {s : State} {n : Node} (h : s.here = some n) (hg : Group.of i = .mem) (hq : Claims.quiet i = false) :
    s.AfterIn n (exec i s) := by
  cases i with
  | ld p t w a =>
    refine .fire h (.ite (.loadSlots h _ _ _ _ _ _ _ _ _) ?_)
    split
    · next e =>
      have hk := (State.Kept.refl s).xlateNode e
      exact .after h (.of_kept hk) (.ite (.loadMmio (hk.here.trans h) _ _ _ _ _ _) (.loadSlots (hk.here.trans h) _ _ _ _ _ _ _ _ _))
    · exact .loadSlots h _ _ _ _ _ _ _ _ _
  | ldv | ldvg => exact .fire h (.ite (.retry h) (.loadSlots h _ _ _ _ _ _ _ _ _))
  | ldk => exact .fire h (.ite (.ite (.retry h) (.loadSlots h _ _ _ _ _ _ _ _ _)) (.loadSlots h _ _ _ _ _ _ _ _ _))
  | ldb =>
    refine .fire h (.ite (.trapHere h _ _) (.ite (.trapHere h _ _) (.ite (.trapHere h _ _) ?_)))
    split
    · exact .trapHere h _ _
    · exact .ite (.retry h) (.roundEnd h _ _ _ _ (State.loadBounded_sound ..))
  | ldn =>
    refine .fire h (.ite (.trapHere h _ _) (.ite (.trapHere h _ _) ?_))
    split
    · exact .trapHere h _ _
    · exact .ite (.retry h) (.roundEnd h _ _ _ _ (State.loadExact_sound ..))
  | st => exact .fire h (.storeSlots h _ _ _ _ _ _ _)
  | stv | stvs => exact .fire h (.ite (.retry h) (.storeSlots h _ _ _ _ _ _ _))
  | lda => exact .fire h (.ite (.trapHere h _ _) (.xlateNode h fun _ _ a => .hold (a.here.trans h) _ _ _))
  | atom | atomo => exact .fire h (.atomSlot h _ _ _ _ _ _ _ _ _ _)
  | retain => exact .fire h (.ite (.trapHere h _ _) (.xlateNode h fun _ _ a => .hold (a.here.trans h) _ _ _))
  | _ => first | exact absurd hq.symm Bool.false_ne_true | cases hg

/-- The copy, collective and counter classes (R196 to R223). -/
theorem exec_eng_after {i : Instr} {s : State} {n : Node} (h : s.here = some n) (hg : Group.of i = .eng) (hq : Claims.quiet i = false) :
    s.AfterIn n (exec i s) := by
  cases i with
  | cpy | cpym | carm | gath | scat | collAr | collRs => exact .fire h (.descSlot h _ _ _ _)
  | collAg p e fp32 =>
    cases fp32
    · exact .fire (eff := fun n r => s.descSlot n (16 + e.toNat % 4) (.coll 2 false) r.l fun _ w => collOk w 2) h (.descSlot h _ _ _ _)
    · exact .fire (eff := fun _ r => s.trapHere .command r.l) h (.trapHere h _ _)
  | cadd | barr => exact .fire h (.on h (State.counterRef_sound ..) fun _ _ a => .hold (a.here.trans h) _ _ _)
  | cwait | cread => exact .fire h (.counterReadSlot h _ _)
  | cpoll =>
    exact .fire h (.ite (.trapHere h _ _) (.on_from h (State.readForAll_sound _) fun _ u a =>
      .observe h a _ fun _ z c => .acts_emit (c.here.trans h) _ _ _ _ _))
  | rngaw => exact rngaw_after h _ _ _ _
  | rngrel =>
    exact .fire h (.ite (.trapHere h _ _) (.on h (State.counterRef_sound ..) fun _ _ a => .hold (a.here.trans h) _ _ _))
  | radv =>
    refine .fire h ?_
    split
    · exact .trapHere h _ _
    · refine .on h (State.counterRef_sound ..) fun _ u a => ?_
      have hn : u.here = some n := a.here.trans h
      simp only
      split
      · exact .on hn (State.readRound_sound ..) fun _ v b => .on (b.here.trans hn) (State.readReclaim_sound ..) fun _ x c =>
          .ite (.trapHere (c.here.trans (b.here.trans hn)) _ _) (.hold (c.here.trans (b.here.trans hn)) _ _ _)
      · exact .on hn (State.readRefs_sound _) fun _ v b => .hold (b.here.trans hn) _ _ _
  | rrecl =>
    refine .fire h ?_
    simp only
    split
    · exact .trapHere h _ _
    · exact .ite (.trapHere h _ _) (.on h (State.counterRef_sound ..) fun _ _ a => .hold (a.here.trans h) _ _ _)
  | _ => first | exact absurd hq.symm Bool.false_ne_true | cases hg

/-- A value that the network gives a slot of itself, without an access of its own (R329, R336). -/
theorem netRead_after {s : State} {n : Node} (h : s.here = some n) (bad : Bool) (x : Vec) {k : Vec → State → State}
    (hk : ∀ x u, s.Alike u → u.After n (k x u)) : s.After n (s.netRead n bad (pure x) k) := by
  unfold State.netRead
  simp only
  split
  · exact .ite (.trapHere h _ _) (.netObserve h (.refl s) 0 hk)
  · split
    · have a := State.After.forward_alike s n (n.fwdKey 1) 0
      exact .after h a (.trapHere (a.here.trans h) _ _)
    · exact .ite (.retry h) (.netObserve h (.refl s) x hk)

/-- The network, the traps and the system registers (R309, R328 to R337, R415 to R426). -/
theorem exec_sys_after {i : Instr} {s : State} {n : Node} (h : s.here = some n) (hg : Group.of i = .sys) (hq : Claims.quiet i = false)
    (hr : Claims.readsNetwork i = false) : s.AfterIn n (exec i s) := by
  cases i with
  | mfs =>
    refine .fire h (.ite (.trapHere h _ _) (.ite (.observe h (.refl s) _ fun _ u a => .emit (a.here.trans h) _ _) (.emit h _ _)))
  | rndr => exact .fire h (.observe h (.of_kept (State.Kept.refl s).pickWord) _ fun _ u a => .emit (a.here.trans h) _ _)
  | wmasr | wmret | wmmod => exact .fire h (.deltaSlot h _ _ _)
  | cswave =>
    refine .fire h (.ite (.trapHere h _ _) (.netCheck h _ fun u a => ?_))
    have hn : u.here = some n := a.here.trans h
    exact .on hn (State.counterRef_sound ..) fun _ _ b => .hold (b.here.trans hn) _ _ _
  | fdone | scset => exact .fire h (.netCheck h _ fun u a => .hold (a.here.trans h) _ _ _)
  | netld =>
    refine .fire h (.netCheck h _ fun u a => ?_)
    have hn : u.here = some n := a.here.trans h
    exact .ite (.trapHere hn _ _) (.hold hn _ _ _)
  | csrd => exact .fire h (netRead_after h _ _ fun _ u a => .emit (a.here.trans h) _ _)
  | _ => first | exact absurd hq.symm Bool.false_ne_true | exact absurd hr.symm Bool.false_ne_true | cases hg

/-- The instructions that are not quiet are of the memory, engine and system classes. -/
theorem group_of_loud {i : Instr} (h : Claims.Coded i) (hq : Claims.quiet i = false) :
    Group.of i = .mem ∨ Group.of i = .eng ∨ Group.of i = .sys := by
  have hn := coded_group h
  cases i with
  | _ =>
    first | exact absurd hq.symm Bool.false_ne_true | exact absurd rfl hn | exact .inl rfl | exact .inr (.inl rfl) | exact .inr (.inr rfl)

/-- An instruction that reads no network does as its slot fires what a slot may, or waits for a translation. -/
theorem exec_after {i : Instr} {s : State} {n : Node} (h : s.here = some n) (hc : Claims.Coded i) (hr : Claims.readsNetwork i = false) :
    s.AfterIn n (exec i s) := by
  cases hq : Claims.quiet i with
  | true =>
    obtain ⟨t, ht, k⟩ := quiet_staysIn h hq
    exact ⟨t, ht, .of_stays k⟩
  | false =>
    rcases group_of_loud hc hq with hg | hg | hg
    · exact exec_mem_after h hg hq
    · exact exec_eng_after h hg hq
    · exact exec_sys_after h hg hq hr

end Sys2Proof.Machine
end

section
/-! SUPPORT. What every instruction leaves as its slot fires. -/

namespace Sys2Proof.Proofs

open Sys2Proof.Machine Sys2Proof.Claims

/-- Settles O34. -/
theorem instructionsStoreNothingAsTheyFire : Obligations.InstructionsStoreNothingAsTheyFire := by
  intro i s t n m hc hr h he hm hw
  obtain ⟨u, hu, ha⟩ := exec_after h hc hr
  obtain rfl : t = u := Host.Outcome.next.inj (he.symm.trans hu)
  rcases ha with ha | ⟨-, ha⟩
  · obtain ⟨x, hx, hn, -, -⟩ := ha.own
    obtain rfl : m = x := Option.some.inj (hm.symm.trans hx)
    refine ⟨ha.mem, ha.poison, ha.mts, ha.edges, ha.ports, ha.others, ?_⟩
    rw [hn]
    exact ⟨rfl, rfl, rfl, rfl, rfl, rfl, rfl⟩
  · exact absurd (ha m hm) hw

end Sys2Proof.Proofs
end

section
/-! SUPPORT. What a piece of a network's arrival does to memory and the nodes (R310): its reads, and the writes it makes on the way. -/

namespace Sys2Proof.Machine

open Sys2Proof.Laws

/-! ### Writes at a home -/

theorem State.Dev.notifyRange (s : State) (pa n : Nat) : s.Dev (s.notifyRange pa n) := .foldl (fun s a => .notify s a) _ s

theorem State.Tame.putBytes (s : State) (pa : Nat) (b : List Byte) : s.Tame (s.putBytes pa b) := by
  have hw : s.Tame { s with mem := Memory.write s.mem (s.key pa) b } :=
    ⟨rfl, Memory.write_wf s.mem _ b, fun _ m h => ⟨m, h, rfl⟩⟩
  exact .trans (.trans (.trans hw (State.Dev.lift _ _ _).tame) (State.Dev.noteWrite _ none _ _ _).tame) (State.Dev.notifyRange _ _ _).tame

theorem State.Tame.homeTake (s : State) (d : Nat) (m : Master) (pa : Nat) (b : List Byte) : s.Tame (s.homeTake d m pa b).2 := by
  have hp : s.Kept (s.permit d m pa 2).2 := (State.Kept.refl s).permit
  unfold State.homeTake
  simp only
  split
  · exact .of_kept hp
  · have ht : s.Tame ((s.permit d m pa 2).2.touch ((s.permit d m pa 2).2.key pa)) := .of_kept hp.touch
    split
    · split
      · exact ht
      · exact ht.trans (((State.Dev.dirInval _ _ _ _ _).trans (.l2Use _ _ _ _)).trans (.l2Dirty _ _ _)).tame
    · split
      · exact ht
      · exact ht.trans (State.Dev.hostReq _ _ _ _).tame
    · exact ht.trans ((State.Dev.recallHost _ _).trans (.unjournal _ _ _ _)).tame
    · exact ht
    · exact ht.trans (State.Dev.hand _ _).tame
    · exact ht

theorem State.Tame.homeWrite (s : State) (d : Nat) (m : Master) (pa : Nat) (b : List Byte) : s.Tame (s.homeWrite d m pa b).2 := by
  have ht := State.Tame.homeTake s d m pa b
  unfold State.homeWrite
  split
  · next e => rw [e] at ht; exact ht
  · next e => rw [e] at ht; exact ht.trans (.putBytes _ pa b)

/-! ### Pieces of an arrival -/

/-- A piece of an arrival that keeps memory canonical and the nodes' tiles. -/
def NetTame {α : Type} (m : NetM α) : Prop := ∀ (s u : State) (x : α), m s = .ok (x, u) → s.Tame u

namespace NetTame

variable {α β : Type}

theorem pure (x : α) : NetTame (Pure.pure x : NetM α) := by
  rintro s u y h
  cases h
  exact .refl s

theorem bind {m : NetM α} {k : α → NetM β} (hm : NetTame m) (hk : ∀ x, NetTame (k x)) : NetTame (m >>= k) := by
  intro s u y h
  have h' : (m s).bind (fun p => k p.1 p.2) = .ok (y, u) := h
  cases e : m s with
  | error x => rw [e] at h'; cases h'
  | ok p =>
    rw [e] at h'
    exact (hm s p.2 p.1 e).trans (hk p.1 p.2 u y h')

theorem netGet (d : Nat) : NetTame (netGet d) := by
  rintro s u y h
  cases h
  exact .refl s

theorem netXlate (d va : Nat) (kind : AccKind) : NetTame (netXlate d va kind) := by
  intro s u y h
  unfold Machine.netXlate at h
  simp only at h
  split at h
  · next e =>
    cases h
    exact .of_kept ((State.Kept.refl s).xlate e)
  all_goals cases h

theorem netGot {va : Nat} {f : State → Except AccErr α × State} (hf : ∀ s : State, s.Tame (f s).2) : NetTame fun s => netGot va (f s) := by
  intro s u y h
  have hs := hf s
  unfold Machine.netGot at h
  simp only at h
  split at h
  · next e =>
    cases h
    rw [e] at hs
    exact hs
  all_goals cases h

theorem netBytes (d : Nat) (l : List (Nat × Nat)) : NetTame (netBytes d l) := by
  induction l with
  | nil => exact pure []
  | cons a l ih =>
    refine bind (netXlate d a.1 .read) fun pa => bind (netGot fun s => .of_kept (State.Kept.refl s).homeRead) fun b => bind ih fun c => pure _

theorem netRead (d va n : Nat) : NetTame (netRead d va n) := bind (netBytes d _) fun _ => pure _

theorem netPut (d : Nat) (l : List (Nat × Nat)) (b : List Byte) : NetTame (netPut d l b) := by
  induction l generalizing b with
  | nil => exact pure ()
  | cons a l ih =>
    exact bind (netXlate d a.1 .write) fun pa => bind (netGot fun s => .homeWrite s d _ pa _) fun _ => ih _

theorem netWrite (d va n x : Nat) : NetTame (netWrite d va n x) := netPut d _ _

theorem netEntry (d i : Nat) : NetTame (netEntry d i) := bind (netGet d) fun _ => netRead d _ _

theorem ite {c : Prop} [Decidable c] {m k : NetM α} (hm : NetTame m) (hk : NetTame k) : NetTame (if c then m else k) := by
  split
  · exact hm
  · exact hk

theorem netDead (d a k : Nat) : NetTame (netDead d a k) := by
  induction k with
  | zero => exact pure false
  | succ k ih =>
    exact bind (netRead d _ _) fun p => bind (netGet d) fun n => ite (pure _) (bind (netEntry d _) fun e => ite (pure _) ih)

theorem netProbe (d : Nat) (h : Word) (key : Nat) (l : List Nat) (p : Probe) : NetTame (netProbe d h key l p) := by
  induction l generalizing p with
  | nil => exact pure p
  | cons e l ih =>
    refine bind (netGet d) fun n => bind (netRead d _ _) fun w0 => ?_
    simp only
    split
    · refine bind (netDead d _ _) fun dead => ?_
      split
      · exact bind (netWrite d _ _ _) fun _ => bind (netRead d _ _) fun _ => ite (pure _) (ih _)
      · exact bind (netRead d _ _) fun _ => ite (pure _) (ih _)
    · refine bind (pure false) fun dead => ?_
      split
      · exact bind (netWrite d _ _ _) fun _ => bind (netRead d _ _) fun _ => ite (pure _) (ih _)
      · exact bind (netRead d _ _) fun _ => ite (pure _) (ih _)

theorem netScget (d : Nat) (h key : Word) : NetTame (netScget d h key) := by
  refine bind (netGet d) fun n => bind (bind (netGet d) fun _ => netProbe d _ _ _ _) fun p => ?_
  split
  · exact bind (netRead d _ _) fun _ => pure _
  · exact pure _
  · exact pure _

end NetTame

/-! ### A slot that reads the network -/

namespace State.Tame

theorem of_after {s t : State} (h : ∀ n, s.here = some n → s.After n t) (k : s.here = none → t = s) : s.Tame t := by
  cases hn : s.here with
  | none => rw [k hn]; exact .refl s
  | some n => exact (h n hn).tame hn

theorem emit (s : State) (i : Instr) (v : Val) : s.Tame (s.emit i v) :=
  of_after (fun _ h => .emit h i v) fun h => by simp [State.emit, h]

theorem retry (s : State) : s.Tame s.retry := of_after (fun _ h => .retry h) fun h => by simp [State.retry, h]

theorem report (s : State) (d : Nat) (r : FaultRec) : s.Tame (s.report d r) := by
  have he := State.Tame.of_kept (State.Kept.event (State.Kept.refl s) (d := d) (ty := 0x01) (k := r.tile) (c := r.ctx) (x := r.words.1)
    (y := r.words.2.1))
  unfold State.report
  simp only
  split
  · exact he.trans (State.Dev.ringPut _ _ _ _ _ _).tame
  · exact he.trans (.trans (State.Dev.ringLook _ _ _).tame (.of_kept (State.Kept.refl _).modDie))

/-- An arrival's piece that fails leaves a fault's record at most (R91, R310). -/
theorem netRun_error {α : Type} {s : State} {d : Nat} {m : NetM α} {e : NetErr} (h : m.run s = .error e) (k : α → State → State) :
    s.Tame (s.netRun d m k) := by
  unfold State.netRun
  rw [h]
  cases e with
  | walk ctx assist va kind =>
    simp only
    split
    · next hx =>
      have hu : s.Tame _ := (State.xlate_error hx).elim .of_kept (·.2.1)
      refine hu.trans ?_
      unfold State.freezeWalk
      split
      · exact .refl _
      · exact .of_kept (State.Kept.refl _).modDie
    · next r u hr hx =>
      cases r with
      | ok e => exact .of_kept ((State.Kept.refl s).xlate hx)
      | error x => exact (State.xlate_error hx).elim .of_kept (·.2.1)
  | look ctx va => exact .of_kept (State.Kept.refl s).xlateHint
  | fail c addr => exact .trans (.of_kept (State.Kept.refl s).modDie) (report _ d _)

theorem netObserve {s t : State} (h : s.Tame t) (n : Node) (x : Vec) {k : Vec → State → State} (hk : ∀ x u, State.Tame u (k x u)) :
    s.Tame (State.netObserve s t n x k) := by
  unfold State.netObserve
  split
  · split
    · exact hk _ s
    · exact retry s
  · exact h.trans ((State.After.forward_alike t n _ _).tame.trans (hk _ _))

theorem netRead {s : State} {n : Node} (h : s.here = some n) (bad : Bool) {m : NetM Vec} (hm : NetTame m) {k : Vec → State → State}
    (hk : ∀ x u, State.Tame u (k x u)) : s.Tame (s.netRead n bad m k) := by
  unfold State.netRead
  simp only
  split
  · split
    · exact (State.After.trapHere h _ _).tame h
    · exact netObserve (.refl s) n 0 hk
  · split
    · have a := State.After.forward_alike s n (n.fwdKey 1) 0
      exact a.tame.trans ((State.After.trapHere (a.here.trans h) _ _).tame (a.here.trans h))
    · split
      · exact retry s
      · split
        · next x u e => exact netObserve (hm s u x e) n x hk
        · next e he =>
          refine .trans ?_ (retry _)
          split
          · exact netRun_error he _
          · exact .refl s

end State.Tame

/-- Every instruction of a block keeps memory canonical and the nodes' tiles as its slot fires. -/
theorem exec_tame {i : Instr} {s t : State} {n : Node} (h : s.here = some n) (hc : Claims.Coded i) (he : exec i s = .next t) : s.Tame t := by
  cases hr : Claims.readsNetwork i with
  | false =>
    obtain ⟨u, hu, ha⟩ := exec_after h hc hr
    obtain rfl : t = u := Host.Outcome.next.inj (he.symm.trans hu)
    exact ha.tame h
  | true =>
    have hfire : ∀ {j : Instr} {eff : Node → SlotRt → State}, s.Tame (eff n (n.blk.slotAt n.slot)) → s.Tame (s.fire j eff) := by
      intro j eff k
      unfold State.fire
      simp only [h]
      split
      · exact (State.After.of_stays (.settle h j)).tame h
      · split
        · exact (State.After.of_stays (.resolve h j)).tame h
        · exact k
    cases i with
    | wmrd p t' u' =>
      rw [← Host.Outcome.next.inj he]
      exact hfire (.netRead h _ (.bind (.netEntry _ _) fun _ => .pure _) fun _ u => .emit u _ _)
    | scget p t' u' =>
      rw [← Host.Outcome.next.inj he]
      exact hfire (.netRead h _ (.netScget _ _ _) fun _ u => .emit u _ _)
    | _ => exact absurd hr Bool.false_ne_true

end Sys2Proof.Machine
end

section
/-! SUPPORT. The invariant over the step of an instruction. -/

namespace Sys2Proof.Proofs

open Sys2Proof.Machine Sys2Proof.Laws Sys2Proof.Claims

/-- The instruction that a slot has issued stands in its block's words, so it is one with an encoding. -/
theorem coded_of_current {s : State} {i : Instr} (h : s.current = some (some i)) : (∃ n, s.here = some n) ∧ Coded i := by
  unfold State.current at h
  split at h
  · cases h
  · next n hn =>
    refine ⟨⟨n, hn⟩, ?_⟩
    split at h
    · have hi : n.blk.instr n.slot = some i := Option.some.inj h
      unfold Blk.instr at hi
      split at hi
      · split at hi
        · next j hd =>
          obtain rfl : j = i := Option.some.inj hi
          obtain ⟨y, hy, -⟩ := encode_of_encodesTo (decode_ok hd).2
          rw [Coded, hy]
          rfl
        · cases hi
      · cases hi
    · cases h

/-- Settles O35: the step is exec of an instruction with an encoding, which keeps what the invariant speaks of. -/
theorem instructionStepsKeepInvariant : Obligations.InstructionStepsKeepInvariant := by
  rintro s t hi ⟨i, hc⟩ hs hb he
  obtain ⟨⟨n, hn⟩, hcode⟩ := coded_of_current hc
  have hex : exec i s = .next t := by simpa [step, hs, hb, hc] using he
  exact (exec_tame hn hcode hex).inv hi

end Sys2Proof.Proofs
end

section
/-! SUPPORT. The order of a block's acts at its commit (R24). -/

namespace Sys2Proof.Machine

/-- Does an act send on a timed port, so that it comes last in its step (R440)? -/
def Act.late (timed : Nat → Bool) : Act → Bool
  | .send p _ _ | .setTag p _ => timed p
  | _ => false

/-- The key of an effect within its step: that of a send on timed ports comes last. -/
def Eff.rank (timed : Nat → Bool) (e : Eff) : Nat := if e.acts ≠ [] && e.acts.all (Act.late timed) then 2 ^ 15 else e.key

/-- The number by which the effects of a block are sorted. -/
def Eff.order (timed : Nat → Bool) (e : Eff) : Nat := (e.step * 2 ^ 16 + e.rank timed) * 2 ^ 16 + e.slot

/-- The effects of a block in the order in which its commit does them. -/
def Blk.inOrder (b : Blk) (timed : Nat → Bool) : List Eff := b.effs.mergeSort fun x y => x.order timed ≤ y.order timed

theorem Blk.acts_eq (b : Blk) (timed : Nat → Bool) : b.acts timed = (b.inOrder timed).flatMap (·.acts) := rfl

theorem Eff.rank_le {timed : Nat → Bool} {e : Eff} (h : e.key < 2 ^ 15) : e.rank timed ≤ 2 ^ 15 := by
  unfold Eff.rank
  split
  · exact le_rfl
  · exact h.le

/-- The number orders by the step, then by the key, then by the slot. -/
theorem Eff.lex_of_order_le {timed : Nat → Bool} {e f : Eff} (he : e.key < 2 ^ 15 ∧ e.slot < 2 ^ 16) (hf : f.key < 2 ^ 15 ∧ f.slot < 2 ^ 16)
    (h : e.order timed ≤ f.order timed) :
    e.step < f.step ∨ (e.step = f.step ∧ (e.rank timed < f.rank timed ∨ (e.rank timed = f.rank timed ∧ e.slot ≤ f.slot))) := by
  have hre := Eff.rank_le (timed := timed) he.1
  have hrf := Eff.rank_le (timed := timed) hf.1
  unfold Eff.order at h
  omega

theorem Blk.inOrder_pairwise (b : Blk) (timed : Nat → Bool) :
    (b.inOrder timed).Pairwise fun x y => x.order timed ≤ y.order timed := by
  have h := List.pairwise_mergeSort (le := fun x y : Eff => decide (x.order timed ≤ y.order timed))
    (fun _ _ _ h k => decide_eq_true (le_trans (of_decide_eq_true h) (of_decide_eq_true k)))
    (fun x y => by simpa using le_total (x.order timed) (y.order timed)) b.effs
  exact h.imp of_decide_eq_true

end Sys2Proof.Machine
end

section
/-! SUPPORT. The commit of a block. -/

namespace Sys2Proof.Proofs

open Sys2Proof.Machine Sys2Proof.Claims

/-- Settles O37: the commit sorts the effects by a number that orders by step, key and slot. -/
theorem blockCommitOrdersEffects : Obligations.BlockCommitOrdersEffects := by
  intro s t n hn hphase hruns hissued hcomplete htimed hfixed hb
  refine ⟨n.blk.inOrder (s.timedPort t false), List.mergeSort_perm _ _, ?_, ?_⟩
  · refine (n.blk.inOrder_pairwise (s.timedPort t false)).imp_of_mem fun {e f} he hf h => ?_
    have hmem : ∀ x ∈ n.blk.inOrder (s.timedPort t false), x.key < 2 ^ 15 ∧ x.slot < 2 ^ 16 :=
      fun x hx => hb x ((List.mergeSort_perm _ _).mem_iff.1 hx)
    exact Eff.lex_of_order_le (hmem e he) (hmem f hf) h
  · have hdue : s.commitDue n = true := by simp [State.commitDue, hphase, hruns, hissued, hcomplete, htimed, hfixed]
    have hex : exec (.blockCommit t) s = execBlockCommit t s := rfl
    rw [hex, execBlockCommit, hn]
    simp only [hdue, if_true, Blk.acts_eq]

end Sys2Proof.Proofs
end

section
/-! SUPPORT. What a load of a line homed on the node's own die reads (R25, R98, R101). -/

namespace Sys2Proof.Machine

theorem State.Kept.peek {s t : State} (h : s.Kept t) (k n : Nat) : t.peek k n = s.peek k n := by
  unfold State.peek
  rw [h.mem]

theorem State.Kept.key {s t : State} (h : s.Kept t) (pa : Nat) : t.key pa = s.key pa := by
  unfold State.key
  rw [h.dom]

theorem State.Kept.lineAt {s t : State} (h : s.Kept t) (k : Nat) : t.lineAt k = s.lineAt k := by
  unfold State.lineAt
  rw [h.key, h.peek]

/-- A read of a line at its home gives the line as memory holds it. -/
theorem State.homeLine_ok {s u : State} {d : Nat} {m : Master} {k : Nat} {w : Word32} {lru share : Bool} {v : Vec}
    (h : s.homeLine d m k w lru share = (.ok v, u)) : v = s.lineAt k := by
  have hp : s.Kept (s.permit d m (k * 128) 1).2 := (State.Kept.refl s).permit
  have hgot : ∀ t : State, s.Kept t → (if t.linePoisoned k w then (.error .poison, t) else (.ok (t.lineAt k), t) :
      Except AccErr Vec × State) = (.ok v, u) → v = s.lineAt k := by
    intro t ht e
    split at e
    · cases e
    · rw [← Except.ok.inj (Prod.mk.inj e).1]
      exact ht.lineAt k
  unfold State.homeLine at h
  simp only at h
  split at h
  · cases h
  · split at h
    · split at h
      · cases h
      · exact hgot _ (hp.touch.dirShare.l2Use) h
    · split at h
      · cases h
      · exact hgot _ hp.touch.hostReq h
    · exact hgot _ hp.touch h
    · exact hgot _ hp.touch.hand h
    · cases h
    · cases h

/-- A load of a line homed on the own die gives the line as memory holds it: an L1 that covers the words holds no other (R98). -/
theorem State.loadLine_own {s u : State} {t k sl : Nat} {m : Master} {mark : Nat} {w : Word32} {p : Policy} {v : Vec}
    (hh : s.home (dieOf t) (k * 128) = .slice (dieOf t) sl) (h : s.loadLine t k m mark w p = (.ok v, u)) : v = s.lineAt k := by
  have hs : s.Kept (if p.fillsL1 then s.spanFor k w else (w, s) : Word32 × State).2 := by
    split
    · exact (State.Kept.refl s).spanFor
    · exact .refl s
  unfold State.loadLine at h
  simp only [hh, if_true] at h
  split at h
  · exact (Except.ok.inj (Prod.mk.inj h).1).symm
  · split at h
    · cases h
    · next e =>
      cases h
      exact (State.homeLine_ok e).trans (hs.lineAt k)

end Sys2Proof.Machine
end

section
/-! SUPPORT. What a load sees. -/

namespace Sys2Proof.Proofs

open Sys2Proof.Machine Sys2Proof.Claims

/-- Settles O39. -/
theorem ownDieLoadsSeeWindowAndBlock : Obligations.OwnDieLoadsSeeWindowAndBlock := by
  intro s s1 u t n lsid vk sl w p e v sv k hx hh hslot h
  have h1 : s.Kept s1 := (State.Kept.refl s).xlateNode hx
  have hu : s.Kept u := (State.Kept.refl s).loadVirt h
  unfold State.loadVirt at h
  simp only [hx, hslot] at h
  split at h
  · cases h
  · split at h
    · cases h
    · cases h
    · next e' =>
      cases h
      rw [State.loadLine_own hh e', h1.lineAt]
      exact ⟨rfl, rfl, hu.mem, hu.nodes⟩

end Sys2Proof.Proofs
end

section
/-! SUPPORT. Writes and counter adds at their home (R56, R106, R114, R157): which bytes they change, and what else. -/

namespace Sys2Proof.Machine

/-! ### Bytes of a number -/

@[simp] theorem toBytes_length (x n : Nat) : (toBytes x n).length = n := by
  induction n generalizing x with
  | zero => rfl
  | succ n ih => simp [toBytes, ih]

theorem ofBytes_toBytes (x n : Nat) : ofBytes (toBytes x n) = x % 256 ^ n := by
  induction n generalizing x with
  | zero => simp [toBytes, ofBytes, Nat.mod_one]
  | succ n ih =>
    simp only [toBytes, ofBytes, ih]
    rw [BitVec.toNat_ofNat, pow_succ' 256 n, Nat.mod_mul]

theorem ofBytes_lt (b : List Byte) : ofBytes b < 256 ^ b.length := by
  induction b with
  | nil => simp [ofBytes]
  | cons x b ih =>
    have hx : x.toNat < 256 := x.isLt
    rw [List.length_cons, pow_succ']
    simp only [ofBytes]
    omega

@[simp] theorem Memory.read_length (m : List Host.Cell) (k n : Nat) : (Memory.read m k n).length = n := by
  induction n generalizing k with
  | zero => rfl
  | succ n ih => simp [Memory.read, ih]

theorem State.peek_lt (s : State) (k n : Nat) : s.peek k n < 256 ^ n := by
  have h := ofBytes_lt (Memory.read s.mem k n)
  rwa [Memory.read_length] at h

/-! ### What stays -/

/-- A state with the same memory, device number and saturation flags. -/
structure State.Before (s t : State) : Prop where
  mem : t.mem = s.mem
  dom : t.dom = s.dom
  sat : t.satFlags = s.satFlags

namespace State.Before

variable {s t u : State}

theorem refl (s : State) : s.Before s := ⟨rfl, rfl, rfl⟩

theorem trans (h : s.Before t) (k : t.Before u) : s.Before u := ⟨k.mem.trans h.mem, k.dom.trans h.dom, k.sat.trans h.sat⟩

theorem of_kept (h : s.Kept t) : s.Before t :=
  have hs : t.still.satFlags = s.still.satFlags := congrArg State.satFlags h
  ⟨h.mem, h.dom, hs⟩

theorem unjournal (s : State) (t off n : Nat) : s.Before (s.unjournal t off n) := ⟨rfl, rfl, rfl⟩

theorem lift (s : State) (k n : Nat) : s.Before (s.lift k n) := ⟨rfl, rfl, rfl⟩

theorem noteWrite (s : State) (b : Option Nat) (k n : Nat) (v : Vec) : s.Before (s.noteWrite b k n v) := by
  unfold State.noteWrite
  split
  · exact ⟨rfl, rfl, rfl⟩
  · exact .refl s

theorem foldl {α : Type} {f : State → α → State} (h : ∀ (s : State) x, s.Before (f s x)) (l : List α) (s : State) :
    s.Before (l.foldl f s) := by
  induction l generalizing s with
  | nil => exact .refl s
  | cons a l ih => exact (h s a).trans (ih _)

theorem notify (s : State) (pa : Nat) : s.Before (s.notify pa) := by
  unfold State.notify
  simp only
  refine trans (t := { s with nodes := s.nodes.mapAll fun _ n => n.answered pa _ }) ⟨rfl, rfl, rfl⟩ (foldl (fun s p => ?_) _ _)
  refine trans (t := s.modNode p.1 fun n => { n with watch := none, reply := some _ }) ⟨rfl, rfl, rfl⟩ (foldl (fun s d => ?_) _ _)
  exact .of_kept (State.Kept.refl s).modDie

theorem notifyRange (s : State) (pa n : Nat) : s.Before (s.notifyRange pa n) := foldl (fun s a => notify s a) _ s

theorem key (h : s.Before t) (pa : Nat) : t.key pa = s.key pa := by
  unfold State.key
  rw [h.dom]

theorem peek (h : s.Before t) (k n : Nat) : t.peek k n = s.peek k n := by
  unfold State.peek
  rw [h.mem]

/-- What a home does before it takes a write. -/
theorem homeTake (s : State) (d : Nat) (m : Master) (pa : Nat) (b : List Byte) : s.Before (s.homeTake d m pa b).2 := by
  have hp : s.Kept (s.permit d m pa 2).2 := (State.Kept.refl s).permit
  unfold State.homeTake
  simp only
  split
  · exact .of_kept hp
  · split
    · split
      · exact .of_kept hp.touch
      · exact .of_kept hp.touch.dirInval.l2Use.l2Dirty
    · split
      · exact .of_kept hp.touch
      · exact .of_kept hp.touch.hostReq
    · exact .trans (.of_kept hp.touch.recallHost) (unjournal _ _ _ _)
    · exact .of_kept hp.touch
    · exact .of_kept hp.touch.hand
    · exact .of_kept hp.touch

end State.Before

/-- Bytes that come to stand at their home change memory there alone. -/
theorem State.putBytes_mem (s : State) (pa : Nat) (b : List Byte) : (s.putBytes pa b).mem = Memory.write s.mem (s.key pa) b :=
  (State.Before.notifyRange _ pa b.length).mem.trans (State.Before.noteWrite _ none _ b.length _).mem

/-! ### Atomic operations at their home -/

/-- What an operation that its home has taken leaves: the new value in memory, and the saturation flag where it saturates. -/
structure State.Applied (s : State) (m : Master) (k es : Nat) (f : Nat → Nat × Bool) (x : Nat × Nat) (t : State) : Prop where
  value : x = (s.peek k es, (f (s.peek k es)).1)
  mem : t.mem = Memory.write s.mem k (toBytes (f (s.peek k es)).1 es)
  sat : (f (s.peek k es)).2 = true → m.ctx.toNat ∈ t.satFlags
  same : (f (s.peek k es)).2 = false → t.satFlags = s.satFlags

theorem State.saturated_eq (s : State) (d : Nat) (m : Master) (pa : Nat) : (s.saturated d m pa).mem = s.mem ∧
    m.ctx.toNat ∈ (s.saturated d m pa).satFlags := by
  have hk := State.Kept.event (State.Kept.refl { s with satFlags := if s.satFlags.contains m.ctx.toNat then s.satFlags else
    m.ctx.toNat :: s.satFlags }) (d := d) (ty := 0x03) (k := 0) (c := m.ctx) (x := BitVec.ofNat 64 pa) (y := BitVec.ofNat 64 (masterIndex m))
  refine ⟨hk.mem, ?_⟩
  rw [State.saturated, (State.Before.of_kept hk).sat]
  simp only
  split
  · next h => simpa using h
  · exact List.mem_cons_self

/-- The state in which n bytes at a home have been replaced by an operation's result. -/
def State.withResult (s : State) (d : Nat) (m : Master) (k pa es : Nat) (r : Nat × Bool) : State :=
  let u := (s.poke k es r.1).noteWrite none k es (s.keyLine k)
  (if r.2 then u.saturated d m pa else u).notify (pa / 8 * 8)

theorem State.withResult_mem (s : State) (d : Nat) (m : Master) (k pa es : Nat) (r : Nat × Bool) :
    (s.withResult d m k pa es r).mem = Memory.write s.mem k (toBytes r.1 es) := by
  have hn := (State.Before.noteWrite (s.poke k es r.1) none k es (s.keyLine k)).mem
  unfold State.withResult
  rw [(State.Before.notify _ _).mem]
  split
  · rw [(State.saturated_eq _ d m pa).1, hn]
    rfl
  · rw [hn]
    rfl

theorem State.withResult_applied (s : State) (d : Nat) (m : Master) (k pa es : Nat) (f : Nat → Nat × Bool) :
    s.Applied m k es f (s.peek k es, (f (s.peek k es)).1) (s.withResult d m k pa es (f (s.peek k es))) := by
  refine ⟨rfl, s.withResult_mem d m k pa es _, fun h => ?_, fun h => ?_⟩
  · unfold State.withResult
    rw [(State.Before.notify _ _).sat, if_pos h]
    exact (State.saturated_eq _ d m pa).2
  · unfold State.withResult
    rw [(State.Before.notify _ _).sat, if_neg (by simp [h]), (State.Before.noteWrite _ _ _ _ _).sat]
    rfl

theorem State.Applied.before {s t u : State} {m : Master} {k es : Nat} {f : Nat → Nat × Bool} {x : Nat × Nat} (h : s.Before t)
    (a : t.Applied m k es f x u) : s.Applied m k es f x u := by
  obtain ⟨hv, hm, hs, hn⟩ := a
  rw [h.peek] at hv hm hs hn
  exact ⟨hv, h.mem ▸ hm, hs, fun e => (hn e).trans h.sat⟩

theorem State.applyAt_ok {s t : State} {d : Nat} {m : Master} {pa es : Nat} {pcie spad : Bool} {op : ExtOp} {f : Nat → Nat × Bool}
    {x : Nat × Nat} (h : s.applyAt d m pa es pcie spad op f = (.ok x, t)) : s.Applied m (s.key pa) es f x t := by
  have hput : ∀ u : State, s.Before u → (if u.poisoned (s.key pa) es then (.error .poison, u) else
      (.ok (u.peek (s.key pa) es, (f (u.peek (s.key pa) es)).1), u.withResult d m (s.key pa) pa es (f (u.peek (s.key pa) es))) :
      Except AccErr (Nat × Nat) × State) = (.ok x, t) → s.Applied m (s.key pa) es f x t := by
    intro u hu e
    split at e
    · cases e
    · obtain ⟨e1, rfl⟩ := Prod.mk.inj e
      rw [← Except.ok.inj e1]
      exact (u.withResult_applied d m (s.key pa) pa es f).before hu
  have ht : s.Kept (s.touch (s.key pa)) := (State.Kept.refl s).touch
  unfold State.applyAt at h
  simp only at h
  split at h
  · split at h
    · cases h
    · exact hput _ (.of_kept ht.dirInval.l2Use.l2Dirty) h
  · split at h
    · cases h
    · exact hput _ (.of_kept ht.hostReq) h
  · split at h
    · exact hput _ (.trans (.of_kept ht.recallHost) (.unjournal _ _ _ _)) h
    · cases h
  · cases h
  · exact hput _ (.of_kept ht.hand) h
  · cases h

end Sys2Proof.Machine
end

section
/-! SUPPORT. Writes and counter adds. -/

namespace Sys2Proof.Proofs

open Sys2Proof.Machine Sys2Proof.Claims

/-- Settles O40. -/
theorem homeWritesReadBack : Obligations.HomeWritesReadBack := by
  intro s t d m pa b r hw h
  have hb := State.Before.homeTake s d m pa b
  unfold State.homeWrite at h
  split at h
  · next e =>
    obtain ⟨rfl, rfl⟩ := Prod.mk.inj h
    rw [e] at hb
    exact ⟨fun k => (nomatch k), fun _ => hb.mem⟩
  · next u e =>
    obtain ⟨rfl, rfl⟩ := Prod.mk.inj h
    rw [e] at hb
    refine ⟨fun _ => ?_, fun k => absurd rfl k⟩
    rw [State.putBytes_mem, hb.key, hb.mem]
    exact ⟨Memory.read_write _ _ _ hw, Memory.write_wf _ _ _ hw, fun a ha => Memory.get_write_outside _ _ _ a hw ha⟩

/-- The sum of a counter and an amount, at most 2^64 − 1 (R157). -/
theorem counterAdd_eq (old : Nat) (a : Word) (h : old < 2 ^ 64) :
    (counterAdd (BitVec.ofNat 64 old) a).1.toNat = min (old + a.toNat) (2 ^ 64 - 1) ∧
      (counterAdd (BitVec.ofNat 64 old) a).2 = decide (2 ^ 64 ≤ old + a.toNat) := by
  have ho : (BitVec.ofNat 64 old).toNat = old := Nat.mod_eq_of_lt h
  unfold counterAdd
  rw [ho]
  split
  · next hs => exact ⟨by rw [BitVec.toNat_allOnes]; omega, (decide_eq_true hs).symm⟩
  · next hs => exact ⟨by rw [BitVec.toNat_add, ho]; omega, (decide_eq_false hs).symm⟩

/-- Settles O41. -/
theorem counterAddsSaturate : Obligations.CounterAddsSaturate := by
  intro s t d m pa a x hw h old
  have hold : old < 2 ^ 64 := s.peek_lt (s.key pa) 8
  obtain ⟨hv, hs⟩ := counterAdd_eq old a hold
  have happ : s.Applied m (s.key pa) 8 (fun o => ((counterAdd (BitVec.ofNat 64 o) a).1.toNat, (counterAdd (BitVec.ofNat 64 o) a).2)) x t := by
    have hp : s.Before (s.permit d m pa 3).2 := .of_kept (State.Kept.refl s).permit
    unfold State.counterAt State.homeApply at h
    simp only at h
    split at h
    · cases h
    · exact (hp.key pa ▸ State.applyAt_ok h).before hp
  obtain ⟨hx, hm, hsat, hsame⟩ := happ
  change x = (old, (counterAdd (BitVec.ofNat 64 old) a).1.toNat) at hx
  change t.mem = Memory.write s.mem (s.key pa) (toBytes (counterAdd (BitVec.ofNat 64 old) a).1.toNat 8) at hm
  change (counterAdd (BitVec.ofNat 64 old) a).2 = true → _ at hsat
  change (counterAdd (BitVec.ofNat 64 old) a).2 = false → _ at hsame
  rw [hv] at hx hm
  rw [hs] at hsat hsame
  refine ⟨hx, ?_, fun k hk => ?_, fun hle => hsat (decide_eq_true hle), fun hlt => hsame (decide_eq_false (by omega))⟩
  · have hr := Memory.read_write s.mem (s.key pa) (toBytes (min (old + a.toNat) (2 ^ 64 - 1)) 8) hw
    rw [toBytes_length] at hr
    unfold State.peek
    rw [hm, hr, ofBytes_toBytes]
    omega
  · rw [hm]
    exact Memory.get_write_outside _ _ _ k hw (by rw [toBytes_length]; exact hk)

end Sys2Proof.Proofs
end

section
/-! SUPPORT. What a value at a counter does to the nodes that wait for it (R159, R212). -/

namespace Sys2Proof.Machine

theorem Tbl.mem_of_get? {α : Type} {t : Tbl α} {k : Nat} {x : α} (h : Tbl.get? k t = some x) : (k, x) ∈ t := by
  induction t with
  | nil => cases h
  | cons p t ih =>
    obtain ⟨j, y⟩ := p
    unfold Tbl.get? at h
    split at h
    · next e => cases h; subst e; exact List.mem_cons_self
    · exact List.mem_cons_of_mem _ (ih h)

/-- A node whose watch has been answered with a value. -/
def Node.woken (v : Word) (n : Node) : Node := { n with watch := none, reply := some v }

/-- A waiter is woken, and its watch leaves its home. -/
def State.wake (v : Word) (s : State) (p : Nat × Node) : State :=
  (List.range 4).foldl (fun s d => s.modDie d fun x => { x with watches := x.watches.mapAll fun _ l => l.filter fun t => t ≠ p.1 })
    (s.modNode p.1 (Node.woken v))

theorem State.wake_node? (v : Word) (s : State) (p : Nat × Node) (k : Nat) :
    (s.wake v p).node? k = if k = p.1 then (s.node? k).map (Node.woken v) else s.node? k := by
  have hk : (s.modNode p.1 (Node.woken v)).Kept (s.wake v p) := (State.Kept.refl _).foldl _ _ fun _ _ h => h.modDie
  rw [← State.node?_modNode]
  unfold State.node?
  rw [hk.nodes]

/-- A node stands as it did after others were woken, and is woken once where it is one of those. -/
theorem State.foldl_wake_node? (v : Word) (l : List (Nat × Node)) (s : State) (k : Nat) :
    (l.foldl (State.wake v) s).node? k = if k ∈ l.map (·.1) then (s.node? k).map (Node.woken v) else s.node? k := by
  induction l generalizing s with
  | nil => rfl
  | cons p l ih =>
    rw [List.foldl_cons, ih, State.wake_node?]
    by_cases hp : k = p.1
    · subst hp
      have hidem : Node.woken v ∘ Node.woken v = Node.woken v := rfl
      by_cases hl : p.1 ∈ l.map (·.1) <;> simp [hl, Option.map_map, hidem]
    · simp only [List.map_cons, List.mem_cons, hp, false_or, if_false]

/-- Does a node wait for no more than a value at a counter? -/
def Node.waitsFor (pa : Nat) (v : Word) (n : Node) : Bool := match n.watch with
  | some w => w.held && w.pa = pa && w.target ≤ v
  | none => false

theorem State.notify_eq (s : State) (pa : Nat) :
    s.notify pa =
      let v : Word := BitVec.ofNat 64 (s.peek (s.key pa) 8)
      let t := { s with nodes := s.nodes.mapAll fun _ n => n.answered pa v }
      (t.nodes.filter fun p => p.2.waitsFor pa v).foldl (State.wake v) t := rfl

/-- An answer to sleeping slots changes their watches alone. -/
theorem Node.answered_eq (n : Node) (pa : Nat) (v : Word) :
    n.answered pa v = { n with blk := { n.blk with sleep := (n.answered pa v).blk.sleep } } := by
  unfold Node.answered
  split <;> rfl

theorem Node.answered_sleep (n : Node) (pa : Nat) (v : Word) (j : Nat) :
    Tbl.get? j (n.answered pa v).blk.sleep = (Tbl.get? j n.blk.sleep).map fun w =>
      if w.pa = pa ∧ w.target ≤ v then { w with held := false } else w := by
  unfold Node.answered
  split
  · rw [Tbl.get?_mapAll]
    simp
  · next h =>
    cases hj : Tbl.get? j n.blk.sleep with
    | none => rfl
    | some w =>
      have hw : ¬ (w.held = true ∧ w.pa = pa ∧ w.target ≤ v) := by
        intro hc
        exact h (List.any_eq_true.2 ⟨(j, w), Tbl.mem_of_get? hj, by simp [hc]⟩)
      simp only [Option.map_some]
      split
      · next hc =>
        have hf : w.held = false := by simpa [hc] using hw
        rw [← hf]
      · rfl

end Sys2Proof.Machine
end

section
/-! SUPPORT. Watches. -/

namespace Sys2Proof.Proofs

open Sys2Proof.Machine Sys2Proof.Claims

/-- Settles O42: the nodes woken are those found waiting once the sleeping slots have been answered. -/
theorem watchesWakeAtTheirValue : Obligations.WatchesWakeAtTheirValue := by
  intro s pa k n w hn hw huniq v m
  have hm : Tbl.get? k (s.nodes.mapAll fun _ n => n.answered pa v) = some m := by
    have hn' : Tbl.get? k s.nodes = some n := hn
    rw [Tbl.get?_mapAll, hn']
    rfl
  have hmw : m.watch = some w := by rw [show m = n.answered pa v from rfl, Node.answered_eq]; exact hw
  have hmem : k ∈ ((s.nodes.mapAll fun _ n => n.answered pa v).filter fun p => p.2.waitsFor pa v).map (·.1) ↔ m.waitsFor pa v = true := by
    constructor
    · intro h
      obtain ⟨p, hp, rfl⟩ := List.mem_map.1 h
      obtain ⟨hp, hwait⟩ := List.mem_filter.1 hp
      obtain ⟨q, hq, rfl⟩ := List.mem_map.1 hp
      have := huniq q hq rfl
      rw [this] at hwait
      exact hwait
    · intro h
      exact List.mem_map.2 ⟨(k, m), List.mem_filter.2 ⟨Tbl.mem_of_get? hm, h⟩, rfl⟩
  have hnode : (s.notify pa).node? k = if m.waitsFor pa v = true then some (Node.woken v m) else some m := by
    rw [State.notify_eq]
    simp only
    rw [State.foldl_wake_node?]
    have ht : State.node? { s with nodes := s.nodes.mapAll fun _ n => n.answered pa v } k = some m := hm
    by_cases hc : m.waitsFor pa v = true
    · rw [if_pos (hmem.2 hc), if_pos hc, ht]
      rfl
    · rw [if_neg (fun h => hc (hmem.1 h)), if_neg hc, ht]
  have hwf : m.waitsFor pa v = true ↔ w.held = true ∧ w.pa = pa ∧ w.target ≤ v := by
    unfold Node.waitsFor
    rw [hmw]
    simp [and_assoc]
  refine ⟨fun h1 h2 h3 => ?_, fun h => ?_, (State.Before.notify s pa).mem, n.answered_eq pa v, n.answered_sleep pa v⟩
  · rw [hnode, if_pos (hwf.2 ⟨h1, h2, h3⟩)]
    rfl
  · rw [hnode, if_neg]
    rw [hwf]
    rintro ⟨h1, h2, h3⟩
    rcases h with h | h | h
    · rw [h1] at h; cases h
    · exact h h2
    · exact absurd h3 (BitVec.not_le.2 h)

end Sys2Proof.Proofs
end

section
/-! SUPPORT. What a translation answers where no buffer holds the page (R81 to R92). -/

namespace Sys2Proof.Machine

theorem State.die_modDie_ne (s : State) {d e : Nat} (f : Die → Die) (h : d ≠ e) : (s.modDie d f).die e = s.die e :=
  vget_vset_ne _ _ _ h

/-- Noting that a request has come again changes nothing of the dies but what they still wait to see come again. -/
theorem State.die_reissued (s : State) (d : Nat) (r : Requester) (e : Nat) :
    (s.reissued d r).die e = { s.die e with thawed := ((s.reissued d r).die e).thawed } := by
  unfold State.reissued
  split
  · by_cases he : d = e
    · subst he
      by_cases hd : d < 4
      · rw [State.die_modDie _ _ hd]
      · rw [State.die_eq_reset _ hd, State.die_eq_reset _ hd]
    · rw [State.die_modDie_ne _ _ he]
  · rfl

theorem State.mmio_reissued (s : State) (d : Nat) (r : Requester) : (s.reissued d r).mmio = s.mmio := by
  unfold State.reissued
  split <;> rfl

theorem State.tlbFind_reissued (s : State) (d : Nat) (r : Requester) (tile : Option Nat) (c : BitVec 12) (va : Nat) (kind : AccKind) :
    (s.reissued d r).tlbFind d tile c va kind = s.tlbFind d tile c va kind := by
  have htlb : ((s.reissued d r).die d).tlb = (s.die d).tlb := by rw [State.die_reissued]
  have htiles : ∀ e, ((s.reissued d r).die e).tiles = (s.die e).tiles := fun e => by rw [State.die_reissued]
  unfold State.tlbFind State.cache
  simp only [htlb, htiles]

theorem State.pendingAt_reissued (s : State) (d : Nat) (r : Requester) (c : BitVec 12) (page : Nat) :
    (s.reissued d r).pendingAt d c page = s.pendingAt d c page := by
  unfold State.pendingAt
  rw [State.die_reissued]

/-! ### Pending faults -/

/-- Is a pending fault that of a key? -/
def PendFault.at_ (c : BitVec 12) (page : Nat) (p : PendFault) : Bool := p.ctx = c && p.page = page

/-- Once a pending fault stands in the place of its key, it is found there. -/
theorem State.pendingAt_setPend {s : State} {d : Nat} {c : BitVec 12} {page : Nat} {p q : PendFault} (h : s.pendingAt d c page = some p)
    (hc : q.ctx = c) (hp : q.page = page) : (s.setPend d q).pendingAt d c page = some q := by
  have hd := (State.pendingAt_some h).1
  unfold State.setPend State.pendingAt
  rw [State.die_modDie _ _ hd]
  unfold State.pendingAt at h
  subst hc hp
  have hf : (fun x : PendFault => x.ctx = q.ctx && x.page = q.page) ∘ (fun x : PendFault => if x.ctx = q.ctx && x.page = q.page then q else x) =
      fun x : PendFault => (x.ctx = q.ctx && x.page = q.page : Bool) := by
    funext x
    simp only [Function.comp_apply]
    split
    · next hx => simp [hx]
    · rfl
  have hkey := List.find?_some h
  simp only [List.find?_map, hf, h, Option.map_some]
  rw [if_pos hkey]

theorem State.Dev.pendingAt {s t : State} (h : s.Dev t) (d : Nat) (c : BitVec 12) (page : Nat) :
    t.pendingAt d c page = s.pendingAt d c page := by
  unfold State.pendingAt
  rw [State.pends_die h.pends]

/-- A request that joins a pending fault is counted there, and waits (R92). -/
theorem State.pendJoin_pendingAt {s : State} {d : Nat} {c : BitVec 12} {page : Nat} {p : PendFault} (kind : AccKind) (r : Requester)
    (h : s.pendingAt d c page = some p) :
    ∃ q, (s.pendJoin d p kind r).pendingAt d c page = some q ∧ q.count = p.count + 1 ∧ r ∈ q.waiters := by
  have hkey : p.ctx = c ∧ p.page = page := by
    have hk := List.find?_some h
    simpa using hk
  unfold State.pendJoin
  simp only
  rw [(State.Dev.pendUpdate _ _ _ _).pendingAt]
  refine ⟨_, State.pendingAt_setPend h hkey.1 hkey.2, rfl, ?_⟩
  simp only
  split
  · next hc => simpa using hc
  · simp

theorem State.pendPut_eq (s : State) (d : Nat) (p : PendFault) : (s.pendPut d p).1 = { p with slot := (s.pendPut d p).1.slot } := by
  unfold State.pendPut
  split <;> rfl

/-- A new pending fault is found under its key (R92). -/
theorem State.pendFault_pendingAt {s : State} {d : Nat} {c : BitVec 12} {page : Nat} (kind : AccKind) (cls : BitVec 3) (assist : Word)
    (r : Requester) (why : Nat × Nat × Word) (hd : d < 4) (h : s.pendingAt d c page = none) (hl : (s.die d).pend.length < 256) :
    ∃ q, (s.pendFault d c page kind cls assist r why).pendingAt d c page = some q ∧ q.cause = why.1 ∧ q.count = 1 ∧ q.waiters = [r] := by
  have hnew : ∀ p : PendFault, p.ctx = c → p.page = page →
      (s.modDie d fun x => { x with pend := x.pend ++ [p] }).pendingAt d c page = some p := by
    intro p hc hp
    unfold State.pendingAt at h ⊢
    rw [State.die_modDie _ _ hd]
    simp only [List.find?_append, h, Option.none_or]
    simp [hc, hp]
  unfold State.pendFault
  rw [h]
  simp only
  rw [if_neg (by omega)]
  refine ⟨_, State.pendingAt_setPend ((State.Dev.pendPut _ _ _).pendingAt d c page ▸ hnew _ rfl rfl) ?_ ?_, ?_⟩
  · rw [State.pendPut_eq]
  · rw [State.pendPut_eq]
  · rw [State.pendPut_eq]
    exact ⟨rfl, rfl, rfl⟩

/-! ### Misses -/

theorem mem_modMiss_of_mem {f : Miss → Bool} {g : Miss → List Miss} {l : List Miss} {m : Miss} (hm : m ∈ l) (hf : f m = true) :
    ∃ x ∈ l, f x = true ∧ ∀ y ∈ g x, y ∈ modMiss f g l := by
  induction l with
  | nil => cases hm
  | cons a l ih =>
    unfold modMiss
    by_cases ha : f a = true
    · rw [if_pos ha]
      exact ⟨a, List.mem_cons_self, ha, fun y hy => List.mem_append_left _ hy⟩
    · rw [if_neg ha]
      rcases List.mem_cons.1 hm with rfl | hm
      · exact absurd hf ha
      · obtain ⟨x, hx, hfx, hy⟩ := ih hm
        exact ⟨x, List.mem_cons_of_mem _ hx, hfx, fun y h => List.mem_cons_of_mem _ (hy y h)⟩

/-- A request that misses waits for a walk of its key that has not ended (R88). -/
theorem State.missJoin_waits {s : State} {d : Nat} (c : BitVec 12) (page : Nat) (w : MissWaiter) (hd : d < 4)
    (hl : ((s.die d).misses.filter fun m => m.why.isNone).length < 4160) :
    ∃ m ∈ ((s.missJoin d c page w).die d).misses, m.ctx = c ∧ m.page = page ∧ m.why = none ∧ w ∈ m.waiters := by
  unfold State.missJoin
  simp only
  split
  · next h =>
    obtain ⟨m, hm, hw⟩ := List.any_eq_true.1 h
    simp only [Bool.and_eq_true, decide_eq_true_eq, Option.isNone_iff_eq_none, List.contains_iff_mem] at hw
    exact ⟨m, hm, hw.1.1.1.1, hw.1.1.1.2, hw.1.2, hw.2⟩
  · split
    · next h =>
      obtain ⟨m, hm, ho⟩ := List.any_eq_true.1 h
      rw [State.die_modDie _ _ hd]
      obtain ⟨x, -, hx, hy⟩ := mem_modMiss_of_mem (f := fun m => m.ctx = c && m.page = page && !m.stale && m.why.isNone)
        (g := fun m => [{ m with waiters := m.waiters ++ [w] }]) hm ho
      simp only [Bool.and_eq_true, decide_eq_true_eq, Option.isNone_iff_eq_none] at hx
      exact ⟨_, hy _ List.mem_cons_self, hx.1.1.1, hx.1.1.2, hx.2, by simp⟩
    · split
      · next h => exact absurd hl (by omega)
      · rw [State.die_modDie _ _ hd]
        exact ⟨_, List.mem_append_right _ List.mem_cons_self, rfl, rfl, rfl, List.mem_cons_self⟩

/-- A walk without a root to begin at ends in a fault of cause 5 (R82, R85). -/
theorem State.walkStep_rootless {s : State} {d : Nat} {c : BitVec 12} {page : Nat} {m : Miss} (hd : d < 4)
    (hr : (s.ctxReg c 0).getLsbD 63 = false) (hw : (s.die d).walking c page = some m) (ha : m.at_ = none) (hs : m.stale = false) :
    { m with why := some (5, 0, 0) } ∈ ((s.walkStep d c page).die d).misses := by
  have hmem : m ∈ (s.die d).misses := List.mem_of_mem_filter (List.mem_of_mem_take (List.mem_of_find?_eq_some hw))
  have hstart : s.walkStart d c (page * 65536) = none := by
    unfold State.walkStart
    simp only [hr, Bool.not_false, if_true]
  have hmisses : ((s.walkStep d c page).die d).misses = modMiss (fun y => decide (y = m))
      (fun m => if m.stale then [] else [{ m with why := some (5, 0, 0) }]) (s.die d).misses := by
    unfold State.walkStep
    simp only [hw, ha, hstart, Option.isSome_none, Bool.false_eq_true, if_false]
    rw [State.die_modDie _ _ hd]
  obtain ⟨x, -, hx, hy⟩ := mem_modMiss_of_mem (f := fun y => decide (y = m))
    (g := fun m => if m.stale then [] else [{ m with why := some (5, 0, 0) }]) hmem (decide_eq_true rfl)
  rw [hmisses]
  rw [of_decide_eq_true hx, if_neg (by simp [hs])] at hy
  exact hy _ List.mem_cons_self

end Sys2Proof.Machine
end

section
/-! SUPPORT. Translations. -/

namespace Sys2Proof.Proofs

open Sys2Proof.Machine Sys2Proof.Claims

/-- Settles O43. -/
theorem translationFaultsArePending : Obligations.TranslationFaultsArePending := by
  intro s d tile c va kind cls assist r hd go page
  have hgo : go = s.xlate d tile c va kind cls assist r := rfl
  have hk : s.Kept (s.reissued d r) := (State.Kept.refl s).reissued
  unfold State.xlate at hgo
  simp only [State.tlbFind_reissued, State.pendingAt_reissued] at hgo
  have hmiss : ((s.reissued d r).die d).misses = (s.die d).misses := by rw [State.die_reissued]
  refine ⟨fun ha => ?_, fun ha e he => ?_, fun ha hf => ⟨fun p hp => ?_, fun hp => ?_⟩⟩
  · rw [hgo, if_pos ha]
  · rw [if_neg (by omega)] at hgo
    simp only [he] at hgo
    rw [hgo]
    exact ⟨rfl, hk.tlbFill.mem⟩
  · rw [if_neg (by omega)] at hgo
    have hp' : s.pendingAt d c (va.toNat / 65536) = some p := hp
    simp only [hf, hp'] at hgo
    rw [hgo]
    exact ⟨rfl, State.pendJoin_pendingAt kind r ((s.pendingAt_reissued d r c page).trans hp)⟩
  · rw [if_neg (by omega)] at hgo
    have hp' : s.pendingAt d c (va.toNat / 65536) = none := hp
    simp only [hf, hp', hmiss] at hgo
    intro ended
    have hend : ended = (s.die d).misses.find? fun m => m.why.isSome && m.awaits c (va.toNat / 65536) ⟨r, kind⟩ := rfl
    rw [← hend] at hgo
    refine ⟨fun m why hm hw hl => ?_, fun hr => ⟨fun hm hl => ?_, fun m hm hat hs => State.walkStep_rootless hd hr hm hat hs⟩⟩
    · simp only [hm, hw, Option.getD_some] at hgo
      have hpends : ((s.reissued d r).missTake d c page ⟨r, kind⟩).pends = s.pends := by
        unfold State.missTake State.reissued
        split <;> simp
      have hnone : ((s.reissued d r).missTake d c page ⟨r, kind⟩).pendingAt d c page = none := by
        unfold State.pendingAt at hp ⊢
        rw [State.pends_die hpends, hp]
      rw [hgo]
      exact ⟨rfl, State.pendFault_pendingAt kind cls assist r why hd hnone (State.pends_die hpends d ▸ hl)⟩
    · have hstart : (s.reissued d r).walkStart d c va.toNat = none := by
        have hr' : ((s.reissued d r).ctxReg c 0).getLsbD 63 = false := by
          unfold State.ctxReg State.mmioAt
          rw [State.mmio_reissued]
          exact hr
        unfold State.walkStart
        simp only [hr', Bool.not_false, if_true]
      simp only [hm, hstart] at hgo
      rw [hgo]
      exact ⟨rfl, hk.missJoin.mem, State.missJoin_waits c page ⟨r, kind⟩ hd (hmiss ▸ hl)⟩

end Sys2Proof.Proofs
end

section
/-! SUPPORT. The step while the clocks are stopped (R402, R456, R457). -/

namespace Sys2Proof.Machine

/-! ### What is taken from the agenda -/

theorem listFind_none {α : Type} {f : α → Bool} {l : List α} (k : Nat) (h : ∀ x ∈ l, f x = false) : listFind f l k = none := by
  induction l generalizing k with
  | nil => rfl
  | cons a l ih =>
    unfold listFind
    rw [if_neg (by simp [h a List.mem_cons_self])]
    exact ih _ fun x hx => h x (List.mem_cons_of_mem _ hx)

theorem listFind_some {α : Type} {f : α → Bool} {l : List α} {k j : Nat} {x : α} (h : listFind f l k = some (j, x)) :
    x ∈ l ∧ f x = true := by
  induction l generalizing k with
  | nil => cases h
  | cons a l ih =>
    unfold listFind at h
    split at h
    · next ha =>
      cases h
      exact ⟨List.mem_cons_self, ha⟩
    · exact (ih h).imp_left (List.mem_cons_of_mem _)

/-! ### The management port reads a register -/

/-- A lookup under which stopped clocks stay so. -/
def State.Still (s t : State) : Prop := s.Kept t ∧ (s.clocksStopped = true → t.clocksStopped = true)

namespace State.Still

variable {s t u : State}

theorem refl (s : State) : s.Still s := ⟨.refl s, id⟩

theorem trans (h : s.Still t) (k : t.Still u) : s.Still u := ⟨Eq.trans (show u.still = t.still from k.1) h.1, k.2 ∘ h.2⟩

theorem touch (s : State) (k : Nat) : s.Still (s.touch k) := by
  refine ⟨(State.Kept.refl s).touch, fun h => ?_⟩
  unfold State.touch
  split <;> exact h

theorem event (s : State) (d ty k : Nat) (c : BitVec 12) (x y : Word) : s.Still (s.event d ty c k x y) := by
  refine ⟨(State.Kept.refl s).event, fun h => ?_⟩
  unfold State.event
  simp only
  split <;> exact h

theorem alarmAct (s : State) : s.Still s.alarmAct := by
  refine ⟨(State.Kept.refl s).alarmAct, fun h => ?_⟩
  unfold State.alarmAct
  simp only
  split
  · exact h
  · rfl

theorem alarm (s : State) (b : Nat) : s.Still (s.alarm b) :=
  ⟨(State.Kept.refl s).alarm, fun h => (alarmAct _).2 ((event _ _ _ _ _ _ _).2 h)⟩

theorem rightsWord (s : State) (d k : Nat) (m : Master) : s.Still (s.rightsWord d k m).2 := by
  refine ⟨(State.Kept.refl s).rightsWord, fun h => ?_⟩
  unfold State.rightsWord
  simp only
  split
  · exact h
  · exact (touch _ _).2 h

theorem right (s : State) (d k : Nat) (m : Master) (pa : Nat) : s.Still (s.right d k m pa).2 := by
  unfold State.right
  split
  · split
    · exact refl s
    · exact rightsWord s d k m
  · exact refl s

theorem check (s : State) (d k : Nat) (m : Master) (pa need : Nat) : s.Still (s.check d k m pa need).2 := by
  unfold State.check
  simp only
  split
  · exact right s d k m pa
  · simp only
    split
    · exact (right s d k m pa).trans (alarm _ _)
    · exact right s d k m pa

theorem checkAll (s : State) (m : Master) (pa need : Nat) (l : List (Nat × Nat)) : s.Still (s.checkAll m pa need l).2 := by
  induction l generalizing s with
  | nil => exact refl s
  | cons a l ih =>
    unfold State.checkAll
    simp only
    split
    · exact (check s _ _ m pa need).trans (ih _)
    · exact check s _ _ m pa need

theorem permit (s : State) (d : Nat) (m : Master) (pa need : Nat) : s.Still (s.permit d m pa need).2 := by
  unfold State.permit
  split
  · exact refl s
  · exact checkAll s m pa need _

end State.Still

/-- An offset of the MMIO window is homed there (R52). -/
theorem State.home_mmioAddr (s : State) (d off : Nat) :
    s.home d (s.mmioAddr off) = .mmio (off % 2 ^ 38 / 2 ^ 36) (off % 2 ^ 38 % 2 ^ 36) := by
  have hlt : off % 2 ^ 38 < 2 ^ 38 := Nat.mod_lt _ (by norm_num)
  have hdiv : s.mmioAddr off / 2 ^ 45 = s.dom := by
    unfold State.mmioAddr State.global
    omega
  have hmod : s.mmioAddr off % 2 ^ 45 = 0x1FC000000000 + off % 2 ^ 38 := by
    unfold State.mmioAddr State.global
    omega
  unfold State.home
  rw [if_pos hdiv, hmod]
  unfold State.homeOf
  iterate 7 rw [if_neg (by omega)]
  simp only [Nat.add_sub_cancel_left]

/-- A read of 8 bytes of the window is one aligned access, or is refused (R450, R457). -/
theorem State.outsideRead_mmio {s : State} {d pa h off : Nat} (m : Master) (hh : s.home d pa = .mmio h off) :
    s.Still (s.outsideRead d m pa 8) := by
  have hhand : ∀ (t : State) (x : OutMsg), s.Still t → s.Still (t.hand x) := fun t x h => ⟨h.1.hand, h.2⟩
  have hread : s.Still (s.homeRead d m pa 8 false).2 := by
    unfold State.homeRead
    simp only [hh]
    split
    · exact .permit s d m _ 1
    · exact .permit s d m _ 1
  have hall : s.Still (s.homeReadAll d m false [(pa, 8)]).2 := by
    unfold State.homeReadAll
    split
    · next e => rw [e] at hread; exact hread
    · next e => rw [e] at hread; exact hread
  unfold State.outsideRead
  split
  · exact hhand _ _ (.refl s)
  · next hbad =>
    have hal : pa % 8 = 0 := by
      by_contra hal
      refine hbad ?_
      simp [State.mmioBad, hal, pieces, hh]
    have hk : Nat.min 8 (128 - pa % 128) = 8 := Nat.min_eq_left (by omega)
    have hp : pieces pa 8 (8 / 128 + 2) = [(pa, 8)] := by simp [pieces, hk]
    rw [hp]
    split
    · next e => rw [e] at hall; exact hhand _ _ hall
    · next e => rw [e] at hall; exact hhand _ _ hall

end Sys2Proof.Machine
end

section
/-! SUPPORT. Stopped clocks. -/

namespace Sys2Proof.Proofs

open Sys2Proof.Machine Sys2Proof.Claims

/-- Settles O44: what is served is a read of the management port or a control message, neither of which changes more than a lookup. -/
theorem stoppedClocksServeTheManagementPort : Obligations.StoppedClocksServeTheManagementPort := by
  intro s t hs
  have hstep : step s = s.stoppedStep := by simp [step, hs]
  rw [hstep, State.stoppedStep]
  refine ⟨fun h => by rw [listFind_none 0 h], fun h he => ?_⟩
  split at he
  · next k i hf =>
    obtain ⟨hi, hserved⟩ := listFind_some hf
    have hkeep : ∀ u, (s.takeAgenda k).Still u → u.clocksStopped = true ∧ u.nodes = s.nodes ∧ u.mts = s.mts ∧ u.regions = s.regions ∧
        u.mem = s.mem ∧ u.now = s.now ∧ ∀ i ∈ u.agenda, i ∈ s.agenda := by
      rintro u ⟨hk, hc⟩
      have at_ {α : Type} (f : State → α) : f u.still = f (s.takeAgenda k).still := congrArg f hk
      refine ⟨hc hs, hk.nodes, at_ State.mts, at_ State.regions, hk.mem, at_ State.now, fun i hi => ?_⟩
      rw [hk.agenda] at hi
      exact List.mem_of_mem_eraseIdx hi
    cases i with
    | mgmtMmioRead off =>
      rw [← Host.Outcome.next.inj he]
      exact hkeep _ (State.outsideRead_mmio _ (State.home_mmioAddr _ _ _))
    | mctpControlMessage cmd =>
      rw [← Host.Outcome.next.inj he]
      exact hkeep _ ⟨(State.Kept.refl _).hand, id⟩
    | mgmtMmioWrite off x => exact absurd rfl ((h _ hi).2 off x)
    | reset => exact absurd rfl (h _ hi).1
    | _ => exact absurd hserved Bool.false_ne_true
  · cases he

end Sys2Proof.Proofs
end

section
/-! SUPPORT. What an instruction that fires does, read off its effect: it delivers, holds, or traps. -/

namespace Sys2Proof.Claims

open Sys2Proof.Machine

/-- Where an instruction fires, its step is its effect on the running node and slot. -/
theorem Fires.exec_eq {s : State} {n : Node} {i : Instr} {eff : Node → SlotRt → State} (hf : Fires s n i)
    (he : exec i s = .next (s.fire i eff)) : exec i s = .next (eff n (cur n)) := by
  rw [he, State.fire_effect s n i eff hf.here hf.noNull hf.pred]

/-- An instruction whose effect emits a value gives that value. -/
theorem Gives.of_emit {i : Instr} {v : Node → SlotRt → Val}
    (he : ∀ s, exec i s = .next (s.fire i fun n r => s.emit i (v n r))) : Gives i v := by
  intro s n b hf hd
  rw [hf.exec_eq (he s), State.emit_ok s n i _ b hf.here hd]
  rfl

/-- An instruction whose effect holds acts, under a condition, holds them. -/
theorem Holds.of_hold {i : Instr} {c : State → Node → SlotRt → Prop} {step : Nat} {key : Node → Nat}
    {acts : State → Node → SlotRt → List Act} {eff : State → Node → SlotRt → State}
    (he : ∀ s, exec i s = .next (s.fire i (eff s)))
    (h : ∀ s n r, s.here = some n → c s n r → eff s n r = s.hold step (key n) (acts s n r)) : Holds i c step key acts := by
  intro s n hf hc
  rw [hf.exec_eq (he s), h s n _ hf.here hc, State.hold_eq s n _ _ _ hf.here]
  rfl

/-- An instruction whose effect traps, under a condition, traps. -/
theorem Traps.of_trapHere {i : Instr} {c : State → Node → SlotRt → Prop} {cause : Cause} {addr : Node → SlotRt → Word}
    {eff : State → Node → SlotRt → State} (he : ∀ s, exec i s = .next (s.fire i (eff s)))
    (h : ∀ s n r, s.here = some n → c s n r → eff s n r = s.trapHere cause (addr n r)) : Traps i c cause addr := by
  intro s n hf hc
  rw [hf.exec_eq (he s), h s n _ hf.here hc, State.trapHere_eq s n _ _ hf.here]

end Sys2Proof.Claims
end

section
/-! SUPPORT. The lanes of a vector, the sign of a float, and the words of an immediate. -/

namespace Sys2Proof

/-- Digit i of a number that a list of digits below 2^32 writes. -/
theorem foldr_digit (f : Nat → Word32) (l : List Nat) (i : Nat) (h : i < l.length) :
    l.foldr (fun k a => (f k).toNat + 2 ^ 32 * a) 0 / 2 ^ (32 * i) % 2 ^ 32 = (f l[i]).toNat := by
  induction l generalizing i with
  | nil => exact absurd h (Nat.not_lt_zero _)
  | cons k l ih =>
    have hk := (f k).isLt
    cases i with
    | zero =>
      rw [List.foldr_cons, Nat.mul_zero, Nat.pow_zero, Nat.div_one, Nat.add_mul_mod_self_left, Nat.mod_eq_of_lt hk]
      rfl
    | succ i =>
      rw [List.foldr_cons, Nat.mul_succ, Nat.add_comm (32 * i), Nat.pow_add, ← Nat.div_div_eq_div_mul,
        Nat.add_mul_div_left _ _ (Nat.two_pow_pos 32), Nat.div_eq_of_lt hk, Nat.zero_add]
      exact ih i (by simpa using h)

/-- A number that n digits below 2^32 write. -/
theorem foldr_digits_lt (f : Nat → Word32) (l : List Nat) :
    l.foldr (fun k a => (f k).toNat + 2 ^ 32 * a) 0 < 2 ^ (32 * l.length) := by
  induction l with
  | nil => exact Nat.one_pos
  | cons k l ih =>
    have hk := (f k).isLt
    rw [List.foldr_cons, List.length_cons, Nat.mul_succ, Nat.add_comm (32 * _), Nat.pow_add]
    calc _ < 2 ^ 32 * 1 + 2 ^ 32 * l.foldr (fun k a => (f k).toNat + 2 ^ 32 * a) 0 := by omega
      _ = 2 ^ 32 * (1 + l.foldr (fun k a => (f k).toNat + 2 ^ 32 * a) 0) := (Nat.mul_add ..).symm
      _ ≤ _ := Nat.mul_le_mul_left _ (by omega)

/-- A lane put into a vector reads back (R29). -/
theorem lane_ofLanes (f : Nat → Word32) (i : Nat) (h : i < 32) : lane (ofLanes f) i = f i := by
  have hl := foldr_digits_lt f (List.range 32)
  rw [List.length_range] at hl
  apply BitVec.eq_of_toNat_eq
  rw [lane, ofLanes, BitVec.extractLsb'_toNat, BitVec.toNat_ofNat, Nat.mod_eq_of_lt hl, Nat.shiftRight_eq_div_pow,
    foldr_digit f _ i (by simpa using h), List.getElem_range]

/-- MOVI.hi's value: the immediate over 32 zero bits. -/
theorem shl32_eq_append (imm : Word32) : imm.setWidth 64 <<< 32 = imm ++ 0#32 := by
  apply BitVec.eq_of_toNat_eq
  have := imm.isLt
  rw [BitVec.toNat_append, BitVec.toNat_shiftLeft, BitVec.toNat_setWidth, BitVec.toNat_ofNat, Nat.shiftLeft_eq,
    Nat.shiftLeft_eq, Nat.mod_eq_of_lt (show imm.toNat < 2 ^ 64 by omega), Nat.mod_eq_of_lt (show imm.toNat * 2 ^ 32 < 2 ^ 64 by omega)]
  simp

/-- FSGN with the sign bits as numbers (R288). -/
theorem Ty.fpSgn_eq (t : Ty) (op : SgnOp) (l r : Nat) :
    let top := 2 ^ (t.width - 1)
    t.fpSgn op l r = if (t.dec l).isNan then t.nanBits
      else l % top + top * (match op with
        | .cps => r / top % 2
        | .neg => 1 - l / top % 2
        | .xsg => (l / top + r / top) % 2
        | .abs => 0) := by
  have hl := Nat.mod_two_eq_zero_or_one (l / 2 ^ (t.width - 1))
  have hr := Nat.mod_two_eq_zero_or_one (r / 2 ^ (t.width - 1))
  unfold fpSgn bitAt
  rcases hl with hl | hl <;> rcases hr with hr | hr <;> cases op <;> simp [hl, hr, Nat.add_mod]

end Sys2Proof

namespace Sys2Proof.Machine

open Sys2Proof.Claims

/-- While the clocks run and bring-up is over, the step of a node whose slot has issued is exec of its instruction. -/
theorem step_eq_exec {s : State} {i : Instr} (hc : s.clocksStopped = false) (hb : s.bringUp = none)
    (hi : s.current = some (some i)) : step s = exec i s := by
  simp [step, hc, hb, hi]

/-- A read of a full register emits what it holds (R32). -/
theorem State.readReg_full (s : State) (i : Instr) (trap : Bool) (v : Val) : s.readReg i true trap v = s.emit i v := rfl

end Sys2Proof.Machine
end

section
/-! The printed words, the step, and the computations. -/

namespace Sys2Proof.Proofs

open Sys2Proof.Machine Sys2Proof.Claims

/-- Settles O1: each of the words decodes as printed. -/
theorem decodesPrintedWords : Obligations.DecodesPrintedWords := by
  unfold Obligations.DecodesPrintedWords
  refine ⟨?_, ?_, ?_, ?_, ?_, ?_, ?_, ?_, ?_, ?_, ?_, ?_, ?_, ?_, ?_, ?_, ?_, ?_, ?_, ?_, ?_, ?_, ?_⟩ <;> decide

/-- Settles O2: the node at the focus is the current one, and its words decode to the instruction. -/
theorem stepRunsIssuedInstruction : Obligations.StepRunsIssuedInstruction := by
  intro s n i hc hb hn hi hr hs hd
  refine step_eq_exec hc hb ?_
  simp [State.current, hn, hi, hr, Blk.instr, hs, hd]

/-- Settles O10: the rounded exact result is what each form emits. -/
theorem floatArithmeticResults : Obligations.FloatArithmeticResults := fun p t u ty md =>
  ⟨.of_emit (exec_fadd p t u ty md), .of_emit (exec_fsub p t u ty md), .of_emit (exec_fmul p t u ty md),
    .of_emit (exec_fma t u ty md), .of_emit (exec_fdiv p t u ty md), .of_emit (exec_fsqrt p t u ty md)⟩

/-- FMIN, FMAX, FCMP, FCVT, FCLASS and FSGN compute what their entries write. -/
theorem floatCompareResults : FloatCompareResults := fun p t u ty sty md c op =>
  ⟨.of_compute (exec_fmin p t u ty) fun _ _ => rfl, .of_compute (exec_fmax p t u ty) fun _ _ => rfl,
    .of_compute (exec_fcmp p t u ty c) fun _ _ => rfl, .of_emit (exec_fcvt p t u ty sty md),
    .of_compute (exec_fclass p t u ty) fun _ _ => rfl,
    .of_compute (exec_fsgn p t u ty op) fun _ r => congrArg fp (ty.fpSgn_eq op r.l.toNat r.r.toNat).symm⟩

/-- FCMP's relations: an operand that is not a number satisfies `.ne` and `.uo` alone. -/
theorem floatRelations : FloatRelations := by
  intro a b
  cases h : (a.isNan || b.isNan) <;> simp [Cond.holdsFp, h, Bool.or_comm b.isNan]

/-- Settles O11. -/
theorem floatCompareConvertResults : Obligations.FloatCompareConvertResults := ⟨floatCompareResults, floatRelations⟩

/-- Settles O12: scalar and by lane, the function's value is finished with the slot's draw. -/
theorem functionResults : Obligations.FunctionResults := fun p t u ty md =>
  ⟨.of_emit (exec_exp2 p t u ty md), .of_emit (exec_log2 p t u ty md), .of_emit (exec_vexp2 p t u ty md),
    .of_emit (exec_vlog2 p t u ty md), .of_emit (exec_vrcp p t u ty md), .of_emit (exec_vrsq p t u ty md)⟩

/-- Settles O13: lane by lane the scalar computation. -/
theorem vectorArithmeticResults : Obligations.VectorArithmeticResults := fun p t u ty sty md =>
  ⟨.of_emit (exec_vadd p t u ty md), .of_emit (exec_vsub p t u ty md), .of_emit (exec_vmul p t u ty md),
    .of_emit (exec_vfma t u ty md), .of_compute (exec_vmin p t u ty) fun _ _ => rfl,
    .of_compute (exec_vmax p t u ty) fun _ _ => rfl, .of_emit (exec_vcvt p t u ty sty md),
    .of_compute (exec_vscale p t u ty) fun _ _ => rfl⟩

/-- The vector forms that compare, select, reduce, scan, move and compute in integers compute what their entries write. -/
theorem vectorMoveResults : VectorMoveResults := fun p t u ty c red op =>
  ⟨.of_compute (exec_vcmp p t u ty c) fun _ _ => rfl, .of_compute (exec_vsel t u ty) fun _ _ => rfl,
    .of_compute (exec_vred p t u ty red) fun _ _ => rfl, .of_compute (exec_vscan p t u ty red) fun _ _ => rfl,
    .of_compute (exec_vshuf p t u) fun _ _ => rfl, .of_compute (exec_vbcast p t u ty) fun _ _ => rfl,
    .of_compute (exec_vlut p t u ty) fun _ _ => rfl, .of_compute (exec_viop p t u ty op) fun _ _ => rfl⟩

/-- Settles O14: with the lanes of a vector reading back. -/
theorem vectorMoveReduceResults : Obligations.VectorMoveReduceResults := ⟨vectorMoveResults, lane_ofLanes⟩

end Sys2Proof.Proofs
end

section
/-! SUPPORT. Delivering beside acts for the commit, the exits' checks, register writes, and the tokens that a program may send. -/

namespace Sys2Proof.Machine

/-- The running slot's acts for the commit, besides its result. -/
def State.withActs (s : State) (step key : Nat) (acts : List Act) : State :=
  if acts.isEmpty then s else s.withEff step key acts

@[simp] theorem State.withActs_nil (s : State) (step key : Nat) : s.withActs step key [] = s := rfl

@[simp] theorem State.withActs_cons (s : State) (step key : Nat) (a : Act) (l : List Act) :
    s.withActs step key (a :: l) = s.withEff step key (a :: l) := rfl

/-- An exit of a block in which none has fired is noted with its successor (R22). -/
theorem State.exitAs_first {s : State} {n : Node} (k : ExitKind) (acts : List Act) (h : s.here = some n)
    (hx : n.blk.exit = none) :
    s.exitAs k acts = s.putHere (n.fired { n.blk with
      exit := some k
      effs := if acts.isEmpty then n.blk.effs else n.blk.effs ++ [⟨n.slot, 1, n.slot, acts⟩] } .fired) := by
  simp [State.exitAs, h, hx]

/-- A second exit raises the exit fault (R22). -/
theorem State.exitAs_second {s : State} {n : Node} (k : ExitKind) (acts : List Act) (h : s.here = some n)
    (hx : n.blk.exit ≠ none) : s.exitAs k acts = s.trapHere .exit 0 := by
  simp [State.exitAs, h, Option.isSome_iff_ne_none.2 hx]

/-- An exit to the address of a block passes its checks (R405). -/
theorem State.exitTo_place (s : State) {a : Word} (acts : List Act) (h : a.toNat % 16 = 0 ∧ a.toNat < 2 ^ 56) :
    s.exitTo a acts = s.exitAs (.goto a) acts := by
  rw [State.exitTo, if_neg (not_not.2 h.1), if_neg (not_le.2 h.2)]

/-- A successor with a bit of [3:0] set raises the alignment fault (R405). -/
theorem State.exitTo_misaligned (s : State) {a : Word} (acts : List Act) (h : a.toNat % 16 ≠ 0) :
    s.exitTo a acts = s.trapHere .align a := by
  rw [State.exitTo, if_pos h]

/-- An aligned successor at or above 2^56 raises the address fault (R405). -/
theorem State.exitTo_high (s : State) {a : Word} (acts : List Act) (h : a.toNat % 16 = 0) (hb : 2 ^ 56 ≤ a.toNat) :
    s.exitTo a acts = s.trapHere .address a := by
  rw [State.exitTo, if_neg (not_not.2 h), if_pos hb]

/-- The first write of a block to its register is held for step 1 (R24). -/
theorem State.writeReg_first (s : State) (n : Node) (a : Act)
    (h : (n.blk.effs.any fun e => e.acts.any fun b => a.sameReg b) = false) : s.writeReg n a = s.hold 1 n.slot [a] := by
  simp [State.writeReg, h]

/-- A second write of a block to its register raises the block fault (R28). -/
theorem State.writeReg_second (s : State) (n : Node) (a : Act)
    (h : (n.blk.effs.any fun e => e.acts.any fun b => a.sameReg b) = true) : s.writeReg n a = s.trapHere .block 0 := by
  simp [State.writeReg, h]

/-- A region of rounds that a node has declared. -/
theorem Node.regionOf_eq_none {n : Node} {x : Word} :
    n.regionOf x = none ↔ 64 ≤ x.toNat ∨ Tbl.get? x.toNat n.rounds = none := by
  unfold Node.regionOf
  split
  · exact ⟨.inr, fun h => h.resolve_left (by omega)⟩
  · exact ⟨fun _ => .inl (by omega), fun _ => rfl⟩

theorem Node.regionOf_of_lt {n : Node} {x : Word} (h : x.toNat < 64) : n.regionOf x = Tbl.get? x.toNat n.rounds := by
  simp [Node.regionOf, h]

/-- A token that may be taken from its place is handed on (R225, R412). -/
theorem State.onToken_arrived {s : State} {n : Node} {port pos : Nat} {tok : Token} (k : Token → State)
    (h : Claims.Arrived s n port pos tok) : s.onToken n port pos k = k tok := by
  obtain ⟨hu, hc, hm, hk, j, x, hx, rfl, hb⟩ := h
  have hk' : (decide (x.tok.kind = 1) && decide (x.tok.sub < 3)) = false := by simpa using hk
  simp [State.onToken, hu, hc, hx, hm, hk', hb]

/-- A port that the step does not use is a configuration fault (R411). -/
theorem State.onToken_unused {s : State} {n : Node} {port pos : Nat} (k : Token → State) (h : s.usesIn n port = false) :
    s.onToken n port pos k = s.trapHere .config 0 := by
  simp [State.onToken, h]

/-- What a program may send, as the check of SEND computes it (R413). -/
theorem sendable_iff (r : SlotRt) :
    sendable (r.r.setWidth 32) (payloadOf r.left) = true ↔ Claims.MaySend (Claims.sentTok r) := by
  have hs : (⟨payloadOf r.left, r.r.setWidth 32⟩ : Token) = Claims.sentTok r := rfl
  have hf : field (r.r.setWidth 32 : Word32).toNat 18 16 = (Claims.sentTok r).side.toNat / 2 ^ 16 % 8 := rfl
  have hu : (Claims.sentTok r).sub = (Claims.sentTok r).payload.toNat % 256 := rfl
  unfold sendable Claims.MaySend
  simp only [hs, hf, ← hu, Bool.and_eq_true, Bool.not_eq_true', Bool.and_eq_false_imp, decide_eq_true_eq, decide_eq_false_iff_not,
    Bool.or_eq_false_iff, not_not, not_le, and_assoc, ne_eq]

end Sys2Proof.Machine

namespace Sys2Proof.Claims

open Sys2Proof.Machine

/-- An instruction whose effect, under a condition, leaves a state and delivers a value there beside acts, yields them. -/
theorem Yields.of_emit {i : Instr} {step : Nat} {key : Node → Nat} {c : State → Node → SlotRt → State → Val → List Act → Prop}
    {eff : State → Node → SlotRt → State} (he : ∀ s, exec i s = .next (s.fire i (eff s)))
    (h : ∀ s t n r v acts, s.here = some n → c s n r t v acts →
      t.here = some n ∧ eff s n r = (t.withActs step (key n) acts).emit i v) : Yields i step key c := by
  intro s t n b v acts hf hc hd
  obtain ⟨ht, e⟩ := h s t n _ v acts hf.here hc
  rw [hf.exec_eq (he s), e]
  cases acts with
  | nil =>
    rw [State.withActs_nil, State.emit_ok t n i v b ht hd]
    rfl
  | cons a l =>
    let m : Node := { n with blk := also n step (key n) (a :: l) }
    have hm : t.withEff step (key n) (a :: l) = t.putHere m := by
      unfold State.withEff
      rw [ht]
      rfl
    rw [State.withActs_cons, hm, State.emit_ok _ m i v b (State.here_putHere t m) hd, State.putHere_putHere]
    rfl

/-- An instruction whose effect, under a condition, leaves a state and holds acts there, holds them. -/
theorem HoldsVia.of_hold {i : Instr} {step : Nat} {key : Node → Nat} {c : State → Node → SlotRt → State → List Act → Prop}
    {eff : State → Node → SlotRt → State} (he : ∀ s, exec i s = .next (s.fire i (eff s)))
    (h : ∀ s t n r acts, s.here = some n → c s n r t acts →
      t.here = some n ∧ eff s n r = t.hold step (key n) acts) : HoldsVia i step key c := by
  intro s t n acts hf hc
  obtain ⟨ht, e⟩ := h s t n _ acts hf.here hc
  rw [hf.exec_eq (he s), e, State.hold_eq t n _ _ _ ht]
  rfl

end Sys2Proof.Claims
end

section
/-! Moves, register reads and writes, exits, ports and matrix words. -/

namespace Sys2Proof.Proofs

open Sys2Proof.Machine Sys2Proof.Claims

/-- A register read, by whether its register is full: it delivers, waits or traps (R32). -/
theorem read_full {i : Instr} {full : Node → Bool} {trap : Bool} {x : Node → Val}
    (he : ∀ s, exec i s = .next (s.fire i fun n _ => s.readReg i (full n) trap (x n))) (s : State) (n : Node) (b : Blk)
    (hf : Fires s n i) (h : full n = true)
    (hd : n.blk.deliver (x n) (n.issueCyc n.slot + Config.latency i) i.targets = .ok b) :
    exec i s = .next (s.putHere (delivered n b)) := by
  rw [hf.exec_eq (he s), h, State.readReg_full, State.emit_ok s n i _ b hf.here hd]
  rfl

theorem read_empty_waits {i : Instr} {full : Node → Bool} {x : Node → Val}
    (he : ∀ s, exec i s = .next (s.fire i fun n _ => s.readReg i (full n) false (x n))) (s : State) (n : Node)
    (hf : Fires s n i) (h : full n = false) (ht : n.blk.timed = false) :
    exec i s = .next (s.putHere { n with issued := false }) := by
  rw [hf.exec_eq (he s), h, ← State.retry_eq s n hf.here ht]
  rfl

theorem read_empty_traps {i : Instr} {full : Node → Bool} {x : Node → Val}
    (he : ∀ s, exec i s = .next (s.fire i fun n _ => s.readReg i (full n) true (x n))) :
    Traps i (fun _ n _ => full n = false) .notReady (fun _ _ => 0) :=
  .of_trapHere he fun s n _ _ h => by rw [h]; rfl

/-- NULL, the moves, and the reads of full registers. -/
theorem moveResults : MoveResults := fun p t u k zx imm g v m =>
  ⟨.of_emit (exec_null p t u), .of_compute (exec_mov p t u) fun _ _ => rfl, .of_compute (exec_movi p t k) fun _ _ => rfl,
    .of_compute (exec_movi32 p t u zx imm) fun _ _ => rfl,
    .of_compute (exec_moviHi p t u imm) fun _ _ => congrArg Val.scalar (shl32_eq_append imm).symm,
    read_full (exec_rd p t u g), read_full (exec_rdT p t u g), read_full (exec_rdv p t u v), read_full (exec_rdvT p t u v),
    read_full (exec_rdp p t u m), read_full (exec_rdpT p t u m)⟩

/-- The reads of empty registers. -/
theorem emptyRegisterReads : EmptyRegisterReads := fun p t u g v m =>
  ⟨read_empty_waits (exec_rd p t u g), read_empty_waits (exec_rdv p t u v), read_empty_waits (exec_rdp p t u m),
    read_empty_traps (exec_rdT p t u g), read_empty_traps (exec_rdvT p t u v), read_empty_traps (exec_rdpT p t u m)⟩

/-- Settles O15. -/
theorem moveAndReadResults : Obligations.MoveAndReadResults := ⟨moveResults, emptyRegisterReads⟩

/-- WR, WRV, WRP and RSETC hold their write. -/
theorem registerWritesAreHeld : RegisterWritesAreHeld := fun p g v m =>
  ⟨.of_hold (exec_wr p g) fun s n _ _ h => s.writeReg_first n _ h,
    .of_hold (exec_wrv p v) fun s n _ _ h => s.writeReg_first n _ h,
    .of_hold (exec_wrp p m) fun s n _ _ h => s.writeReg_first n _ h,
    .of_hold (exec_rsetc p) fun s n r _ h => by
      obtain ⟨x, hx⟩ := Option.isSome_iff_exists.1 h.2
      simp [Node.regionOf_of_lt h.1, hx]⟩

/-- A second write of a register, and an undeclared region. -/
theorem registerWriteTraps : RegisterWriteTraps := fun p g v m =>
  ⟨.of_trapHere (exec_wr p g) fun s n _ _ h => s.writeReg_second n _ h,
    .of_trapHere (exec_wrv p v) fun s n _ _ h => s.writeReg_second n _ h,
    .of_trapHere (exec_wrp p m) fun s n _ _ h => s.writeReg_second n _ h,
    .of_trapHere (exec_rsetc p) fun s n r _ h => by simp [Node.regionOf_eq_none.2 h]⟩

/-- Settles O16. -/
theorem registerWrites : Obligations.RegisterWrites := ⟨registerWritesAreHeld, registerWriteTraps⟩

/-- An instruction whose effect is an exit, where none has fired, notes it. -/
theorem leaves_of_exitAs {i : Instr} {ok : Node → SlotRt → Prop} {k : Node → SlotRt → ExitKind} {acts : Node → List Act}
    {eff : State → Node → SlotRt → State} (he : ∀ s, exec i s = .next (s.fire i (eff s)))
    (h : ∀ s n r, ok n r → eff s n r = s.exitAs (k n r) (acts n)) (s : State) (n : Node) (hf : Fires s n i)
    (hx : n.blk.exit = none) (hk : ok n (cur n)) :
    exec i s = .next (s.putHere { n with
      blk := ({ n.blk with
        exit := some (k n (cur n))
        effs := n.blk.effs ++ (if (acts n).isEmpty then [] else [⟨n.slot, 1, n.slot, acts n⟩]) } : Blk).mark n.slot .fired
      issued := false }) := by
  have e : (if (acts n).isEmpty then n.blk.effs else n.blk.effs ++ [⟨n.slot, 1, n.slot, acts n⟩])
      = n.blk.effs ++ (if (acts n).isEmpty then [] else [⟨n.slot, 1, n.slot, acts n⟩]) := by
    split <;> simp
  rw [hf.exec_eq (he s), h s n _ hk, State.exitAs_first _ _ hf.here hx, e]
  rfl

/-- RET with a full g63 that holds the address of a block exits there (R404). -/
theorem ret_place (s : State) {n : Node}
    (h : n.regs.gFull.getLsbD 63 = true ∧ (n.regs.gAt 63).toNat % 16 = 0 ∧ (n.regs.gAt 63).toNat < 2 ^ 56) :
    (if n.regs.gFull.getLsbD 63 then s.exitTo (n.regs.gAt 63) [] else s.retry) = s.exitAs (.goto (n.regs.gAt 63)) [] :=
  (if_pos h.1).trans (s.exitTo_place _ h.2)

/-- The exits note their successor. -/
theorem exitsNoteTheirSuccessor : ExitsNoteTheirSuccessor := fun p disp =>
  ⟨leaves_of_exitAs (ok := fun _ _ => True) (exec_exit p) fun _ _ _ _ => rfl,
    leaves_of_exitAs (ok := fun _ _ => True) (exec_halt p) fun _ _ _ _ => rfl,
    leaves_of_exitAs (exec_br p disp) fun s _ _ h => s.exitTo_place _ h,
    leaves_of_exitAs (exec_bri p) fun s _ _ h => s.exitTo_place _ h,
    leaves_of_exitAs (exec_call p disp) fun s _ _ h => s.exitTo_place _ h,
    leaves_of_exitAs (exec_calli p) fun s _ _ h => s.exitTo_place _ h,
    leaves_of_exitAs (exec_ret p) fun s _ _ h => ret_place s h⟩

/-- An instruction that exits to an address traps where the address is no block's. -/
theorem both_of_exitTo {i : Instr} {ok : Node → Prop} {a : Node → SlotRt → Word} {acts : Node → SlotRt → List Act}
    {eff : State → Node → SlotRt → State} (he : ∀ s, exec i s = .next (s.fire i (eff s)))
    (h : ∀ s n r, ok n → eff s n r = s.exitTo (a n r) (acts n r)) :
    Traps i (fun _ n r => ok n ∧ (a n r).toNat % 16 ≠ 0) .align a ∧
    Traps i (fun _ n r => ok n ∧ (a n r).toNat % 16 = 0 ∧ 2 ^ 56 ≤ (a n r).toNat) .address a :=
  ⟨.of_trapHere he fun s n r _ c => (h s n r c.1).trans (s.exitTo_misaligned _ c.2),
    .of_trapHere he fun s n r _ c => (h s n r c.1).trans (s.exitTo_high _ c.2.1 c.2.2)⟩

/-- The checks of a successor. -/
theorem successorChecks : SuccessorChecks := fun p disp =>
  ⟨both_of_exitTo (exec_br p disp) fun _ _ _ _ => rfl, both_of_exitTo (exec_bri p) fun _ _ _ _ => rfl,
    both_of_exitTo (acts := fun n _ => [.setG 63 n.following]) (exec_call p disp) fun _ _ _ _ => rfl,
    both_of_exitTo (acts := fun n _ => [.setG 63 n.following]) (exec_calli p) fun _ _ _ _ => rfl,
    both_of_exitTo (exec_ret p) fun _ _ _ h => if_pos h⟩

/-- An instruction whose effect is an exit traps where one has fired. -/
theorem second_of_exitAs {i : Instr} {ok : Node → SlotRt → Prop} {k : Node → SlotRt → ExitKind} {acts : Node → List Act}
    {eff : State → Node → SlotRt → State} (he : ∀ s, exec i s = .next (s.fire i (eff s)))
    (h : ∀ s n r, ok n r → eff s n r = s.exitAs (k n r) (acts n)) :
    Traps i (fun _ n r => n.blk.exit ≠ none ∧ ok n r) .exit (fun _ _ => 0) :=
  .of_trapHere he fun s n r hn c => (h s n r c.2).trans (State.exitAs_second _ _ hn c.1)

/-- A second exit that fires. -/
theorem secondExitTraps : SecondExitTraps := fun p disp =>
  ⟨second_of_exitAs (exec_exit p) fun _ _ _ _ => rfl, second_of_exitAs (exec_halt p) fun _ _ _ _ => rfl,
    second_of_exitAs (exec_br p disp) fun s _ _ h => s.exitTo_place _ h,
    second_of_exitAs (exec_bri p) fun s _ _ h => s.exitTo_place _ h,
    second_of_exitAs (acts := fun n => [.setG 63 n.following]) (exec_call p disp) fun s _ _ h => s.exitTo_place _ h,
    second_of_exitAs (acts := fun n => [.setG 63 n.following]) (exec_calli p) fun s _ _ h => s.exitTo_place _ h,
    second_of_exitAs (exec_ret p) fun s _ _ h => ret_place s h⟩

/-- Settles O17. -/
theorem exits : Obligations.Exits := ⟨exitsNoteTheirSuccessor, successorChecks, secondExitTraps⟩

/-- A send of a token that a program may send is held as it leaves (R413). -/
theorem sendSlot_held {s : State} {n : Node} {r : SlotRt} {port : Nat} (ownTag : Bool)
    (h : s.usesOut n port = true ∧ MaySend (sentTok r)) :
    s.sendSlot n r port ownTag = s.hold 3 n.slot [.send port (sentAs (sentTok r)) ownTag] := by
  obtain ⟨hu, hm⟩ := h
  simp only [State.sendSlot, hu, (sendable_iff r).2 hm]
  rfl

/-- A token that no program may send is a block fault (R413). -/
theorem sendSlot_refused {s : State} {n : Node} {r : SlotRt} {port : Nat} (ownTag : Bool)
    (h : s.usesOut n port = true ∧ ¬ MaySend (sentTok r)) : s.sendSlot n r port ownTag = s.trapHere .block 0 := by
  obtain ⟨hu, hm⟩ := h
  simp [State.sendSlot, hu, (sendable_iff r).not.2 hm]

/-- A send on a port that the step does not use is a configuration fault (R411). -/
theorem sendSlot_unused {s : State} {n : Node} {r : SlotRt} {port : Nat} (ownTag : Bool) (h : s.usesOut n port = false) :
    s.sendSlot n r port ownTag = s.trapHere .config 0 := by
  simp [State.sendSlot, h]

/-- The port instructions. -/
theorem portInstructions : PortInstructions := fun p t u port =>
  ⟨.of_emit (exec_recv p t u port) fun s t n r v acts hn h => by
      obtain ⟨rfl, rfl, k, ha, rfl⟩ := h
      exact ⟨hn, State.onToken_arrived _ ha⟩,
    .of_emit (exec_tagof p t u port) fun s t n r v acts hn h => by
      obtain ⟨rfl, rfl, k, ha, rfl⟩ := h
      exact ⟨hn, State.onToken_arrived _ ha⟩,
    .of_hold (exec_send p port) fun _ _ _ _ h => sendSlot_held false h,
    .of_hold (exec_sendt p port) fun _ _ _ _ h => sendSlot_held true h,
    .of_hold (exec_settag p port) fun _ _ _ _ h => if_pos h,
    .of_hold (exec_edgeset p port) fun _ _ _ _ h => by
      simp only [h.1, h.2]
      rfl⟩

/-- The traps of the port instructions. -/
theorem portTraps : PortTraps := fun p t u port =>
  ⟨.of_trapHere (exec_recv p t u port) fun _ _ _ _ h => State.onToken_unused _ h,
    .of_trapHere (exec_tagof p t u port) fun _ _ _ _ h => State.onToken_unused _ h,
    .of_trapHere (exec_send p port) fun _ _ _ _ h => sendSlot_unused false h,
    .of_trapHere (exec_sendt p port) fun _ _ _ _ h => sendSlot_unused true h,
    .of_trapHere (exec_settag p port) fun _ _ _ _ h => by simp [h],
    .of_trapHere (exec_edgeset p port) fun _ _ _ _ h => by simp [h],
    .of_trapHere (exec_edgeset p port) fun _ _ _ _ h => by simp [h],
    .of_trapHere (exec_send p port) fun _ _ _ _ h => sendSlot_refused false h,
    .of_trapHere (exec_sendt p port) fun _ _ _ _ h => sendSlot_refused true h⟩

/-- Settles O18. -/
theorem ports : Obligations.Ports := ⟨portInstructions, portTraps⟩

/-- A matrix slot holds its word with its operands (R299). -/
theorem matSlot_eq (s : State) (n : Node) {i : Instr} {w : Word32} {x : Option Word32} (l r : Option Word)
    (to_ : Option (BitVec 5)) (more : List Act) (h : encode i = some (w, x)) :
    s.matSlot n i l r to_ more = s.hold 3 n.slot (.matrix ⟨w, l, r, true, []⟩ to_ :: more) := by
  simp [State.matSlot, h]

/-- An instruction whose effect is its matrix slot holds its word. -/
theorem holds_of_matSlot {i : Instr} {w : Word32} {x : Option Word32} {l r : SlotRt → Option Word}
    {to_ : SlotRt → Option (BitVec 5)} {more : List Act}
    (he : ∀ s, exec i s = .next (s.fire i fun n o => s.matSlot n i (l o) (r o) (to_ o) more)) (h : encode i = some (w, x)) :
    Holds i free 3 own (fun _ _ o => .matrix ⟨w, l o, r o, true, []⟩ (to_ o) :: more) :=
  .of_hold he fun s n _ _ _ => matSlot_eq s n _ _ _ _ h

/-- Settles O29: each form's effect is its matrix slot. -/
theorem matrixWordsAreHeld : Obligations.MatrixWordsAreHeld := fun p acc oty _ _ =>
  ⟨holds_of_matSlot (exec_mcfg p), holds_of_matSlot (exec_mzero p acc), holds_of_matSlot (exec_mma p acc),
    holds_of_matSlot (exec_mlda p acc), holds_of_matSlot (exec_mdrain p acc oty false),
    holds_of_matSlot (exec_mdrain p acc oty true), holds_of_matSlot (exec_msteer p), holds_of_matSlot (exec_mfence p)⟩

/-- The value of `trap.cause` of a slot and a code in range (R416). -/
theorem causeWord_eq (c : Cause) {slot code : Nat} (hs : slot < 256) (hc : code < 2 ^ 15) :
    causeWord c slot (c = .sysc) code =
      BitVec.ofNat 64 (c.code + 2 ^ 8 * slot + (if c = .sysc then 2 ^ 16 else 0) + 2 ^ 32 * code) := by
  rw [causeWord, Nat.mod_eq_of_lt hs, Nat.mod_eq_of_lt hc]
  by_cases h : c = .sysc <;> simp [h, b2n]

/-- The causes that record their address (R416). -/
theorem hasAddr_eq (c : Cause) (addr : Word) :
    (if c.hasAddr then addr else 0) = if c = .align ∨ c = .address ∨ c = .access then addr else 0 := by
  simp [Cause.hasAddr, or_assoc]

/-- The entry of a context's system handler (R417). -/
theorem sysVec_eq (s : State) (c : BitVec 12) : s.sysVec c = s.mmioAt 0 (0x128000 + 8 * c.toNat) := by
  simp [State.sysVec, ctxOff]

/-- Settles O31: by whether the node is in a handler, and whether one is set. -/
theorem trapTaken : Obligations.TrapTaken := by
  intro s t n c slot code addr epc hn hs hc
  simp only [State.takeTrap, hn, hasAddr_eq, sysVec_eq]
  refine ⟨fun ha hv => ?_, fun ha => ?_, fun ha hv => ?_⟩
  · rw [ha, if_neg Bool.false_ne_true, if_neg hv, Node.enterTrap, causeWord_eq c hs hc, hasAddr_eq]
    rfl
  · rw [if_pos ha]
    simp only [Bool.and_eq_true, decide_eq_true_eq]
    rfl
  · rw [ha, if_neg Bool.false_ne_true, if_pos hv]
    simp only [Bool.and_eq_true, decide_eq_true_eq]
    rfl

end Sys2Proof.Proofs
end

section
/-! SUPPORT. The memory class as its slot fires: the checks of lanes, what an access that ends in a value leaves, and how a load,
a store and an atomic end. -/

namespace Sys2Proof.Machine

open Sys2Proof.Claims

/-- An access that ends in a value leaves the running node as it was. -/
theorem Got.Sound.here {α : Type} {s u : State} {t : Nat} {g : Got α} {v : α} (hg : g.Sound s t) (h : g = .ok v u) :
    u.here = s.here := by
  rw [h] at hg
  exact State.Alike.here hg

/-- A translation that gives an entry leaves the running node as it was. -/
theorem State.xlateNode_here {s u : State} {t : Nat} {n : Node} {va : Word} {kind : AccKind} {e : TlbEnt}
    (h : s.xlateNode t n va kind = (.ok e, u)) : u.here = s.here :=
  ((State.Kept.refl s).xlateNode h).here

/-- What a leader forwards leaves the running node as it was. -/
theorem here_seen (s : State) (n : Node) (x : Vec) : (seen s n x).here = s.here := s.forward_here n _ x

theorem here_seenIf (sv : Bool) (s : State) (n : Node) (x : Vec) : (seenIf sv s n x).here = s.here := by
  cases sv
  · rfl
  · exact here_seen s n x

/-! ### Lanes -/

theorem misaligned_eq_none {l : List LaneAt} (h : Sound l) : misaligned l = none :=
  List.find?_eq_none.2 fun x hx => by simp [(h x hx).1]

theorem tooHigh_eq_none {l : List LaneAt} (h : Sound l) : tooHigh l = none :=
  List.find?_eq_none.2 fun x hx => by simpa using (h x hx).2

/-- A node that is no shadow makes every access of a load (R97). -/
theorem State.loadShared_lead {s : State} {t : Nat} {n : Node} (h : n.shadow = false) (lsid : Nat) (way : LoadWay)
    (l : List (Nat × Word32)) : s.loadShared t n lsid way l = s.loadLines t n lsid way l := by
  cases l with
  | nil => rfl
  | cons a l => rw [State.loadShared, h, if_pos (by rfl)]

/-- What a load leaves for the commit. -/
theorem loadActs_eq (a : Attr) (seen : List (Nat × Word)) : loadActs a seen = acquires a seen := by
  cases h : a.ord.acq <;> simp [loadActs, acquires, h, List.isEmpty_iff]

/-- The value that a load delivers. -/
def loadVal (vec : Bool) (x : Vec) : Val := if vec then .vector x else .scalar (x.setWidth 64)

/-- A load of a node that is no shadow ends in its value, forwarded where a page of it is shared-volatile (R97, R380). -/
theorem State.loadEnd_lead (s0 s : State) {n : Node} (i : Instr) (a : Attr) (lsid : Nat) (lanes : List LaneAt) (m : Tbl Vec)
    (shared vec : Bool) (x : Vec) (h : n.shadow = false) :
    s0.loadEnd s n i a lsid lanes m shared vec x =
      ((seenIf shared s n x).withActs 2 lsid (acquires a (n.countersIn lanes m))).emit i (loadVal vec x) := by
  rw [State.loadEnd, h, Bool.and_false, if_neg Bool.false_ne_true]
  show ((if (loadActs _ _).isEmpty then _ else State.withEff _ _ _ (loadActs _ _)) : State).emit i (loadVal vec x) = _
  rw [loadActs_eq]
  rfl

/-- The vector register's worth of a load's lanes: as a scalar in its low bits, or by lanes (R181). -/
def loadedVec (a : Attr) (vec : Bool) (lanes : List LaneAt) (m : Tbl Vec) : Vec :=
  if vec then
    ofLanes fun k => match lanes.find? fun y => y.ix = k with
      | some y => extendLane a.ty (laneRaw m y)
      | none => 0
  else match lanes with
    | y :: _ => (extendTo a.ty (laneRaw m y)).setWidth 1024
    | [] => 0

/-- A load whose lanes are sound, whose stores are done and whose lines are there ends in its value (R176, R178, R181). -/
theorem State.loadSlots_ok {s t : State} {n : Node} (i : Instr) (a : Attr) {lsid : Nat} {ea : Word} {way : LoadWay}
    {own vec : Bool} {align : Nat} {lanes : List LaneAt} {m : Tbl Vec} {sv : Bool} (hn : n.shadow = false)
    (ha : own = false → ea.toNat % align = 0) (hd : n.blk.storesDone lsid = true) (hl : Sound lanes)
    (h : s.loadLines s.focus n lsid way (lanesByLine lanes) = .ok (m, sv) t) :
    s.loadSlots n i a lsid ea way own vec align lanes = s.loadEnd t n i a lsid lanes m sv vec (loadedVec a vec lanes m) := by
  have hal : (!own && decide (ea.toNat % align ≠ 0)) = false := by
    cases own
    · simp [ha rfl]
    · rfl
  rw [State.loadSlots, hal, hd, misaligned_eq_none hl, tooHigh_eq_none hl, State.loadShared_lead hn, h]
  rfl

theorem State.loadSlots_here {s t : State} {n : Node} {lsid : Nat} {way : LoadWay} {l : List (Nat × Word32)} {m : Tbl Vec × Bool}
    (h : s.loadLines s.focus n lsid way l = .ok m t) : t.here = s.here :=
  (State.loadLines_sound lsid way l).here h

/-- A store whose lanes are sound and translated is held under its LSID (R176, R177, R182). -/
theorem State.storeSlots_ok {s t : State} {n : Node} (a : Attr) (lsid : Nat) {ea : Word} {own : Bool} {align : Nat}
    {lanes : List LaneAt} (val : Nat → Nat) {pas : List Nat} (ha : own = false → ea.toNat % align = 0) (hl : Sound lanes)
    (h : s.xlateLanes s.focus n lanes = .ok pas t) :
    s.storeSlots n a lsid ea own align lanes val = t.hold 2 lsid (storing lsid a lanes pas val) := by
  have hal : (!own && decide (ea.toNat % align ≠ 0)) = false := by
    cases own
    · simp [ha rfl]
    · rfl
  rw [State.storeSlots, hal, misaligned_eq_none hl, tooHigh_eq_none hl, h]
  rfl

end Sys2Proof.Machine
end

section
/-! SUPPORT. The ends of a scalar load, of a vector load, of a round load and of a load of an MMIO register. -/

namespace Sys2Proof.Machine

open Sys2Proof.Claims

/-- A scalar in the low bits of a vector is read back. -/
theorem loadVal_scalar (x : Word) : loadVal false (x.setWidth 1024) = .scalar x := by
  simp [loadVal, BitVec.setWidth_setWidth_of_le]

/-- A sound scalar load delivers its extended bytes (R181). -/
theorem State.loadSlots_one {s t : State} {n : Node} (i : Instr) (a : Attr) {lsid es : Nat} {ea : Word} {way : LoadWay}
    {m : Tbl Vec} {sv : Bool} (hn : n.shadow = false) (hd : n.blk.storesDone lsid = true) (hl : Sound [⟨0, ea.toNat, es⟩])
    (h : s.loadLines s.focus n lsid way (lanesByLine [⟨0, ea.toNat, es⟩]) = .ok (m, sv) t) :
    let x := a.ty.ext (BitVec.ofNat a.ty.width (laneRaw m ⟨0, ea.toNat, es⟩))
    s.loadSlots n i a lsid ea way false false es [⟨0, ea.toNat, es⟩] =
      ((seenIf sv t n (x.setWidth 1024)).withActs 2 lsid (acquires a (n.countersIn [⟨0, ea.toNat, es⟩] m))).emit i (.scalar x) := by
  intro x
  rw [State.loadSlots_ok i a hn (fun _ => (hl _ (List.mem_singleton.2 rfl)).1) hd hl h, State.loadEnd_lead _ _ _ _ _ _ _ _ _ _ hn, ← loadVal_scalar]
  rfl

/-- A sound vector load delivers the extended bytes of its lanes (R181, R183). -/
theorem State.loadSlots_all {s t : State} {n : Node} (i : Instr) (a : Attr) {lsid align : Nat} {ea : Word} {way : LoadWay}
    {own : Bool} {lanes : List LaneAt} {m : Tbl Vec} {sv : Bool} (hn : n.shadow = false)
    (ha : own = false → ea.toNat % align = 0) (hd : n.blk.storesDone lsid = true) (hl : Sound lanes)
    (h : s.loadLines s.focus n lsid way (lanesByLine lanes) = .ok (m, sv) t) :
    s.loadSlots n i a lsid ea way own true align lanes =
      ((seenIf sv t n (loaded a.ty m lanes).vec).withActs 2 lsid (acquires a (n.countersIn lanes m))).emit i (loaded a.ty m lanes) := by
  rw [State.loadSlots_ok i a hn ha hd hl h, State.loadEnd_lead _ _ _ _ _ _ _ _ _ _ hn]
  rfl

/-- A round load that has its line delivers the extended bytes there (R185). -/
theorem State.roundEnd_lead (s0 : State) {t : State} {n : Node} (i : Instr) (a : Attr) (lsid : Nat) (always : Bool) (y : RoundGot)
    (hn : n.shadow = false) :
    let l : LaneAt := ⟨0, y.va, a.ty.bytes⟩
    let m : Tbl Vec := [(y.va / 128, y.line)]
    let x := a.ty.ext (BitVec.ofNat a.ty.width (laneRaw m l))
    s0.roundEnd n i a lsid always (.ok y t) =
      ((seenIf (y.sv || (always && n.repMode ≠ 1)) t n (x.setWidth 1024)).withActs 2 lsid (acquires a (n.countersIn [l] m))).emit i
        (.scalar x) := by
  simp only [State.roundEnd]
  rw [State.loadEnd_lead _ _ _ _ _ _ _ _ _ _ hn, ← loadVal_scalar]
  rfl

/-- A read of a register at its home gives the register's bytes (R6). -/
theorem State.homeRead_mmio {s t : State} {d h off pa : Nat} {m : Master} (hh : s.home d pa = .mmio h off) (ho : off % 8 = 0)
    (hp : s.permit d m pa 1 = (true, t)) (lru : Bool) :
    s.homeRead d m pa 8 lru = (.ok (toBytes (t.mmioRead h off).toNat 8), t) := by
  simp [State.homeRead, hh, hp, ho]

/-- The registers that a node's stores of MMIO still hold: none where none waits. -/
theorem Window.reg_nil {w : Window} (h : w.mmio = []) (pa : Nat) : w.reg pa = none := by
  simp [Window.reg, h]

/-- A load of an MMIO register for which no store waits delivers it (R6, R450). -/
theorem State.loadMmio_ok {s t : State} {n : Node} (i : Instr) (a : Attr) {lsid pa h off : Nat} (ea : Word) (sv : Bool)
    (hn : n.shadow = false) (hb : a.ty.bytes = 8) (hh : s.home (dieOf n.tile) pa = .mmio h off) (ho : off % 8 = 0)
    (hp : s.permit (dieOf n.tile) n.master pa 1 = (true, t)) (hs : n.blk.storesBelow lsid = []) (hw : n.win.mmio = []) :
    let x := t.mmioRead h off
    s.loadMmio n i a lsid ea pa sv =
      ((seenIf sv t n (x.setWidth 1024)).withActs 2 lsid (acquires a [])).emit i (.scalar x) := by
  have hc : n.countersIn [] [] = [] := by
    simp only [Node.countersIn, List.any_nil, List.map_eq_nil_iff, List.filter_eq_nil_iff]
    exact fun _ _ => by decide
  have hx : ofBytes (toBytes (t.mmioRead h off).toNat 8) = (t.mmioRead h off).toNat := by
    rw [ofBytes_toBytes]
    exact Nat.mod_eq_of_lt (t.mmioRead h off).isLt
  have hv : BitVec.ofNat 1024 (t.mmioRead h off).toNat = (t.mmioRead h off).setWidth 1024 := by
    simp
  simp only [State.loadMmio, hn, Bool.and_false, hb, State.homeRead_mmio hh ho hp, hs, List.flatMap_nil, List.filter_nil, List.getLast?_nil,
    Window.reg_nil hw, Option.map_none, Option.getD_none]
  rw [if_neg Bool.false_ne_true]
  simp only
  rw [State.loadEnd_lead _ _ _ _ _ _ _ _ _ _ hn, hc, hx, hv, loadVal_scalar]

/-- The slot 0 that a round load addresses (R169). -/
theorem Node.roundSlot0_eq {n : Node} {k : Nat} {ea : Word} {g : RoundRegion} (h : Tbl.get? k n.rounds = some g)
    (hb : g.base ≤ ea.toNat) (he : ea.toNat < g.base + g.len) : n.roundSlot0 k ea = some g := by
  simp [Node.roundSlot0, h, hb, he]

end Sys2Proof.Machine
end

section
/-! The memory class. -/

namespace Sys2Proof.Proofs

open Sys2Proof.Machine Sys2Proof.Claims

/-- A mask register that is read is full. -/
theorem maskFull_of {n : Node} {k : LaneMask} (h : k.m = true → n.regs.pFull.getLsbD k.p.toNat = true) : maskFull n k = true := by
  cases hm : k.m
  · simp [maskFull, hm]
  · simp [maskFull, h hm]

/-- Settles O19: the lines of a sound load give its value. -/
theorem loadsDeliver : Obligations.LoadsDeliver := by
  intro p t w a k sc
  refine ⟨.of_emit (exec_ld p t w a) fun s u n r v acts hh h => ?_, .of_emit (exec_ldk p t w a false k) fun s u n r v acts hh h => ?_,
    .of_emit (exec_ldk p t w a true k) fun s u n r v acts hh h => ?_, .of_emit (exec_ldv p t w a k) fun s u n r v acts hh h => ?_,
    .of_emit (exec_ldvg p t w a k sc) fun s u n r v acts hh h => ?_⟩
  · obtain ⟨e, s1, hx, hm, m, sv, t1, x, ⟨hn, hd, hl, hld⟩, rfl, rfl, rfl, rfl⟩ := h
    have ha : (effAddr r.l w.off a.ty.bytes).toNat % a.ty.bytes = 0 := (hl _ (List.mem_singleton.2 rfl)).1
    refine ⟨(here_seenIf ..).trans ((State.loadSlots_here hld).trans ((State.xlateNode_here hx).trans hh)), ?_⟩
    have hx' : s.xlateNode s.focus n (effAddr r.l w.off a.ty.bytes) .read = (.ok e, s1) := hx
    have hm' : s1.isMmio (e.phys (effAddr r.l w.off a.ty.bytes).toNat) = false := hm
    simp only [ha, hd, hx', hm']
    exact State.loadSlots_one _ a hn hd hl hld
  · obtain ⟨m, sv, t1, x, ⟨hn, hd, hl, hld⟩, rfl, rfl, rfl, rfl⟩ := h
    exact ⟨(here_seenIf ..).trans ((State.loadSlots_here hld).trans hh), State.loadSlots_one _ a hn hd hl hld⟩
  · obtain ⟨ha, hf, m, sv, t1, ⟨hn, hd, hl, hld⟩, rfl, rfl, rfl⟩ := h
    refine ⟨(here_seenIf ..).trans ((State.loadSlots_here hld).trans hh), ?_⟩
    simp only [maskFull_of hf]
    exact State.loadSlots_all _ a hn (fun _ => ha) hd hl hld
  · obtain ⟨ha, hf, m, sv, t1, ⟨hn, hd, hl, hld⟩, rfl, rfl, rfl⟩ := h
    refine ⟨(here_seenIf ..).trans ((State.loadSlots_here hld).trans hh), ?_⟩
    simp only [maskFull_of hf]
    exact State.loadSlots_all _ a hn (fun _ => ha) hd hl hld
  · obtain ⟨hf, m, sv, t1, ⟨hn, hd, hl, hld⟩, rfl, rfl, rfl⟩ := h
    refine ⟨(here_seenIf ..).trans ((State.loadSlots_here hld).trans hh), ?_⟩
    simp only [maskFull_of hf]
    exact State.loadSlots_all _ a (own := true) (align := a.ty.bytes) hn (fun h => Bool.noConfusion h) hd hl hld

/-- LDB and LDN deliver what the round's slot holds. -/
theorem roundLoadsDeliver : RoundLoadsDeliver := by
  intro p t w a k
  refine ⟨.of_emit (exec_ldb p t w a k) fun s u n r v acts hh h => ?_, .of_emit (exec_ldn p t w a k) fun s u n r v acts hh h => ?_⟩
  · obtain ⟨g, y, t1, ⟨hn, ha, hb, hd, hg, hl, hu⟩, hr, hld, x, rfl, rfl, rfl, rfl⟩ := h
    refine ⟨(here_seenIf ..).trans (((State.loadBounded_sound ..).here hld).trans hh), ?_⟩
    have hs : n.roundSlot0 k.toNat (effAddr r.l w.off a.ty.bytes) = some g := Node.roundSlot0_eq hg hl hu
    simp only [if_neg (show ¬ (effAddr r.l w.off a.ty.bytes).toNat % a.ty.bytes ≠ 0 from not_not.2 ha),
      if_neg (show ¬ 2 ^ 56 ≤ (effAddr r.l w.off a.ty.bytes).toNat from not_le.2 hb), if_neg (not_lt.2 hr), hs, hd]
    refine (congrArg (State.roundEnd s n _ a w.lsid.toNat true) hld).trans ?_
    rw [State.roundEnd_lead s _ a _ true y hn, Bool.true_and]
  · obtain ⟨g, y, t1, ⟨hn, ha, hb, hd, hg, hl, hu⟩, hld, x, rfl, rfl, rfl, rfl⟩ := h
    refine ⟨(here_seenIf ..).trans (((State.loadExact_sound ..).here hld).trans hh), ?_⟩
    have hs : n.roundSlot0 k.toNat (effAddr r.l w.off a.ty.bytes) = some g := Node.roundSlot0_eq hg hl hu
    simp only [if_neg (show ¬ (effAddr r.l w.off a.ty.bytes).toNat % a.ty.bytes ≠ 0 from not_not.2 ha),
      if_neg (show ¬ 2 ^ 56 ≤ (effAddr r.l w.off a.ty.bytes).toNat from not_le.2 hb), hs, hd]
    refine (congrArg (State.roundEnd s n _ a w.lsid.toNat false) hld).trans ?_
    rw [State.roundEnd_lead s _ a _ false y hn, Bool.false_and, Bool.or_false]

/-- LD of a register delivers it. -/
theorem mmioLoadsDeliver : MmioLoadsDeliver := by
  intro p t w a
  refine .of_emit (exec_ld p t w a) fun s u n r v acts hh h => ?_
  obtain ⟨e, s1, b, t1, hm, off, hn, hd, h8, ha, hx, hi, hom, ho, hp, rfl, hs, hw, rfl, rfl, rfl⟩ := h
  have hx' : s.xlateNode s.focus n (effAddr r.l w.off a.ty.bytes) .read = (.ok e, s1) := hx
  have hi' : s1.isMmio (e.phys (effAddr r.l w.off a.ty.bytes).toNat) = true := hi
  have ha' : (effAddr r.l w.off a.ty.bytes).toNat % a.ty.bytes = 0 := by
    have ha8 : (effAddr r.l w.off a.ty.bytes).toNat % 8 = 0 := ha
    exact h8 ▸ ha8
  have hk : s1.Kept t1 := by
    have := (State.Kept.refl s1).permit (d := dieOf n.tile) (m := n.master) (pa := e.phys (ea r.l w.off a.ty.bytes).toNat) (need := 1)
    rwa [hp] at this
  refine ⟨(here_seenIf ..).trans (hk.here.trans ((State.xlateNode_here hx).trans hh)), ?_⟩
  simp only [ha', hd, hx', hi']
  exact State.loadMmio_ok _ a _ _ hn h8 hom ho hp hs hw

/-- Settles O20. -/
theorem roundAndMmioLoads : Obligations.RoundAndMmioLoads := ⟨roundLoadsDeliver, mmioLoadsDeliver⟩

/-- Settles O21: sound lanes that are translated are held. -/
theorem storesAreHeld : Obligations.StoresAreHeld := by
  intro p w a k stride
  refine ⟨.of_hold (exec_st p w a) fun s u n r acts hh h => ?_, .of_hold (exec_stv p w a k) fun s u n r acts hh h => ?_,
    .of_hold (exec_stvs p w a k stride) fun s u n r acts hh h => ?_⟩
  · obtain ⟨hl, pas, hx, rfl⟩ := h
    exact ⟨((State.xlateLanes_sound _).here hx).trans hh,
      State.storeSlots_ok a _ _ (fun _ => (hl _ (List.mem_singleton.2 rfl)).1) hl hx⟩
  · obtain ⟨hf, ha, hl, pas, hx, rfl⟩ := h
    refine ⟨((State.xlateLanes_sound _).here hx).trans hh, ?_⟩
    simp only [maskFull_of hf, Bool.not_true, Bool.false_eq_true, if_false]
    exact State.storeSlots_ok a _ _ (fun _ => ha) hl hx
  · obtain ⟨hf, hl, pas, hx, rfl⟩ := h
    refine ⟨((State.xlateLanes_sound _).here hx).trans hh, ?_⟩
    simp only [maskFull_of hf, Bool.not_true, Bool.false_eq_true, if_false]
    exact State.storeSlots_ok a _ (own := true) (align := a.ty.bytes) _ (fun h => Bool.noConfusion h) hl hx

/-- An atomic whose aligned address is translated is held (R186 to R188). -/
theorem atomSlot_ok {s t : State} {n : Node} (i : Instr) {w : MOff} (a : Attr) (op : AtomOp) {es : Nat} {left right third : Word}
    (ret : Option (BitVec 6)) (stream : Option (BitVec 16)) {e : TlbEnt} (ha : (ea left w.off es).toNat % es = 0)
    (h : s.xlateNode s.focus n (ea left w.off es) .write = (.ok e, t)) :
    s.atomSlot n i w a op es left right third ret stream =
      let at_ : Word := ea left w.off es
      let hold := a.ord.rel || a.ord.acq
      t.hold 2 w.lsid.toNat (relActs n a.ord.rel (actionChunks i at_ right ++ (if op = .cas then [(at_, third)] else [])) ++
        [.drainIf (e.phys at_.toNat) es, .ownAtom at_.toNat (e.phys at_.toNat) a.ty op right third ret stream hold] ++
        (if hold then [.awaitReply (if a.ord.acq then some (a.scope, at_.toNat) else none)] else [])) := by
  have ha' : (effAddr left w.off es).toNat % es = 0 := ha
  have h' : s.xlateNode s.focus n (effAddr left w.off es) .write = (.ok e, t) := h
  simp only [State.atomSlot, if_neg (not_not.2 ha'), h']
  rfl

/-- Settles O22: an aligned address that is translated is held. -/
theorem atomicsAreHeld : Obligations.AtomicsAreHeld := by
  intro p w a op re toV k sel stream
  refine ⟨.of_hold (exec_lda p w a toV k) fun s u n r acts hh h => ?_, .of_hold (exec_atom w a op re k) fun s u n r acts hh h => ?_,
    .of_hold (exec_atomo p w a op sel stream) fun s u n r acts hh h => ?_⟩
  · obtain ⟨e, ha, hx, rfl⟩ := h
    have ha' : (effAddr r.l w.off ((if toV then 32 else 1) * a.ty.bytes)).toNat % ((if toV then 32 else 1) * a.ty.bytes) = 0 := ha
    have hx' : s.xlateNode s.focus n (effAddr r.l w.off ((if toV then 32 else 1) * a.ty.bytes)) .read = (.ok e, u) := hx
    refine ⟨(State.xlateNode_here hx).trans hh, ?_⟩
    simp only [if_neg (not_not.2 ha'), hx']
    rfl
  · obtain ⟨e, ha, hx, rfl⟩ := h
    exact ⟨(State.xlateNode_here hx).trans hh, atomSlot_ok _ a op _ _ ha hx⟩
  · obtain ⟨e, ha, hx, rfl⟩ := h
    exact ⟨(State.xlateNode_here hx).trans hh, atomSlot_ok _ a op _ _ ha hx⟩

end Sys2Proof.Proofs
end

section
/-! SUPPORT. A node whose retried request comes at an address that translates for nobody. -/

namespace Sys2Proof.Machine

open Sys2Proof.Claims

/-- The state of a die but for the requests that it waits to see come again stays in a trap. -/
theorem State.takeTrap_dies (s : State) (t : Nat) (c : Cause) (slot code : Nat) (addr epc : Word) :
    (s.takeTrap t c slot code addr epc).dies = s.dies := by
  rcases s.takeTrap_cases t c slot code addr epc with e | ⟨n, vec, -, -, e⟩ | ⟨n, r, pc, -, e⟩
  · rw [e]
  · rw [e]; rfl
  · rw [e]; rfl

/-- An instruction at slot 0 whose left operand is 2^56. -/
def highNode : Node :=
  { Node.start 0 0 0 0 with
    blk := { Blk.empty with slots := vset Blk.empty.slots 0 ⟨some (.scalar 0x100000000000000), none, none, .waiting, 0⟩ } }

/-- The state with that node, whose die waits to see its request come again after a resumption. -/
def highState : State :=
  { State.reset with
    focus := 0
    nodes := [(0, highNode)]
    dies := vset State.reset.dies 0 { Die.reset with thawed := [.node 0] } }

/-- LDA to g7, with no offset. -/
def highLoad : Instr := .lda .always ⟨0, 0⟩ ⟨.n64, .normal, .dev, ⟨false, false⟩⟩ false 7

theorem highState_fires : Fires highState highNode highLoad := ⟨rfl, by decide, .inl rfl⟩

/-- Its trap stands in the state whose die has seen the request. -/
theorem exec_highLoad : ∃ c a, exec highLoad highState = .next ((highState.reissued 0 (.node 0)).trapHere c a) := by
  refine ⟨.address, 0x100000000000000, ?_⟩
  rw [highState_fires.exec_eq (exec_lda _ _ _ _ _ _)]
  rfl

theorem highState_thawed : (highState.die 0).thawed = [.node 0] := by decide

theorem reissued_highState_thawed : ((highState.reissued 0 (.node 0)).die 0).thawed = [] := by decide

end Sys2Proof.Machine
end

section
/-! Address faults, fences, hints, privilege, and the system instructions. -/

namespace Sys2Proof.Proofs

open Sys2Proof.Machine Sys2Proof.Claims

/-- Refutes O23: LDA of an address at or above 2^56 asks for a translation before it traps, and a die that waited to see that
request come again (R95, R96) waits for it no more: the state after the trap is not that before it with the trap alone. -/
theorem not_memoryAddressTraps : ¬ Obligations.MemoryAddressTraps := by
  intro h
  obtain ⟨-, -, -, -, -, -, -, -, -, -, -, -, -, -, hi, -⟩ :=
    h .always 0 ⟨0, 0⟩ ⟨.n64, .normal, .dev, ⟨false, false⟩⟩ ⟨false, 0⟩ 7 .add false 0 0
  have e := hi highState highNode highState_fires ⟨trivial, by decide, by decide⟩
  obtain ⟨c, a, e'⟩ := exec_highLoad
  have hd : (highState.takeTrap 0 _ _ _ _ _).die 0 = ((highState.reissued 0 (.node 0)).trapHere c a).die 0 :=
    congrArg (State.die · 0) (Host.Outcome.next.inj (e.symm.trans e'))
  rw [State.trapHere_eq _ highNode _ _ rfl] at hd
  simp only [State.die, State.takeTrap_dies] at hd
  exact absurd (highState_thawed.symm.trans ((congrArg Die.thawed hd).trans reissued_highState_thawed)) (by decide)

/-- Settles O24: each hint's effect is what it holds, and RETAIN's range ends with its page. -/
theorem fencesAndHintsAreHeld : Obligations.FencesAndHintsAreHeld := by
  intro p sc acq rel fk fe w a level kind k ways
  refine ⟨.of_hold (exec_fence p sc acq rel fk fe) fun _ _ _ _ _ => rfl, .of_hold (exec_pref p w a level) fun _ _ _ _ _ => rfl,
    .of_hold (exec_tlbpf p w a level) fun _ _ _ _ _ => rfl, .of_hold (exec_ipf p w a level) fun _ _ _ _ _ => rfl,
    .of_hold (exec_ipin p w a level) fun _ _ _ _ _ => rfl, .of_hold (exec_iunpin p w a level) fun _ _ _ _ _ => rfl,
    .of_hold (exec_cwb p w a level) fun _ _ _ _ _ => rfl, .of_hold (exec_cinv p w a kind) fun s n r _ h => ?_,
    .of_hold (exec_unretain p w a k) fun s n r _ h => by simp [h]; rfl,
    .of_hold (exec_retain p w a k ways) fun s t n r acts hh h => ?_⟩
  · have hk : (decide (kind = .code) && !n.priv) = false := by
      by_cases hc : kind = .code <;> simp [hc, h]
    simp only [hk]
    rfl
  · obtain ⟨e, lines, ok, ho, hx, rfl, rfl, hok⟩ := h
    have hx' : s.xlateNode s.focus n (effAddr r.l w.off 1) .read = (.ok e, t) := hx
    refine ⟨(State.xlateNode_here hx).trans hh, ?_⟩
    simp only [ho, hx', Bool.not_true, Bool.false_eq_true, if_false]
    refine congrArg (fun o => t.hold 3 n.slot [Act.retain k.toNat ways.toNat _ _ o]) (Bool.eq_iff_iff.2 (Iff.trans ?_ hok.symm))
    simp [ea, effAddr, and_assoc]

/-- Settles O25: the check of privilege or of the window's owner comes first. -/
theorem privilegeTraps : Obligations.PrivilegeTraps := by
  intro p t w a k ways r
  have priv (h : 0xF00 ≤ r.toNat) : sysPrivRange r = true := decide_eq_true h
  refine ⟨.of_trapHere (exec_cinv p w a .code) fun _ _ _ _ h => by simp [h],
    .of_trapHere (exec_retain p w a k ways) fun _ _ _ _ h => by simp [h],
    .of_trapHere (exec_unretain p w a k) fun _ _ _ _ h => by simp [h],
    fun h1 h2 hk => .of_trapHere (exec_mts p r) fun s n _ _ h => ?_, fun h => ⟨.of_trapHere (exec_mfs p t r) fun _ _ _ _ c => ?_,
      .of_trapHere (exec_mts p r) fun _ _ _ _ c => ?_, .of_trapHere (exec_mfs p t r) fun _ _ _ _ c => ?_,
      .of_trapHere (exec_mts p r) fun _ _ _ _ c => ?_⟩⟩
  · have hp : sysPrivRange r = false := decide_eq_false (by omega)
    simp [hp, h1, h2, hk, h]
  all_goals simp [priv h, c]

/-- Where the privileged range does not reach (R35). -/
theorem sysPrivRange_eq_false {r : BitVec 12} (h : r.toNat < 0xF00) : sysPrivRange r = false := decide_eq_false (by omega)

/-- The first trap slot of a block that has where to go is held for step 4 (R420). -/
theorem trapSlot_first {s : State} {n : Node} {k : TrapKind} (code : BitVec 15) (h : ∀ e ∈ n.blk.effs, e.step ≠ 4)
    (hk : k = .sysc → s.sysVec n.ctx ≠ 0) : s.trapSlot n k code = s.hold 4 n.slot [.trap k code n.slot] := by
  have h4 : (n.blk.effs.any fun e => e.step = 4) = false := by simpa using h
  have hv : (decide (k = .sysc) && decide (s.sysVec n.ctx = 0)) = false :=
    Bool.and_eq_false_imp.2 fun hc => decide_eq_false (hk (of_decide_eq_true hc))
  rw [State.trapSlot, h4, hv]
  rfl

/-- A second trap slot raises the block fault (R420). -/
theorem trapSlot_second {s : State} {n : Node} (k : TrapKind) (code : BitVec 15) (h : ∃ e ∈ n.blk.effs, e.step = 4) :
    s.trapSlot n k code = s.trapHere .block 0 := by
  have h4 : (n.blk.effs.any fun e => e.step = 4) = true := by simpa using h
  simp [State.trapSlot, h4]

/-- TRAP and BKPT: the first of a block is held, and a second one traps. -/
theorem traps_of_trapSlot {i : Instr} {k : TrapKind} {code : BitVec 15} (hk : k ≠ .sysc)
    (he : ∀ s, exec i s = .next (s.fire i fun n _ => s.trapSlot n k code)) :
    Holds i (fun _ n _ => ∀ e ∈ n.blk.effs, e.step ≠ 4) 4 own (fun _ n _ => [.trap k code n.slot]) ∧
    Traps i (fun _ n _ => ∃ e ∈ n.blk.effs, e.step = 4) .block (fun _ _ => 0) :=
  ⟨.of_hold he fun _ _ _ _ h => trapSlot_first code h fun hc => absurd hc hk,
    .of_trapHere he fun _ _ _ _ h => trapSlot_second k code h⟩

/-- A value that a node that is no shadow observes is delivered, forwarded to its replicas (R380). -/
theorem observe_emit {s0 s : State} {n : Node} (i : Instr) (x : Word) (h : n.shadow = false) :
    State.observe s0 s n x (fun x s => s.emit i (.scalar x)) = (seen s n (x.setWidth 1024)).emit i (.scalar x) :=
  State.observe_lead s0 s n x _ h

/-- Settles O30. -/
theorem systemInstructions : Obligations.SystemInstructions := by
  intro p t u code r
  have hv (s : State) (n : Node) : s.sysVec n.ctx = s.mmioAt 0 (0x128000 + 8 * n.ctx.toNat) := by simp [State.sysVec, ctxOff]
  refine ⟨traps_of_trapSlot (by decide) (exec_trap p code), traps_of_trapSlot (by decide) (exec_bkpt p code),
    .of_hold (exec_sysc p code) fun s n _ _ h => trapSlot_first code h.1 fun _ => hv s n ▸ h.2, fun s n hf h1 h0 => ?_,
    .of_trapHere (exec_sysc p code) fun _ _ _ _ h => trapSlot_second .sysc code h,
    fun hr => .of_emit (exec_mfs p t r) fun s _ n _ v acts hh h => ?_, fun hr => .of_hold (exec_mts p r) fun s n _ _ h => ?_,
    .of_hold (exec_mark p) fun _ _ _ _ _ => rfl, .of_hold (exec_sigchk p) fun _ _ _ _ _ => rfl,
    .of_emit (exec_rndr p t u) fun s _ n _ v acts hh h => ?_, .of_hold (exec_cycw p) fun s n o _ h => ?_,
    .of_trapHere (exec_cycw p) fun s n o _ h => ?_, .of_hold (exec_cfgsw p) fun s n _ _ h => ?_,
    .of_trapHere (exec_cfgsw p) fun s n _ _ h => ?_⟩
  · have h4 : (n.blk.effs.any fun e => e.step = 4) = false := by simpa using h1
    rw [hf.exec_eq (exec_sysc p code s)]
    simp [State.trapSlot, h4, hv, h0]
  · obtain ⟨hn, rfl, rfl, rfl⟩ := h
    refine ⟨(here_seenIf ..).trans hh, ?_⟩
    simp only [sysPrivRange_eq_false hr]
    rw [State.withActs_nil]
    cases hc : (decide (r = 0x101) || (decide (r = 0x100) && !s.fixedAt n))
    · rfl
    · exact observe_emit _ _ hn
  · have hk : (decide (0x400 ≤ r.toNat) && decide (r.toNat ≤ 0x417) && !s.ownsWindow (dieOf n.tile) (r.toNat % 8) n.ctx) = false := by
      by_cases h1 : 0x400 ≤ r.toNat
      · by_cases h2 : r.toNat ≤ 0x417
        · simp [h h1 h2]
        · simp [h2]
      · simp [h1]
    simp only [sysPrivRange_eq_false hr, hk]
    rfl
  · obtain ⟨hn, rfl, rfl, rfl⟩ := h
    exact ⟨(here_seen ..).trans hh, observe_emit _ _ hn⟩
  · have hk : (s.fixedAt n && decide (o.l < n.cyc)) = false := by
      cases hx : s.fixedAt n
      · rfl
      · simpa using h hx
    simp only [hk]
    rfl
  · simp only [h.1, h.2, decide_true, Bool.and_self, if_true]
  · obtain ⟨ht, g, hg, hs, hl⟩ := h
    simp [hg, ht, hs, not_le.2 hl]
    rfl
  · cases hg : Tbl.get? n.region s.regions
    · rfl
    · simp [Option.isSome_iff_ne_none.2 h]

end Sys2Proof.Proofs
end

section
/-! SUPPORT. Descriptors, counters and rings as a slot fires. -/

namespace Sys2Proof.Machine

open Sys2Proof.Claims

/-- A descriptor whose checks pass holds its command (R197, R200). -/
theorem State.descSlot_ok {s t : State} {n : Node} (eng : Nat) (op : EngOp) {va : Word} {ok : State → List Word → Bool}
    {m : Tbl Vec} {sv : Bool} (ha : va.toNat % 64 = 0) (hb : va.toNat < 2 ^ 56)
    (h : s.loadLines s.focus n 0 (.ordinary .normal) (descLines va) = .ok (m, sv) t) (hk : ok t (descOf m va) = true) :
    s.descSlot n eng op va ok =
      t.hold 3 n.slot (.sign (descStore va (descOf m va)) :: relActs n false [] ++ [.command eng (n.cmd op (descOf m va))]) := by
  have hw : ((List.range 8).map fun k => (⟨k, va.toNat + 8 * k, 8⟩ : LaneAt)).map (fun x => BitVec.ofNat 64 (laneRaw m x))
      = descOf m va := List.map_map
  have hl : s.loadLines s.focus n 0 (.ordinary .normal)
      (lanesByLine ((List.range 8).map fun k => (⟨k, va.toNat + 8 * k, 8⟩ : LaneAt))) = .ok (m, sv) t := h
  rw [State.descSlot, if_neg (not_not.2 ha), if_neg (not_le.2 hb)]
  simp only [hl, Got.on, hw, hk]
  rfl

/-- A misaligned descriptor address is an alignment fault (R200). -/
theorem State.descSlot_misaligned (s : State) (n : Node) (eng : Nat) (op : EngOp) {va : Word} (ok : State → List Word → Bool)
    (h : va.toNat % 64 ≠ 0) : s.descSlot n eng op va ok = s.trapHere .align va := if_pos h

/-- An aligned one at or above 2^56 is an address fault (R200). -/
theorem State.descSlot_high (s : State) (n : Node) (eng : Nat) (op : EngOp) {va : Word} (ok : State → List Word → Bool)
    (h : va.toNat % 64 = 0) (hb : 2 ^ 56 ≤ va.toNat) : s.descSlot n eng op va ok = s.trapHere .address va := by
  rw [State.descSlot, if_neg (not_not.2 h), if_pos hb]

/-- A queue up to 7 takes its command (R205, R206). -/
theorem State.queueSlot_ok (s : State) (n : Node) (eng : Nat) (op : EngOp) {q : Word} (report : Word) (h : q.toNat ≤ 7) :
    s.queueSlot n eng op q report =
      s.hold 3 n.slot (relActs n false [] ++ [.command eng (n.cmd op [0, 0, q <<< 40, 0, report, 0, 0, 0])]) :=
  if_neg (not_lt.2 h)

/-- A queue above 7 is a command fault (R200). -/
theorem State.queueSlot_high (s : State) (n : Node) (eng : Nat) (op : EngOp) {q : Word} (report : Word) (h : 7 < q.toNat) :
    s.queueSlot n eng op q report = s.trapHere .command 0 := if_pos h

/-- A counter's reference leaves the running node as it was. -/
theorem State.counterRef_here {s t : State} {n : Node} {va : Word} {kind : AccKind} {c : CtrRef}
    (h : s.counterRef n va kind = .ok c t) : t.here = s.here := (State.counterRef_sound va kind).here h

/-- Whether a counter may be read changes only what a lookup does (R114). -/
theorem State.counterReadable_here {s t : State} {n : Node} {c : CtrRef} {b : Bool} (h : s.counterReadable n c = (b, t)) :
    t.here = s.here := by
  have hk : s.Kept (s.counterReadable n c).2 := by
    unfold State.counterReadable
    split
    · exact .refl s
    · exact .refl s
    · exact (State.Kept.refl s).permit
  rw [h] at hk
  exact hk.here

/-- A node that is no shadow reads a counter for its replicas (R213). -/
theorem State.readForAll_lead (s : State) {n : Node} (va : Word) (h : n.shadow = false) :
    s.readForAll n va = s.readWord s.focus n va := by
  simp [State.readForAll, h]

/-- A word that is read leaves the running node as it was. -/
theorem State.readWord_here {s u : State} {t : Nat} {n : Node} {va : Word} {v : Nat × Nat × Bool} (h : s.readWord t n va = .ok v u) :
    u.here = s.here := (State.readWord_sound va).here h

/-- A word that a relation holds of. -/
theorem flag_eq (p : Prop) [Decidable p] : flag (decide p) = if p then 1 else 0 := by
  by_cases h : p <;> simp [flag, h]

end Sys2Proof.Machine
end

section
/-! The engine commands, and the counter, ring, round and barrier instructions. -/

namespace Sys2Proof.Proofs

open Sys2Proof.Machine Sys2Proof.Claims

/-- An instruction whose effect is a descriptor's slot holds its command. -/
theorem holds_of_descSlot {i : Instr} {eng : Nat} {op : EngOp} {ok : State → Node → List Word → Bool}
    (he : ∀ s, exec i s = .next (s.fire i fun n r => s.descSlot n eng op r.l fun s w => ok s n w)) :
    HoldsVia i 3 own (fun s n r t acts => ∃ m sv, r.l.toNat % 64 = 0 ∧ r.l.toNat < 2 ^ 56 ∧
      s.loadLines s.focus n 0 (.ordinary .normal) (descLines r.l) = .ok (m, sv) t ∧ ok t n (descOf m r.l) = true ∧
      acts = .sign (descStore r.l (descOf m r.l)) :: relActs n false [] ++ [.command eng (n.cmd op (descOf m r.l))]) :=
  .of_hold he fun s t n r acts hh h => by
    obtain ⟨m, sv, ha, hb, hl, hk, rfl⟩ := h
    exact ⟨((State.loadLines_sound ..).here hl).trans hh, State.descSlot_ok eng op ha hb hl hk⟩

/-- CFIRE and CDISARM hold their command, and COLL and the copies theirs. -/
theorem engineCommandsAreHeld : EngineCommandsAreHeld := fun p e fp32 =>
  ⟨holds_of_descSlot (ok := fun _ _ w => cpyOk w) (exec_cpy p e), holds_of_descSlot (ok := fun s n w => s.cpymOk n w) (exec_cpym p e),
    holds_of_descSlot (ok := fun _ _ w => carmOk w) (exec_carm p e), holds_of_descSlot (ok := fun s n w => s.gathOk n w) (exec_gath p e),
    holds_of_descSlot (ok := fun s n w => s.gathOk n w) (exec_scat p e),
    holds_of_descSlot (ok := fun _ _ w => collOk w 0) (exec_collAr p e fp32),
    holds_of_descSlot (ok := fun _ _ w => collOk w 1) (exec_collRs p e fp32),
    holds_of_descSlot (ok := fun _ _ w => collOk w 2) (exec_collAg p e false),
    .of_hold (exec_cfire p e) fun s n _ _ h => s.queueSlot_ok n _ _ _ h.1,
    .of_hold (exec_cdisarm p e) fun s n _ _ h => (if_neg (not_not.2 h.2)).trans (s.queueSlot_ok n _ _ _ h.1)⟩

/-- An instruction whose effect is a descriptor's slot checks its address. -/
theorem both_of_descSlot {i : Instr} {eng : Nat} {op : EngOp} {ok : Node → State → List Word → Bool}
    (he : ∀ s, exec i s = .next (s.fire i fun n r => s.descSlot n eng op r.l (ok n))) :
    Traps i (fun _ _ r => r.l.toNat % 64 ≠ 0) .align (fun _ r => r.l) ∧
    Traps i (fun _ _ r => r.l.toNat % 64 = 0 ∧ 2 ^ 56 ≤ r.l.toNat) .address (fun _ r => r.l) :=
  ⟨.of_trapHere he fun s n _ _ h => s.descSlot_misaligned n eng op _ h,
    .of_trapHere he fun s n _ _ h => s.descSlot_high n eng op _ h.1 h.2⟩

/-- The traps of the engine commands. -/
theorem engineTraps : EngineTraps := fun p e fp32 =>
  ⟨both_of_descSlot (ok := fun _ _ w => cpyOk w) (exec_cpy p e), both_of_descSlot (ok := fun n s w => s.cpymOk n w) (exec_cpym p e),
    both_of_descSlot (ok := fun _ _ w => carmOk w) (exec_carm p e), both_of_descSlot (ok := fun n s w => s.gathOk n w) (exec_gath p e),
    both_of_descSlot (ok := fun n s w => s.gathOk n w) (exec_scat p e),
    both_of_descSlot (ok := fun _ _ w => collOk w 0) (exec_collAr p e fp32),
    both_of_descSlot (ok := fun _ _ w => collOk w 1) (exec_collRs p e fp32),
    both_of_descSlot (ok := fun _ _ w => collOk w 2) (exec_collAg p e false),
    .of_trapHere (eff := fun s _ r => s.trapHere .command r.l) (exec_collAg p e true) fun _ _ _ _ _ => rfl,
    .of_trapHere (exec_cfire p e) fun s n _ _ h => s.queueSlot_high n _ _ _ h,
    .of_trapHere (exec_cdisarm p e) fun s n _ _ h => ite_eq_left_iff.2 fun _ => s.queueSlot_high n _ _ _ h⟩

/-- Settles O26. -/
theorem engineInstructions : Obligations.EngineInstructions := ⟨engineCommandsAreHeld, engineTraps⟩

/-- An instruction whose commit reads a counter holds that read, where it may be read (R215, R216). -/
theorem holds_of_counterReadSlot {i : Instr} {act : SlotRt → CtrRef → Act}
    (he : ∀ s, exec i s = .next (s.fire i fun n r => s.counterReadSlot n r.l (act r))) :
    HoldsVia i 3 own (fun s n r t acts =>
      ∃ c s1, s.counterRef n r.l .read = .ok c s1 ∧ s1.counterReadable n c = (true, t) ∧ acts = [act r c]) :=
  .of_hold he fun s t n r acts hh h => by
    obtain ⟨c, s1, hc, hr, rfl⟩ := h
    exact ⟨(State.counterReadable_here hr).trans ((State.counterRef_here hc).trans hh), by simp [State.counterReadSlot, hc, Got.on, hr]; rfl⟩

/-- CADD, CWAIT, CREAD, RNGREL, RADV, RRECL and BARR hold their acts. -/
theorem counterOperationsAreHeld : CounterOperationsAreHeld := by
  intro p sc acq rel k
  refine ⟨.of_hold (exec_cadd p sc acq rel) fun s t n r acts hh h => ?_, holds_of_counterReadSlot (exec_cwait p sc acq),
    holds_of_counterReadSlot (exec_cread p sc acq k), .of_hold (exec_rngrel p sc) fun s t n r acts hh h => ?_,
    .of_hold (exec_radv p sc) fun s t n r acts hh h => ?_, .of_hold (exec_radv p sc) fun s t n r acts hh h => ?_,
    .of_hold (exec_rrecl p sc) fun s t n r acts hh h => ?_, .of_hold (exec_barr p sc) fun s t n r acts hh h => ?_⟩
  · obtain ⟨c, hc, rfl⟩ := h
    exact ⟨(State.counterRef_here hc).trans hh, by simp only [hc, Got.on, addActs, own]⟩
  · obtain ⟨c, ha, hc, rfl⟩ := h
    refine ⟨(State.counterRef_here hc).trans hh, ?_⟩
    simp only [if_neg (not_not.2 ha), hc, Got.on, addActs, own]
    rfl
  · obtain ⟨g, c, s1, l, ⟨hl, hg⟩, ho, hc, hr, rfl⟩ := h
    refine ⟨((State.readRefs_sound _).here hr).trans ((State.counterRef_here hc).trans hh), ?_⟩
    simp only [Node.regionOf_of_lt hl, hg, hc, Got.on, ho, hr, own]
    rfl
  · obtain ⟨g, c, s1, s2, pr, m, ⟨hl, hg⟩, ho, hc, hp, hm, hle, rfl⟩ := h
    refine ⟨((State.readReclaim_sound _ _).here hm).trans
      (((State.readRound_sound _).here hp).trans ((State.counterRef_here hc).trans hh)), ?_⟩
    simp only [Node.regionOf_of_lt hl, hg, hc, Got.on, ho, hp, hm, if_neg (not_lt.2 hle), own, if_true]
  · obtain ⟨g, c, h7, h14, hg, hj, hc, rfl⟩ := h
    refine ⟨(State.counterRef_here hc).trans hh, ?_⟩
    have hf : (decide (field r.l.toNat 7 6 ≠ 0) || decide (field r.l.toNat 63 14 ≠ 0)) = false := by
      have hz : r.l.toNat / 2 ^ 14 = 0 := Nat.div_eq_of_lt h14
      exact Bool.or_eq_false_iff.2 ⟨decide_eq_false (not_not.2 h7), decide_eq_false (not_not.2 (by rw [field, hz]; rfl))⟩
    have hj' : ¬ g.nr < field r.l.toNat 13 8 := not_lt.2 hj
    have hc' : s.counterRef n (BitVec.ofNat 64 (g.rcl + 8 * field r.l.toNat 13 8)) .write = .ok c t := hc
    simp only [hf, Bool.false_eq_true, if_false, hg, hj', hc', Got.on, own]
  · obtain ⟨c, hc, rfl⟩ := h
    exact ⟨(State.counterRef_here hc).trans hh, by simp only [hc, Got.on, own]⟩

/-- CPOLL and RNGAW deliver what the counter shows. -/
theorem counterReadsDeliver : CounterReadsDeliver := by
  intro p t u sc acq
  refine ⟨.of_emit (exec_cpoll p t u sc acq) fun s w n r v acts hh h => ?_, .of_emit (exec_rngaw p t u sc) fun s w n r v acts hh h => ?_⟩
  · obtain ⟨pa, x, sv, t1, hn, ha, hr, rfl, rfl, rfl⟩ := h
    refine ⟨(here_seen ..).trans ((State.readWord_here hr).trans hh), ?_⟩
    simp only [if_neg (not_not.2 ha), State.readForAll_lead s r.l hn, hr, Got.on, State.observe_lead _ _ _ _ _ hn, flag_eq]
    rfl
  · obtain ⟨m, sv, s1, base, size, count, pa, x, sw, t1, hn, ha, hl, hg, hr, hx, hp, rfl, rfl, rfl⟩ := h
    refine ⟨(here_seen ..).trans ((State.readWord_here hr).trans (((State.loadLines_sound ..).here hl).trans hh)), ?_⟩
    have hxn : (BitVec.ofNat 64 x).toNat = x := Nat.mod_eq_of_lt hx
    have hneed : ¬ x < (if r.r.getLsbD 63 then r.r.toNat % 2 ^ 63 + 1 else r.r.toNat % 2 ^ 63 + 1 - count) := by
      cases hc : r.r.getLsbD 63 <;> simp only [hc] at hp <;> simp at hp ⊢ <;> omega
    simp only [if_neg (not_not.2 ha), hl, Got.on, hg, State.readForAll_lead _ _ hn, hr, hn, hneed, State.observe_lead _ _ _ _ _ hn, hxn]
    rfl

/-- Settles O27. -/
theorem counterInstructions : Obligations.CounterInstructions := ⟨counterOperationsAreHeld, counterReadsDeliver⟩

end Sys2Proof.Proofs
end

section
/-! The Scruple instructions of an owner's node that is no shadow. -/

namespace Sys2Proof.Machine

open Sys2Proof.Claims

/-- A node that is no shadow reaches the network of its own die (R329). -/
theorem State.leaderDie_lead (s : State) {n : Node} (h : n.shadow = false) : s.leaderDie n = dieOf n.tile := by
  simp [State.leaderDie, h]

/-- The owner's context meets no rule trap but that of another check (R309). -/
theorem State.ruleBad_none {s : State} {n : Node} {also : Bool} (hn : n.shadow = false)
    (ho : ((s.die (dieOf n.tile)).net).owner = some n.ctx) (ha : also = false) : s.ruleBad n also = none := by
  simp [State.ruleBad, State.netOf_lead s n hn, ho, ha]

/-- A read of the network of an owner's node that passes its checks delivers what the network answers (R329, R331). -/
theorem State.netRead_ok {s t : State} {n : Node} {bad : Bool} {m : NetM Vec} (k : Vec → State → State) {x : Vec}
    (hn : n.shadow = false) (hb : s.ruleBad n bad = none) (hf : ((s.die (dieOf n.tile)).net).frozen = false)
    (hm : m.run s = .ok (x, t)) : s.netRead n bad m k = k x (seen t n x) := by
  simp only [State.netRead, hn, hb, State.leaderDie_lead s hn, hf, hm, State.netObserve_lead _ _ _ _ _ hn]
  rfl

/-- A delta that meets no rule trap is held (R330). -/
theorem State.deltaSlot_ok {s : State} {n : Node} (ops : List Word) {x : Delta} {image : Bool} (hn : n.shadow = false)
    (ho : ((s.die (dieOf n.tile)).net).owner = some n.ctx) (hw : x.wid < 2 ^ ((s.die (dieOf n.tile)).net).wmn)
    (hi : image = true → x.cls ≠ 0) (hd : n.afterFdone ((s.die (dieOf n.tile)).net) = false) :
    s.deltaSlot n ops x image = (seen s n 0).hold 3 n.slot (netActs n ops (.delta n.tile n.firing x)) := by
  have hc : (image && decide (x.cls = 0)) = false := Bool.and_eq_false_imp.2 fun h => decide_eq_false (hi h)
  have hb : s.ruleBad n (decide (2 ^ ((s.die (dieOf n.tile)).net).wmn ≤ x.wid) || (image && decide (x.cls = 0))
      || n.afterFdone ((s.die (dieOf n.tile)).net)) = none :=
    State.ruleBad_none hn ho (by rw [hc, hd, decide_eq_false (not_le.2 hw)]; rfl)
  simp only [State.deltaSlot, State.netOf_lead s n hn, hb, State.netCheck_pass _ _ _ hn]
  rfl

end Sys2Proof.Machine

namespace Sys2Proof.Proofs

open Sys2Proof.Machine Sys2Proof.Claims

/-- An instruction that passes its checks at the network holds its message. -/
theorem sends_of {i : Instr} {c : State → Node → SlotRt → Prop} {acts : Node → SlotRt → List Act}
    {eff : State → Node → SlotRt → State} (he : ∀ s, exec i s = .next (s.fire i (eff s)))
    (h : ∀ s n r, c s n r → eff s n r = (seen s n 0).hold 3 n.slot (acts n r)) :
    HoldsVia i 3 own (fun s n r t a => c s n r ∧ t = seen s n 0 ∧ a = acts n r) :=
  .of_hold he fun s t n r a hh hc => by
    obtain ⟨hc, rfl, rfl⟩ := hc
    exact ⟨(here_seen ..).trans hh, h s n r hc⟩

/-- FDONE of a firing task whose slot is open and whose block holds no other is sent (R330, R333). -/
theorem fdone_ok {s : State} {n : Node} {id : Nat} (hn : n.shadow = false)
    (ho : ((s.die (dieOf n.tile)).net).owner = some n.ctx) (hf : n.firing = some id)
    (hs : ((s.die (dieOf n.tile)).net).slotOpen id = true)
    (ha : ∀ e ∈ n.blk.effs, ∀ a ∈ e.acts, a.isFdone = false ∧ (n.slot < e.slot → a.isDelta = false)) :
    s.ruleBad n (!((s.die (dieOf n.tile)).net).slotOpen id || n.blk.effs.any fun e =>
      e.acts.any Act.isFdone || (n.slot < e.slot && e.acts.any Act.isDelta)) = none := by
  refine State.ruleBad_none hn ho ?_
  rw [hs, Bool.not_true, Bool.false_or, List.any_eq_false]
  intro e he
  rw [Bool.not_eq_true, Bool.or_eq_false_iff, Bool.and_eq_false_imp]
  exact ⟨List.any_eq_false.2 fun a h => by simp [(ha e he a h).1],
    fun hl => List.any_eq_false.2 fun a h => by simp [(ha e he a h).2 (of_decide_eq_true hl)]⟩

/-- Settles O28: the checks at the network pass, and the message is held or the answer delivered. -/
theorem scrupleInstructions : Obligations.ScrupleInstructions := by
  intro p t u
  refine ⟨sends_of (exec_wmasr p) fun s n r h => State.deltaSlot_ok _ h.1.1 h.1.2 h.2.1 h.2.2.1 h.2.2.2,
    sends_of (exec_wmret p) fun s n r h => State.deltaSlot_ok _ h.1.1 h.1.2 h.2.1 (fun h => Bool.noConfusion h) h.2.2.2,
    sends_of (exec_wmmod p) fun s n r h => State.deltaSlot_ok _ h.1.1 h.1.2 h.2.1 h.2.2.1 h.2.2.2,
    sends_of (exec_scset p) fun s n r h => ?_, sends_of (exec_fdone p) fun s n r h => ?_,
    .of_hold (exec_cswave p) fun s t n r acts hh h => ?_, sends_of (exec_netld p) fun s n r h => ?_,
    .of_emit (exec_wmrd p t u) fun s w n r v acts hh h => ?_, .of_emit (exec_scget p t u) fun s w n r v acts hh h => ?_,
    .of_emit (exec_csrd p t u) fun s w n r v acts hh h => ?_⟩
  · obtain ⟨hn, ho⟩ := h
    simp only [State.ruleBad_none hn ho rfl, State.netCheck_pass _ _ _ hn]
    rfl
  · obtain ⟨⟨hn, ho⟩, id, hf, hs, ha⟩ := h
    simp only [hf, State.netOf_lead s n hn, fdone_ok hn ho hf hs ha, State.netCheck_pass _ _ _ hn]
    rfl
  · obtain ⟨c, ⟨hn, ho⟩, ha, h1, h64, hc, rfl⟩ := h
    have hr : (decide (r.r = 0) || decide (64 < r.r.toNat)) = false :=
      Bool.or_eq_false_iff.2 ⟨decide_eq_false fun h => by simp [h] at h1, decide_eq_false (not_lt.2 h64)⟩
    refine ⟨(State.counterRef_here hc).trans ((here_seen ..).trans hh), ?_⟩
    have hc' : (s.forward n (n.fwdKey 0) 0).counterRef n r.l .write = .ok c t := hc
    simp only [if_neg (not_not.2 ha), State.ruleBad_none hn ho hr, State.netCheck_pass _ _ _ hn, hc', Got.on]
    rfl
  · obtain ⟨hn, ho, hl⟩ := h
    have ha : (decide (r.l ≠ 0) && decide (r.r.toNat % 64 ≠ 0)) = false := by
      rcases hl with h | h <;> simp [h]
    simp only [State.netOf_lead s n hn, ha, Bool.false_eq_true, if_false]
    cases hc : ((s.die (dieOf n.tile)).net).owner with
    | none => exact State.netCheck_pass _ _ _ hn
    | some c =>
      have hb : (decide (c ≠ n.ctx) && !n.priv) = false := by
        rcases ho c hc with h | h <;> simp [h]
      simp only [hb]
      exact State.netCheck_pass _ _ _ hn
  · obtain ⟨x, t1, ⟨hn, ho⟩, hw, hf, hm, h1, rfl, rfl, rfl⟩ := h
    refine ⟨(here_seen ..).trans h1, ?_⟩
    have hb : s.ruleBad n (decide (2 ^ ((s.die (dieOf n.tile)).net).wmn ≤ r.l.toNat % 2 ^ 32)) = none :=
      State.ruleBad_none hn ho (decide_eq_false (not_le.2 hw))
    simp only [State.netOf_lead s n hn, State.leaderDie_lead s hn]
    exact State.netRead_ok _ hn hb hf hm
  · obtain ⟨x, t1, ⟨hn, ho⟩, -, hf, hm, h1, rfl, rfl, rfl⟩ := h
    refine ⟨(here_seen ..).trans h1, ?_⟩
    simp only [State.leaderDie_lead s hn]
    exact State.netRead_ok _ hn (State.ruleBad_none hn ho rfl) hf hm
  · obtain ⟨x, ⟨hn, ho⟩, hf, hx, rfl, rfl, rfl⟩ := h
    refine ⟨(here_seen ..).trans hh, ?_⟩
    have hv : (BitVec.ofNat 1024 (x % 2 ^ 64)).setWidth 64 = BitVec.ofNat 64 x := by
      apply BitVec.eq_of_toNat_eq
      simp only [BitVec.toNat_setWidth, BitVec.toNat_ofNat]
      omega
    simp only [State.netOf_lead s n hn, hx, Option.getD_some, Option.isNone_some]
    refine (State.netRead_ok _ hn (State.ruleBad_none hn ho rfl) hf rfl).trans ?_
    rw [hv]
    rfl

end Sys2Proof.Proofs
end

section
/-! The state after reset, and what a shadow takes. -/

namespace Sys2Proof.Machine

/-- A shadow whose leader's value has not come waits (R380). -/
theorem State.observe_waits (s0 s : State) {n : Node} (x : Word) (k : Word → State → State) (h : n.shadow = true)
    (hw : n.forwarded (n.fwdKey 0) = none) : State.observe s0 s n x k = s0.retry := by
  simp [State.observe, h, hw]

/-- A shadow goes on with the leader's value (R380). -/
theorem State.observe_takes (s0 s : State) {n : Node} (x : Word) (k : Word → State → State) {y : Vec} (h : n.shadow = true)
    (hy : n.forwarded (n.fwdKey 0) = some y) : State.observe s0 s n x k = k (y.setWidth 64) s0 := by
  simp [State.observe, h, hy]

/-- A shadow whose leader's network value has not come waits (R329). -/
theorem State.netRead_waits (s : State) {n : Node} (bad : Bool) (m : NetM Vec) (k : Vec → State → State) (h : n.shadow = true)
    (hw : n.forwarded (n.fwdKey 0) = none) (ht : n.forwarded (n.fwdKey 1) = none) : s.netRead n bad m k = s.retry := by
  simp [State.netRead, State.netObserve, h, hw, ht]

/-- A shadow goes on with the leader's network value (R329). -/
theorem State.netRead_takes (s : State) {n : Node} (bad : Bool) (m : NetM Vec) (k : Vec → State → State) {y : Vec}
    (h : n.shadow = true) (hy : n.forwarded (n.fwdKey 0) = some y) (ht : n.forwarded (n.fwdKey 1) = none) :
    s.netRead n bad m k = k y s := by
  simp [State.netRead, State.netObserve, h, hy, ht]

end Sys2Proof.Machine

namespace Sys2Proof.Proofs

open Sys2Proof.Machine Sys2Proof.Claims

/-- Settles O36: the fields of the reset state. -/
theorem resetState : Obligations.ResetState := by
  refine ⟨⟨State.reset_mem_wf, fun k n h => nomatch h⟩, rfl, rfl, rfl, rfl, rfl, rfl, rfl, fun _ => rfl, rfl, rfl, by decide, by decide,
    by decide, fun d hd => ?_⟩
  interval_cases d <;> exact ⟨by decide, rfl, rfl, rfl, rfl, rfl, rfl, rfl, rfl⟩

/-- An instruction of a shadow that waits for a forwarded value, and takes it, does so (R380). -/
theorem takes_of {i : Instr} {out : Vec → Val} {eff : State → Node → SlotRt → State}
    (he : ∀ s, exec i s = .next (s.fire i (eff s)))
    (hw : ∀ s n r, n.shadow = true → n.forwarded (n.fwdKey 0) = none → n.forwarded (n.fwdKey 1) = none → eff s n r = s.retry)
    (ht : ∀ s n r y, n.shadow = true → n.forwarded (n.fwdKey 0) = some y → n.forwarded (n.fwdKey 1) = none →
      eff s n r = s.emit i (out y)) (s : State) (n : Node) (b : Blk) (hf : Fires s n i) (hs : n.shadow = true) :
    (n.forwarded (n.fwdKey 0) = none → n.forwarded (n.fwdKey 1) = none → n.blk.timed = false →
      exec i s = .next (s.putHere { n with issued := false })) ∧
    ∀ y, n.forwarded (n.fwdKey 0) = some y → n.forwarded (n.fwdKey 1) = none →
      n.blk.deliver (out y) (n.issueCyc n.slot + Config.latency i) i.targets = .ok b →
      exec i s = .next (s.putHere (delivered n b)) := by
  refine ⟨fun h0 h1 h => ?_, fun y h0 h1 hd => ?_⟩
  · rw [hf.exec_eq (he s), hw s n _ hs h0 h1, State.retry_eq s n hf.here h]
  · rw [hf.exec_eq (he s), ht s n _ y hs h0 h1, State.emit_ok s n i _ b hf.here hd]
    rfl

/-- MFS of `chain.now` observes it (R380). -/
theorem exec_mfs_now (p : Pred) (t : Tgt) (s : State) :
    exec (.mfs p t 0x101) s = .next (s.fire (.mfs p t 0x101) fun n _ =>
      State.observe s s n (s.sysRead n 0x101) fun x s => s.emit (.mfs p t 0x101) (.scalar x)) := rfl

/-- Settles O45: each of the forms observes at the leader. -/
theorem shadowsTakeForwardedValues : Obligations.ShadowsTakeForwardedValues := fun p t u =>
  ⟨takes_of (exec_mfs_now p t) (fun s n _ hs h _ => State.observe_waits s s _ _ hs h)
      fun s n _ _ hs h _ => State.observe_takes s s _ _ hs h,
    takes_of (exec_rndr p t u) (fun s n _ hs h _ => State.observe_waits s _ _ _ hs h)
      fun s n _ _ hs h _ => State.observe_takes s _ _ _ hs h,
    takes_of (exec_csrd p t u) (fun s n _ hs h0 h1 => s.netRead_waits _ _ _ hs h0 h1)
      fun s n _ _ hs h0 h1 => s.netRead_takes _ _ _ hs h0 h1,
    takes_of (exec_scget p t u) (fun s n _ hs h0 h1 => s.netRead_waits _ _ _ hs h0 h1)
      fun s n _ _ hs h0 h1 => s.netRead_takes _ _ _ hs h0 h1,
    takes_of (exec_wmrd p t u) (fun s n _ hs h0 h1 => s.netRead_waits _ _ _ hs h0 h1)
      fun s n _ _ hs h0 h1 => s.netRead_takes _ _ _ hs h0 h1⟩

end Sys2Proof.Proofs
end

section
/-! SUPPORT. The nodes of a state under changes, and how the next act of a commit ends. -/

namespace Sys2Proof.Machine

/-- A write within a vector of the state is the vector's own. -/
theorem vset_eq_set {α : Type} {n : Nat} (v : Vector α n) {i : Nat} (x : α) (h : i < n) : vset v i x = v.set i x h := by
  apply Vector.ext
  intro j hj
  rw [Vector.getElem_set, vset, Vector.getElem_setIfInBounds]

/-- Changing the node of a tile writes it. -/
theorem State.modNode_eq {s : State} {t : Nat} {n : Node} (h : s.node? t = some n) (f : Node → Node) :
    s.modNode t f = s.setNode t (f n) := by
  have h' : Tbl.get? t s.nodes = some n := h
  simp [State.modNode, State.setNode, Tbl.modify, h']

/-- A tile without an element is left as it is. -/
theorem State.modNode_none {s : State} {t : Nat} (h : s.node? t = none) (f : Node → Node) : s.modNode t f = s := by
  have h' : Tbl.get? t s.nodes = none := h
  simp [State.modNode, Tbl.modify, h']

@[simp] theorem State.modNode_setNode (s : State) (t : Nat) (n : Node) (f : Node → Node) :
    (s.setNode t n).modNode t f = s.setNode t (f n) := by
  rw [State.modNode_eq (State.node?_setNode_self s t n), State.setNode_setNode]

/-- The next act of a commit, where nothing else is to be done first (R24). -/
def State.nextAct (s : State) (t : Nat) (n : Node) (q : List Act) (a : Act) : Option State :=
  match s.act t n q (n.stop = some .walk) a with
  | .done u => some (u.modNode t fun n => { n with phase := .commit q })
  | .own u => some u
  | .hold =>
    if s.endingAt n && !n.leaves (a :: q) && !s.cutHolds n a then some ((s.unwatch t).setNode t { n.finish with watch := none })
    else none

/-- Room made in the L1 changes only what a lookup does (R101). -/
theorem State.winRoom_kept (s : State) (t : Nat) (old w : Window) : s.Kept (s.winRoom t old w) :=
  (State.Kept.refl s).foldl _ _ fun _ _ k => by
    split
    · exact k
    · exact k.l1Fit

/-- A lasting change of a node changes nothing of the engines. -/
@[simp] theorem State.lasting_engQ (s : State) (t : Nat) (f : Node → Node) (d e k : Nat) :
    (s.lasting t f).engQ d e k = s.engQ d e k := by
  unfold State.lasting
  split <;> rfl

@[simp] theorem State.lasting_mem (s : State) (t : Nat) (f : Node → Node) : (s.lasting t f).mem = s.mem := by
  unfold State.lasting
  split <;> rfl

/-- A queue of an engine reads back. -/
theorem State.engQ_setEngQ (s : State) {d : Nat} (e k : Nat) (x : EngQueue) (h : d < 4) : (s.setEngQ d e k x).engQ d e k = x := by
  unfold State.setEngQ State.engQ
  rw [State.die_modDie _ _ h]
  simp [Tbl.getD]

end Sys2Proof.Machine

namespace Sys2Proof.Claims

open Sys2Proof.Machine

/-- A commit at an act does that act. -/
theorem At.exec_eq {s : State} {t : Nat} {n : Node} {a : Act} {q : List Act} (h : At s t n a q) :
    exec (.commitStepResume t) s = .next ((s.nextAct t n q a).getD s) := by
  obtain ⟨hn, hr, hp, hi, hg⟩ := h
  have ha : s.ldaAgain t n = none := by
    unfold State.ldaAgain
    rw [hg]
    split
    · next he => exact absurd he (List.cons_ne_nil _ _).symm
    · rfl
  have hc : n.commits = true := by simp [Node.commits, hr]
  have hx : s.resumeTile t = s.nextAct t n q a := by
    simp only [State.resumeTile, hn, State.resumeNode, hi, hr, ha, hc, hp]
    rfl
  rw [← hx]
  rfl

/-- An act that is done leaves the rest of the commit. -/
theorem At.done {s u : State} {t : Nat} {n : Node} {a : Act} {q : List Act} (h : At s t n a q)
    (ha : ∀ w, s.act t n q w a = .done u) :
    exec (.commitStepResume t) s = .next (upd u t fun n => { n with phase := .commit q }) := by
  rw [h.exec_eq, State.nextAct, ha]
  rfl

/-- An act that has set what comes next. -/
theorem At.own {s u : State} {t : Nat} {n : Node} {a : Act} {q : List Act} (h : At s t n a q)
    (ha : ∀ w, s.act t n q w a = .own u) : exec (.commitStepResume t) s = .next u := by
  rw [h.exec_eq, State.nextAct, ha]
  rfl

/-- An act that cannot be done yet waits, in a region that goes on. -/
theorem At.waits {s : State} {t : Nat} {n : Node} {a : Act} {q : List Act} (h : At s t n a q) (he : s.endingAt n = false)
    (ha : ∀ w, s.act t n q w a = .hold) : exec (.commitStepResume t) s = .next s := by
  rw [h.exec_eq, State.nextAct, ha, he]
  rfl

/-- A write of a full register that is a change of the registers alone is done (R24, R31). -/
theorem At.regAct {s : State} {t : Nat} {n : Node} {a : Act} {q : List Act} {full : Bool} {f : Regs → Regs}
    (ha : ∀ w, s.act t n q w a = s.regAct t full f) :
    (full = true → At s t n a q →
      exec (.commitStepResume t) s = .next (s.setNode t { n with regs := f n.regs, phase := .commit q })) ∧
    (full = false → At s t n a q → s.endingAt n = false → exec (.commitStepResume t) s = .next s) := by
  refine ⟨fun hf h => ?_, fun hf h he => h.waits he fun w => by rw [ha, hf]; rfl⟩
  have hn : s.node? t = some n := h.1
  rw [h.done fun w => by rw [ha, hf]; rfl, upd, State.modNode_eq hn, State.modNode_setNode]

end Sys2Proof.Claims
end

section
/-! The steps of a node: each act of a commit, the fetch of a block, the firing of a slot, and the arrival of values. -/

namespace Sys2Proof.Proofs

open Sys2Proof.Machine Sys2Proof.Claims

section
variable {s : State} {t : Nat} {n : Node} {q : List Act}

/-- A store that fits whole enters the window (R101). -/
theorem store_enters {r : StoreReq} (h : At s t n (.store r) q) (hk : s.winPrefix n.win true r.pol r.lanes = r.lanes.length) :
    ∃ u m, exec (.commitStepResume t) s = .next u ∧ u.mem = s.mem ∧ u.node? t = some m ∧ m.win = s.winEnter n.win r.lanes r.pol ∧
      m.phase = .commit q ∧ m.regs = n.regs ∧ (m.red.sig, m.red.cnt) = addTerms n.red.sig n.red.cnt (storeTerms r.lanes) := by
  have hr := s.winRoom_kept t n.win (s.winEnter n.win r.lanes r.pol)
  have he := h.exec_eq
  simp only [State.nextAct, State.act, State.storeAct, hk, List.take_length, if_true, Option.getD_some] at he
  exact ⟨_, _, he, hr.mem, State.node?_setNode_self _ _ _, rfl, rfl, rfl, rfl⟩

/-- The oldest lines of a window go first: an entry that its home accepts is performed (R102, R152). -/
theorem relPerform_line {i k : Nat} {x : WinLine} {s0 s1 : State} (h : At s t n .relPerform q) (hs : n.shadow = false)
    (hp : s.pick n.win.lines.length = (i, s0)) (hl : n.win.lines[i]? = some (k, x))
    (he : ((s0.lasting t fun n => { n with win := { n.win with lines := n.win.lines.erase k } }).modRegion (s0.regionOf t)
      fun r => { r with quiet := 0 }).performLine t k n.master true x = (.ok (), s1)) :
    exec (.commitStepResume t) s = .next s1 := by
  refine h.own fun _ => ?_
  show s.performWindow t n q = _
  cases hw : n.win.lines with
  | nil => simp [hw] at hl
  | cons p l =>
    rw [hw] at hp hl
    have hp' : s.pick (l.length + 1) = (i, s0) := hp
    simp only [State.performWindow, hs, State.winStep, hw, hp', hl, Option.getD_some, he]
    rfl

/-- A release ends once the window is empty (R152). -/
theorem relPerform_empty (h : At s t n .relPerform q) (hs : n.shadow = false) (hl : n.win.lines = []) (hm : n.win.mmio = []) :
    exec (.commitStepResume t) s = .next (s.lasting t fun n => { n with phase := .commit q }) := by
  refine h.own fun _ => ?_
  show s.performWindow t n q = _
  simp only [State.performWindow, hs, State.winStep, hl, hm]
  rfl

/-- A token that its edge takes is sent, and one that must wait holds the commit (R229, R381). -/
theorem sendAct_eq {p : Nat} {k : Token} (own : Bool) (h : n.shadow = false ∨ s.triggerOf (4 * t + p) = none) :
    s.sendAct t n p k own = match s.sendOut (4 * t + p)
        (if own then k else { k with side := (k.side &&& 0xFFFF0000#32) ||| (vget n.tags p 0).setWidth 32 }) with
      | some s => .done s
      | none => .hold := by
  have hc : (n.shadow && (s.triggerOf (4 * t + p)).isSome) = false := by
    rcases h with h | h <;> simp [h]
  simp only [State.sendAct, hc]
  rfl

/-- A matrix word enters a queue that has room (R262, R299). -/
theorem matrixAct_room {w : MatWord} (hq : n.mat.queue.length < 16) : s.matrixAct t n w none =
    .done (upd s t fun n => { n with mat := { n.mat with queue := n.mat.queue ++ [w] } }) := by
  have hc : (false || decide (16 ≤ n.mat.queue.length)) = false := by simpa using hq
  simp only [State.matrixAct, hc]
  rfl

/-- The register that it drains to is empty until its value comes (R267). -/
theorem matrixAct_drains {w : MatWord} (v : BitVec 5) (hq : n.mat.queue.length < 16) (hv : n.regs.vFull.getLsbD v.toNat = true) :
    s.matrixAct t n w (some v) =
      .done (upd s t fun n => { n with regs := n.regs.drain (.v v), mat := { n.mat with queue := n.mat.queue ++ [w] } }) := by
  have hc : (n.regs.isEmpty (.v v) || decide (16 ≤ n.mat.queue.length)) = false := by simp [Regs.isEmpty, hv, hq]
  simp only [State.matrixAct, hc]
  rfl

/-- A command enters a queue of fewer than 64 with a name of its own, and waits for room in a full one (R196, R201). -/
theorem command_enters {e : Nat} {c : Cmd} (h : At s t n (.command e c) q) (hs : n.shadow = false) (hd : dieOf t < 4) :
    let k := dQueue c.words
    ((s.engQ (dieOf t) e k).cmds.length < 64 → ∃ u id, exec (.commitStepResume t) s = .next u ∧ u.mem = s.mem ∧
      (u.engQ (dieOf t) e k).cmds = (s.engQ (dieOf t) e k).cmds ++
        [{ c with id := id, mark := n.mark, launch := s.launchOf n, away := s.awayRanks n }]) ∧
    (64 ≤ (s.engQ (dieOf t) e k).cmds.length → s.endingAt n = false → exec (.commitStepResume t) s = .next s) := by
  intro k
  refine ⟨fun hq => ?_, fun hq he => h.waits he fun _ => ?_⟩
  · have he := h.exec_eq
    have hq' : ¬ 64 ≤ (s.engQ (dieOf t) e (dQueue c.words)).cmds.length := not_le.2 hq
    simp only [State.nextAct, State.act, State.commandAct, hs, Bool.false_eq_true, if_false, if_neg hq', State.lasts,
      Option.getD_some] at he
    refine ⟨_, s.nextId, he, (State.lasting_mem _ _ _).trans rfl, ?_⟩
    rw [State.lasting_engQ, State.engQ_setEngQ _ _ _ _ hd]
    rfl
  · have hq' : 64 ≤ (s.engQ (dieOf t) e (dQueue c.words)).cmds.length := hq
    simp only [State.act, State.commandAct, hs, Bool.false_eq_true, if_false, if_pos hq']

/-- A message leaves for a network that takes it, and waits for one that does not (R329, R333). -/
theorem netAct_eq {m : NetMsg} (hs : n.shadow = false)
    (hf : ∀ id, m = .fdone id → (s.die (s.leaderDie n)).net.slotOpen id = true) :
    s.netAct t n m q = match s.netSend (s.leaderDie n) n.ctx m with
      | some s => s.lasts t q id
      | none => .hold := by
  cases m with
  | fdone id =>
    simp only [State.netAct, hs, hf id rfl]
    rfl
  | _ =>
    simp only [State.netAct, hs]
    rfl

end

/-- Each act of a commit. -/
theorem commitActs : CommitActs := by
  intro s t n q
  refine ⟨fun k x => ?_, fun k x => ?_, fun k x => ?_, fun k x h => h.done fun _ => rfl, fun r h hk => store_enters h hk,
    fun i k x s0 s1 hs hp hl he h => relPerform_line h hs hp hl he, fun hs hl hm h => relPerform_empty h hs hl hm,
    fun hs h => h.own fun _ => ?_, fun va pa ty op x y held => ?_, fun c x held => ⟨fun hs h => ?_, fun hs h => ?_⟩,
    fun p k i x hx h => h.done fun _ => ?_, fun p k => ?_, fun p x h => h.done fun _ => rfl, fun x ht => ?_, fun w => ?_,
    fun e c h hs hd => command_enters h hs hd, fun m hs hf => ?_, fun k code slot a hx => ?_, fun a hx h => h.own fun _ => ?_,
    fun hx h => h.own fun _ => ?_, fun hx h => h.own fun _ => ?_⟩
  · rw [← vset_eq_set n.regs.g x k.isLt]
    exact At.regAct (a := .setG k x) (f := fun r => { r with g := vset r.g k.toNat x }) fun _ => rfl
  · rw [← vset_eq_set n.regs.v x k.isLt]
    exact At.regAct (a := .setV k x) (f := fun r => { r with v := vset r.v k.toNat x }) fun _ => rfl
  · rw [← vset_eq_set n.regs.p x k.isLt]
    exact At.regAct (a := .setP k x) (f := fun r => { r with p := vset r.p k.toNat x }) fun _ => rfl
  · show s.performWindow t n q = _
    simp only [State.performWindow, hs]
    rfl
  · intro r sent hs
    refine ⟨fun h => h.own fun _ => ?_, fun k h => h.own fun _ => ?_⟩
    all_goals
      simp only [State.act, State.ownAtomAct, hs]
      rfl
  · refine h.own fun _ => ?_
    simp only [State.act, State.ownAddAct, hs]
    rfl
  · refine h.own fun _ => ?_
    simp only [State.act, State.ownAddAct, hs]
    rfl
  · simp only [State.act, State.popAct, hx]
  · refine ⟨fun hs ht h => h.done fun _ => ?_, fun hc => ⟨fun u hu h => h.done fun _ => ?_, fun u hu h => h.done fun _ => ?_,
      fun hu h he => h.waits he fun _ => ?_⟩⟩
    · show s.sendAct t n p k true = _
      simp only [State.sendAct, hs, Option.isSome_iff_ne_none.2 ht]
      rfl
    · exact (sendAct_eq true hc).trans (by rw [if_pos rfl, hu])
    · exact (sendAct_eq false hc).trans (by rw [if_neg Bool.false_ne_true, hu])
    · exact (sendAct_eq true hc).trans (by rw [if_pos rfl, hu])
  · subst ht
    refine ⟨fun h => h.done fun _ => rfl, fun h0 h => h.done fun _ => ?_, fun h0 h => h.done fun _ => ?_, fun h => h.done fun _ => rfl,
      fun h => h.done fun _ => rfl, fun h => h.done fun _ => rfl, fun h => h.done fun _ => rfl⟩
    · exact congrArg Acted.done (if_pos h0)
    · exact congrArg Acted.done (if_neg (Bool.eq_false_iff.1 h0))
  · refine ⟨fun hq h => h.done fun _ => matrixAct_room hq,
      fun v hq hv h => h.done fun _ => matrixAct_drains v hq hv, fun hq h he => h.waits he fun _ => ?_⟩
    show s.matrixAct t n w none = _
    simp [State.matrixAct, hq]
  · refine ⟨fun u hu h => h.own fun _ => ?_, fun hu h he => h.waits he fun _ => ?_⟩
    · exact (netAct_eq hs hf).trans (by rw [hu]; rfl)
    · exact (netAct_eq hs hf).trans (by rw [hu])
  · intro u
    have ha : n.successor = a := by simp [Node.successor, hx]
    refine ⟨fun hk h => h.own fun _ => ?_, fun hb h => h.own fun _ => ?_⟩
    · have hc : (decide (k = .bkpt) && (s.mmioAt 0 (ctxOff n.ctx 6)).getLsbD 0) = false := by
        rcases hk with hk | hk
        · simp [hk]
        · rw [hk, Bool.and_false]
      refine congrArg Acted.own ?_
      simp only [State.trapAct, ha]
      exact if_neg (by rw [Bool.not_eq_true]; exact hc)
    · refine congrArg Acted.own ?_
      simp only [State.trapAct, ha]
      exact if_pos hb
  · refine congrArg Acted.own ?_
    simp only [State.exitAct, hx]
    rfl
  · simp only [State.act, State.exitAct, hx]
  · simp only [State.act, State.exitAct, hx]

/-- A block whose bytes are there and that passes its checks may fire its slots (R13, R15). -/
theorem blockFetch_ok (s s1 s2 : State) (t : Nat) (n m : Node) (hb rest : List Byte) (x y : Bool) :
    let h : Word := BitVec.ofNat 64 (Sys2Proof.ofBytes hb)
    let b := Blk.ofBytes h rest (s2.fixedAt n) (n.ready.getD (if n.blocks = 0 then n.cyc.toNat else n.cyc.toNat + 1))
    s.node? t = some n → n.phase = .fetch → n.runs = true → s.endingAt n = false → n.pc.toNat % 16 = 0 →
    s.fetchCode t n n.pc.toNat 8 = .ok (hb, x) s1 → headerBad h = false →
    s1.fetchCode t n (n.pc.toNat + 8) (restBytes h) = .ok (rest, y) s2 → s2.node? t = some m →
    b.check (s2.fixedAt n) (s2.timedPort t) = none → b.privBad = [] → (b.timed = true → x = true ∧ y = true) →
    exec (.blockFetch t) s = .next (s2.setNode t { m with blk := b, phase := .fire, issued := false }) := by
  intro h b hn hp hr he ha h1 hg h2 hm hc hv ht
  have ht' : (b.timed && !(x && y)) = false := by
    cases hbt : b.timed
    · rfl
    · simp [ht hbt]
  have hph : (decide (n.phase ≠ .fetch) || !n.runs) = false := by simp [hp, hr]
  refine congrArg Host.Outcome.next ?_
  simp only [h] at hg h2
  simp only [b, h] at hc hv ht'
  simp only [hn, hph, he, if_neg (not_not.2 ha), h1, hg, h2, State.decodeBlock, hm, Bool.false_eq_true, if_false, hc, hv, ht']
  rfl

/-- A slot that has what it accepts, no sooner than it arrives, issues (R20). -/
theorem slotFire_ok (s : State) (t k : Nat) (n : Node) (i : Instr) (hn : s.node? t = some n) (hp : n.phase = .fire)
    (hr : n.runs = true) (hi : n.issued = false) (hw : n.blk.waiting k = true) (hk : n.blk.instr k = some i)
    (hf : (n.blk.slotAt k).full i.accept = true) (ha : n.arrived k = true) (ht : n.blk.timed = false)
    (hu : n.anyUnmatched = true → n.blk.unmatched k i = true) :
    exec (.slotFire t k) s = .next { s.setNode t { n with issued := true, slot := k } with focus := t } := by
  have hd : n.slotDue k = true := by
    simp only [Node.slotDue, hp, hr, hi, hw, hk, ht, hf, ha]
    cases hx : n.anyUnmatched
    · simp
    · simp [hu hx]
  refine congrArg Host.Outcome.next ?_
  simp only [hn, hd, hk, ht, hf]
  rfl

/-- Settles O46. -/
theorem nodeSteps : Obligations.NodeSteps := by
  refine ⟨blockFetch_ok, slotFire_ok, commitActs, fun s t n r x hn hp he hd => ?_, fun s t n k x hn hm => ?_⟩
  · refine congrArg Host.Outcome.next ?_
    simp only [hn, if_neg hp, he, hd]
    cases r <;> rfl
  · refine congrArg Host.Outcome.next ?_
    simp only [State.modNode_eq hn]
    have hm' : (s.setNode t { n with fwd := keepForwarded n.fwd k x }).mts.modify t (fun m => { m with fwd := keepForwarded m.fwd k x })
        = s.mts := by
      show Tbl.modify s.mts t _ = s.mts
      simp [Tbl.modify, hm]
    rw [hm']
    rfl

end Sys2Proof.Proofs
end

section
/-! SUPPORT. What the steps at homes leave as it is: the registers beside `mod.health`, and a node whose watch is withdrawn. -/

namespace Sys2Proof.Machine

/-- A register reads as before a write of another register. -/
theorem State.mmioAt_setMmio_ne (s : State) {d e o k : Nat} (x : Word) (h : e * 2 ^ 36 + k ≠ d * 2 ^ 36 + o) :
    (s.setMmio d o x).mmioAt e k = s.mmioAt e k := by
  unfold State.mmioAt State.setMmio Tbl.getD
  dsimp only
  split
  · rw [Tbl.get?_erase_ne _ h]
  · rw [Tbl.get?_set_ne _ _ h]

/-- A first use of memory notes itself in `mod.health` alone. -/
theorem State.touch_mmioAt (s : State) (a : Nat) {d o : Nat} (h : d * 2 ^ 36 + o ≠ 0x10) : (s.touch a).mmioAt d o = s.mmioAt d o := by
  unfold State.touch
  split
  · exact s.mmioAt_setMmio_ne _ (by simpa using h)
  · rfl

/-- What is left of a node whose watch is withdrawn (R212). -/
def Node.unwatched (n : Node) : Node :=
  { n with watch := none, blk := { n.blk with sleep := n.blk.sleep.mapAll fun _ w => { w with held := false } } }

/-- A node's watch is withdrawn: memory is as before, and of the nodes only that one changes. -/
theorem State.unwatch_kept (s : State) (t : Nat) : (s.modNode t Node.unwatched).Kept (s.unwatch t) :=
  (State.Kept.refl _).foldl _ _ fun _ _ k => k.modDie

/-- The first request of a node that is refused after its block waits for the node's next release (R72). -/
theorem State.lateFault_first {s : State} {t : Nat} {n : Node} (c : Cause) (prec : BitVec 2) (addr : Nat) (i : Instr)
    (hn : s.node? t = some n) (hl : n.late = none) :
    s.lateFault t c prec addr i =
      s.setNode t { n with late := some (n.record s.now c prec (BitVec.ofNat 64 addr) 0 0, some i) } := by
  simp only [State.lateFault, hn, hl]

/-- A value fills a register of a node without replicas by its arrival alone. -/
theorem State.sendReg_single {s : State} {t : Nat} {n : Node} (r : DstReg) (k : FwdKey) (x : Vec) (hn : s.node? t = some n)
    (h : n.repMode = 1) : s.sendReg t r k x = s.post (.registerValueArrive t r x) := by
  have hn' : (s.post (.registerValueArrive t r x)).node? t = some n := hn
  simp [State.sendReg, hn', State.forward, h]

end Sys2Proof.Machine
end
section
/-! SETTLING O47. -/

namespace Sys2Proof.Proofs

open Sys2Proof Sys2Proof.Machine Sys2Proof.Claims

/-- An ordered atomic that has the right to its address is handled at its home. -/
theorem orderArrive_eq {s0 s : State} {r : OrdReq}
    (h : (r.accepted = true ∧ s = s0) ∨ (r.accepted = false ∧ s0.permit (dieOf r.req.tile) r.req.m r.req.pa 3 = (true, s))) :
    s0.orderArrive r = s.orderTake { r with accepted := true } := by
  unfold State.orderArrive
  rcases h with ⟨ha, rfl⟩ | ⟨ha, hp⟩
  · rw [if_pos ha]
    congr 1
    cases r
    simp_all
  · rw [if_neg (by simp [ha]), hp]

/-- At its home, an ordered atomic of a context with a stream table goes by its distance from the expected number. -/
theorem orderTake_eq {s : State} {r : OrdReq} {d sl : Nat} (hh : s.orderHome r.req = some (d, sl))
    (hm : (s.mmioAt d (0x10928 + 8 * r.req.m.ctx.toNat)).getLsbD 0 = true) :
    let gap := (r.seqNo - s.expected d r).toNat
    let s1 := s.touch (s.key (s.streamAt d r.req.m.ctx r.stream))
    s.orderTake r =
      if 2 ^ 31 ≤ gap then s1.orderFails r none
      else if gap = 0 then (s1.orderApply d r).orderDrain d r 64
      else if ((s1.die d).aoBuf.filter fun q => s1.orderHome q.req = some (d, sl)).length < 63 then
        s1.modDie d fun x => { x with aoBuf := x.aoBuf ++ [r] }
      else if r.remote then s1.hand .retryAnswer
      else s1.post (.atomoRetryResend
        { r with backoff := if r.backoff = 0 then 64 else Nat.min 1024 (2 * r.backoff), accepted := false }) := by
  intro gap s1
  have hm1 : (s1.mmioAt d (0x10928 + 8 * r.req.m.ctx.toNat)).getLsbD 0 = true := by
    rw [State.touch_mmioAt _ _ (by omega), hm]
  have hp : ∀ x, s.home (dieOf r.req.tile) r.req.pa ≠ .peer x := by
    intro x hx
    rw [State.orderHome, hx] at hh
    exact absurd hh (by simp)
  unfold State.orderTake
  split
  · next hx => exact absurd hx (hp _)
  · next hx _ => rw [hh] at hx; exact absurd hx (by simp)
  · next d' sl' hx _ =>
    obtain ⟨rfl, rfl⟩ : d = d' ∧ sl = sl' := by simpa using hh.symm.trans hx
    have hg : (!(s1.mmioAt d (0x10928 + 8 * r.req.m.ctx.toNat)).getLsbD 0 || decide (2 ^ 31 ≤ gap)) = decide (2 ^ 31 ≤ gap) := by
      rw [hm1]; rfl
    simp only [s1, gap] at hg ⊢
    rw [hg]
    simp only [decide_eq_true_eq]

/-- Draining a stream of a die whose buffer is empty changes nothing. -/
theorem orderDrain_empty {s : State} {d : Nat} (r : OrdReq) (k : Nat) (h : (s.die d).aoBuf = []) : s.orderDrain d r k = s := by
  cases k with
  | zero => rfl
  | succ k => simp [State.orderDrain, h]

/-- Atomics and counter adds that their home accepts are applied and answered. -/
theorem homeAtomics (s s1 : State) (r : AtomReq) (v : Nat × Nat)
    (h : s.atomicAt (dieOf r.tile) r.m r.pa r.ty r.op r.right r.third false = (.ok v, s1)) :
    exec (.atomicAtHome r) s = .next ((s1.mine r.tile s).atomDone r v) := by
  refine congrArg Host.Outcome.next ?_
  simp only [h]

/-- A poll that finds the value ends the wait. -/
theorem pollWatch_ends {s s1 : State} {t : Nat} {n : Node} {w : Watch} {b : List Byte} (hn : s.node? t = some n)
    (hw : n.watch = some w) (hr : s.readCounter (dieOf t) n.master w.pa = (.ok b, s1))
    (hv : w.target ≤ BitVec.ofNat 64 (Sys2Proof.ofBytes b)) :
    (s.pollWatch t).mem = s.mem ∧
      (s.pollWatch t).node? t = some { n.unwatched with reply := some (BitVec.ofNat 64 (Sys2Proof.ofBytes b)) } := by
  have hk : s.Kept s1 := (State.Kept.refl s).readCounter_eq hr
  have hu : (s1.unwatch t).node? t = some n.unwatched := by
    have hn1 : s1.node? t = some n := by rw [State.node?, hk.nodes]; exact hn
    rw [State.node?, (s1.unwatch_kept t).nodes, State.modNode_eq hn1]
    exact State.node?_setNode_self s1 t _
  have hm : (s1.unwatch t).mem = s.mem := by rw [(s1.unwatch_kept t).mem, State.modNode_mem, hk.mem]
  have hp : s.pollWatch t = (s1.unwatch t).modNode t fun n => { n with reply := some (BitVec.ofNat 64 (Sys2Proof.ofBytes b)) } := by
    simp only [State.pollWatch, hn, hw, hr, hv, if_true]
  rw [hp, State.modNode_mem, hm, State.modNode_eq hu]
  exact ⟨rfl, State.node?_setNode_self _ _ _⟩

/-- Settles O47, clause by clause. -/
theorem homeEvents : Obligations.HomeEvents := by
  refine ⟨fun s s1 r v hr h => ?_, fun s s1 r v g k n hr h => ?_, fun s s1 r v h => ?_, fun s0 s r d sl => ?_,
    fun s s1 t n w b hn hw hh hr hv => ?_, fun key s _ => rfl, fun key l s hs => ?_⟩
  · rw [homeAtomics s s1 r v h, State.atomDone, hr]
    rfl
  · intro u hn h1
    have hu : (u.answered r.tile r.held (atomOld r v.2)) = u.setNode r.tile (answeredTo r.held (oldOf r v.2) n) :=
      State.modNode_eq hn _
    rw [homeAtomics s s1 r v h, State.atomDone, hr]
    refine congrArg Host.Outcome.next ((State.sendReg_single (n := answeredTo r.held (oldOf r v.2) n) _ _ _ ?_ h1).trans ?_)
    · exact (congrArg (State.node? · r.tile) hu).trans (State.node?_setNode_self _ _ _)
    · exact congrArg (State.post · _) hu
  · refine congrArg Host.Outcome.next ?_
    simp only [h]
    rfl
  · intro took gap s1 gives ha hh hm
    have hg : ∀ u, s.orderTake took = u → gives u := by
      intro u hu
      have : s0.orderArrive r = u := (orderArrive_eq ha).trans hu
      exact ⟨congrArg Host.Outcome.next this, congrArg Host.Outcome.next this⟩
    have ht := orderTake_eq (r := took) hh hm
    refine ⟨fun h0 => hg _ ?_, ?_, fun h0 h1 h2 => hg _ ?_, fun n h1 hr hn hl => hg _ ?_⟩
    · rw [ht, if_neg (show ¬ 2 ^ 31 ≤ gap by omega), if_pos h0]
    · intro s2 v h0 hs u hu
      refine hg _ ?_
      rw [ht, if_neg (show ¬ 2 ^ 31 ≤ gap by omega), if_pos h0]
      have h3 : s1.orderApply d took = u := by
        simp only [State.orderApply, hs]
        rfl
      exact (congrArg (State.orderDrain · d took 64) h3).trans (orderDrain_empty took 64 hu)
    · rw [ht, if_neg (show ¬ 2 ^ 31 ≤ gap by omega), if_neg (show ¬ gap = 0 from h0)]
      exact if_pos h2
    · rw [ht, if_pos h1]
      exact (if_neg (by simp [took, hr])).trans (State.lateFault_first _ _ _ _ hn hl)
  · have hp := pollWatch_ends hn hw hr hv
    intro u hu
    rw [hu]
    have he : exec (.counterWatchRepoll t) s = .next (s.pollWatch t) := by
      refine congrArg Host.Outcome.next ?_
      simp only [hn, hw, hh, Bool.false_eq_true, if_false]
    exact ⟨_, he, hp.1, _, hp.2, rfl, rfl, rfl, rfl⟩
  · obtain ⟨hp, hu⟩ := hs
    refine congrArg Host.Outcome.next ?_
    simp only [hp, hu, if_true]

end Sys2Proof.Proofs
end

section
/-! SUPPORT. The lines of an L1 and of an RDC slice after a request (R106, R109, R110). -/

namespace Sys2Proof.Machine

theorem State.cache_setCache (s : State) {t : Nat} (c : TileCache) (h : t < 4096) : (s.setCache t c).cache t = c := by
  have hd : dieOf t < 4 := by unfold dieOf; omega
  unfold State.setCache State.cache
  rw [State.die_modDie _ _ hd]
  simp [Tbl.getD]

/-- A line of an L1 reads back, where it has a word. -/
theorem State.l1_setL1 (s : State) {t : Nat} (k : Nat) (l : L1Line) (h : t < 4096) :
    (s.setL1 t k l).l1 t k = if l.valid = 0 then L1Line.empty else l := by
  unfold State.setL1 State.l1
  simp only
  rw [State.cache_setCache _ _ h]
  split <;> simp [Tbl.getD, Tbl.get?_erase_self]

/-- What the line of an L1 holds is so whether or not it is kept without a word. -/
theorem State.l1_setL1_valid (s : State) {t : Nat} (k : Nat) (l : L1Line) (h : t < 4096) : ((s.setL1 t k l).l1 t k).valid = l.valid := by
  rw [State.l1_setL1 _ _ _ h]
  split
  · next hv => rw [hv]; rfl
  · rfl

/-- The words of a span that an L1 has read are valid in it. -/
theorem L1Line.valid_read (l : L1Line) (w : Word32) (u : Int) (excl : Bool) :
    w &&& ~~~({ (if excl then { l with e := l.e ||| (w &&& ~~~l.valid) } else { l with s := l.s ||| (w &&& ~~~l.valid) }) with
      use := u } : L1Line).valid = 0 := by
  cases excl
  all_goals
    simp only [L1Line.valid, if_true, Bool.false_eq_true, if_false]
    ext i hi
    simp
    grind

theorem State.dirRead_valid (s : State) {t : Nat} (ln : Nat) (w : Word32) (lru : Bool) (h : t < 4096) :
    w &&& ~~~((s.dirRead t ln w lru).l1 t (s.dom * 2 ^ 38 + ln)).valid = 0 := by
  unfold State.dirRead
  simp only
  rw [State.l1_setL1_valid _ _ _ h]
  exact L1Line.valid_read _ _ _ _

/-- A line of which an L1 owns a span. -/
def L1Line.owning (l : L1Line) (w : Word32) (u : Int) : L1Line := { l.drop w with m := (l.drop w).m ||| w, use := u }

theorem L1Line.owning_m (l : L1Line) (w : Word32) (u : Int) : w &&& ~~~(l.owning w u).m = 0 := by
  simp only [L1Line.owning, L1Line.drop]
  ext i hi
  simp
  grind

theorem L1Line.owning_rest (l : L1Line) (w : Word32) (u : Int) :
    w &&& ((l.owning w u).o ||| (l.owning w u).e ||| (l.owning w u).s) = 0 := by
  simp only [L1Line.owning, L1Line.drop]
  ext i hi
  simp
  grind

theorem L1Line.owning_none {l : L1Line} {w : Word32} {u : Int} (h : (l.owning w u).valid = 0) : w = 0 := by
  have hm : (l.owning w u).m = 0 := (BitVec.or_eq_zero_iff.1 (BitVec.or_eq_zero_iff.1 (BitVec.or_eq_zero_iff.1 h).1).1).1
  exact (BitVec.or_eq_zero_iff.1 hm).2

/-- A span that an L1 owns is in M there, and in no other state. -/
theorem State.dirOwn_l1 (s : State) {t : Nat} (ln : Nat) (w : Word32) (lru : Bool) (h : t < 4096) :
    let l := (s.dirOwn t ln w lru).l1 t (s.dom * 2 ^ 38 + ln)
    w &&& ~~~l.m = 0 ∧ w &&& (l.o ||| l.e ||| l.s) = 0 := by
  have hl : ∀ (x : State) (k : Nat) (l : L1Line) (u : Int), let y := (x.setL1 t k (l.owning w u)).l1 t k
      w &&& ~~~y.m = 0 ∧ w &&& (y.o ||| y.e ||| y.s) = 0 := by
    intro x k l u
    simp only
    rw [State.l1_setL1 _ _ _ h]
    split
    · next hv =>
      rw [L1Line.owning_none hv]
      exact ⟨BitVec.zero_and, BitVec.zero_and⟩
    · exact ⟨l.owning_m w u, l.owning_rest w u⟩
  exact hl _ _ _ _

namespace State.Kept

variable {s t : State}

theorem dirOwn (h : s.Kept t) {k ln : Nat} {w : Word32} {lru : Bool} : s.Kept (t.dirOwn k ln w lru) := by
  unfold State.dirOwn
  simp only
  refine State.Kept.setL1 (State.Kept.useAt (State.Kept.setDir ?_))
  split
  · exact h.l1Room.dirInval.l2Dirty.modHolder
  · exact h.l1Room.dirInval

end State.Kept

/-- A change of a die beside its tiles leaves the lines of the L1s. -/
theorem State.l1_modDie (s : State) (d : Nat) (f : Die → Die) (hf : ∀ x, (f x).tiles = x.tiles) (t k : Nat) :
    (s.modDie d f).l1 t k = s.l1 t k := by
  have ht : ((s.modDie d f).die (dieOf t)).tiles = (s.die (dieOf t)).tiles := by
    by_cases hd : d = dieOf t
    · subst hd
      by_cases h4 : dieOf t < 4
      · rw [State.die_modDie _ _ h4, hf]
      · simp [State.modDie, State.setDie, State.die, vget, vset, h4]
    · rw [State.die_modDie_ne _ _ hd]
  rw [State.l1, State.cache, ht]
  rfl

theorem State.l1_l2Dirty (s : State) (d ln t k : Nat) : (s.l2Dirty d ln).l1 t k = s.l1 t k :=
  s.l1_modDie d (fun x => { x with l2 := x.l2.modify ln fun l => { l with dirty := true } }) (fun _ => rfl) t k

theorem State.l1_setDir (s : State) (d ln : Nat) (e : DirEntry) (t k : Nat) : (s.setDir d ln e).l1 t k = s.l1 t k :=
  s.l1_modDie d (fun x => { x with dir := if e = DirEntry.empty then x.dir.erase ln else x.dir.set ln e }) (fun _ => rfl) t k

/-- A line that an L1 evicts is gone from it (R106). -/
theorem State.l1Evict_valid (s : State) {t : Nat} (k : Nat) (h : t < 4096) : ((s.l1Evict t k).l1 t k).valid = 0 := by
  have h0 : ((s.setL1 t k L1Line.empty).l1 t k).valid = 0 := by rw [State.l1_setL1_valid _ _ _ h]; rfl
  unfold State.l1Evict
  simp only
  split
  · exact h0
  · split
    · rw [State.l1_setDir, State.l1_l2Dirty]
      exact h0
    · rw [State.l1_l2Dirty]
      exact h0

end Sys2Proof.Machine
end

section
/-! SUPPORT. What an RDC slice holds after a fill (R109, R110). -/

namespace Sys2Proof.Machine

theorem State.Kept.homeLine_eq {s u : State} {d : Nat} {m : Master} {k : Nat} {w : Word32} {lru share : Bool}
    {x : Except AccErr Vec} (h : s.homeLine d m k w lru share = (x, u)) : s.Kept u := by
  have := (State.Kept.refl s).homeLine (d := d) (m := m) (k := k) (w := w) (lru := lru) (share := share)
  rwa [h] at this

/-- A rebase keeps each line of the slice at its place, and its code bytes (R110). -/
theorem State.rebase_rdc (s : State) {d : Nat} (sl : Nat) (r : Bool) (ix n : Nat) (hd : d < 4) :
    ∃ f : Nat → RdcLine → RdcLine, (∀ k l, (f k l).code = l.code) ∧
      ((s.rebase d sl r ix n).die d).rdc = (s.die d).rdc.mapAll f := by
  refine ⟨fun k l => if rdcSlice k = sl && l.stamp.isRound = r && (!r || l.stamp.base = ix) then
    { l with stamp := { l.stamp with off := l.stamp.off - 32768 * n } } else l, fun k l => by dsimp only; split <;> rfl, ?_⟩
  unfold State.rebase
  rw [State.die_modDie _ _ hd]

theorem Tbl.has_mapAll {α : Type} (t : Tbl α) (f : Nat → α → α) (k : Nat) : (Tbl.mapAll t f).has k = t.has k := by
  induction t with
  | nil => rfl
  | cons p t ih =>
    have ih' : (Tbl.get? k (Tbl.mapAll t f)).isSome = (Tbl.get? k t).isSome := ih
    simp only [Tbl.has, Tbl.mapAll, List.map_cons, Tbl.get?] at ih' ⊢
    split
    · rfl
    · exact ih'

/-- A change of a die that a property of it does not see is not seen in the list of that property by die. -/
theorem State.map_dies_modDie {α : Type} (s : State) (d : Nat) (f : Die → Die) (g : Die → α) (h : ∀ x, g (f x) = g x) :
    (s.modDie d f).dies.toList.map g = s.dies.toList.map g := by
  unfold State.modDie State.setDie vset
  rw [Vector.toList_setIfInBounds, List.map_set, h]
  by_cases hd : d < 4
  · have hk : d < s.dies.toList.length := by simpa using hd
    have hdie : s.die d = s.dies.toList[d]'(by simpa using hd) := by
      unfold State.die vget
      rw [List.getElem?_eq_getElem (by simpa using hd)]
      rfl
    have hl : d < (s.dies.toList.map g).length := by simpa using hd
    have hg : g s.dies.toList[d] = (s.dies.toList.map g)[d] := List.getElem_map g |>.symm
    rw [hdie, hg, List.set_getElem_self]
  · rw [List.set_eq_of_length_le (by simpa using hd)]

theorem State.rebase_watched (s : State) (d sl : Nat) (r : Bool) (ix n pa : Nat) : (s.rebase d sl r ix n).watched pa = s.watched pa := by
  have hq : (s.rebase d sl r ix n).queueWatches = s.queueWatches := by
    simp only [State.queueWatches, List.flatMap]
    refine congrArg List.flatten (State.map_dies_modDie s d _ (fun x => x.queues.filterMap fun p => p.2.watch) fun _ => ?_)
    rfl
  unfold State.watched
  rw [hq]
  rfl

/-- A rebase leaves an RDC slice room for the lines that it has room for. -/
theorem State.rebase_rdcFits (s : State) {d : Nat} (sl : Nat) (r : Bool) (ix n k : Nat) (hd : d < 4) :
    (s.rebase d sl r ix n).rdcFits d k = s.rdcFits d k := by
  obtain ⟨f, hf, hr⟩ := s.rebase_rdc sl r ix n hd
  have hs : (s.rebase d sl r ix n).rdcSet d k = Tbl.mapAll (s.rdcSet d k) f := by
    simp only [State.rdcSet, hr, Tbl.mapAll, List.filter_map]
    rfl
  have hp : ∀ p : Nat × RdcLine, (s.rebase d sl r ix n).rdcStays d (p.1, f p.1 p.2) = s.rdcStays d p := by
    intro p
    unfold State.rdcStays
    rw [State.rebase_watched, hf]
    rfl
  unfold State.rdcFits
  rw [hs, hr, Tbl.has_mapAll]
  simp only [Tbl.mapAll, List.length_map, List.any_map, Function.comp_def, hp]

/-- A line that is put into an RDC slice that has room for it stands there (R110). -/
theorem State.rdcPut_line (s : State) {d : Nat} (k : Nat) (w : Word32) (v : Vec) (st : Stamp) (lru : Bool) (hd : d < 4)
    (h : s.rdcFits d k = true) :
    ∃ l, Tbl.get? k ((s.rdcPut d k w v st lru).die d).rdc = some l ∧ w &&& ~~~l.valid = 0 ∧ l.data = v ∧ l.stamp = st := by
  unfold State.rdcPut
  rw [if_neg (by simp [h])]
  dsimp only
  rw [State.die_modDie _ _ hd]
  refine ⟨_, Tbl.get?_set_self _ _ _, ?_, rfl, rfl⟩
  dsimp only
  ext i hi
  simp
  grind

end Sys2Proof.Machine
end
section
/-! SETTLING O48. -/

namespace Sys2Proof.Proofs

open Sys2Proof Sys2Proof.Machine Sys2Proof.Claims

/-- A line homed elsewhere that comes back stands in the RDC slice, whole, under a time stamp. -/
theorem rdcFill_line {s s1 : State} {m : Master} {d ln : Nat} {v : Vec} (hd : d < 4) (hf : s.farLine d (ln * 128) = true)
    (hh : s.homeLine d m ln (BitVec.allOnes 32) false true = (.ok v, s1)) (hr : s1.rdcFits d ln = true) :
    ∃ u, exec (.rdcFill m d ln none) s = .next u ∧ (∃ l, Tbl.get? ln (u.die d).rdc = some l ∧ l.valid = BitVec.allOnes 32 ∧
      l.data = s.lineAt ln ∧ l.stamp.isRound = false) ∧ u.mem = s.mem ∧ u.nodes = s.nodes := by
  let p := s1.timeStamp d (rdcSlice ln)
  have he : exec (.rdcFill m d ln none) s = .next (p.2.rdcPut d ln (BitVec.allOnes 32) v p.1 false) := by
    refine congrArg Host.Outcome.next ?_
    simp only [hf, Bool.not_true, Bool.false_eq_true, if_false, hh]
    rfl
  have hk : s.Kept (p.2.rdcPut d ln (BitVec.allOnes 32) v p.1 false) := (State.Kept.homeLine_eq hh).timeStamp.rdcPut
  obtain ⟨l, hl, hw, hdata, hst⟩ := p.2.rdcPut_line ln (BitVec.allOnes 32) v p.1 false hd
    ((s1.rebase_rdcFits _ _ _ _ _ hd).trans hr)
  have hv : l.valid = BitVec.allOnes 32 := by
    rw [BitVec.allOnes_and, BitVec.not_eq_comm] at hw
    rw [hw]
    exact BitVec.not_zero
  exact ⟨_, he, ⟨l, hl, hv, hdata.trans (State.homeLine_ok hh), by rw [hst]; rfl⟩, hk.mem, hk.nodes⟩

/-- An invalidation may end once nothing uses what it has dropped (R90). -/
theorem tlbClear_of {s : State} {d : Nat} (hm : ∀ p ∈ s.mts, dieOf p.1 = d → p.2.implicitReq = false)
    (hn : ∀ p ∈ s.nodes, dieOf p.1 = d → p.2.implicitReq = false ∧ p.2.commitUses (s.die d).tlbReq = false)
    (hr : s.requestsUse d (s.die d).tlbReq = false)
    (he : ∀ q ∈ (s.die d).engines, ∀ f ∈ q.2.fly, ∀ a, f.name = some a → tlbNames (s.die d).tlbReq a.1 a.2 = false)
    (hs : ∀ m ∈ (s.die d).misses, m.stale = false) : s.tlbClear d = true := by
  have he' : ((s.die d).engines.any fun q => q.2.fly.any fun f => f.name.any fun a => tlbNames (s.die d).tlbReq a.1 a.2) = false := by
    simp only [List.any_eq_false, Option.any_eq_true, not_exists, not_and, Bool.not_eq_true]
    exact he
  have hn' : (s.nodes.any fun p => dieOf p.1 = d && (p.2.implicitReq || p.2.commitUses (s.die d).tlbReq)) = false := by
    refine List.any_eq_false.2 fun p hp => ?_
    by_cases hd : dieOf p.1 = d
    · obtain ⟨h1, h2⟩ := hn p hp hd
      simp [h1, h2]
    · simp [hd]
  have hm' : (s.mts.any fun p => dieOf p.1 = d && p.2.implicitReq) = false := by
    refine List.any_eq_false.2 fun p hp => ?_
    by_cases hd : dieOf p.1 = d
    · simp [hm p hp hd]
    · simp [hd]
  have hs' : (s.die d).misses.any (·.stale) = false := List.any_eq_false.2 fun m hm => by simp [hs m hm]
  unfold State.tlbClear
  simp only
  rw [hr, he', hn', hm', hs']
  rfl

/-- The walker of a miss reads one entry (R85, R88). -/
theorem pageWalk_eq {s : State} {d : Nat} {c : BitVec 12} {page : Nat} {m : Miss} (kind : AccKind) (cls : BitVec 3)
    (r : Requester) (hw : (s.die d).walking c page = some m) : exec (.pageWalk d c page kind cls r) s = .next (s.walkStep d c page) := by
  have hk : ((s.die d).misses.any fun m => m.ctx = c && m.page = page && m.why.isNone) = true := by
    have h1 := List.mem_of_find?_eq_some hw
    have h2 := List.find?_some hw
    have h3 := List.mem_filter.1 (List.mem_of_mem_take h1)
    refine List.any_eq_true.2 ⟨m, h3.1, ?_⟩
    rw [h2, h3.2]
    rfl
  refine congrArg Host.Outcome.next ?_
  simp only [hk, if_true]

/-- What becomes of one miss is told by that miss. -/
theorem modMiss_at (m : Miss) (g : Miss → List Miss) (l : List Miss) :
    modMiss (fun y => y = m) g l = modMiss (fun y => y = m) (fun _ => g m) l := by
  induction l with
  | nil => rfl
  | cons x l ih =>
    by_cases h : x = m
    · simp [modMiss, h]
    · simp [modMiss, h, ih]

theorem modDie_misses (s : State) (d : Nat) (m : Miss) (g : Miss → List Miss) :
    (s.modDie d fun x => { x with misses := modMiss (fun y => y = m) g x.misses }) =
      s.modDie d fun x => { x with misses := modMiss (fun y => y = m) (fun _ => g m) x.misses } :=
  congrArg (State.modDie s d) (funext fun x => by rw [modMiss_at])

/-- A span read for an L1 is valid there (R106). -/
theorem homeReadRequest_valid {s s1 : State} {m : Master} {t ln f c : Nat} {v : Vec} (ht : t < 4096)
    (hh : s.homeLine (dieOf t) m (s.dom * 2 ^ 38 + ln) (spanMask f c) false false = (.ok v, s1))
    (ho : s1.ownLine (dieOf t) (s1.global (ln * 128)) = true) :
    ∃ u, exec (.homeReadRequest m t ln f c) s = .next u ∧
      spanMask f c &&& ~~~(u.l1 t (s.dom * 2 ^ 38 + ln)).valid = 0 ∧ u.mem = s.mem ∧ u.nodes = s.nodes := by
  have hk := State.Kept.homeLine_eq hh
  have hk' : s.Kept (s1.dirRead t ln (spanMask f c) false) := hk.dirRead
  have he : exec (.homeReadRequest m t ln f c) s = .next (s1.dirRead t ln (spanMask f c) false) := by
    refine congrArg Host.Outcome.next ?_
    rw [hh]
    exact if_pos ho
  refine ⟨_, he, ?_, hk'.mem, hk'.nodes⟩
  rw [← hk.dom]
  exact s1.dirRead_valid ln _ false ht

/-- A span that an L1 comes to own is in M there and in no other state (R106). -/
theorem ownershipRequest_owned {s : State} {t : Nat} (ln f c : Nat) (ht : t < 4096)
    (ho : s.ownLine (dieOf t) (s.global (ln * 128)) = true) :
    ∃ u, exec (.ownershipRequest t ln f c) s = .next u ∧
      let l := u.l1 t (s.dom * 2 ^ 38 + ln)
      spanMask f c &&& ~~~l.m = 0 ∧ spanMask f c &&& (l.o ||| l.e ||| l.s) = 0 ∧ u.mem = s.mem ∧ u.nodes = s.nodes := by
  have hk : s.Kept (s.l2Use (dieOf t) ln false) := (State.Kept.refl s).l2Use
  have hk' : s.Kept ((s.l2Use (dieOf t) ln false).dirOwn t ln (spanMask f c) false) := hk.dirOwn
  obtain ⟨h1, h2⟩ := (s.l2Use (dieOf t) ln false).dirOwn_l1 ln (spanMask f c) false ht
  rw [hk.dom] at h1 h2
  exact ⟨_, congrArg Host.Outcome.next (if_pos ho), h1, h2, hk'.mem, hk'.nodes⟩

/-- The next invalidation of a die is none where none is held: the one under way ends (R90). -/
theorem tlbEnd_last {s : State} {d : Nat} (hd : d < 4) (hq : (s.die d).tlbHeld = []) :
    s.tlbEnd d = s.setDie d { s.die d with tlbBusy := false } := by
  have : ((s.modDie d fun y => { y with tlbBusy := false }).die d).tlbHeld = [] := by rw [State.die_modDie _ _ hd]; exact hq
  simp only [State.tlbEnd, this]
  rfl

/-- A walker whose miss is not stale reads the entry of its table: the walk goes on, ends in a page, or ends in a fault (R85, R88). -/
theorem walkStep_cases {s : State} {d : Nat} {c : BitVec 12} {page : Nat} {m : Miss} {l table : Nat}
    (hw : (s.die d).walking c page = some m) (hs : m.stale = false) (ha : m.at_ = some (l, table)) :
    let va := page * 65536
    let u := s.readEntry d va table l
    let noted (s : State) (m2 : Miss) : State :=
      s.modDie d fun x => { x with misses := modMiss (fun y => y = m) (fun _ => [m2]) x.misses }
    (∀ n, u.entryAt c va table l = .next n → s.walkStep d c page = noted (u.walkNote d c va l n) { m with at_ := some (l - 1, n) }) ∧
    (∀ e w, u.entryAt c va table l = .page e w → s.walkStep d c page = (u.missPage d e l w).tlbFill d none e) ∧
    ∀ why, u.entryAt c va table l = .fault why → s.walkStep d c page = noted u { m with why := some why } := by
  intro va u noted
  refine ⟨fun n he => ?_, fun e w he => ?_, fun why he => ?_⟩
  all_goals
    simp only [u, va] at he
    simp only [State.walkStep, hw, ha, Option.isSome_some, if_true, he, hs, Bool.false_eq_true, if_false]
  · exact (modDie_misses _ _ _ _).trans (by simp only [hs]; rfl)
  · rfl
  · exact (modDie_misses _ _ _ _).trans (by simp only [hs, ha, Bool.false_eq_true, if_false]; rfl)

/-- Settles O48, clause by clause. -/
theorem cacheAndTranslationEvents : Obligations.CacheAndTranslationEvents := by
  refine ⟨fun m t ln f c hc hf ht => ?_, fun m d ln hd s hs => ?_, fun s d c page kind cls r m l table => ?_,
    fun d r l fill k s hs => ?_, fun d hd s hs => ?_⟩
  · refine ⟨fun s hs => ?_, fun s hs => ownershipRequest_owned ln f c ht hs, fun s _ => ?_⟩
    · obtain ⟨ho, v, s1, hh, ho1⟩ := hs
      exact homeReadRequest_valid ht hh ho1
    · have hk : s.Kept (s.l1Evict t (s.dom * 2 ^ 38 + ln)) := (State.Kept.refl s).l1Evict
      exact ⟨_, rfl, s.l1Evict_valid _ ht, hk.mem, hk.nodes⟩
  · obtain ⟨hf, v, s1, hh, hr⟩ := hs
    exact rdcFill_line hd hf hh hr
  · intro va u noted hw hs ha
    obtain ⟨h1, h2, h3⟩ := walkStep_cases hw hs ha
    have hp := pageWalk_eq kind cls r hw
    exact ⟨fun n he => hp.trans (congrArg _ (h1 n he)), fun e w he => hp.trans (congrArg _ (h2 e w he)),
      fun why he => hp.trans (congrArg _ (h3 why he))⟩
  · obtain ⟨h1, h2, rfl⟩ := hs
    refine congrArg Host.Outcome.next ?_
    rw [State.drainRing, if_pos rfl, h1]
    simp only [List.length_singleton, State.drainFlt, h1, h2]
  · obtain ⟨hb, hq, hm, hn, hr, he, hst⟩ := hs
    refine congrArg Host.Outcome.next ((if_pos ?_).trans (tlbEnd_last hd hq))
    rw [hb, tlbClear_of hm hn hr he hst]
    rfl

end Sys2Proof.Proofs
end

section
/-! SETTLING O49. -/

namespace Sys2Proof.Machine

theorem Token.isMarker_data {k : Token} (h : k.kind = 0) : k.isMarker = false := by simp [Token.isMarker, h]
theorem Token.isDrain_data {k : Token} (h : k.kind = 0) : k.isDrain = false := by simp [Token.isDrain, Token.isCtl, h]

/-- No token barrier holds back a data token (R231). -/
theorem State.barred_data (s : State) (k : Nat) {x : PortTok} (h : x.tok.kind = 0) : s.barred k x = false := by simp [State.barred, h]

/-- No entry passes a test that each fails. -/
theorem listFind_eq_none {α : Type} {f : α → Bool} {l : List α} (h : ∀ x ∈ l, f x = false) (i : Nat) : listFind f l i = none := by
  induction l generalizing i with
  | nil => rfl
  | cons x l ih =>
    rw [listFind, h x List.mem_cons_self]
    exact ih (fun y hy => h y (List.mem_cons_of_mem _ hy)) _

/-- An update token that can be applied whole is applied (R132). -/
theorem State.applyToken_ok {s s1 : State} {m m1 : Mt} {k : Token} (done : Mt → Mt)
    (h : s.applyUpdates m (Config.updates k.payload k.count) = (some m1, s1)) : s.applyToken m k done = s1.putMt (done m1) := by
  simp only [State.applyToken, h]

/-- A counter add of a port that its home accepts is made (R346). -/
theorem State.portAdd_ok {s s1 s2 : State} {t p : Nat} {va n : Word} {e : TlbEnt} {v : Nat × Nat} (hx : s.portAddNext t p = some (va, n))
    (hs : s.shadowAt t = false) (ha : va.toNat % 8 = 0)
    (h1 : s.xlate (dieOf t) (some t) (s.ctxOfTile t) va .write 0 (s.tileAssist t).1 (s.tileAssist t).2 = (.ok e, s1))
    (h2 : s1.counterAt (dieOf t) ⟨s.ctxOfTile t, 0⟩ (e.phys va.toNat) n = (.ok v, s2)) : s.portAdd t p = s2.portAddGone t p := by
  simp only [State.portAdd, hx, hs, Bool.false_eq_true, if_false, ha, ne_eq, not_true, h1, h2]

end Sys2Proof.Machine

namespace Sys2Proof.Proofs

open Sys2Proof Sys2Proof.Machine Sys2Proof.Claims

/-- A random tile reads the request at the head of a port's queue, or sends its oldest answer: a free choice where both do something. -/
theorem randomRequest_eq {s : State} {t : Nat} (p : Nat) {m : Mt} (hm : Tbl.get? t s.mts = some m) (ha : s.acts t = true)
    (hk : m.mode = .random) :
    exec (.mtRandomRequest t p) s = .next (
      if s.randomSend m p = s then s.randomRead m p
      else if s.randomRead m p = s then s.randomSend m p
      else if (s.pick 2).1 = 0 then (s.pick 2).2.randomSend m p else (s.pick 2).2.randomRead m p) := by
  refine congrArg Host.Outcome.next ?_
  simp only [hm, ha, hk, Bool.not_true, ne_eq, not_true, decide_false, Bool.or_self, Bool.false_eq_true, if_false]

theorem randomRequest_answers {s u : State} {t p : Nat} {m : Mt} {r : MtReq} {l : List MtReq} (hm : Tbl.get? t s.mts = some m)
    (ha : s.acts t = true) (hk : m.mode = .random) (ht : m.tile = t) (hf : m.fly.getD p [] = r :: l)
    (hq : m.portQ.getD p [] = [] ∨ 63 ≤ l.length) (hd : s.timedPort t true p = true → r.at_ + 4 ≤ s.regionCyc m.region)
    (hs : s.sendOut (4 * t + p) r.tok = some u) :
    exec (.mtRandomRequest t p) s = .next (u.putMt { m with fly := if l.isEmpty then m.fly.erase p else m.fly.set p l }) := by
  have hdue : s.answerDue m p r = true := by
    unfold State.answerDue
    rw [ht]
    cases hp : s.timedPort t true p
    · rfl
    · simpa using hd hp
  have hsend : s.randomSend m p = u.putMt { m with fly := if l.isEmpty then m.fly.erase p else m.fly.set p l } := by
    simp only [State.randomSend, hf, hdue, Bool.not_true, Bool.false_eq_true, if_false, ht, hs]
  have hread : s.randomRead m p = s := by
    unfold State.randomRead
    split
    · rfl
    · next q rest hq' =>
      have : 64 ≤ (m.fly.getD p []).length := by
        rw [hf, List.length_cons]
        rcases hq with hq | hq
        · exact absurd (hq.symm.trans hq') (List.cons_ne_nil _ _).symm
        · omega
      exact if_pos this
  rw [randomRequest_eq p hm ha hk, hread, if_pos rfl, hsend]
  refine congrArg Host.Outcome.next ?_
  by_cases h : u.putMt { m with fly := if l.isEmpty then m.fly.erase p else m.fly.set p l } = s
  · exact (if_pos h).trans h.symm
  · exact if_neg h

theorem randomRequest_reads {s s1 : State} {t p : Nat} {m m1 : Mt} {q : MtReq} {l : List MtReq} {w : List Word32}
    (hm : Tbl.get? t s.mts = some m) (ha : s.acts t = true) (hk : m.mode = .random) (ht : m.tile = t) (hf : m.fly.getD p [] = [])
    (hq : m.portQ.getD p [] = q :: l)
    (hw : s.randomWords m (s.isGlobalPort t p) q.tok (List.range (q.tok.count + 1)) = (some (w, m1), s1)) :
    exec (.mtRandomRequest t p) s = .next (s1.putMt { m1.served p with
      fly := m1.fly.set p (m1.fly.getD p [] ++ [⟨⟨ofLanes fun i => (w[i]?).getD 0, q.tok.side⟩, q.at_⟩]) }) := by
  have hsend : s.randomSend m p = s := by simp only [State.randomSend, hf]
  rw [randomRequest_eq p hm ha hk, if_pos hsend, State.randomRead, hq]
  refine congrArg Host.Outcome.next ?_
  simp only [hf, List.length_nil, ht, hw]
  exact if_neg (by omega)

/-- An ordered-update tile whose buffer holds no update whose turn it is and none too far ahead goes by the head of the port's queue. -/
theorem orderedUpdate_eq {s : State} {t p : Nat} {m : Mt} {q : MtReq} {l : List MtReq} (hm : Tbl.get? t s.mts = some m)
    (ha : s.acts t = true) (hk : m.mode = .ordered) (hq : m.portQ.getD p [] = q :: l)
    (hw : ∀ x ∈ m.waiting.getD p [], x.1 ≠ m.expected.getD p 0 ∧ (x.1 + 65536 - m.expected.getD p 0) % 65536 ≤ 63) :
    let e := m.expected.getD p 0
    let n := (q.tok.tag.toNat + 65536 - e) % 65536
    let next (m : Mt) : Mt := { m with expected := m.expected.set p ((e + 1) % 65536) }
    exec (.mtOrderedUpdate t p) s = .next (
      if m.arrival then s.applyToken m q.tok fun m => m.served p
      else if n = 0 then s.applyToken m q.tok fun m => next (m.served p)
      else if 63 < n then s.elemFault t .mtSequence p
      else if 63 ≤ (m.waiting.getD p []).length then
        (match listFind (fun (r : MtReq) => r.tok.tag.toNat = e) (q :: l) 0 with
          | some (k, r) => s.applyToken m r.tok fun m => next (m.servedAt p k)
          | none => s)
      else s.putMt { m.served p with waiting := m.waiting.set p (m.waiting.getD p [] ++ [(q.tok.tag.toNat, q.tok)]) }) := by
  intro e n next
  have h1 : listFind (fun (x : Nat × Token) => decide (x.1 = m.expected.getD p 0)) (m.waiting.getD p []) 0 = none :=
    listFind_eq_none (fun x hx => decide_eq_false (hw x hx).1) 0
  have h2 : ((m.waiting.getD p []).any fun x => decide (63 < (x.1 + 65536 - m.expected.getD p 0) % 65536)) = false :=
    List.any_eq_false.2 fun x hx => by simpa using (hw x hx).2
  refine congrArg Host.Outcome.next ?_
  simp only [hm, ha, hk, h1, h2, hq, Bool.not_true, ne_eq, not_true, decide_false, Bool.or_self, Bool.false_eq_true, if_false]
  rfl

/-- A streaming tile whose walk reads memory goes on by one of the things that are due. -/
theorem sequencerElement_eq {s : State} {t : Nat} {m : Mt} (hm : Tbl.get? t s.mts = some m) (ha : s.acts t = true)
    (hk : m.mode = .streaming) (hs : m.started = true) (hd : m.done = false) (hi : m.implicitReq = false) (hw : m.seqWrites = false) :
    exec (.sequencerElement t) s = .next (s.seqOut m) := by
  refine congrArg Host.Outcome.next ?_
  simp only [hm, State.walks, ha, hk, hs, hd, hi, hw]
  rfl

/-- A carrier alone at a decoder's head, where no bits are left over: what its frame gives (R236). -/
theorem px8Decode_alone {s : State} {t p : Nat} {x : PortTok} (hc : (s.port (4 * t + p)).carriers = [x]) (ha : s.acts t = true)
    (hk : x.tok.kind = 0) (hf : x.tok.fmt = 7) (hn : (s.port (4 * t + p)).taken = [])
    (ht : ∀ y ∈ (s.port (4 * t + p)).toks, y.tok.isMarker = false) :
    exec (.px8FrameDecode t p) s = .next (match px8Frame [x.tok.payload] (s.port (4 * t + p)).bit with
      | .error .bad => s.px8Fault t p
      | .error .more => (s.setPort (4 * t + p) { s.port (4 * t + p) with carriers := [], taken := [x] }).creditBack x.edge
      | .ok (sc, es, j) =>
        if !(match Tbl.get? x.edge s.edges with
          | some y => decide (s.buffered x.edge y + 2 ≤ y.depth)
          | none => true) then s
        else
          ([x].take (j / 1024)).foldl (fun s k => s.creditBack k.edge) (s.setPort (4 * t + p) { s.port (4 * t + p) with
            toks := (s.port (4 * t + p)).toks ++ [⟨x.edge, px8Token 6 sc x.tok.tag⟩, ⟨x.edge, px8Token 3 es x.tok.tag⟩]
            carriers := [x].drop (j / 1024), taken := [], bit := j % 1024 })) := by
  have hcar : x.tok.isCarrier = true := by simp [Token.isCarrier, hk, hf]
  have hmark : ((s.port (4 * t + p)).toks.any fun k => k.tok.isMarker) = false := List.any_eq_false.2 fun y hy => by simp [ht y hy]
  have h3 : x.tok.kind ≠ 3 := by rw [hk]; decide
  refine congrArg Host.Outcome.next ?_
  simp only [hc, ha, Token.isMarker_data hk, Token.isDrain_data hk, decide_eq_false h3, hcar, hmark, Bool.not_true, Bool.false_and, Bool.or_self,
    Bool.false_eq_true, if_false]
  simp only [State.px8Decode, hc, hn, hcar, List.takeWhile_cons, if_true, List.takeWhile_nil, List.nil_append, List.map_cons, List.map_nil]
  rfl

/-- The start token, requests and the modes of a memory tile that acts. -/
theorem mtActs {s : State} {t : Nat} {m : Mt} (hm : Tbl.get? t s.mts = some m) (ha : s.acts t = true) :
    (m.mode = .streaming → m.started = false →
      exec (.mtStartToken t) s = .next (s.putMt { m with started := true, mark := s.now.toNat / 1024 })) ∧
    (∀ (p : Nat) (x : PortTok),
      let q := m.portQ.getD p []
      m.mode ≠ .streaming → m.done = false → s.headTok (4 * t + p) = some x → x.tok.kind = 0 → s.isCaddPort t p = false →
      q.length < 16 → (m.mode = .random → x.tok.fmt = 7) →
      exec (.mtPortRequest t p) s = .next ((s.popAt (4 * t + p) 0).2.putMt { m with
        portQ := m.portQ.set p (q ++ [⟨x.tok, (s.popAt (4 * t + p) 0).2.regionCyc m.region⟩]) })) := by
  refine ⟨fun hk hs => ?_, ?_⟩
  · refine congrArg Host.Outcome.next ?_
    simp only [hm, hk, hs, ha]
    rfl
  · intro p x q hk hd hx h0 hc hq hf
    have h3 : x.tok.kind ≠ 3 := by rw [h0]; decide
    have h1 : x.tok.kind ≠ 1 := by rw [h0]; decide
    have hq' : ¬ 16 ≤ (m.portQ.getD p []).length := Nat.not_le.2 hq
    have hf' : (decide (m.mode = .random) && decide (x.tok.fmt ≠ 7)) = false := by
      by_cases hr : m.mode = .random
      · simp [hf hr]
      · simp [hr]
    refine congrArg Host.Outcome.next ?_
    simp only [hm, hx, ha, decide_eq_false hk, hd, Token.isMarker_data h0, Token.isDrain_data h0, decide_eq_false h3, s.barred_data _ h0, hc,
      Bool.not_true, Bool.or_self, Bool.false_eq_true, if_false, if_neg h1, if_neg hq', hf']
    rfl

/-- The ordered updates of a memory tile that acts. -/
theorem mtOrders {s : State} {t : Nat} {m : Mt} (hm : Tbl.get? t s.mts = some m) (ha : s.acts t = true) :
    (∀ (p : Nat) (q : MtReq) (l : List MtReq), m.mode = .ordered → m.portQ.getD p [] = q :: l → m.waiting.getD p [] = [] →
      (∀ (m1 : Mt) (s1 : State), m.arrival = true → s.applyUpdates m (Config.updates q.tok.payload q.tok.count) = (some m1, s1) →
        exec (.mtOrderedUpdate t p) s = .next (s1.putMt (m1.served p))) ∧
      (let ahead := (q.tok.tag.toNat + 65536 - m.expected.getD p 0) % 65536
       m.arrival = false → 0 < ahead → ahead ≤ 63 →
        exec (.mtOrderedUpdate t p) s = .next (s.putMt { m.served p with
          waiting := m.waiting.set p [(q.tok.tag.toNat, q.tok)] }))) ∧
    (∀ (p k : Nat) (q r : MtReq) (l : List MtReq) (m1 : Mt) (s1 : State),
      let e := m.expected.getD p 0
      let ahead (n : Nat) : Nat := (n + 65536 - e) % 65536
      m.mode = .ordered → m.arrival = false → m.portQ.getD p [] = q :: l → 63 ≤ (m.waiting.getD p []).length →
      (∀ x ∈ m.waiting.getD p [], x.1 ≠ e ∧ ahead x.1 ≤ 63) → 0 < ahead q.tok.tag.toNat → ahead q.tok.tag.toNat ≤ 63 →
      listFind (fun (r : MtReq) => r.tok.tag.toNat = e) (q :: l) 0 = some (k, r) →
      s.applyUpdates m (Config.updates r.tok.payload r.tok.count) = (some m1, s1) →
      exec (.mtOrderedUpdate t p) s = .next (s1.putMt { m1.servedAt p k with
        expected := (m1.servedAt p k).expected.set p ((e + 1) % 65536) })) := by
  refine ⟨fun p q l hk hq hw => ?_, ?_⟩
  · have he := orderedUpdate_eq hm ha hk hq fun x hx => by rw [hw] at hx; exact absurd hx List.not_mem_nil
    refine ⟨fun m1 s1 hr hu => ?_, ?_⟩
    · rw [he, if_pos hr, State.applyToken_ok _ hu]
    · intro ahead hr h0 h1
      rw [he, if_neg (by simp [hr]), if_neg (show ¬ ahead = 0 by omega), if_neg (show ¬ 63 < ahead by omega), hw, if_neg (by simp)]
      rfl
  · intro p k q r l m1 s1 e ahead hk hr hq hl hw h0 h1 hf hu
    rw [orderedUpdate_eq hm ha hk hq hw, if_neg (by simp [hr]), if_neg (show ¬ ahead q.tok.tag.toNat = 0 by omega),
      if_neg (show ¬ 63 < ahead q.tok.tag.toNat by omega), if_pos hl, hf]
    exact congrArg Host.Outcome.next (State.applyToken_ok _ hu)

/-- The walk of a streaming tile that reads memory (R131 to R136). -/
theorem mtWalks {s : State} {t : Nat} {m : Mt} (hm : Tbl.get? t s.mts = some m) (ha : s.acts t = true) (hk : m.mode = .streaming)
    (hs : m.started = true) (hd : m.done = false) (hi : m.implicitReq = false) (hw : m.seqWrites = false) :
    (∀ x : SeqAct, s.seqDue m = [x] → exec (.sequencerElement t) s = .next (s.seqDo m x)) ∧
    (∀ (x y : SeqAct) (l : List SeqAct) (k : Nat) (u : State), s.seqDue m = x :: y :: l → s.pick (l.length + 2) = (k, u) →
      exec (.sequencerElement t) s = .next (u.seqDo m (((x :: y :: l)[k]?).getD x))) ∧
    (∀ (b : List Byte) (m1 : Mt), m.issued = false → m.seqGlobal = false →
      m.buf.length + (pieces m.seqAddr m.seqTy.bytes 3).length ≤ 64 →
      s.spadRead m (pieces m.seqAddr m.seqTy.bytes 3) = .ok (b, m1) →
      let held : Mt := { m1 with buf := m1.buf ++ [⟨m.seqAddr, b.length, some b⟩] }
      s.seqDo m .issue = s.putMt held.walked.packedUp) ∧
    (∀ (b : List Byte) (m1 : Mt) (i a n : Nat) (s1 : State), m.buf[i]? = some ⟨a, n, none⟩ →
      s.mtRead m m.seqPolicy [(a, n)] = (some b, s1) →
      let had : Mt := { m with buf := m.buf.set i ⟨a, n, some b⟩ }
      s.seqDo m (.answer i) = s1.putMt had.packedUp) ∧
    (∀ u : State, m.pack.length = 128 → s.sendOut (4 * m.tile + m.seqPort) (seqToken m.seqTy m.pack) = some u →
      let sent : Mt := { m with pack := [] }
      s.seqDo m .send = u.putMt sent.packedUp) := by
  have he := sequencerElement_eq hm ha hk hs hd hi hw
  refine ⟨fun x hx => ?_, fun x y l k u hx hp => ?_, fun b m1 h1 h2 h3 h4 => ?_, fun b m1 i a n s1 h1 h2 => ?_, fun u h1 h2 => ?_⟩
  · rw [he, State.seqOut, hx]
  · have hp' : s.pick (x :: y :: l).length = (k, u) := hp
    rw [he, State.seqOut, hx]
    simp only [hp']
  · have h3' : ¬ 64 < m.buf.length + (pieces m.seqAddr m.seqTy.bytes 3).length := by omega
    simp only [State.seqDo, State.seqIssue, h1, h2, decide_eq_false h3', Bool.or_self, Bool.false_eq_true, if_false, h4]
  · simp only [State.seqDo, State.seqAnswer, h1, h2]
  · simp only [State.seqDo, State.seqSend, h1, decide_true, Bool.true_or, if_true, h2]

/-- The counter adds of a port (R346). -/
theorem portAdds (s : State) (t p : Nat) (va amount : Word) (x : PortTok) (ha : s.acts t = true) :
    let key := 4 * t + p
    let n : Word := if amount = 0 then (lane x.tok.payload 0).setWidth 64 else amount
    (∀ (va n : Word) (l : List (Word × Word)) (e : TlbEnt) (v : Nat × Nat) (s1 s2 : State), (s.port key).due = (va, n) :: l →
      s.shadowAt t = false → va.toNat % 8 = 0 →
      s.xlate (dieOf t) (some t) (s.ctxOfTile t) va .write 0 (s.tileAssist t).1 (s.tileAssist t).2 = (.ok e, s1) →
      s1.counterAt (dieOf t) ⟨s.ctxOfTile t, 0⟩ (e.phys va.toNat) n = (.ok v, s2) → (s2.port key).due = (va, n) :: l →
      exec (.counterAddPortToken t p) s = .next (s2.modPort key fun p => { p with due := l })) ∧
    ((s.port key).due = [] → s.caddOf t p = some (va, amount) → s.headTok key = some x → x.tok.kind = 0 → s.barred key x = false →
      (s.keeps t = true → exec (.counterAddPortToken t p) s =
        .next (((s.popAt key 0).2.modPort key fun p => { p with adds := p.adds ++ [(va, n)] }).askCut (s.regionOf t) t)) ∧
      (∀ (e : TlbEnt) (v : Nat × Nat) (s1 s2 : State), s.keeps t = false → s.shadowAt t = false → va.toNat % 8 = 0 →
        s.xlate (dieOf t) (some t) (s.ctxOfTile t) va .write 0 (s.tileAssist t).1 (s.tileAssist t).2 = (.ok e, s1) →
        s1.counterAt (dieOf t) ⟨s.ctxOfTile t, 0⟩ (e.phys va.toNat) n = (.ok v, s2) → (s2.port key).due = [] →
        exec (.counterAddPortToken t p) s = .next (s2.popAt key 0).2)) := by
  intro key n
  have hadd : ∀ a, s.portAddNext t p = some a → exec (.counterAddPortToken t p) s = .next (s.portAdd t p) := by
    intro a h
    refine congrArg Host.Outcome.next ?_
    simp only [ha, h, Bool.not_true, Bool.false_eq_true, if_false, Option.isSome_some, if_true]
  refine ⟨fun va n l e v s1 s2 hd hs hva h1 h2 h3 => ?_, fun hd hc hx h0 hb => ⟨fun hk => ?_, fun e v s1 s2 hk hs hva h1 h2 h3 => ?_⟩⟩
  · have hn : s.portAddNext t p = some (va, n) := by
      have hd' : (s.port (4 * t + p)).due = (va, n) :: l := hd
      simp only [State.portAddNext, hd']
    have h3' : (s2.port (4 * t + p)).due = (va, n) :: l := h3
    rw [hadd _ hn, State.portAdd_ok hn hs hva h1 h2]
    simp only [State.portAddGone, h3']
    rfl
  all_goals
    have hd' : (s.port (4 * t + p)).due = [] := hd
    have hx' : s.headTok (4 * t + p) = some x := hx
    have hb' : s.barred (4 * t + p) x = false := hb
    have k3 : x.tok.kind ≠ 3 := by rw [h0]; decide
    have k1 : x.tok.kind ≠ 1 := by rw [h0]; decide
  · have hn : s.portAddNext t p = none := by simp only [State.portAddNext, hd', hk, if_true]
    refine congrArg Host.Outcome.next ?_
    simp only [ha, hn, hc, hx', Token.isMarker_data h0, Token.isDrain_data h0, decide_eq_false k3, hb', if_neg k1, Option.isSome_none,
      Bool.not_true, Bool.or_self, Bool.false_eq_true, if_false]
    rfl
  · have hn : s.portAddNext t p = some (va, n) := by
      simp only [State.portAddNext, hd', hk, hc, hx', Token.isMarker_data h0, Token.isDrain_data h0, decide_eq_false k3, decide_eq_false k1, hb',
        Bool.or_self, Bool.false_eq_true, if_false]
      rfl
    have h3' : (s2.port (4 * t + p)).due = [] := h3
    rw [hadd _ hn, State.portAdd_ok hn hs hva h1 h2]
    simp only [State.portAddGone, h3']
    rfl

/-- Settles O49, clause by clause. -/
theorem memoryTileEvents : Obligations.MemoryTileEvents := by
  refine ⟨fun s t m hm ha => ?_, fun s t p va amount x ha => portAdds s t p va amount x ha, fun s t p x l hc ha => ⟨fun hk => ?_, ?_⟩⟩
  · obtain ⟨h1, h2⟩ := mtActs hm ha
    obtain ⟨h3, h4⟩ := mtOrders hm ha
    refine ⟨h1, h2, fun hk p => ⟨fun q l w m1 s1 ht hf hq hw => randomRequest_reads hm ha hk ht hf hq hw,
      fun r l u ht hf hq hd hs => randomRequest_answers hm ha hk ht hf hq hd hs, fun k u hs hr hp => ?_⟩, h3, h4, mtWalks hm ha⟩
    rw [randomRequest_eq p hm ha hk, if_neg hs, if_neg hr, hp]
  · refine congrArg Host.Outcome.next ?_
    simp only [hc, ha, hk]
    rfl
  · rintro rfl hk hf hn ht
    have he := px8Decode_alone hc ha hk hf hn ht
    refine ⟨fun sc es j hroom hp => ?_, fun hp => by rw [he, hp]⟩
    have hr : (!(match Tbl.get? x.edge s.edges with
        | some y => decide (s.buffered x.edge y + 2 ≤ y.depth)
        | none => true)) = false := by
      split
      · next y hy => simpa using hroom y hy
      · rfl
    rw [hp] at he
    replace he := he.trans (congrArg Host.Outcome.next (if_neg (by rw [hr]; exact Bool.false_ne_true)))
    intro out
    refine ⟨fun hj => he.trans ?_, fun hj => he.trans ?_⟩
    · rw [Nat.div_eq_of_lt hj, Nat.mod_eq_of_lt hj]
      simp only [List.take_zero, List.foldl_nil, List.drop_zero, hc, hn]
      rfl
    · subst hj
      simp only [hn]
      rfl

end Sys2Proof.Proofs
end

section
/-! SUPPORT. What the arrival and the removal of a token leave as they are (R226, R227, R230). -/

namespace Sys2Proof.Machine

/-- What is sent to the twins of a tile is posted, or kept for regions that are out. -/
theorem State.toTwinTiles_eq (s : State) (t : Nat) (f : Nat → Instr) :
    ∃ a b, s.toTwinTiles t f = { s with agenda := a, saves := b } := by
  have hp : ∀ (l : List Nat) (s : State), l.foldl (fun s u => s.post (f u)) s = { s with agenda := s.agenda ++ l.map f } := by
    intro l
    induction l with
    | nil => intro s; simp
    | cons x l ih => intro s; rw [List.foldl_cons, ih]; simp [State.post]
  unfold State.toTwinTiles
  rw [hp]
  dsimp only
  split
  · exact ⟨_, _, rfl⟩
  · split
    · exact ⟨_, _, rfl⟩
    · exact ⟨_, _, rfl⟩

/-- A change of a region that keeps its records and elements keeps what its ports are. -/
theorem State.isPx8_modRegion (s : State) (h : Nat) (f : Region → Region) (k : Nat)
    (hf : ∀ r, (f r).at = r.at ∧ (f r).recTile = r.recTile) : (s.modRegion h f).isPx8 k = s.isPx8 k := by
  have hr : ∀ t, ((s.modRegion h f).recsOf t).map (fun x => (x.1.recTile, x.2)) = (s.recsOf t).map fun x => (x.1.recTile, x.2) := by
    intro t
    have h1 : (s.modRegion h f).regionOf t = s.regionOf t := rfl
    have h2 : (s.modRegion h f).seqOf t = s.seqOf t := rfl
    unfold State.recsOf
    rw [h1, h2]
    unfold State.modRegion
    by_cases hh : s.regionOf t = h
    · rw [← hh, Tbl.get?_modify_self]
      cases Tbl.get? (s.regionOf t) s.regions with
      | none => rfl
      | some r => simp [hf]
    · rw [Tbl.get?_modify_ne _ _ hh]
  have ha : ∀ u : State, u.portAttrs (k / 4) (k % 4) false = (((u.recsOf (k / 4)).map fun x => (x.1.recTile, x.2)).filter fun x =>
      x.2.kind = 7 && x.1 x.2 = k / 4 && x.2.w0.getLsbD 27 = false && x.2.w0.toNat % 4 = k % 4).map fun x =>
        let k := field x.2.w0.toNat 29 28
        if k = 0 then .px8
        else if k = 1 then .cadd x.2.w1 x.2.w2 (x.2.w3.setWidth 3)
        else if k = 2 then .trigger (x.2.w1.toNat % 16) (field x.2.w1.toNat 6 4)
        else .global := by
    intro u
    rw [List.filter_map, List.map_map]
    rfl
  unfold State.isPx8
  rw [ha, ha, hr]

/-- A token enters the buffer of a port that neither decodes PX8 nor spills. -/
theorem State.enterPort_buffer {s : State} (e : Nat) {x : Edge} (tok : Token) (hp : s.isPx8 x.dst = false) (hs : x.spilling = false) :
    ∃ a b, s.enterPort e x tok = { s with
      ports := s.ports.set x.dst { s.port x.dst with pos := (s.port x.dst).pos + 1, toks := (s.port x.dst).toks ++ [⟨e, tok⟩] }
      agenda := a
      saves := b } := by
  unfold State.enterPort
  dsimp only
  rw [hs]
  split
  · obtain ⟨a, b, h⟩ := s.toTwinTiles_eq (x.dst / 4) fun t =>
      .forwardedValueArrive t (mergeKey x.dst (s.port x.dst).pos) (BitVec.ofNat 1024 (s.edgeRank x.dst e))
    rw [h]
    refine ⟨a, b, ?_⟩
    have hp' : State.isPx8 { s with agenda := a, saves := b } x.dst = false := hp
    rw [hp']
    rfl
  · rw [hp]
    exact ⟨_, _, rfl⟩

/-- The next token of an edge, where it comes to a plain port of an element that takes it: the port has one edge, which is neither
timed nor spilling, and decodes nothing. -/
def State.Brings (s : State) (e : Nat) (x : Edge) (k : LinkTok) (l : List LinkTok) : Prop :=
  Tbl.get? e s.edges = some x ∧ x.link = k :: l ∧ s.inEdges x.dst = [(e, x)] ∧ x.timed = none ∧ x.spilling = false ∧
    x.dst < hiddenPort ∧ s.isPx8 x.dst = false ∧ s.acts (x.dst / 4) = true ∧ s.ended (x.dst / 4) = false ∧ k.tok.bad = false

/-- It has come there, and of nodes, tiles and bytes nothing has changed. -/
def State.Brought (s u : State) (e : Nat) (x : Edge) (k : LinkTok) (l : List LinkTok) : Prop :=
  (u.port x.dst).toks = (s.port x.dst).toks ++ [⟨e, k.tok⟩] ∧ u.edges = s.edges.set e { x with link := l } ∧
    u.nodes = s.nodes ∧ u.mts = s.mts ∧ u.mem = s.mem

namespace State.Brings

variable {s : State} {e : Nat} {x : Edge} {k : LinkTok} {l : List LinkTok}

theorem linkDue (h : s.Brings e x k l) : s.linkDue x = true := by
  obtain ⟨_, hl, _, ht, _⟩ := h
  rw [State.linkDue, hl, ht]
  rfl

theorem mergeTurn (h : s.Brings e x k l) : s.mergeTurn e x = true := by
  obtain ⟨_, _, hi, _⟩ := h
  unfold State.mergeTurn
  dsimp only
  rw [hi]
  rfl

theorem receives (h : s.Brings e x k l) : s.receives e x = true := by
  obtain ⟨_, _, _, _, _, _, _, ha, _⟩ := h
  rw [State.receives, ha]
  rfl

/-- The token arrives in its port. -/
theorem arrive (h : s.Brings e x k l) : s.Brought (s.arrive e x) e x k l ∧ (s.arrive e x).bounds = s.bounds := by
  obtain ⟨hx, hl, hi, ht, hs, hd, hp, ha, hn, hb⟩ := h
  have hrec : (((s.setEdge e { x with link := l }).recordTok x.region e k)).isPx8 x.dst = false :=
    ((s.setEdge e { x with link := l }).isPx8_modRegion x.region (fun r => { r with
      saving := r.saving.map fun v => v.record e k
      confirmed := r.confirmed.map fun v => v.record e k }) x.dst fun _ => ⟨rfl, rfl⟩).trans hp
  obtain ⟨a, b, he⟩ := State.enterPort_buffer (x := { x with link := l }) e k.tok hrec hs
  have harr : s.arrive e x = (((s.setEdge e { x with link := l }).recordTok x.region e k).enterPort e { x with link := l } k.tok).moved
      x.region := by
    simp only [State.arrive, hl, hn, hb, ht, Bool.false_and, Bool.false_eq_true, if_false, Option.isSome_none]
  rw [harr, he]
  refine ⟨⟨?_, rfl, rfl, rfl, rfl⟩, rfl⟩
  have : ∀ (u : State) (p : InPort), State.port { u with ports := u.ports.set x.dst p } x.dst = p := by
    intro u p
    simp [State.port, Tbl.getD]
  exact congrArg InPort.toks (this _ _)

end State.Brings

/-- A new tag enters at the entry, where fewer than k are inside (R230). -/
theorem Bound.after_entry {y : Bound} {k : Nat} {x : Token} {l : List (BitVec 16)} (hen : y.entry = k) (hex : y.exit ≠ k)
    (hin : x.inLoop = true) (ht : x.tag ∉ l) : y.after k x l = l ++ [x.tag] := by
  simp [Bound.after, hen, hex, hin, ht]

/-- An iteration end takes its tag out at the exit (R230). -/
theorem Bound.after_exit {y : Bound} {k : Nat} {x : Token} (l : List (BitVec 16)) (hex : y.exit = k) (hen : y.entry ≠ k)
    (hc : x.isCtl 3 = true) : y.after k x l = l.filter fun t => t ≠ x.tag := by
  simp [Bound.after, hex, hen, hc]

/-- The tags of a loop bound are changed, and nothing else but its region's record of a cut. -/
theorem State.setBound_eq {s : State} {b : Nat} {y : Bound} (t : Nat) (f : List (BitVec 16) → List (BitVec 16))
    (h : Tbl.get? b s.bounds = some y) :
    ∃ g, s.setBound b t f = { s with bounds := s.bounds.set b { y with tags := f y.tags }, regions := g } := by
  unfold State.setBound
  rw [h]
  exact ⟨_, rfl⟩

/-- The token at a bounded port passes where every bound there admits it and none refuses it (R230). -/
theorem State.boundPass_brings {s : State} {e : Nat} {x : Edge} {k : LinkTok} {l : List LinkTok} (h : s.Brings e x k l)
    (hr : ((s.boundsAt x.dst).any fun b => b.2.refuses x.dst k.tok) = false)
    (ha : ((s.boundsAt x.dst).all fun b => b.2.admits x.dst k.tok) = true) :
    s.boundPass x.dst =
      (s.boundsAt x.dst).foldl (fun s b => s.setBound b.1 (x.dst / 4) (b.2.after x.dst k.tok)) (s.arrive e x) := by
  obtain ⟨⟨_, hu, _⟩, _⟩ := h.arrive
  have hlink : ((Tbl.get? e (s.arrive e x).edges).any fun y => decide (y.link.length < x.link.length)) = true := by
    obtain ⟨_, hl, _⟩ := h
    rw [hu, Tbl.get?_set_self, hl]
    simp
  have hnext : s.boundNext x.dst = some (e, x, k.tok) := by
    have hd := h.linkDue
    have hm := h.mergeTurn
    obtain ⟨_, hl, hi, _⟩ := h
    simp only [State.boundNext, hi, List.findSome?_cons, hl, hd, hm, State.boundsPass, hr, ha, Bool.false_or, Bool.and_self, if_true]
  simp only [State.boundPass, hnext, h.receives, hr, hlink, Bool.not_true, Bool.false_eq_true, if_false, if_true]

/-! ### What the removal of a token leaves (R227, R228, R232) -/

/-- Nodes and bytes of a state are those of another. -/
def State.SameNodes (s t : State) : Prop := t.nodes = s.nodes ∧ t.mem = s.mem

namespace State.SameNodes

variable {s t : State}

theorem refl (s : State) : s.SameNodes s := ⟨rfl, rfl⟩
theorem trans {u : State} (h : s.SameNodes t) (k : t.SameNodes u) : s.SameNodes u := ⟨k.1.trans h.1, k.2.trans h.2⟩
theorem of_kept (h : s.Kept t) : s.SameNodes t := ⟨h.nodes, h.mem⟩
theorem event (s : State) (d ty : Nat) (c : BitVec 12) (k : Nat) (x y : Word) : s.SameNodes (s.event d ty c k x y) :=
  .of_kept (State.Kept.refl s).event

theorem creditBack (s : State) (e : Nat) : s.SameNodes (s.creditBack e) := by
  unfold State.creditBack
  split
  · exact .refl s
  · dsimp only
    split
    · exact ⟨rfl, rfl⟩
    · split <;> exact ⟨rfl, rfl⟩

theorem unspill (s : State) (e : Nat) : s.SameNodes (s.unspill e) := by
  unfold State.unspill
  split
  · exact .refl s
  · split
    · exact .refl s
    · split <;> exact ⟨rfl, rfl⟩

theorem resize (s : State) (e d : Nat) : s.SameNodes (s.resize e d) := by
  unfold State.resize
  split
  · exact .refl s
  · dsimp only
    split
    · exact event _ _ _ _ _ _ _
    · exact ⟨rfl, rfl⟩

theorem popAt (s : State) (k i : Nat) : s.SameNodes (s.popAt k i).2 := by
  unfold State.popAt
  dsimp only
  split
  · exact .refl s
  · next x hx =>
    have h0 : ∀ u : State, s.SameNodes u → s.SameNodes ((u.creditBack x.edge).unspill x.edge) :=
      fun u h => (h.trans (creditBack _ _)).trans (unspill _ _)
    have h1 : ∀ p, s.SameNodes (s.setPort k p) := fun _ => ⟨rfl, rfl⟩
    dsimp only
    split
    · refine trans (h0 _ ?_) (resize _ _ _)
      split
      · exact (h1 _).trans (event _ _ _ _ _ _ _)
      · exact h1 _
    · refine h0 _ ?_
      split
      · exact (h1 _).trans (event _ _ _ _ _ _ _)
      · exact h1 _

end State.SameNodes

end Sys2Proof.Machine
end
section
/-! SETTLING O50. -/

namespace Sys2Proof.Proofs

open Sys2Proof Sys2Proof.Machine Sys2Proof.Claims

/-- A token that no bound watches arrives. -/
theorem tokenArrive_brought {s : State} {e : Nat} {x : Edge} {k : LinkTok} {l : List LinkTok} (h : s.Brings e x k l)
    (hb : s.boundsAt x.dst = []) : exec (.tokenArrive e) s = .next (s.arrive e x) := by
  have hd := h.linkDue
  have hm := h.mergeTurn
  have hr := h.receives
  obtain ⟨hx, _, _, _, _, hlow, _⟩ := h
  refine congrArg Host.Outcome.next ?_
  simp only [hx, if_neg (Nat.not_le.2 hlow), hd, hm, hr, hb, decide_true, Bool.and_self, if_true]

/-- A token passes one bound, whose tags become those after it. -/
theorem boundPass_one {s : State} {b e : Nat} {y : Bound} {x : Edge} {k : LinkTok} {l : List LinkTok} (h : s.Brings e x k l)
    (hy : Tbl.get? b s.bounds = some y) (hb : s.boundsAt x.dst = [(b, y)]) (hr : y.refuses x.dst k.tok = false)
    (ha : y.admits x.dst k.tok = true) :
    s.Brought (s.boundPass x.dst) e x k l ∧
      Tbl.get? b (s.boundPass x.dst).bounds = some { y with tags := y.after x.dst k.tok y.tags } := by
  obtain ⟨hu, hbounds⟩ := h.arrive
  obtain ⟨g, hs⟩ := State.setBound_eq (x.dst / 4) (y.after x.dst k.tok) (hy ▸ congrArg (Tbl.get? b) hbounds)
  have hp : s.boundPass x.dst = (s.arrive e x).setBound b (x.dst / 4) (y.after x.dst k.tok) := by
    rw [State.boundPass_brings h (by simp [hb, hr]) (by simp [hb, ha]), hb]
    rfl
  rw [hp, hs]
  exact ⟨hu, Tbl.get?_set_self _ _ _⟩

/-- A token passes two bounds at a port, and each sees it. -/
theorem boundPass_two {s : State} {b c e : Nat} {y z : Bound} {x : Edge} {k : LinkTok} {l : List LinkTok} (h : s.Brings e x k l)
    (hy : Tbl.get? b s.bounds = some y) (hz : Tbl.get? c s.bounds = some z) (hbc : b ≠ c) (hb : s.boundsAt x.dst = [(b, y), (c, z)])
    (hr : y.refuses x.dst k.tok = false ∧ z.refuses x.dst k.tok = false)
    (ha : y.admits x.dst k.tok = true ∧ z.admits x.dst k.tok = true) :
    s.Brought (s.boundPass x.dst) e x k l ∧
      Tbl.get? b (s.boundPass x.dst).bounds = some { y with tags := y.after x.dst k.tok y.tags } ∧
      Tbl.get? c (s.boundPass x.dst).bounds = some { z with tags := z.after x.dst k.tok z.tags } := by
  obtain ⟨hu, hbounds⟩ := h.arrive
  obtain ⟨g, hs⟩ := State.setBound_eq (x.dst / 4) (y.after x.dst k.tok) (hy ▸ congrArg (Tbl.get? b) hbounds)
  have hz1 : Tbl.get? c ((s.arrive e x).setBound b (x.dst / 4) (y.after x.dst k.tok)).bounds = some z := by
    rw [hs]
    exact (Tbl.get?_set_ne _ _ hbc.symm).trans (hbounds ▸ hz)
  obtain ⟨g', hs'⟩ := State.setBound_eq (x.dst / 4) (z.after x.dst k.tok) hz1
  have hp : s.boundPass x.dst = ((s.arrive e x).setBound b (x.dst / 4) (y.after x.dst k.tok)).setBound c (x.dst / 4)
      (z.after x.dst k.tok) := by
    rw [State.boundPass_brings h (by simp [hb, hr]) (by simp [hb, ha]), hb]
    rfl
  rw [hp, hs', hs]
  exact ⟨hu, (Tbl.get?_set_ne _ _ hbc).trans (Tbl.get?_set_self _ _ _), Tbl.get?_set_self _ _ _⟩

/-- A barrier with one control token of a tag at each of its ports moves past the tag (R231). -/
theorem barFire_moves {s : State} {t key : Nat} {b : TBar} {tag : BitVec 16} (hf : s.barFault t b = none) (ht : s.barTag t b = some tag) :
    Tbl.get? key (s.barFire t key b).tbars = some { b with phase := tag + 1 } ∧ s.SameNodes (s.barFire t key b) := by
  have hl : ∃ l, s.barHeads t b = some l := by
    unfold State.barTag at ht
    split at ht
    · next x l h => exact ⟨_, h⟩
    · cases ht
  obtain ⟨l, hl⟩ := hl
  have hsame : ∀ (l : List (Nat × PortTok)) (u : State), s.SameNodes u → s.SameNodes (l.foldl (fun s y =>
      let k := 4 * t + y.1
      let s := (s.popAt k 0).2
      s.setPort k { s.port k with toks := ⟨barrierEdge, y.2.tok⟩ :: (s.port k).toks }) u) := by
    intro l
    induction l with
    | nil => exact fun u h => h
    | cons y l ih => exact fun u h => ih _ (h.trans ((State.SameNodes.popAt u (4 * t + y.1) 0).trans ⟨rfl, rfl⟩))
  simp only [State.barFire, hf, ht, hl]
  exact ⟨Tbl.get?_set_self _ _ _, hsame l s (.refl s)⟩

/-- Settles O50, clause by clause. -/
theorem tokenEvents : Obligations.TokenEvents := by
  refine ⟨fun e x k l s hs => ?_, fun b c e y z x k l => ⟨fun s hs => ?_, fun s hs => ?_, fun s hs => ?_⟩, fun t key b tag s hs => ?_,
    fun t p x n s hs => ?_, fun t p b ty x n => ?_⟩
  · obtain ⟨hb, hn⟩ := hs
    obtain ⟨h1, h2⟩ := State.Brings.arrive hb
    exact ⟨_, tokenArrive_brought hb hn, h1, h2⟩
  · obtain ⟨hy, hb, hen, hex, hbr, hin, htag, hroom⟩ := hs
    have hr : y.refuses x.dst k.tok = false := by simp [Bound.refuses, hex.symm]
    have ha : y.admits x.dst k.tok = true := by simp [Bound.admits, hroom]
    have hp := boundPass_one hbr hy hb hr ha
    rw [Bound.after_entry hen.symm hex.symm hin htag] at hp
    refine ⟨s.boundPass x.dst, ?_, hp⟩
    have he : exec (.loopBoundEntry b) s = .next (s.boundPass y.entry) := congrArg Host.Outcome.next (by rw [hy])
    rw [he, hen]
  · obtain ⟨hy, hb, hex, hen, hbr, hc, htag⟩ := hs
    have hr : y.refuses x.dst k.tok = false := by simp [Bound.refuses, htag]
    have ha : y.admits x.dst k.tok = true := by simp [Bound.admits, hen.symm]
    have hp := boundPass_one hbr hy hb hr ha
    rw [Bound.after_exit _ hex.symm hen.symm hc] at hp
    refine ⟨s.boundPass x.dst, ?_, hp⟩
    have he : exec (.loopBoundExit b) s = .next (s.boundPass y.exit) := congrArg Host.Outcome.next (by rw [hy])
    rw [he, hex]
  · obtain ⟨hy, hz, hbc, hb, hex, hen, hen2, hex2, hbr, hc, htag, htag2, hroom⟩ := hs
    have hin : k.tok.inLoop = true := by
      have : k.tok.kind = 1 ∧ k.tok.sub = 3 := by simpa [Token.isCtl] using hc
      simp [Token.inLoop, this]
    have hr : y.refuses x.dst k.tok = false ∧ z.refuses x.dst k.tok = false := by simp [Bound.refuses, htag, hex2.symm]
    have ha : y.admits x.dst k.tok = true ∧ z.admits x.dst k.tok = true := by simp [Bound.admits, hen.symm, hroom]
    have hp := boundPass_two hbr hy hz hbc hb hr ha
    rw [Bound.after_exit _ hex.symm hen.symm hc, Bound.after_entry hen2.symm hex2.symm hin htag2] at hp
    refine ⟨s.boundPass x.dst, ?_, hp⟩
    have he : exec (.loopBoundExit b) s = .next (s.boundPass y.exit) := congrArg Host.Outcome.next (by rw [hy])
    rw [he, hex]
  · obtain ⟨hb, ha, hf, ht⟩ := hs
    obtain ⟨h1, h2, h3⟩ := barFire_moves (key := key) hf ht
    refine ⟨s.barFire t key b, ?_, h1, h2, h3⟩
    have hdue : s.barDue t b = true := by simp [State.barDue, ht]
    refine congrArg Host.Outcome.next ?_
    simp only [hb, List.find?_cons, hdue, ha, if_true]
  · obtain ⟨hx, hk, ha, hn⟩ := hs
    refine congrArg Host.Outcome.next ?_
    simp only [hx, hk, ha, hn, ne_eq, not_true, decide_false, Bool.not_true, Bool.or_self, Bool.false_eq_true, if_false]
    rfl
  · intro c bytes s hs
    obtain ⟨hx, hn, ha, hk, hf, hb, hnb, hc, hroom⟩ := hs
    have hf6 : x.tok.fmt ≠ 6 := by intro h; rw [h] at hf; cases hf
    have h3 : x.tok.kind ≠ 3 := by rw [hk]; decide
    have hroom' : ¬ (n.mat.buf b).free < tyBytes ty (x.tok.count + 1) := Nat.not_lt.2 hroom
    have hc' : ¬ (x.tok.count + 1) % 4 ≠ 0 := not_not.2 hc
    refine congrArg Host.Outcome.next ?_
    cases b
    all_goals
      simp only [Bool.not_false, Bool.not_true] at hnb
      simp only [hn, hx, ha, hb, hnb, hk, hf, Token.isMarker, Token.isDrain, Token.isCtl]
      simp [b2n, hf6, hc', hroom']
      rfl

end Sys2Proof.Proofs
end

section
/-! SETTLING O51. -/

namespace Sys2Proof.Machine

/-- A loading word's next line has come (R304). -/
theorem State.loadLineArrive_ok {s s1 : State} {t vk : Nat} {n : Node} {r : MatRun} {v : Vec} {pin : Option Nat} {l : List Nat}
    (hl : r.lines = vk :: l) (hf : s.matFetch t n r.w.seen vk = (some (v, pin), s1)) :
    let q := r.take vk v pin l
    s.loadLineArrive t n r =
      if l = [] then (s1.modMat t fun m => { m with loads := putRun q none m.loads, acc := loadAcc m.acc q.w q.got }).unpinFetch (dieOf t) q.pins
      else s1.modMat t fun m => { m with loads := putRun q (some q) m.loads } := by
  intro q
  simp only [State.loadLineArrive, hl, hf, List.isEmpty_iff]
  rfl

/-- A drain that goes to the route table sends its next token by the port that it has taken, or that `edge.steer` names (R233, R234). -/
theorem State.drainStep_ok {s s1 : State} {t p : Nat} {n : Node} {r : MatRun}
    (hp : r.route = some p ∨ (r.route = none ∧ n.routeOf n.steerNow.toNat = some p))
    (hs : s.sendOut (4 * t + p) (r.drainTok r.w.oty r.sent (vget n.tags p 0)) = some s1) :
    s.drainStep t n r = some (s1.modMat t fun m => { m with
      drains := putRun r (if 4096 ≤ (r.sent + 1) * drainPer r.w.oty then none
        else some { r with sent := r.sent + 1, route := some p, until_ := n.cyc.toNat + 1 }) m.drains }) := by
  have hroute : (if r.route.isSome then r.route else n.routeOf n.steerNow.toNat) = some p := by
    rcases hp with h | ⟨h, h'⟩
    · rw [h]; rfl
    · rw [h]; exact h'
  simp only [State.drainStep, hroute, hs]
  rfl

end Sys2Proof.Machine

namespace Sys2Proof.Proofs

open Sys2Proof Sys2Proof.Machine Sys2Proof.Claims

/-- Settles O51, clause by clause. -/
theorem matrixEvents : Obligations.MatrixEvents := by
  refine ⟨fun t n w l p a s hs => ?_, fun t n r s hs => ?_, fun t n r l s hs => ?_, fun s s1 t n r l p hn hg hf hd hl hu hp hs => ?_, ?_⟩
  · obtain ⟨hn, hg, hf, hw, hq, hi, hidle, hm⟩ := hs
    have hready : n.matReady = true := by
      simp only [Node.matReady, hf, hw, hq, hi, Matrix.ready, hm, hidle]
      rfl
    have hgo : (!n.matReady || n.gated) = false := by rw [hready, hg]; rfl
    refine congrArg Host.Outcome.next ?_
    simp only [hn, hgo, hq, hi, Bool.false_eq_true, if_false]
    rfl
  · obtain ⟨hn, hg, hm, ho, hu, ha, hb⟩ := hs
    have hgo : (!r.occupied || n.gated || decide (n.cyc.toNat < r.until_)) = false := by
      rw [ho, hg, decide_eq_false (Nat.not_lt.2 hu)]; rfl
    refine congrArg Host.Outcome.next ?_
    have hb' : ∀ x, ¬ matSrc (n.mat.setBuf false x).cfg true = 2 := fun _ => hb
    simp only [hn, hm, hgo, Bool.false_eq_true, if_false, if_neg ha, hb']
    rfl
  · obtain ⟨hn, hg, ht, hu, hp⟩ := hs
    have hgo : (n.gated || decide (n.cyc.toNat < r.until_)) = false := by
      rw [hg, decide_eq_false (Nat.not_lt.2 hu)]; rfl
    refine congrArg Host.Outcome.next ?_
    simp only [hn, ht, hgo, Bool.false_eq_true, if_false, hp]
    rfl
  · have hr : n.routeDrains = r :: l.filter fun r => r.w.left.isNone && decide (r.until_ ≤ n.cyc.toNat) := by
      simp only [Node.routeDrains, hg, Bool.false_eq_true, if_false, hd]
      exact List.filter_cons_of_pos (by simp [hl, hu])
    refine congrArg Host.Outcome.next ?_
    simp only [hn, hr, List.findSome?_cons, State.drainStep_ok hp hs]
    rfl
  · intro s s1 t vk n r v pin l o hn hg hw hf hm hld hl hfetch q
    have he : exec (.fetchLineArrive t) s = .next (s.loadLineArrive t n r) := by
      refine congrArg Host.Outcome.next ?_
      simp only [hn, hg, hw, hm, hld, Bool.or_self, Bool.false_eq_true, if_false, List.head?_cons]
    rw [he, State.loadLineArrive_ok hl hfetch]
    rfl

end Sys2Proof.Proofs
end

section
/-! SETTLING O52. -/

namespace Sys2Proof.Machine

theorem EngQueue.work_head {x : EngQueue} {c : Cmd} (ha : x.armed = none) (hc : x.cmds.head? = some c) : x.work = some c := by
  rw [EngQueue.work, ha]
  exact hc

theorem EngQueue.firing_unarmed {x : EngQueue} (ha : x.armed = none) : x.firing = false := by rw [EngQueue.firing, ha]

theorem EngQueue.cmds_cons {x : EngQueue} {c : Cmd} (hc : x.cmds.head? = some c) : ∃ l, x.cmds = c :: l := by
  cases h : x.cmds with
  | nil => rw [h] at hc; cases hc
  | cons a l =>
    rw [h] at hc
    exact ⟨l, by rw [Option.some.inj hc]⟩

/-- An engine does one of the things that it may do. -/
def State.engDo (s : State) (d e : Nat) : EngMove → State
  | .land q i => s.engLand d e q i
  | .blend q c => s.blend d e q c
  | .chunk q => s.chunkStep d e q

/-- Bytes that are to be cut at lines have a first piece (R437). -/
theorem linesFrom_ne_nil (base off : Nat) {n : Nat} (f : Nat) (h : n ≠ 0) : linesFrom base off n (f + 1) ≠ [] := by
  rw [linesFrom, if_neg h]
  exact List.cons_ne_nil _ _

end Sys2Proof.Machine

namespace Sys2Proof.Proofs

open Sys2Proof Sys2Proof.Machine Sys2Proof.Claims

/-- An engine that has one thing to do does that. -/
theorem engineChunk_one {s : State} {d e : Nat} {a : EngMove} (h : s.engMoves d e = [a]) :
    exec (.engineChunk d e) s = .next (s.engDo d e a) := by
  refine congrArg Host.Outcome.next ?_
  simp only [h, List.length_singleton, Nat.le_refl, if_true, List.getElem?_cons_zero]
  cases a <;> rfl

/-- What an engine does next is a free choice of what it may do. -/
theorem engineChunk_chosen {s u : State} {d e j : Nat} {a : EngMove}
    (h : (s.engMoves d e).length = 1 ∧ j = 0 ∧ u = s ∨ 1 < (s.engMoves d e).length ∧ s.pick (s.engMoves d e).length = (j, u))
    (ha : (s.engMoves d e)[j]? = some a) :
    exec (.engineChunk d e) s = .next (u.engDo d e a) := by
  rcases h with ⟨h1, rfl, rfl⟩ | ⟨h1, hp⟩
  · obtain ⟨b, hb⟩ := List.length_eq_one_iff.1 h1
    rw [hb] at ha
    obtain rfl : b = a := Option.some.inj ha
    exact engineChunk_one hb
  · refine congrArg Host.Outcome.next ?_
    simp only [if_neg (Nat.not_le.2 h1), hp, ha]
    cases a <;> rfl

/-- A chunk of a copy begins with the pieces of lines that it moves (R137, R437). -/
theorem copyChunk_begins {s : State} {d e q : Nat} {c : Cmd} (hm : s.engMoves d e = [.chunk q]) (ha : (s.engQ d e q).armed = none)
    (hc : (s.engQ d e q).cmds.head? = some c) (ho : c.op = .cpy) (hl : (s.engQ d e q).left = []) (hlen : c.moved < dLen c.words) :
    let upTo := Nat.min (c.moved / 4096 * 4096 + 4096) (dLen c.words)
    exec (.engineChunk d e) s = .next ((s.modDie d fun y => { y with rot := y.rot.set e ((q + 1) % 8) }).setEngQ d e q
      { s.engQ d e q with left := linesFrom (dDst c.words) c.moved (upTo - c.moved) 34, upTo := upTo }) := by
  intro upTo
  have hpos : upTo - c.moved ≠ 0 := by
    have : c.moved < upTo := Nat.lt_min.2 ⟨by omega, hlen⟩
    omega
  have hnext : (s.engQ d e q).nextChunk c = (linesFrom (dDst c.words) c.moved (upTo - c.moved) 34, upTo) := by
    simp only [EngQueue.nextChunk, EngQueue.dstOf, ho]
    rfl
  rw [engineChunk_one hm]
  refine congrArg Host.Outcome.next ?_
  simp only [State.engDo, State.chunkStep, EngQueue.work_head ha hc, hl, ha, ne_eq, not_true, if_false, Option.isSome_none, Bool.false_and,
    Bool.false_eq_true, State.chunkStart, hnext]
  split
  · next h => exact absurd (Prod.mk.inj h).1 (linesFrom_ne_nil _ _ 33 hpos)
  · next h =>
    obtain ⟨h1, h2⟩ := Prod.mk.inj h
    rw [← h1, ← h2]

/-- A piece of a copy is read, with the values that its words have taken, and sent to the destination (R141). -/
theorem copyPiece_moves {s s0 s1 s2 : State} {d e q j off n : Nat} {c : Cmd} {b : List Byte} (hm : s.engMoves d e = [.chunk q])
    (ha : (s.engQ d e q).armed = none) (hc : (s.engQ d e q).cmds.head? = some c) (ho : c.op = .cpy)
    (hp : s.pick (s.engQ d e q).left.length = (j, s0)) (hj : (s.engQ d e q).left[j]? = some (off, n))
    (hr : s0.engReads d e q c (dSspace c.words) (dSdev c.words) (linesOf (dSrc c.words + off) n) = (.ok b, s1))
    (hw : s1.engPut d e q c off (dDst c.words + off) ((wordsFrom (dDst c.words) off n (n + 1)).flatMap fun w =>
      (Tbl.get? w.1 (s.engQ d e q).got).getD ((b.drop (w.1 - off)).take w.2)) (fun _ => true) = (.ok (), s2)) :
    let y := s2.engQ d e q
    let z : EngQueue := { y with
      left := y.left.filter fun p => p.1 ≠ off, got := y.got.filter fun p => !(off ≤ p.1 && p.1 < off + n) }
    exec (.engineChunk d e) s = .next (s2.setEngQ d e q (if z.left ≠ [] then z else z.progress z.upTo)) := by
  intro y z
  have hl : (s.engQ d e q).left ≠ [] := by intro h; rw [h] at hj; cases hj
  have hread : s0.pieceRead d e q (s.engQ d e q) c off n = (.ok ((wordsFrom (dDst c.words) off n (n + 1)).flatMap fun w =>
      (Tbl.get? w.1 (s.engQ d e q).got).getD ((b.drop (w.1 - off)).take w.2)), s1) := by
    simp only [State.pieceRead, ho, EngQueue.srcOf, Cmd.sdev, EngQueue.dstOf, hr, decide_true, Bool.true_or, if_true, Nat.add_zero]
  have hready : (s.engQ d e q).ready c = (s.engQ d e q).left := by simp [EngQueue.ready, ho]
  have hdst : (s.engQ d e q).dstOf c off = dDst c.words + off := by simp only [EngQueue.dstOf, ho]
  rw [engineChunk_one hm]
  refine congrArg Host.Outcome.next ?_
  simp only [State.engDo, State.chunkStep, EngQueue.work_head ha hc, if_pos hl, State.movePiece, hready, hp, hj, hread, hdst, hw, EngQueue.chunkEnd, ho,
    if_neg (show ¬ EngOp.cpy = .cpym by decide)]
  rfl

/-- CDISARM disarms its queue, and reports a count that is not 0 (R206). -/
theorem cdisarm_eq {s : State} {d e q : Nat} {c : Cmd} {a : Armed} {l : List Cmd} (hc : (s.engQ d e q).cmds = c :: l)
    (ho : c.op = .cdisarm) (ha : (s.engQ d e q).armed = some a) (hl : a.live = false) (hr : (s.engQ d e q).runs = true) :
    let off := s.setEngQ d e q { s.engQ d e q with armed := none, cmds := { c with moved := a.done } :: l }
    exec (.engineCompletionAdd d e q) s = .next (
      if dword c.words 4 = 0 || a.done = 0 then off.engDrop d e q
      else
        match off.engAdd d e q c (dword c.words 4) (BitVec.ofNat 64 a.done) with
        | (.error y, s) => s.engFail d e q c (BitVec.ofNat 64 (dword c.words 4)) y
        | (.ok _, s) => s.engDrop d e q) := by
  have hw : (s.engQ d e q).work = some c := by simp only [EngQueue.work, ha, hl, hc, Bool.false_eq_true, if_false, List.head?_cons]
  refine congrArg Host.Outcome.next ?_
  simp only [hw, hr, ho, ha, hc, Bool.not_true, Bool.false_eq_true, if_false, if_true, Option.map_some, Option.getD_some, List.drop_succ_cons,
    List.drop_zero] <;> rfl

/-- A matrix copy's bytes enter the operand buffer, then its word the queue of its tile (R143, R203). -/
theorem cpymDelivers {s : State} {d e q : Nat} {c : Cmd} {n : Node} (ha : (s.engQ d e q).armed = none)
    (hc : (s.engQ d e q).cmds.head? = some c) (hr : (s.engQ d e q).runs = true) (ho : c.op = .cpym)
    (hland : (s.engQ d e q).landed = false) (ht : s.cpymTarget c = some n) (hg : n.gated = false) (hlen : dLen c.words ≤ c.moved) :
    let x := s.engQ d e q
    (x.got ≠ [] → dLen c.words ≤ (n.mat.buf (bitAt (dDst c.words) 12)).free →
      exec (.cpymDeliver d e q) s = .next ((upd s n.tile fun n => { n with
        mat := n.mat.copyIn (bitAt (dDst c.words) 12) (x.got.flatMap fun p => p.2) }).setEngQ d e q { x with got := [] })) ∧
    (x.got = [] → n.mat.queue.length < 16 → n.matrixNext = false →
      exec (.cpymDeliver d e q) s = .next ((upd s n.tile fun n => { n with mat := { n.mat with
        queue := n.mat.queue ++ [⟨BitVec.ofNat 32 (dword c.words 6), none, none, false, []⟩] } }).setEngQ d e q
          { x with landed := true })) := by
  obtain ⟨l, hl⟩ := EngQueue.cmds_cons hc
  have hgo : (!(s.engQ d e q).runs || decide (c.op ≠ .cpym) || (s.engQ d e q).armed.isSome || (s.engQ d e q).landed) = false := by
    rw [hr, ho, ha, hland]
    rfl
  have hgo2 : (n.gated || decide (c.moved < dLen c.words)) = false := by rw [hg, decide_eq_false (Nat.not_lt.2 hlen)]; rfl
  refine ⟨fun hgot hroom => ?_, fun hgot hq hnext => ?_⟩
  · have hgot' : (s.engQ d e q).got ≠ [] := hgot
    refine congrArg Host.Outcome.next ?_
    simp only [hl, hgo, ht, hgo2, if_pos hgot', if_neg (Nat.not_lt.2 hroom), Bool.false_eq_true, if_false]
    rw [← hl]
    rfl
  · have hgot' : (s.engQ d e q).got = [] := hgot
    have hgo3 : (decide (16 ≤ n.mat.queue.length) || n.matrixNext) = false := by rw [hnext, decide_eq_false (Nat.not_le.2 hq)]; rfl
    refine congrArg Host.Outcome.next ?_
    simp only [hl, hgo, ht, hgo2, if_neg (not_not.2 hgot'), hgo3, Bool.false_eq_true, if_false]
    rw [← hl]
    rfl

/-- What leaves a queue whose bytes have landed, a template, a matrix copy, an index token. -/
theorem completions (s s1 : State) (d e q : Nat) (c : Cmd) :
    let x := s.engQ d e q
    x.armed = none → x.cmds.head? = some c → x.runs = true →
    (c.op = .cpy → dLen c.words ≤ c.moved → dAmount c.words ≠ 0 → x.fly.any (fun f => f.live) = false →
      s.engAdd d e q c (dCctr c.words) (dAmount c.words) = (.ok (), s1) →
      exec (.engineCompletionAdd d e q) s = .next (s1.engDrop d e q)) ∧
    (c.op = .carm → exec (.carmArm d e q) s = .next ((s.engDrop d e q).setEngQ d e q { (s.engDrop d e q).engQ d e q with
      armed := some ⟨{ c with moved := 0 }, 0, 0, 0, false⟩ })) ∧
    (∀ n : Node, c.op = .cpym → x.landed = false → s.cpymTarget c = some n → n.gated = false → dLen c.words ≤ c.moved →
      (x.got ≠ [] → dLen c.words ≤ (n.mat.buf (bitAt (dDst c.words) 12)).free →
        exec (.cpymDeliver d e q) s = .next ((upd s n.tile fun n => { n with
          mat := n.mat.copyIn (bitAt (dDst c.words) 12) (x.got.flatMap fun p => p.2) }).setEngQ d e q { x with got := [] })) ∧
      (x.got = [] → n.mat.queue.length < 16 → n.matrixNext = false →
        exec (.cpymDeliver d e q) s = .next ((upd s n.tile fun n => { n with mat := { n.mat with
          queue := n.mat.queue ++ [⟨BitVec.ofNat 32 (dword c.words 6), none, none, false, []⟩] } }).setEngQ d e q
            { x with landed := true }))) ∧
    (∀ (k : PortTok),
      let t := dCoalesce c.words
      let key := 4 * t + dPort c.words
      let u := (s.popAt key 0).2
      s.headTok key = some k → c.op.isRows = true → x.rows + x.idx.length < dLen c.words → s.acts t = true → k.tok.kind = 0 →
      k.tok.fmt = 7 →
      exec (.coalesceIndex d e q) s = .next (u.setEngQ d e q { u.engQ d e q with idx := (u.engQ d e q).idx ++
        (((List.range (k.tok.count + 1)).map fun i => (lane k.tok.payload i).toInt).take
          (dLen c.words - (u.engQ d e q).rows - (u.engQ d e q).idx.length)) })) := by
  intro x ha hc hr
  have hw : (s.engQ d e q).work = some c := EngQueue.work_head ha hc
  have hf : (s.engQ d e q).firing = false := EngQueue.firing_unarmed ha
  have ha' : (s.engQ d e q).armed = none := ha
  have hr' : (s.engQ d e q).runs = true := hr
  obtain ⟨l, hl⟩ := EngQueue.cmds_cons (x := s.engQ d e q) hc
  refine ⟨fun ho hlen hamt hfly hadd => ?_, fun ho => ?_, fun n ho hland ht hg hlen => cpymDelivers ha hc hr ho hland ht hg hlen, ?_⟩
  · have hmoved : (s.engQ d e q).moved = true := by simp only [EngQueue.moved, hw, ho]; simp [hlen]
    have ham : c.amount = dAmount c.words := by simp [Cmd.amount, ho, EngOp.isRows]
    have hfly' : ((s.engQ d e q).fly.any fun f => f.live) = false := hfly
    refine congrArg Host.Outcome.next ?_
    simp only [hw, hr', ho, hmoved, hfly', ham, if_neg hamt, hadd, Bool.not_true, Bool.or_self, Bool.false_eq_true, if_false,
      if_neg (show ¬ EngOp.cpy = .cdisarm by decide), State.engDone, ha']
  · refine congrArg Host.Outcome.next ?_
    simp only [hl, hr', ho, hf, ha', ne_eq, not_true, decide_false, Bool.not_true, Bool.or_self, Bool.false_eq_true, if_false, Option.isSome_none]
  · intro k t key u hk ho hlen hacts h0 h7
    have hk' : s.headTok (4 * dCoalesce c.words + dPort c.words) = some k := hk
    have hacts' : s.acts (dCoalesce c.words) = true := hacts
    have hlen' : ¬ dLen c.words ≤ (s.engQ d e q).rows + (s.engQ d e q).idx.length := Nat.not_le.2 hlen
    have h3 : k.tok.kind ≠ 3 := by rw [h0]; decide
    have h1 : k.tok.kind ≠ 1 := by rw [h0]; decide
    refine congrArg Host.Outcome.next ?_
    simp only [hw, hk', hr', hf, ho, hacts', decide_eq_false hlen', Token.isMarker_data h0, Token.isDrain_data h0, decide_eq_false h3, if_neg h1,
      if_neg (not_not.2 h7), Bool.not_true, Bool.or_self, Bool.false_eq_true, if_false]
    rfl

/-- A collective whose ranks agree reads every input and hands every rank its output (R148, R149, R210). -/
theorem collective_writes {s s0 s1 : State} {d e op : Nat} {fp32 : Bool} {c : Cmd} {ranks : List (Option (Nat × Nat × Nat × Cmd))}
    {ins : List (List Byte)} (hn : s.collNext d (16 + e) = some c) (ho : c.op = .coll op fp32)
    (ha : ∀ p ∈ s.collOf c.launch (dTag c.words), collAgree c p.2.2.2 = true)
    (hr : collRanks (s.collOf c.launch (dTag c.words)) c = some ranks)
    (hs : (∀ r ∈ ranks, r ≠ none) ∧ s0 = s ∨ (∃ r ∈ ranks, r = none) ∧ s.pick 3 = (1, s0))
    (hi : s0.collRead (dLen c.words) ranks = (some ins, s1)) :
    exec (.collectiveExecute d e) s = .next (s1.collWrite op fp32 ins ranks) := by
  have hagree : ((s.collOf c.launch (dTag c.words)).any fun p => !collAgree c p.2.2.2) = false :=
    List.any_eq_false.2 fun p hp => by simp [ha p hp]
  have hpick : (if ranks.all (·.isSome) then ((1 : Nat), s) else s.pick 3) = (1, s0) := by
    rcases hs with ⟨hall, rfl⟩ | ⟨⟨r, hr, rfl⟩, hp⟩
    · exact if_pos (List.all_eq_true.2 fun r hr => Option.isSome_iff_ne_none.2 (hall r hr))
    · rw [← hp]
      exact if_neg fun h => absurd (List.all_eq_true.1 h none hr) (by simp)
  refine congrArg Host.Outcome.next ?_
  simp only [hn, ho, hagree, Bool.false_eq_true, if_false, hr, hpick, if_neg (show ¬ (1 : Nat) = 0 by decide),
    if_neg (show ¬ (1 : Nat) = 2 by decide), hi]

/-- Settles O52, clause by clause. -/
theorem engineEvents : Obligations.EngineEvents := by
  refine ⟨?_, ?_, ?_, ?_, completions, fun s d e q a ha hc hr hl hw => ?_, ?_⟩
  · exact fun s d e j u h => ⟨fun q i ha => engineChunk_chosen h ha, fun q c ha => engineChunk_chosen h ha, fun q ha => engineChunk_chosen h ha⟩
  · intro s d e q c x hm ha hc ho
    exact ⟨fun hl hlen => copyChunk_begins hm ha hc ho hl hlen, fun s0 s1 s2 j off n b hp hj hr hw => copyPiece_moves hm ha hc ho hp hj hr hw⟩
  · intro s d e q j f pa x u hm hf hpa
    have hf' : (s.engQ d e q).fly[j]? = some f := hf
    rw [engineChunk_one hm]
    refine congrArg Host.Outcome.next ?_
    simp only [State.engDo, State.engLand, hf', hpa]
    rfl
  · intro s s1 d e q c a l r x off hc ho ha hl hr
    have he := cdisarm_eq hc ho ha hl hr
    refine ⟨fun h0 => ?_, fun h0 h4 hadd => ?_⟩
    · rw [he, if_pos (by simp [h0])]
    · have hadd' : (s.setEngQ d e q { s.engQ d e q with armed := none, cmds := { c with moved := a.done } :: l }).engAdd d e q c
        (dword c.words 4) (BitVec.ofNat 64 a.done) = (r, s1) := hadd
      rw [he, if_neg (by simp [h0, h4]), hadd']
      cases r <;> rfl
  · have hr' : (s.engQ d e q).runs = true := hr
    have hgo : (!a.live && decide (0 < a.waiting)) = true := by rw [hl, decide_eq_true hw]; rfl
    refine congrArg Host.Outcome.next ?_
    simp only [hr', ha, hc, hgo, Bool.not_true, Bool.false_eq_true, if_false, if_true]
  · exact fun s s0 s1 d e op fp32 c ranks ins hn ho ha hr hs hi => collective_writes hn ho ha hr hs hi

end Sys2Proof.Proofs
end

section
/-! SUPPORT. The network of a die at work: what it takes next, and how a piece of its work ends (R310, R446). -/

namespace Sys2Proof.Machine

theorem vset_vset {α : Type} {n : Nat} (v : Vector α n) (i : Nat) (x y : α) : vset (vset v i x) i y = vset v i y := by
  apply Vector.ext
  intro j hj
  simp only [vset, Vector.getElem_setIfInBounds]
  split <;> rfl

theorem State.setDie_setDie (s : State) (d : Nat) (x y : Die) : (s.setDie d x).setDie d y = s.setDie d y := by
  simp only [State.setDie, vset_vset]

theorem State.modDie_modDie (s : State) {d : Nat} (f g : Die → Die) (h : d < 4) : (s.modDie d f).modDie d g = s.modDie d fun x => g (f x) := by
  rw [State.modDie, State.die_modDie _ _ h]
  exact s.setDie_setDie d _ _

/-- A change of a die goes by what the die is. -/
theorem State.modDie_congr {s : State} {d : Nat} {f g : Die → Die} (h : f (s.die d) = g (s.die d)) : s.modDie d f = s.modDie d g :=
  congrArg (s.setDie d) h

theorem State.modNet_congr {s : State} {d : Nat} {f g : Net → Net} (h : f (s.die d).net = g (s.die d).net) : s.modNet d f = s.modNet d g :=
  State.modDie_congr (by simp only [h])

theorem State.net_modNet (s : State) {d : Nat} (f : Net → Net) (h : d < 4) : ((s.modNet d f).die d).net = f (s.die d).net := by
  rw [State.modNet, State.die_modDie _ _ h]

theorem State.modNet_modNet (s : State) {d : Nat} (f g : Net → Net) (h : d < 4) :
    (s.modNet d f).modNet d g = s.modNet d fun n => g (f n) := s.modDie_modDie _ _ h

@[simp] theorem State.modNet_mem (s : State) (d : Nat) (f : Net → Net) : (s.modNet d f).mem = s.mem := rfl
@[simp] theorem State.modNet_nodes (s : State) (d : Nat) (f : Net → Net) : (s.modNet d f).nodes = s.nodes := rfl

/-- Tokens and stamps for which the heap suffices do not exhaust it (R310). -/
theorem State.heapFull_fits {s : State} {d : Nat}
    (h : 64 * ((s.die d).net.tokens.length + (s.die d).net.stamps.length) ≤ (s.die d).net.heapsz.toNat) : s.heapFull d = (false, s) := by
  have h0 : (decide ((s.die d).net.heapsz = 0) && decide (0 < (s.die d).net.tokens.length + (s.die d).net.stamps.length)) = false := by
    by_cases hz : (s.die d).net.heapsz = 0
    · rw [hz] at h
      have : (0 : Word).toNat = 0 := rfl
      simp only [decide_eq_false (show ¬ 0 < (s.die d).net.tokens.length + (s.die d).net.stamps.length by omega), Bool.and_false]
    · simp only [decide_eq_false hz, Bool.false_and]
  unfold State.heapFull
  simp only [h0, Bool.false_eq_true, if_false, if_neg (Nat.not_lt.2 h)]

/-- A piece that asks for no room is carried out. -/
theorem State.netWork_never {s s1 : State} {d : Nat} {m : NetM Unit} (k : State → State) (h : m.run s = .ok ((), s1)) :
    s.netWork d .never m k = k s1 := by
  simp only [State.netWork, State.netRun, if_neg (show ¬ Grows.never = .before by decide), Bool.false_eq_true, if_false, h,
    decide_eq_false (show ¬ Grows.never = .after by decide), Bool.false_and]

/-- A piece that asks for room before it is carried out where the heap suffices. -/
theorem State.netWork_before {s s1 : State} {d : Nat} {m : NetM Unit} (k : State → State)
    (hf : 64 * ((s.die d).net.tokens.length + (s.die d).net.stamps.length) ≤ (s.die d).net.heapsz.toNat) (h : m.run s = .ok ((), s1)) :
    s.netWork d .before m k = k s1 := by
  simp only [State.netWork, State.netRun, if_true, State.heapFull_fits hf, Bool.false_eq_true, if_false, h,
    decide_eq_false (show ¬ Grows.before = .after by decide), Bool.false_and]

/-- A piece that asks for room after it stands where the heap suffices for what it leaves. -/
theorem State.netWork_after {s s1 : State} {d : Nat} {m : NetM Unit} (k : State → State) (h : m.run s = .ok ((), s1))
    (hf : 64 * ((s1.die d).net.tokens.length + (s1.die d).net.stamps.length) ≤ (s1.die d).net.heapsz.toNat) :
    s.netWork d .after m k = k s1 := by
  simp only [State.netWork, State.netRun, if_neg (show ¬ Grows.after = .before by decide), Bool.false_eq_true, if_false, h,
    State.heapFull_fits hf, ite_self]

/-- A wave counter's add that is not due is not made (R326). -/
theorem State.netSettle_idle {s : State} {d : Nat} (h : (s.die d).net.waveCtr = none ∨ (s.die d).net.addDue = false) : s.netSettle d = s := by
  unfold State.netSettle
  dsimp only
  split
  · rfl
  · next hc =>
    rcases h with h | h
    · rw [h] at hc; cases hc
    · rw [h]; rfl

theorem Net.addDue_open {n : Net} (h : n.open_ = true) : n.addDue = false := by simp [Net.addDue, h]
/-- A due add waits for nothing in the inbox, and for no wave (R326). -/
theorem Net.closed_of_addDue {n : Net} (h : n.addDue = true) : n.open_ = false ∧ n.inbox = [] := by
  simp only [Net.addDue, Bool.and_eq_true, Bool.not_eq_true', decide_eq_true_eq] at h
  obtain ⟨⟨⟨⟨⟨-, ho⟩, -⟩, hi⟩, -⟩, -⟩ := h
  exact ⟨ho, hi⟩

theorem Net.addDue_inbox {n : Net} (h : n.inbox ≠ []) : n.addDue = false := by simp [Net.addDue, h]

/-- What the network takes next: the head of its inbox (R446). -/
theorem Net.next_head {n : Net} {m : NetMsg} {l : List NetMsg} (hi : n.inbox = m :: l) (hr : n.runs = true) (hf : n.filling = none) :
    n.next = some (m, l) := by
  simp only [Net.next, hr, if_true, hi, hf, Option.isSome_none, Bool.false_eq_true, if_false]

/-- The slots of a wave, numbered from the first number on (R325). -/
def waveSlots (first : Nat) (acc : List (Nat × Activation)) : List WaveSlot :=
  (List.range acc.length).filterMap fun k => (acc[k]?).map fun a => ⟨first + k, a.1 / 65536, a.2, [], false⟩

/-- A network that has taken a wave (R324, R325, R332). -/
def Net.waved (acc : List (Nat × Activation)) (first : Nat) (c : CtrRef) (ctx : BitVec 12) (n : Net) : Net :=
  { n with
    acts := n.acts.filter fun p => !(acc.map (·.1)).contains p.1
    wave := waveSlots first acc
    waveCtr := some (c, ctx)
    open_ := acc ≠ []
    closed := if acc = [] then n.closed + 1 else n.closed }

/-- A wave of no activation closes at once (R325). -/
theorem Net.waved_nil {n : Net} {first : Nat} {c : CtrRef} {ctx : BitVec 12} (h : n.acts = []) :
    Net.waved [] first c ctx n = { n with wave := [], waveCtr := some (c, ctx), open_ := false, closed := n.closed + 1 } := by
  simp [Net.waved, waveSlots, h]

/-- A wave of some activations is open (R325). -/
theorem Net.waved_ne {acc : List (Nat × Activation)} {n : Net} {first : Nat} {c : CtrRef} {ctx : BitVec 12} (h : acc ≠ []) :
    Net.waved acc first c ctx n = { n with
      acts := n.acts.filter fun p => !(acc.map (·.1)).contains p.1
      wave := waveSlots first acc, waveCtr := some (c, ctx), open_ := true } := by
  simp only [Net.waved, if_neg h, decide_eq_true h]

/-- A wave is taken from the conflict set, then the records of its slots are put (R325). -/
theorem netWave_run (s : State) (d : Nat) (c : CtrRef) (ctx : BitVec 12) (limit : Nat) :
    (netWave d c ctx limit).run s =
      (netFirings d 0 (waveSlots s.nextId ((s.die d).net.form limit))).run
        ({ s with nextId := s.nextId + ((s.die d).net.form limit).length }.modNet d
          (Net.waved ((s.die d).net.form limit) s.nextId c ctx)) := rfl

theorem firstDelta_none {l : List WaveSlot} (h : ∀ w ∈ l, w.deltas = []) : firstDelta l = none := by
  induction l with
  | nil => rfl
  | cons w l ih =>
    rw [firstDelta, h w List.mem_cons_self]
    simp only [ih fun v hv => h v (List.mem_cons_of_mem w hv), Option.map_none]

theorem Net.allDone_closed {n : Net} (h : n.open_ = false) : n.allDone = false := by simp [Net.allDone, h]

/-- A piece behind the removal of the head of the inbox. -/
theorem netPop_run {s : State} {d : Nat} {m : NetMsg} {l : List NetMsg} (x : NetM Unit) (h : (s.die d).net.inbox = m :: l) :
    ((netMod d fun n => { n with inbox := l }) >>= fun _ => x).run s = ((netMod d fun n => { n with inbox := n.inbox.drop 1 }) >>= fun _ => x).run s := by
  have hs : (s.modNet d fun n => { n with inbox := l }) = s.modNet d fun n => { n with inbox := n.inbox.drop 1 } :=
    State.modNet_congr (by simp [h])
  exact congrArg x.run hs

/-- A message taken from the inbox that changes the network alone, and after which no add is due. -/
theorem State.netTake_mod {s : State} {d : Nat} (l : List NetMsg) (f : Net → Net) (hd : d < 4)
    (h : (f { (s.die d).net with inbox := l }).waveCtr = none ∨ (f { (s.die d).net with inbox := l }).addDue = false) :
    s.netTake d l .never (netMod d f) = s.modNet d fun n => f { n with inbox := l } := by
  have hm : ((netMod d fun n => { n with inbox := l }) >>= fun _ => netMod d f).run s = .ok ((), s.modNet d fun n => f { n with inbox := l }) :=
    congrArg (fun u => Except.ok ((), u)) (s.modNet_modNet _ _ hd)
  rw [State.netTake, State.netWork_never _ hm]
  exact State.netSettle_idle (by rw [State.net_modNet _ _ hd]; exact h)

end Sys2Proof.Machine
end
section
/-! SETTLING O53. -/

namespace Sys2Proof.Proofs

open Sys2Proof Sys2Proof.Machine Sys2Proof.Claims

/-- A wave that finds no activation. -/
theorem Net_form_nil {n : Net} (limit : Nat) (h : n.acts = []) : n.form limit = [] := by
  simp [Net.form, h, Net.accept]

/-- A network that has come to be as f says, with bytes and nodes as before. -/
theorem ends_of_modNet {e : Instr} {d : Nat} {f : Net → Net} {s : State} (hd : d < 4) (he : exec e s = .next (s.modNet d f)) :
    ∃ u, exec e s = .next u ∧ (u.mem = s.mem ∧ u.nodes = s.nodes) ∧ (u.die d).net = f (s.die d).net :=
  ⟨_, he, ⟨rfl, rfl⟩, s.net_modNet f hd⟩

/-- A message taken from the inbox that changes the network alone while a wave is open. -/
theorem ends_of_netTake {e : Instr} {d : Nat} {l : List NetMsg} {f : Net → Net} {s : State} (hd : d < 4)
    (he : exec e s = .next (s.netTake d l .never (netMod d f))) (ho : (f { (s.die d).net with inbox := l }).open_ = true) :
    ∃ u, exec e s = .next u ∧ (u.mem = s.mem ∧ u.nodes = s.nodes) ∧ (u.die d).net = f { (s.die d).net with inbox := l } :=
  ends_of_modNet hd (he.trans (congrArg Host.Outcome.next (s.netTake_mod l f hd (.inr (Net.addDue_open ho)))))

/-- What a delta does, by the state of the wave (R325). -/
theorem deltaArrival_eq {s : State} {d t : Nat} {f : Option Nat} {x : Delta} {l : List NetMsg}
    (hi : (s.die d).net.inbox = .delta t f x :: l) (hr : (s.die d).net.runs = true) (hf : (s.die d).net.filling = none)
    (ho : (s.die d).net.owner ≠ none) (ha : (s.die d).net.allDone = false) :
    ((s.die d).net.open_ = true → f = none →
      exec (.networkDeltaArrival d) s = .next (s.netTake d l .never (netHold d (.delta t f x)))) ∧
    ((s.die d).net.open_ = true → ∀ id, f = some id →
      exec (.networkDeltaArrival d) s = .next (s.netTake d l .never (netMod d fun n => { n with
        wave := n.wave.map fun w => if w.id = id then { w with deltas := w.deltas ++ [x] } else w }))) ∧
    ((s.die d).net.open_ = false → exec (.networkDeltaArrival d) s = .next (s.netTake d l .before (netDelta d x))) := by
  have ho' : (s.die d).net.owner.isNone = false := Option.isNone_eq_false_iff.2 (Option.isSome_iff_ne_none.2 ho)
  refine ⟨fun hop hfn => congrArg Host.Outcome.next ?_, fun hop id hfs => congrArg Host.Outcome.next ?_,
    fun hop => congrArg Host.Outcome.next ?_⟩
  · subst hfn
    simp only [Net.next_head hi hr hf, ha, ho', hop, Bool.false_eq_true, if_false, if_true]
  · subst hfs
    simp only [Net.next_head hi hr hf, ha, ho', hop, Bool.false_eq_true, if_false, if_true]
  · simp only [Net.next_head hi hr hf, ha, ho', hop, Bool.false_eq_true, if_false]

/-- What a score does, by the state of the wave (R325, R334). -/
theorem scsetArrival_eq {s : State} {d : Nat} {h key : Word} {l : List NetMsg}
    (hi : (s.die d).net.inbox = .scset h key :: l) (hr : (s.die d).net.runs = true) (hf : (s.die d).net.filling = none)
    (ho : (s.die d).net.owner ≠ none) :
    exec (.networkScsetArrival d) s = .next (
      if (s.die d).net.open_ then s.netTake d l .never (netHold d (.scset h key)) else s.netTake d l .after (netScset d h key)) := by
  have ho' : (s.die d).net.owner.isNone = false := Option.isNone_eq_false_iff.2 (Option.isSome_iff_ne_none.2 ho)
  refine congrArg Host.Outcome.next ?_
  simp only [Net.next_head hi hr hf, ho', Bool.false_eq_true, if_false]

/-- CSWAVE takes a wave from the conflict set behind its own removal from the inbox (R324, R325). -/
theorem cswaveArrival_eq {s s1 : State} {d t : Nat} {c : CtrRef} {ctx : BitVec 12} {limit : Nat} {l : List NetMsg} (hd : d < 4)
    (hi : (s.die d).net.inbox = .cswave t c ctx limit :: l) (hr : (s.die d).net.runs = true) (hf : (s.die d).net.filling = none)
    (ho : (s.die d).net.owner ≠ none)
    (hfits : 64 * ((s.die d).net.tokens.length + (s.die d).net.stamps.length) ≤ (s.die d).net.heapsz.toNat)
    {acc : List (Nat × Activation)} (hacc : Net.form { (s.die d).net with inbox := l } limit = acc)
    (hw : (netFirings d 0 (waveSlots s.nextId acc)).run ({ s with nextId := s.nextId + acc.length }.modNet d fun _ =>
      Net.waved acc s.nextId c ctx { (s.die d).net with inbox := l }) = .ok ((), s1)) :
    exec (.networkCswaveArrival d) s = .next (s1.netSettle d) := by
  have ho' : (s.die d).net.owner.isNone = false := Option.isNone_eq_false_iff.2 (Option.isSome_iff_ne_none.2 ho)
  have he : exec (.networkCswaveArrival d) s = .next (s.netTake d l .before (netWave d c ctx limit)) := by
    refine congrArg Host.Outcome.next ?_
    simp only [Net.next_head hi hr hf, ho', Bool.false_eq_true, if_false]
  have hst : ({ s with nextId := s.nextId + acc.length }.modNet d fun n => { n with inbox := l }).modNet d (Net.waved acc s.nextId c ctx) =
      { s with nextId := s.nextId + acc.length }.modNet d fun _ => Net.waved acc s.nextId c ctx { (s.die d).net with inbox := l } :=
    (State.modNet_modNet _ _ _ hd).trans (State.modNet_congr rfl)
  have hrun : ((netMod d fun n => { n with inbox := l }) >>= fun _ => netWave d c ctx limit).run s = .ok ((), s1) := by
    refine (netWave_run (s.modNet d fun n => { n with inbox := l }) d c ctx limit).trans ?_
    rw [State.net_modNet _ _ hd, hacc, ← hw, ← hst]
    rfl
  rw [he, State.netTake, State.netWork_before _ hfits hrun]

/-- Settles O53: an arrival of the network is taken from its inbox and judged or held, and a wave is taken, counted, drained and closed. -/
theorem networkEvents : Obligations.NetworkEvents := by
  intro d hd
  dsimp only
  refine ⟨?_, ?_, ?_, ?_, ?_, ?_, ?_, ?_, ?_, ?_, ?_, ?_, ?_⟩
  · rintro t id x l s ⟨⟨hi, hr, hf, ho⟩, hop, ha⟩
    obtain ⟨-, hslot, -⟩ := deltaArrival_eq hi hr hf ho ha
    exact ends_of_netTake hd (hslot hop id rfl) hop
  · rintro t x l s ⟨⟨hi, hr, hf, ho⟩, hop, ha⟩
    obtain ⟨hheld, -, -⟩ := deltaArrival_eq hi hr hf ho ha
    exact ends_of_netTake hd (hheld hop rfl) hop
  · rintro t f x l s1 s ⟨⟨hi, hr, hf, ho⟩, hop, hfits, hrun⟩
    obtain ⟨-, -, hnow⟩ := deltaArrival_eq hi hr hf ho (Net.allDone_closed hop)
    rw [hnow hop, State.netTake,
      State.netWork_before _ hfits ((netPop_run _ hi).trans hrun)]
  · rintro h key l s ⟨⟨hi, hr, hf, ho⟩, hop⟩
    exact ends_of_netTake hd ((scsetArrival_eq hi hr hf ho).trans (congrArg _ (if_pos hop))) hop
  · rintro h key l s1 s ⟨⟨hi, hr, hf, ho⟩, hop, hrun, hfits⟩
    rw [scsetArrival_eq hi hr hf ho, if_neg (by rw [hop]; decide), State.netTake,
      State.netWork_after _ ((netPop_run _ hi).trans hrun) hfits]
  · rintro t c ctx limit l s ⟨⟨hi, hr, hf, ho⟩, ha, hl, hfits⟩
    have he := cswaveArrival_eq hd hi hr hf ho hfits (Net_form_nil limit ha) rfl
    have hn := State.net_modNet { s with nextId := s.nextId + 0 }
      (fun _ => Net.waved [] s.nextId c ctx { (s.die d).net with inbox := l }) hd
    have hidle := State.netSettle_idle (.inr ((congrArg Net.addDue hn).trans (Net.addDue_inbox hl)))
    refine ⟨_, he.trans (congrArg _ hidle), ⟨rfl, rfl⟩, hn.trans (Net.waved_nil ha)⟩
  · rintro t c ctx limit l s1 s ⟨⟨hi, hr, hf, ho⟩, hacc, hfits, hw⟩
    refine cswaveArrival_eq hd hi hr hf ho hfits rfl ?_
    rw [Net.waved_ne hacc]
    exact hw
  · rintro id l s ⟨hi, hr, hf, hop, w, hw, hdone, -⟩
    have ha : (s.die d).net.allDone = false := by
      refine Bool.eq_false_iff.2 fun h => ?_
      have := List.all_eq_true.1 (Bool.and_eq_true _ _ ▸ h : _ ∧ _).2 w hw
      rw [hdone] at this
      cases this
    have he : exec (.networkFdoneArrival d) s = .next (s.netTake d l .never (netDone d id)) := by
      refine congrArg Host.Outcome.next ?_
      simp only [Net.next_head hi hr hf, ha, Bool.false_and, Bool.false_eq_true, if_false]
    exact ends_of_netTake hd he hop
  · rintro s ⟨hr, ha, hnil, hne⟩
    have he : exec (.networkFdoneArrival d) s = .next ((s.modNet d Net.close).netSettle d) := by
      refine congrArg Host.Outcome.next ?_
      simp only [ha, hr, Bool.and_self, if_true, State.netClose, firstDelta_none hnil]
    rw [State.netSettle_idle (.inr (by rw [State.net_modNet _ _ hd]; exact Net.addDue_inbox hne))] at he
    exact ends_of_modNet hd he
  · rintro a x left s1 s ⟨hr, ha, hfd, hfits, hrun⟩
    refine congrArg Host.Outcome.next ?_
    simp only [ha, hr, Bool.and_self, if_true, State.netClose, hfd]
    exact State.netWork_before id hfits hrun
  · rintro c ctx pa v s1 s2 s ⟨hr, hc, hdue, hx, hadd⟩
    obtain ⟨hop, hin⟩ := Net.closed_of_addDue hdue
    have hnext : (s.die d).net.next = none := by simp only [Net.next, hr, if_true, hin]
    have hrun : (netXlate d c.va.toNat .write >>= fun pa => fun u : State =>
        netGot c.va.toNat (u.counterAt d ⟨ctx, 4⟩ pa 1)).run s = .ok (v, s2) := by
      refine (congrArg (fun r => r >>= fun p : Nat × State => netGot c.va.toNat (p.2.counterAt d ⟨ctx, 4⟩ p.1 1)) hx).trans ?_
      exact congrArg (netGot c.va.toNat) hadd
    refine congrArg Host.Outcome.next ?_
    simp only [Net.allDone_closed hop, Bool.false_and, Bool.false_eq_true, if_false, hnext]
    simp only [State.netSettle, hc, hdue, hr, Bool.and_self, if_true, State.netRun, hrun]
  · rintro i s1 s ⟨hf, hr, hfits, hrun⟩
    refine congrArg Host.Outcome.next ?_
    simp only [hf, hr, if_true]
    exact State.netWork_before _ hfits hrun
  · rintro ctx assist block l s ⟨hi, hr, hf⟩
    have he : exec (.netldLoad d) s = .next (s.netTake d l .never (netLoad d ctx assist 0 block)) := by
      refine congrArg Host.Outcome.next ?_
      simp only [hf, Net.next_head hi hr hf]
    have hrun : ((netMod d fun n => { n with inbox := l }) >>= fun _ => netLoad d ctx assist 0 block).run s =
        .ok ((), (s.modNet d fun n => { n with inbox := l }).modNet d fun n => { Net.reset with
          status := ((s.modNet d fun n => { n with inbox := l }).die d).net.status, inbox := n.inbox }) := rfl
    rw [State.netTake, State.netWork_never _ hrun, State.net_modNet _ _ hd, State.modNet_modNet _ _ _ hd,
      State.netSettle_idle (.inl (by rw [State.net_modNet _ _ hd]; rfl))] at he
    exact ends_of_modNet hd he

end Sys2Proof.Proofs
end

section
/-! SUPPORT. Queues, packets and tasks: what reads back, and how a piece of the launch controller's work ends (R356 to R367). -/

namespace Sys2Proof.Machine

/-- What a change of a die leaves of every die, it leaves of each. -/
theorem State.proj_modDie {α : Type} (π : Die → α) (s : State) (e d : Nat) (f : Die → Die) (h : ∀ x, π (f x) = π x) :
    π ((s.modDie e f).die d) = π (s.die d) := by
  by_cases hd : e = d
  · subst hd
    by_cases hlt : e < 4
    · rw [State.die_modDie _ _ hlt, h]
    · rw [State.die_eq_reset _ hlt, State.die_eq_reset _ hlt]
  · rw [State.die_modDie_ne _ _ hd]

theorem State.queueAt_setQueue (s : State) {d : Nat} (q : Nat) (x : QueueSt) (h : d < 4) : (s.setQueue d q x).queueAt d q = x := by
  simp only [State.queueAt, State.setQueue, State.die_modDie _ _ h, Tbl.getD, Tbl.get?_set_self, Option.getD_some]

/-- Reading the queue table changes no die (R77). -/
theorem State.tableRead_die (s : State) (q d : Nat) : (s.tableRead q).die d = s.die d := by
  unfold State.tableRead State.touch
  split <;> rfl

theorem State.tableRead_kept (s : State) (q : Nat) : s.Kept (s.tableRead q) := (State.Kept.refl s).touch

/-- A register write outside the queue table's base and the domain leaves what the host maps (R368). -/
theorem State.hostMaps_setMmio (s : State) (d q : Nat) {o : Nat} (x : Word) (h : 0x100D8 < o) (k : o < 0x100000) :
    (s.setMmio d o x).hostMaps q = s.hostMaps q := by
  have hb : (s.setMmio d o x).mmioAt 0 0x100D8 = s.mmioAt 0 0x100D8 := s.mmioAt_setMmio_ne x (by omega)
  have hd : (s.setMmio d o x).mmioAt 0 0x80 = s.mmioAt 0 0x80 := s.mmioAt_setMmio_ne x (by omega)
  have hc (c : BitVec 12) : (s.setMmio d o x).ctxReg c 2 = s.ctxReg c 2 := s.mmioAt_setMmio_ne x (by simp only [ctxOff]; omega)
  have hr (a n : Nat) : (s.setMmio d o x).devRead a n = s.devRead a n := by
    simp only [State.devRead, State.key, State.dom, hd]
    rfl
  simp only [State.hostMaps, State.qEntry, hb, hr, hc]

/-- A register write that its group takes or drops (R450). -/
theorem State.mmioKeep_cases (s : State) (d off : Nat) (x : Word) :
    s.mmioKeep d off x = s ∨ ∃ e y, s.mmioKeep d off x = s.setMmio e off y := by
  unfold State.mmioKeep
  split
  · exact .inl rfl
  · exact .inr ⟨_, _, rfl⟩

/-- A piece of the controller's work that ends well. -/
theorem State.lRun_ok {α : Type} {s t : State} {l : LFor} {m : LaunchM α} {x : α} (ok : α → State → State) (bad : Nat → State → State)
    (h : m.run s = .ok (x, t)) : s.lRun l m ok bad = ok x t := by
  unfold State.lRun
  rw [h]

/-- A packet that counts as consumed has begun: its launch stands in its queue as the last (R357). -/
theorem State.begin_ok {s t : State} {d : Nat} {h : Head} (l : Launch) (hd : d < 4)
    (ha : (lAdd (s.forQueue d h.q h.e) h.e.consumed 1).run s = .ok ((), t)) :
    ∃ id, Tbl.get? id (s.begin d h l).launches = some l ∧ ((s.begin d h l).queueAt d h.q).last = some id := by
  refine ⟨t.nextId, ?_, ?_⟩ <;> rw [State.begin, State.lRun_ok _ _ ha]
  · exact Tbl.get?_set_self _ _ _
  · exact congrArg QueueSt.last (State.queueAt_setQueue _ _ _ hd)

/-- A die with a slot in use is one of the module. -/
theorem State.lt_of_heads {s t : State} {d : Nat} {h : Head} (k : s.heads d (s.die d).slots = ([h], t)) : d < 4 := by
  by_contra hd
  rw [State.die_eq_reset _ hd] at k
  cases k

/-- The one head of a die's queues is taken up, where nothing stands before it (R360, R362). -/
theorem packetChoose_eq {s s1 : State} {d : Nat} {h : Head} (hen : (s.mmioAt 0 0x100D8).getLsbD 0 = true) (hl : s.launchesHeld = false)
    (hh : s.heads d (s.die d).slots = ([h], s1)) (he : s1.eligible d h false = true) (hk : s1.locked = true) (hu : s1.unplaced d = [])
    (hp : pKind h.words ≠ 3 ∨ pMalformed h.words = true) :
    exec (.packetChoose d) s = .next (s1.beginHead d h) := by
  have hw : (pKind h.words = 3 && !pMalformed h.words && (s1.queueAt d h.q).aborted.isNone) = false := by
    rcases hp with hp | hp <;> simp [hp]
  refine congrArg Host.Outcome.next ?_
  simp only [hen, hl, Bool.not_true, Bool.or_false, Bool.false_eq_true, if_false, hh]
  have hf : ([h].filter fun h => s1.eligible d h (pKind h.words = 3 && !pMalformed h.words && (s1.queueAt d h.q).aborted.isNone)
      && (s1.locked || !s1.spans d h)) = [h] := by
    simp only [List.filter, hw, he, hk, Bool.true_or, Bool.and_self]
  simp only [hf, firstHead, hu, List.any_nil, Bool.false_eq_true, if_false]

/-- The checks of a chosen head come before its beginning (R359, R366). -/
theorem State.beginHead_checked {s t : State} {d : Nat} {h : Head} {c : Check} (ha : (s.queueAt d h.q).aborted = none)
    (hm : pMalformed h.words = false)
    (hc : (lCheck (s.forQueue d h.q h.e) h.words (s.ctxReg h.e.ctx 1) (s.ctxReg h.e.ctx 8) (s.resident d h)).run s = .ok (c, t)) :
    (∀ x r, c = .tasks x r → s.beginHead d h = t.beginTasks d h x r) ∧
    ∀ recs seqs map bin r, c = .gang recs seqs map bin r → s.beginHead d h = t.beginGang d h recs seqs map bin r := by
  constructor
  · rintro x r rfl
    simp only [State.beginHead, ha, Option.isSome_none, hm, Bool.false_eq_true, if_false, State.lRun_ok _ _ hc]
  · rintro recs seqs map bin r rfl
    simp only [State.beginHead, ha, Option.isSome_none, hm, Bool.false_eq_true, if_false, State.lRun_ok _ _ hc]

/-- A packet that is in time, or may be late, may run (R363). -/
theorem State.newLaunch_inTime {s : State} {d : Nat} {h : Head} {r : Tbl RoundRegion}
    (hl : s.now.toNat ≤ pDeadline h.words ∨ pLate h.words = true) : ((s.newLaunch d h r).lateRun && !pLate h.words) = false := by
  rcases hl with hl | hl
  · rw [show (s.newLaunch d h r).lateRun = false from decide_eq_false (Nat.not_lt.2 hl)]
    rfl
  · rw [hl, Bool.not_true, Bool.and_false]

/-- A task packet without replicas begins on its own die (R362, R366). -/
theorem State.beginTasks_eq {s t : State} {d : Nat} {h : Head} {x : Option Template} {r : Tbl RoundRegion}
    (hr : pRed h.words = 1) (hl : s.now.toNat ≤ pDeadline h.words ∨ pLate h.words = true) (hf : s.freeCts d ≠ [])
    (hx : s.residentOn (tmplKey h.e.ctx (pTmpl h.words)) x [d] = some t) :
    ∃ man, s.beginTasks d h x r = (t.pickWords 6).2.pickWord.2.begin d h { s.newLaunch d h r with map := [d], man := man } := by
  have hrep : (s.newLaunch d h r).replicas = 1 := hr
  have hctx : (s.newLaunch d h r).ctx = h.e.ctx := rfl
  simp only [State.beginTasks, hrep, if_true, decide_eq_true hf, State.newLaunch_inTime hl, Bool.false_eq_true, if_false, hctx, hx]
  exact ⟨_, rfl⟩

/-- A gang without replicas asks the dies of its rank map for reservations, for a tick T (R362, R364). -/
theorem State.beginGang_eq {s : State} {d : Nat} {h : Head} {recs : List (List CfgRec)} {seqs : List (Tbl (List Word))} {map : List Nat}
    (bin : List Word) {r : Tbl RoundRegion}
    (hr : pRed h.words = 1) (hl : s.now.toNat ≤ pDeadline h.words ∨ pLate h.words = true) (hm : ∀ x ∈ map, x < 4 →
      let l := { s.newLaunch d h r with recs := recs, seqs := seqs, map := map }
      (s.reserveAll 0 l x (l.onDie x)).1.isSome = true) :
    let T := s.startTick (s.ctxReg h.e.ctx 2) 20000
    ∃ man, s.beginGang d h recs seqs map bin r = T.2.begin d h { s.newLaunch d h r with
      recs := recs, seqs := seqs, map := map, man := man, tickT := T.1
      gang := map.eraseDups.map fun x => ⟨x, false, false, false, false, false⟩ } := by
  have hrep : ({ s.newLaunch d h r with recs := recs, seqs := seqs, map := map } : Launch).replicas = 1 := hr
  have hroom : (map.filter fun x => x < 4).eraseDups.all (fun x =>
      (s.reserveAll 0 { s.newLaunch d h r with recs := recs, seqs := seqs, map := map } x
        (({ s.newLaunch d h r with recs := recs, seqs := seqs, map := map } : Launch).onDie x)).1.isSome) = true := by
    refine List.all_eq_true.2 fun x hx => ?_
    obtain ⟨hxm, hx4⟩ := List.mem_filter.1 (List.mem_eraseDups.1 hx)
    exact hm x hxm (of_decide_eq_true hx4)
  intro T
  simp only [State.beginGang, hrep, if_true, hroom, State.newLaunch_inTime hl, Bool.false_eq_true, if_false]
  exact ⟨_, rfl⟩

end Sys2Proof.Machine
end

section
/-! SUPPORT. Tasks: a record's way into a die's queue, and its start on a CT (R344, R366, R367). -/

namespace Sys2Proof.Machine

theorem State.event_tasks (s : State) (e d ty k : Nat) (c : BitVec 12) (x y : Word) :
    ((s.event e ty c k x y).die d).tasks = (s.die d).tasks := by
  unfold State.event
  dsimp only
  split
  · rfl
  · exact State.proj_modDie (·.tasks) s e d (fun x => { x with events := _, evCount := _ }) fun _ => rfl

theorem State.setCache_tasks (s : State) (t : Nat) (c : TileCache) (d : Nat) : ((s.setCache t c).die d).tasks = (s.die d).tasks :=
  State.proj_modDie (·.tasks) s _ d _ fun _ => rfl

/-- A task's node stands at the entry that its record names, in its context, with the registers of R344. -/
theorem State.taskNode_node (s : State) (t h id : Nat) (r : TaskRec) (e : List Word) :
    let n := (s.taskNode t h id r e).1
    n.task ≠ none ∧ n.ctx = r.ctx ∧ n.pc = BitVec.ofNat 64 (pWord e 0) ∧ n.regs.g = taskRegs e r Regs.start.g := by
  unfold State.taskNode
  dsimp only
  split <;> exact ⟨Option.some_ne_none _, rfl, rfl, rfl⟩

/-- A task's node takes free values alone from the state. -/
theorem State.taskNode_dies (s : State) (t h id : Nat) (r : TaskRec) (e : List Word) : (s.taskNode t h id r e).2.dies = s.dies := by
  unfold State.taskNode
  dsimp only
  split <;> rfl

/-- A task's node stands on its CT, with no line there of a task before it. -/
def State.taskPlaced (s : State) (d t : Nat) (r : TaskRec) (n : Node) : State :=
  let s := ((s.setNode t n).dropRemoteL1 t).dropConst t
  if r.voted.isNone then s
  else s.event d 0x11 n.ctx (t % 4096) (n.rep.setWidth 64 + n.repMode.setWidth 64 * 4) n.red.seqNo

/-- A task counts as its launch's, and as a use of its template. -/
def State.taskCounts (s : State) (d id : Nat) (r : TaskRec) : State :=
  { s with
    dies := vset s.dies d { s.die d with
      tmpls := (s.die d).tmpls.modify (tmplKey r.ctx (field r.w0.toNat 63 48)) fun y => { y with used := s.useTick } }
    useTick := s.useTick + 1
    launches := s.launches.modify id fun l => { l with running := l.running + 1 } }

/-- A task that keeps cuts begins with one. -/
def State.taskKeeps (s : State) (h : Nat) : State :=
  if s.cutKeeping h then s.modRegion h fun x => { x with confirmed := some (s.snapshot h 0) } else s

/-- The launch whose task a record is, or a number of its own. -/
def State.taskOwner (s : State) (r : TaskRec) : Nat × State := match r.launch with
  | some id => (id, s)
  | none => s.fresh

/-- The unit that a task is. -/
def taskUnit (id d t : Nat) (r : TaskRec) : Region :=
  { Region.blank id r.ctx 0 r.replica d [] [] with
    isTask := true, live := true, elems := [t], voteCut := r.voted
    originX := 16 * (d % 2) + t % 1024 / 64, originY := 16 * (d / 2) + t % 1024 % 32 / 2 }

/-- A state with a task's unit under a handle. -/
def State.withUnit (s : State) (h id d t : Nat) (r : TaskRec) : State := { s with regions := s.regions.set h (taskUnit id d t r) }

/-- A task starts as a unit of its own, under a handle. -/
theorem State.startTask_eq (s : State) (d t : Nat) (r : TaskRec) (e : List Word) :
    s.startTask d t r e =
      let h := s.newHandle.1
      let p := s.newHandle.2.taskOwner r
      let q := (p.2.withUnit h p.1 d t r).taskNode t h p.1 r e
      ((q.2.taskPlaced d t r q.1).taskCounts d p.1 r).taskKeeps h := by
  unfold State.startTask State.taskOwner State.withUnit taskUnit State.taskPlaced State.taskCounts State.taskKeeps
  rcases s.newHandle with ⟨h, s1⟩
  cases hr : r.launch <;> rfl

theorem State.taskPlaced_node (s : State) (d t : Nat) (r : TaskRec) (n : Node) : (s.taskPlaced d t r n).node? t = some n := by
  have hn : (s.taskPlaced d t r n).nodes = (s.setNode t n).nodes := by
    unfold State.taskPlaced
    dsimp only
    split
    · rfl
    · exact (State.SameNodes.event _ _ _ _ _ _ _).1
  rw [State.node?, hn]
  exact Tbl.get?_set_self _ _ _

theorem State.taskKeeps_nodes (s : State) (h : Nat) : (s.taskKeeps h).nodes = s.nodes := by
  unfold State.taskKeeps
  split <;> rfl

theorem State.taskKeeps_dies (s : State) (h : Nat) : (s.taskKeeps h).dies = s.dies := by
  unfold State.taskKeeps
  split <;> rfl

theorem State.taskPlaced_tasks (s : State) (d t : Nat) (r : TaskRec) (n : Node) : ((s.taskPlaced d t r n).die d).tasks = (s.die d).tasks := by
  have h0 : ((((s.setNode t n).dropRemoteL1 t).dropConst t).die d).tasks = (s.die d).tasks :=
    (State.setCache_tasks _ _ _ _).trans (State.setCache_tasks _ _ _ _)
  unfold State.taskPlaced
  dsimp only
  split
  · exact h0
  · exact (State.event_tasks _ _ _ _ _ _ _ _).trans h0

theorem State.taskCounts_tasks (s : State) (d id : Nat) (r : TaskRec) : ((s.taskCounts d id r).die d).tasks = (s.die d).tasks :=
  State.proj_modDie (·.tasks) s d d (fun x => { x with tmpls := x.tmpls.modify _ _ }) fun _ => rfl

/-- A task that starts stands at its CT as R344 says, and no record leaves its die's queue. -/
theorem State.startTask_starts (s : State) (d t : Nat) (r : TaskRec) (e : List Word) :
    (∃ n, (s.startTask d t r e).node? t = some n ∧ n.task ≠ none ∧ n.ctx = r.ctx ∧ n.pc = BitVec.ofNat 64 (pWord e 0) ∧
      n.regs.g = taskRegs e r Regs.start.g) ∧ ((s.startTask d t r e).die d).tasks = (s.die d).tasks := by
  have ho : (s.newHandle.2.taskOwner r).2.dies = s.dies := by
    unfold State.taskOwner
    split <;> rfl
  rw [State.startTask_eq]
  dsimp only
  generalize s.newHandle.1 = h
  generalize s.newHandle.2.taskOwner r = p at ho
  have hv : ((p.2.withUnit h p.1 d t r).taskNode t h p.1 r e).2.die d = s.die d := by
    rw [State.die, State.taskNode_dies, State.withUnit, ho]
    rfl
  have hnode := (p.2.withUnit h p.1 d t r).taskNode_node t h p.1 r e
  constructor
  · refine ⟨_, ?_, hnode⟩
    rw [State.node?, State.taskKeeps_nodes]
    exact State.taskPlaced_node _ d t r _
  · rw [State.die, State.taskKeeps_dies]
    exact (State.taskCounts_tasks _ _ _ _).trans ((State.taskPlaced_tasks _ _ _ _ _).trans (congrArg Die.tasks hv))

/-- A record goes onto a die that has room, where none is on its way (R366, R367). -/
theorem State.addTask_room {s : State} {d : Nat} (r : TaskRec) (hd : d < 4) (hon : (s.die d).onDie = (s.die d).tasks.length)
    (hov : (s.die d).ovf = 0) (hlt : (s.die d).onDie < 4096) :
    s.addTask d r = s.modDie d fun x => { x with tasks := x.tasks ++ [r], onDie := x.onDie + 1 } := by
  have hgo : ((s.die d).onDie < 4096 && (s.die d).ovf = 0 && (s.die d).onDie < ((s.die d).tasks ++ [r]).length) = true := by
    simp only [decide_eq_true hlt, decide_eq_true hov, Bool.and_self, Bool.true_and, List.length_append, List.length_singleton,
      decide_eq_true_eq]
    omega
  simp only [State.addTask, State.taskSettle, State.die_modDie _ _ hd, hgo, if_true]
  exact State.modDie_modDie _ _ _ hd

/-- The next record of a tasks packet that has no replicas (R366). -/
def Launch.nextRec (l : Launch) (tid id : Nat) : TaskRec :=
  ⟨tid, BitVec.ofNat 64 (field (pWord l.words 3) 63 32 * 2 ^ 32 + (field (pWord l.words 3) 31 0 + l.emitted) % 2 ^ 32),
    (l.words[4]?).getD 0, l.ctx, some id, 0, none, [], false, none⟩

theorem Launch.nextRec_w0 (l : Launch) (tid id : Nat) :
    (l.nextRec tid id).w0.toNat = field (pWord l.words 3) 63 32 * 2 ^ 32 + (field (pWord l.words 3) 31 0 + l.emitted) % 2 ^ 32 := by
  have hf : field (pWord l.words 3) 63 32 < 2 ^ 32 := Nat.mod_lt _ (by decide)
  have hlt : (field (pWord l.words 3) 31 0 + l.emitted) % 2 ^ 32 < 2 ^ 32 := Nat.mod_lt _ (by decide)
  exact (BitVec.toNat_ofNat _ _).trans (Nat.mod_eq_of_lt (by omega))

/-- The head of a die's task queue is taken up, where no record is on its way (R367). -/
theorem taskDispatch_eq {s : State} {d : Nat} {r : TaskRec} {l : List TaskRec} (ht : (s.die d).tasks = r :: l)
    (hs : s.settleDue d = false) (hon : 0 < (s.die d).onDie) :
    exec (.taskDispatch d) s = .next (if r.cancelled then s.modDie d fun x => { x with tasks := x.tasks.drop 1, onDie := x.onDie - 1 }
      else s.dispatch d r) := by
  refine congrArg Host.Outcome.next ?_
  simp only [hs, Bool.false_eq_true, if_false, ne_eq, not_true_eq_false, decide_false, Bool.or_self, ht, if_neg (Nat.pos_iff_ne_zero.1 hon)]

/-- The head leaves the queue on the die. -/
theorem State.popTask_eq {s : State} {d : Nat} {r : TaskRec} {l : List TaskRec} (ht : (s.die d).tasks = r :: l) :
    (s.modDie d fun x => { x with tasks := x.tasks.drop 1, onDie := x.onDie - 1 }) =
      s.modDie d fun x => { x with tasks := l, onDie := x.onDie - 1 } :=
  State.modDie_congr (by simp [ht])

end Sys2Proof.Machine
end
section
/-! SETTLING O54. -/

namespace Sys2Proof.Proofs

open Sys2Proof Sys2Proof.Machine Sys2Proof.Claims

/-- A host's slot write, where the slot is free and the host maps the queue (R361). -/
theorem slotWrite_maps {s : State} {d k : Nat} {x : Word} (hd : d < 4) (hk : k < 256) (hx : x.getLsbD 63 = true)
    (hm : s.hostMaps (x.toNat % 2 ^ 16) = true) (hf : Tbl.get? k (s.die d).slots = none) :
    let u := s.slotWrite d k x
    Tbl.get? k (u.die d).slots = some (x.toNat % 2 ^ 16) ∧ (u.queueAt d (x.toNat % 2 ^ 16)).slot = some k ∧ u.mem = s.mem ∧ u.nodes = s.nodes := by
  have hq : (s.mmioKeep d (0x100E8 + 8 * k) x).hostMaps (x.toNat % 2 ^ 16) = true ∧
      (s.mmioKeep d (0x100E8 + 8 * k) x).dies = s.dies ∧ (s.mmioKeep d (0x100E8 + 8 * k) x).mem = s.mem ∧
      (s.mmioKeep d (0x100E8 + 8 * k) x).nodes = s.nodes := by
    rcases s.mmioKeep_cases d (0x100E8 + 8 * k) x with h | ⟨e, y, h⟩
    · rw [h]; exact ⟨hm, rfl, rfl, rfl⟩
    · rw [h]; exact ⟨(s.hostMaps_setMmio e _ y (by omega) (by omega)).trans hm, rfl, rfl, rfl⟩
  generalize hv : s.mmioKeep d (0x100E8 + 8 * k) x = v at hq
  obtain ⟨hmap, hdies, hmem, hnodes⟩ := hq
  have hfree : Tbl.get? k (v.die d).slots = none := by rw [show v.die d = s.die d by rw [State.die, hdies]; rfl]; exact hf
  have hu : s.slotWrite d k x = (v.setQueue d (x.toNat % 2 ^ 16)
      { v.queueAt d (x.toNat % 2 ^ 16) with slot := some k, mappedAt := v.now.toNat }).modDie d fun y =>
        { y with slots := y.slots.set k (x.toNat % 2 ^ 16) } := by
    simp only [State.slotWrite, hv, hfree, hx, hmap, Bool.and_self, if_true]
  intro u
  rw [show u = _ from hu]
  refine ⟨?_, ?_, hmem, hnodes⟩
  · rw [State.die_modDie _ _ hd]; exact Tbl.get?_set_self _ _ _
  · have hq := State.queueAt_setQueue v (x.toNat % 2 ^ 16)
      { v.queueAt d (x.toNat % 2 ^ 16) with slot := some k, mappedAt := v.now.toNat } hd
    rw [State.queueAt, State.die_modDie _ _ hd]
    exact congrArg QueueSt.slot hq

/-- A piece of the launch controller's work after one that ends well. -/
theorem launchM_run_bind {α β : Type} {x : LaunchM α} {f : α → LaunchM β} {s t : State} {a : α} (h : x.run s = .ok (a, t)) :
    (x >>= f).run s = (f a).run t :=
  congrArg (fun y : Except LErr (α × State) => y >>= fun p => (f p.1).run p.2) h

/-- Heads of a die's queues (R357 to R366). -/
theorem heads_begin (s s1 : State) (d : Nat) (h : Head) (hen : (s.mmioAt 0 0x100D8).getLsbD 0 = true) (hl : s.launchesHeld = false)
    (hh : s.heads d (s.die d).slots = ([h], s1)) (he : s1.eligible d h false = true) (hk : s1.locked = true) (hu : s1.unplaced d = [])
    (ha : (s1.queueAt d h.q).aborted = none) :
    (pMalformed h.words = true → exec (.packetChoose d) s = .next (s1.refuse d h 3 8)) ∧
    (∀ (s2 s5 : State) (c : Check), pMalformed h.words = false → pKind h.words ≠ 3 → pRed h.words = 1 →
      (lCheck (s1.forQueue d h.q h.e) h.words (s1.ctxReg h.e.ctx 1) (s1.ctxReg h.e.ctx 8) (s1.resident d h)).run s1 = .ok (c, s2) →
      s2.now.toNat ≤ pDeadline h.words ∨ pLate h.words = true →
      let begun (u : State) (map : List Nat) (gang : List GangMember) (tick : Nat) : Prop := ∃ id l, Tbl.get? id u.launches = some l ∧
        l.queue = h.q ∧ l.words = h.words ∧ l.ctx = h.e.ctx ∧ l.map = map ∧ l.gang = gang ∧ l.tickT = tick ∧ l.status = none ∧
        (u.queueAt d h.q).last = some id
      let counts (s4 : State) : Prop := (lAdd (s4.forQueue d h.q h.e) h.e.consumed 1).run s4 = .ok ((), s5)
      (∀ (s3 : State) (t : Option Template) (rounds : Tbl RoundRegion), c = .tasks t rounds → s2.freeCts d ≠ [] →
        s2.residentOn (tmplKey h.e.ctx (pTmpl h.words)) t [d] = some s3 → counts (s3.pickWords 6).2.pickWord.2 →
        ∃ u, exec (.packetChoose d) s = .next u ∧ begun u [d] [] 0) ∧
      (∀ (recs : List (List CfgRec)) (seqs : List (Tbl (List Word))) (map : List Nat) (bin : List Word) (rounds : Tbl RoundRegion),
        c = .gang recs seqs map bin rounds →
        (∀ x ∈ map, x < 4 →
          let l := { s2.newLaunch d h rounds with recs := recs, seqs := seqs, map := map }
          (s2.reserveAll 0 l x (l.onDie x)).1.isSome = true) →
        let T := s2.startTick (s2.ctxReg h.e.ctx 2) 20000
        counts T.2 → ∃ u, exec (.packetChoose d) s = .next u ∧
          begun u map (map.eraseDups.map fun x => ⟨x, false, false, false, false, false⟩) T.1 ∧
          ((s2.ctxReg h.e.ctx 2).getLsbD 6 = false → T.1 = s2.now.toNat + 20000))) := by
  have hd := State.lt_of_heads hh
  refine ⟨fun hm => ?_, ?_⟩
  · rw [packetChoose_eq hen hl hh he hk hu (.inr hm), State.beginHead, ha, hm]
    rfl
  · intro s2 s5 c hm hkind hred hc hlate begun counts
    obtain ⟨htasks, hgang⟩ := State.beginHead_checked ha hm hc
    refine ⟨?_, ?_⟩
    · intro s3 x r hx hf hres hadd
      obtain ⟨man, hb⟩ := State.beginTasks_eq (r := r) hred hlate hf hres
      obtain ⟨id, hget, hlast⟩ := State.begin_ok { s2.newLaunch d h r with map := [d], man := man } hd hadd
      refine ⟨_, packetChoose_eq hen hl hh he hk hu (.inl hkind), ?_⟩
      rw [htasks x r hx, hb]
      exact ⟨id, _, hget, rfl, rfl, rfl, rfl, rfl, rfl, rfl, hlast⟩
    · intro recs seqs map bin r hx hroom T hadd
      obtain ⟨man, hb⟩ := State.beginGang_eq bin hred hlate hroom
      obtain ⟨id, hget, hlast⟩ := State.begin_ok { s2.newLaunch d h r with
        recs := recs, seqs := seqs, map := map, man := man, tickT := T.1
        gang := map.eraseDups.map fun x => ⟨x, false, false, false, false, false⟩ } hd hadd
      refine ⟨_, packetChoose_eq hen hl hh he hk hu (.inl hkind), ?_, fun h6 => ?_⟩
      · rw [hgang recs seqs map bin r hx, hb]
        exact ⟨id, _, hget, rfl, rfl, rfl, rfl, rfl, rfl, rfl, hlast⟩
      · simp only [T, State.startTick, h6, Bool.false_eq_true, if_false]

/-- A wait packet at the head of its queue (R360, R428). -/
theorem waitPacket_ends {s s1 s2 s3 : State} {d q n v : Nat} {e : QEntry} {w : List Word}
    (hen : (s.mmioAt 0 0x100D8).getLsbD 0 = true) (hq : s.qEntry q = some e) (hs : (s.queueAt d q).slot ≠ none)
    (hw : (s.queueAt d q).waiting = false) (ha : (s.queueAt d q).aborted = none) (hd : e.die = d)
    (hh : (lHead ((s.tableRead q).forQueue d q e) e).run (s.tableRead q) = .ok (some (n, w), s1)) (hk : pKind w = 3)
    (hm : pMalformed w = false) (hel : (s.tableRead q).eligible d ⟨q, e, n, w⟩ false = true)
    (hc : (lCounter ((s.tableRead q).forQueue d q e) (pImage w)).run s1 = .ok (v, s2)) :
    (pWord w 3 ≤ v → (lAdd ((s.tableRead q).forQueue d q e) e.consumed 1).run s2 = .ok ((), s3) →
      exec (.waitPacketSatisfied d q) s = .next (s3.setQueue d q { s3.queueAt d q with last := none, watch := none })) ∧
    (v < pWord w 3 → (lWatch ((s.tableRead q).forQueue d q e) (pImage w)).run s2 = .ok ((), s3) →
      exec (.waitPacketSatisfied d q) s = .next s3) := by
  have hgo : (!(s.mmioAt 0 0x100D8).getLsbD 0 || (s.queueAt d q).slot.isNone || (s.queueAt d q).waiting || decide (e.die ≠ d) ||
      (s.queueAt d q).aborted.isSome) = false := by
    have hs' : (s.queueAt d q).slot.isNone = false := Option.isNone_eq_false_iff.2 (Option.isSome_iff_ne_none.2 hs)
    rw [hen, hs', hw, ha, decide_eq_false (not_not.2 hd)]
    rfl
  constructor
  · intro hv hadd
    refine congrArg Host.Outcome.next ?_
    simp only [hq, hgo, Bool.false_eq_true, if_false]
    refine (State.lRun_ok _ _ (t := s3) (x := true) ?_).trans rfl
    rw [launchM_run_bind hh]
    simp only [hk, hm, hel, Bool.not_false, decide_true, Bool.and_self, if_true]
    rw [launchM_run_bind hc, if_pos hv, launchM_run_bind hadd]
    rfl
  · intro hv hadd
    refine congrArg Host.Outcome.next ?_
    simp only [hq, hgo, Bool.false_eq_true, if_false]
    refine (State.lRun_ok _ _ (t := s3) (x := false) ?_).trans rfl
    rw [launchM_run_bind hh]
    simp only [hk, hm, hel, Bool.not_false, decide_true, Bool.and_self, if_true]
    rw [launchM_run_bind hc, if_neg (Nat.not_le.2 hv), launchM_run_bind hadd]
    rfl

/-- A tasks packet's next record goes onto its die (R366). -/
theorem taskPacketEmit_emits {s : State} {id d : Nat} {l : Launch} (hd : d < 4) (hl : Tbl.get? id s.launches = some l) (hk : pKind l.words = 2)
    (hm : l.map = [d]) (he : l.emitted ≤ pCount l.words) (hon : (s.die d).onDie = (s.die d).tasks.length) (hov : (s.die d).ovf = 0)
    (hlt : (s.die d).onDie < 4096) :
    exec (.taskPacketEmit id) s = .next (({ s.fresh.2 with
      launches := s.launches.modify id fun l => { l with emitted := l.emitted + 1 } } : State).modDie d fun x => { x with
        tasks := x.tasks ++ [l.nextRec s.nextId id], onDie := x.onDie + 1 }) := by
  have hst : s.taskStall d = false := decide_eq_false (by omega)
  have hc : (decide (pKind l.words ≠ 2) || [d].isEmpty || decide (pCount l.words < l.emitted)) = false := by
    rw [decide_eq_false (not_not.2 hk), decide_eq_false (Nat.not_lt.2 he)]
    rfl
  refine congrArg Host.Outcome.next ?_
  simp only [hl, hm, hc, List.any_cons, List.any_nil, hst, Bool.or_self, Bool.false_eq_true, if_false]
  exact State.addTask_room (s := { s.fresh.2 with
    launches := s.launches.modify id fun l => { l with emitted := l.emitted + 1 } }) _ hd hon hov hlt

/-- Settles O54: queues are made active and mapped, packets chosen, begun, consumed and completed, and tasks emitted and started. -/
theorem launchEvents : Obligations.LaunchEvents := by
  refine ⟨?_, ?_, ?_, ?_, ?_, ?_, ?_, ?_⟩
  · intro d q e hd s hq
    refine ⟨(s.setQueue e.die q { s.queueAt e.die q with active := true }).tableRead q, ?_, ?_,
      (State.tableRead_kept _ q).mem, (State.tableRead_kept _ q).nodes⟩
    · refine congrArg Host.Outcome.next ?_
      simp only [State.ring, hq]
    · rw [State.queueAt, State.tableRead_die]
      exact State.queueAt_setQueue _ _ _ hd
  · rintro d k x q s ⟨hd, hk, hx, hm, hf⟩
    exact ⟨_, rfl, slotWrite_maps hd hk hx hm hf⟩
  · rintro d q k s ⟨hd, hu, hf⟩
    refine ⟨s.mapSlot d k q, ?_, ?_, ?_, rfl, rfl⟩
    · refine congrArg Host.Outcome.next ?_
      simp only [hu, hf]
      rfl
    · rw [State.mapSlot, State.die_modDie _ _ hd]
      exact Tbl.get?_set_self _ _ _
    · have hq := State.queueAt_setQueue s q { s.queueAt d q with slot := some k, mappedAt := s.now.toNat } hd
      rw [State.mapSlot, State.queueAt, State.die_modDie _ _ hd]
      exact congrArg QueueSt.slot hq
  · exact heads_begin
  · intro s s1 s2 s3 d q n v e w u lf hen hq hs hw ha hd hh hk hm hel hc
    exact waitPacket_ends hen hq hs hw ha hd hh hk hm hel hc
  · rintro id l s ⟨hl, ho, hw, hc⟩
    refine congrArg Host.Outcome.next ?_
    simp only [hl, ho, hw, hc, Bool.not_true, Bool.or_self, Bool.false_eq_true, if_false, ite_self, if_true]
  · rintro id d l hd s ⟨hl, hk, hm, he, hon, hov, hlt⟩
    refine ⟨_, taskPacketEmit_emits hd hl hk hm he hon hov hlt, ⟨l.nextRec s.nextId id, ?_, rfl, rfl, l.nextRec_w0 _ _⟩, ?_, ?_, rfl⟩
    · rw [State.die_modDie _ _ hd]
      rfl
    · rw [State.die_modDie _ _ hd]
      rfl
    · exact (Tbl.get?_modify_self _ _ _).trans (congrArg _ hl)
  · intro d r l top pop
    refine ⟨?_, ?_, ?_⟩
    · rintro s ⟨⟨ht, hs, hon⟩, hr⟩
      rw [taskDispatch_eq ht hs hon, hr, if_pos rfl, State.popTask_eq ht]
    · rintro s ⟨⟨ht, hs, hon⟩, hr, hl, ht0⟩
      rw [taskDispatch_eq ht hs hon, hr, if_neg (by decide)]
      simp only [State.dispatch, State.taskEntry, ht0, State.taskBad, hl, State.popTask_eq ht]
      rfl
    · rintro s s1 e k hd ⟨ht, hs, hon⟩ hr he hf hk
      have hlt : k < (s.freeCts d).length := by
        have : k = Config.freeNat s.free % (s.freeCts d).length := (congrArg Prod.fst hk).symm
        rw [this]
        exact Nat.mod_lt _ (List.length_pos_iff.2 hf)
      obtain ⟨t, l', hfree⟩ := List.exists_cons_of_ne_nil hf
      have hget : (s.freeCts d)[k]? = some (((t :: l')[k]?).getD t) := by
        rw [hfree] at hlt ⊢
        rw [List.getElem?_eq_getElem hlt, Option.getD_some]
      rw [hfree] at hk
      have hx : exec (.taskDispatch d) s = .next ((pop s1).startTask d (((t :: l')[k]?).getD t) r e) := by
        have hs1 : s1.die d = s.die d := (congrArg (fun y : Nat × State => y.2.die d) hk).symm
        rw [taskDispatch_eq ht hs hon, hr, if_neg (by decide)]
        simp only [State.dispatch, he, hfree, hk, State.popTask_eq (s := s1) (hs1 ▸ ht)]
        rfl
      obtain ⟨⟨n, hn, htask, hctx, hpc, hg⟩, htasks⟩ := (pop s1).startTask_starts d (((t :: l')[k]?).getD t) r e
      refine ⟨_, n, _, hx, hget, hn, htask, hctx, hpc, hg, htasks.trans ?_⟩
      rw [State.die_modDie _ _ hd]

end Sys2Proof.Proofs
end

section
/-! SUPPORT. What the end of a region takes from the tables of regions and launches (R340, R392). -/

namespace Sys2Proof.Machine

/-- The regions and the launches are as before. -/
def State.SameUnits (s t : State) : Prop := t.regions = s.regions ∧ t.launches = s.launches

namespace State.SameUnits

variable {s t u : State}

theorem refl (s : State) : s.SameUnits s := ⟨rfl, rfl⟩

theorem trans (h : s.SameUnits t) (k : t.SameUnits u) : s.SameUnits u := by
  obtain ⟨hr, hl⟩ := h
  obtain ⟨kr, kl⟩ := k
  exact ⟨kr.trans hr, kl.trans hl⟩

theorem foldl {α : Type} {f : State → α → State} (h : ∀ (s : State) (x : α), s.SameUnits (f s x)) (l : List α) (s : State) :
    s.SameUnits (l.foldl f s) := by
  induction l generalizing s with
  | nil => exact refl s
  | cons x l ih => exact (h s x).trans (ih _)

theorem of_kept (h : s.Kept t) : s.SameUnits t := by
  have hr := congrArg State.regions (show t.still = s.still from h)
  have hl := congrArg State.launches (show t.still = s.still from h)
  exact ⟨hr, hl⟩

theorem ite {c : Prop} [Decidable c] (h : s.SameUnits t) (k : s.SameUnits u) : s.SameUnits (if c then t else u) := by
  split
  · exact h
  · exact k

theorem modDie (s : State) (d : Nat) (f : Die → Die) : s.SameUnits (s.modDie d f) := ⟨rfl, rfl⟩

theorem unpinFetch (s : State) (d : Nat) (l : List Nat) : s.SameUnits (s.unpinFetch d l) := foldl (fun u _ => modDie u _ _) l s

theorem reskew (s : State) (t : Nat) (old new : Tbl Word) : s.SameUnits (s.reskew t old new) := by
  unfold State.reskew
  split
  · exact refl s
  · exact ⟨rfl, rfl⟩

theorem unwatch (s : State) (t : Nat) : s.SameUnits (s.unwatch t) :=
  trans (t := s.modNode t Node.unwatched) ⟨rfl, rfl⟩ (of_kept (s.unwatch_kept t))

theorem detach (s : State) (t : Nat) : s.SameUnits (s.detach t) := by
  obtain ⟨hr, hl⟩ := unwatch s t
  unfold State.detach
  exact ⟨hr, hl⟩

theorem pin (s : State) (r : Region) (on : Bool) : s.SameUnits (s.pin r on) := by
  unfold State.pin
  split
  · exact refl s
  · exact foldl (fun u _ => modDie u _ _) _ s

/-- A memory tile that has no descriptors any more is without its banking. -/
theorem unbanked (s : State) (t : Nat) :
    s.SameUnits (match Tbl.get? t s.mts with
      | some m => s.reskew t m.desc []
      | none => s) := by
  split
  · exact reskew _ _ _ _
  · exact refl s

/-- An element leaves its region with its pins and the banking of its scratchpad. -/
theorem leaves (s : State) (t : Nat) :
    s.SameUnits (
      let s := match s.node? t with
        | some n => s.unpinFetch (dieOf t) n.fetchPins
        | none => s
      let s := match Tbl.get? t s.mts with
        | some m => s.reskew t m.desc []
        | none => s
      s.detach t) := by
  cases hn : s.node? t with
  | none => exact (unbanked s t).trans (detach _ t)
  | some n => exact (unpinFetch s _ _).trans ((unbanked _ t).trans (detach _ t))

end State.SameUnits

/-- What leaves its quads is a region alone. -/
theorem State.clearRegion_units (s : State) (h : Nat) :
    (s.clearRegion h).launches = s.launches ∧ ((s.clearRegion h).regions = s.regions ∧ s.reg h = none ∨
      (s.clearRegion h).regions = s.regions.erase h) := by
  unfold State.clearRegion
  cases hr : s.reg h with
  | none => exact ⟨rfl, .inl ⟨rfl, rfl⟩⟩
  | some r =>
    obtain ⟨hreg, hl⟩ := State.SameUnits.foldl (fun u t => State.SameUnits.leaves u t) r.elems s
    exact ⟨hl, .inr (congrArg (·.erase h) hreg)⟩

/-- The end of a region takes it from the table, and nothing else of the regions and the launches (R392). -/
theorem State.endRegion_units (s : State) (h : Nat) :
    (s.endRegion h).launches = s.launches ∧ ∀ k, (s.endRegion h).reg k = if k = h then none else s.reg k := by
  have hclear (u : State) (hu : s.SameUnits u) :
      (u.clearRegion h).launches = s.launches ∧ ∀ k, (u.clearRegion h).reg k = if k = h then none else s.reg k := by
    obtain ⟨hreg, hl⟩ := hu
    obtain ⟨hcl, hcr⟩ := u.clearRegion_units h
    refine ⟨hcl.trans hl, fun k => ?_⟩
    rcases hcr with ⟨hcr, hn⟩ | hcr
    · split
      · next e => rw [e, State.reg, hcr]; exact hn
      · rw [State.reg, hcr, hreg]; rfl
    · split
      · next e => rw [e, State.reg, hcr]; exact Tbl.get?_erase_self _ _
      · next e => rw [State.reg, hcr, hreg]; exact Tbl.get?_erase_ne _ e
  unfold State.endRegion
  cases hr : s.reg h with
  | none =>
    refine ⟨rfl, fun k => ?_⟩
    by_cases e : k = h
    · rw [if_pos e, e]
      exact hr
    · rw [if_neg e]
  | some r =>
    exact hclear _ ((State.SameUnits.ite (.pin s r false) (.refl s)).trans (.ite (.modDie _ _ _) (.refl _)))

/-- The end of several regions. -/
theorem State.endRegions_units (hs : List Nat) (s : State) :
    let u := hs.foldl (fun s h => s.endRegion h) s
    u.launches = s.launches ∧ ∀ k, u.reg k = if k ∈ hs then none else s.reg k := by
  induction hs generalizing s with
  | nil => exact ⟨rfl, fun k => rfl⟩
  | cons h hs ih =>
    obtain ⟨hl, hr⟩ := s.endRegion_units h
    obtain ⟨ihl, ihr⟩ := ih (s.endRegion h)
    refine ⟨ihl.trans hl, fun k => (ihr k).trans ?_⟩
    rw [hr k]
    by_cases h1 : k ∈ hs
    · rw [if_pos h1, if_pos (List.mem_cons_of_mem _ h1)]
    · by_cases h2 : k = h
      · rw [if_neg h1, if_pos h2, if_pos (h2 ▸ List.mem_cons_self)]
      · rw [if_neg h1, if_neg h2, if_neg (List.not_mem_cons_of_ne_of_not_mem h2 h1)]

end Sys2Proof.Machine
end
section
/-! SETTLING O55. -/

namespace Sys2Proof.Proofs

open Sys2Proof Sys2Proof.Machine Sys2Proof.Claims

/-- The launch of a gang whose members change. -/
theorem modMember_get {s : State} {id : Nat} {l : Launch} (d : Nat) (f : GangMember → GangMember) (h : Tbl.get? id s.launches = some l) :
    Tbl.get? id (s.modMember id d f).launches = some { l with gang := l.gang.map fun g => if g.die = d then f g else g } :=
  (Tbl.get?_modify_self _ _ _).trans (by rw [h]; rfl)

/-- What a release of a die leaves of a launch and of the regions (R364). -/
theorem release_units (s : State) (id d : Nat) :
    (∀ h, (s.release id d).reg h = if h ∈ s.reservedOn id d then none else s.reg h) ∧
    (s.reservedOn id d = [] → s.release id d = s.modMember id d fun g => { g with reserved := false, acked := false }) ∧
    ∀ l, Tbl.get? id s.launches = some l → Tbl.get? id (s.release id d).launches =
      some { l with gang := l.gang.map fun m => if m.die = d then { m with reserved := false, acked := false } else m } := by
  obtain ⟨hl, hr⟩ := State.endRegions_units (s.reservedOn id d) s
  refine ⟨hr, fun h => ?_, fun l h => ?_⟩
  · rw [State.release, h]
    rfl
  · exact modMember_get d _ (by rw [hl]; exact h)

/-- A message that is posted for each member of a gang. -/
theorem posts_eq (f : GangMember → Instr) (l : List GangMember) (s : State) :
    l.foldl (fun s g => s.post (f g)) s = { s with agenda := s.agenda ++ l.map f } := by
  induction l generalizing s with
  | nil => simp only [List.foldl_nil, List.map_nil, List.append_nil]
  | cons g l ih =>
    rw [List.foldl_cons, ih]
    simp only [State.post, List.map_cons, List.append_assoc, List.singleton_append]

/-- A gang at its deadline: what it waits for has been decided (R364). -/
theorem gangAckDeadline_eq {s : State} {id : Nat} {l : Launch} (hl : Tbl.get? id s.launches = some l) (hf : l.foreign = false)
    (hst : l.status = none) (hg : l.gang ≠ []) (ht : l.tickT ≤ s.now.toNat + 2000) (hgo : s.goSent id l = false)
    (hsd : ∀ m ∈ l.gang, m.started = false) :
    ((∀ m ∈ l.gang, m.acked = true) →
      exec (.gangAckDeadline id) s = .next (l.gang.foldl (fun s g => s.post (.gangGo id g.die)) s)) ∧
    ((∃ m ∈ l.gang, m.acked = false) →
      let u := l.gang.foldl (fun s g => s.release id g.die) s
      let T := u.startTick l.assist (20000 * 2 ^ (l.attempt + 1))
      (7 ≤ l.attempt → exec (.gangAckDeadline id) s = .next (u.setStatus id 4 1)) ∧
      (l.attempt < 7 → exec (.gangAckDeadline id) s = .next { T.2 with
        launches := T.2.launches.modify id fun l => { l with attempt := l.attempt + 1, tickT := T.1 } })) := by
  have hgate : (l.foreign || l.status.isSome || decide (l.gang = []) || decide (s.now.toNat + 2000 < l.tickT) || s.goSent id l ||
      l.gang.any fun g => g.started) = false := by
    rw [hf, hst, decide_eq_false hg, decide_eq_false (Nat.not_lt.2 ht), hgo, List.any_eq_false.2 fun m hm => by rw [hsd m hm]; decide]
    rfl
  constructor
  · intro hall
    refine congrArg Host.Outcome.next ?_
    simp only [hl, hgate, Bool.false_eq_true, if_false, List.all_eq_true.2 hall, if_true]
  · rintro ⟨m, hm, hna⟩ u T
    have hall : (l.gang.all fun g => g.acked) = false := List.all_eq_false.2 ⟨m, hm, by rw [hna]; decide⟩
    constructor <;> intro h7 <;> refine congrArg Host.Outcome.next ?_
    · simp only [hl, hgate, hall, Bool.false_eq_true, if_false, if_pos h7]
      rfl
    · simp only [hl, hgate, hall, Bool.false_eq_true, if_false, if_neg (Nat.not_le.2 h7)]
      rfl

/-- A gang of which no die holds a reservation any more: its members are released one by one. -/
def releasedOf (ds : List Nat) (m : GangMember) : GangMember := if m.die ∈ ds then { m with reserved := false, acked := false } else m

theorem releasedOf_cons (d : Nat) (ds : List Nat) (m : GangMember) :
    releasedOf ds (if m.die = d then { m with reserved := false, acked := false } else m) = releasedOf (d :: ds) m := by
  by_cases hd : m.die = d
  · rw [if_pos hd, releasedOf, releasedOf, if_pos (show m.die ∈ d :: ds by rw [hd]; exact List.mem_cons_self)]
    split <;> rfl
  · rw [if_neg hd, releasedOf, releasedOf]
    simp only [List.mem_cons, hd, false_or]

/-- Every member whose die is released holds nothing. -/
theorem releasedOf_members {gang : List GangMember} {m : GangMember} (h : m ∈ gang.map (releasedOf (gang.map (·.die)))) :
    m.reserved = false ∧ m.acked = false := by
  obtain ⟨x, hx, rfl⟩ := List.mem_map.1 h
  rw [releasedOf, if_pos (List.mem_map.2 ⟨x, hx, rfl⟩)]
  exact ⟨rfl, rfl⟩

/-- Releases of dies that hold nothing change the members of the launch alone. -/
theorem releases_none (id : Nat) (l : Launch) (ds : List Nat) (s : State) (gang : List GangMember)
    (h : Tbl.get? id s.launches = some { l with gang := gang }) (hn : ∀ d ∈ ds, s.reservedOn id d = []) :
    let u := ds.foldl (fun s d => s.release id d) s
    u.mem = s.mem ∧ u.now = s.now ∧ Tbl.get? id u.launches = some { l with gang := gang.map (releasedOf ds) } := by
  induction ds generalizing s gang with
  | nil => exact ⟨rfl, rfl, by rw [show releasedOf [] = (fun m => m) from funext fun m => if_neg List.not_mem_nil, List.map_id']; exact h⟩
  | cons d ds ih =>
    obtain ⟨-, hnone, hget⟩ := release_units s id d
    have he := hnone (hn d List.mem_cons_self)
    have hk := hget _ h
    rw [he] at hk
    obtain ⟨hm, hnow, hg⟩ := ih (s.modMember id d fun g => { g with reserved := false, acked := false }) _ hk
      fun e hmem => hn e (List.mem_cons_of_mem _ hmem)
    rw [List.foldl_cons, he]
    refine ⟨hm, hnow, hg.trans ?_⟩
    rw [List.map_map]
    simp only [Function.comp_def, releasedOf_cons]

theorem startTick_keeps (s : State) (assist : Word) (span : Nat) :
    (s.startTick assist span).2.mem = s.mem ∧ (s.startTick assist span).2.launches = s.launches := by
  unfold State.startTick
  split <;> exact ⟨rfl, rfl⟩

/-- A launch without a status takes one. -/
theorem setStatus_get {s : State} {id st reason : Nat} {l : Launch} (h : Tbl.get? id s.launches = some l) (hn : l.status = none) :
    Tbl.get? id (s.setStatus id st reason).launches = some { l with status := some (st, reason) } :=
  (Tbl.get?_modify_self _ _ _).trans (by rw [h]; simp only [Option.map_some, hn])

/-- Another device's gang is forgotten with its last reservation (R364; log 64). -/
theorem forgetGang_keeps (s : State) (id : Nat) :
    (s.forgetGang id).regions = s.regions ∧ (s.forgetGang id).mem = s.mem ∧ ∀ l, Tbl.get? id s.launches = some l →
      Tbl.get? id (s.forgetGang id).launches = if l.foreign = true ∧ ∀ m ∈ l.gang, m.reserved = false then none else some l := by
  have hiff (l : Launch) : (l.foreign && l.gang.all fun g => !g.reserved) = true ↔ l.foreign = true ∧ ∀ m ∈ l.gang, m.reserved = false := by
    simp only [Bool.and_eq_true, List.all_eq_true, Bool.not_eq_true']
  unfold State.forgetGang
  by_cases h : ((Tbl.get? id s.launches).any fun l => l.foreign && l.gang.all fun g => !g.reserved) = true
  · rw [if_pos h]
    refine ⟨rfl, rfl, fun l hl => ?_⟩
    rw [hl] at h
    rw [if_pos ((hiff l).1 h)]
    exact Tbl.get?_erase_self _ _
  · rw [if_neg h]
    refine ⟨rfl, rfl, fun l hl => ?_⟩
    rw [hl] at h
    rw [if_neg fun k => h ((hiff l).2 k)]
    exact hl

/-- A die that has acknowledged comes to T (R364, R365). -/
theorem gangStartTick_due {s : State} {id d : Nat} {l : Launch} {g : GangMember} (hl : Tbl.get? id s.launches = some l)
    (hm : l.member d = some g) (hst : l.status = none) (ht : l.tickT ≤ s.now.toNat) (ha : g.acked = true) (hsd : g.started = false) :
    exec (.gangStartTick id d) s = .next (
      if !g.go then s.abortGang id d
      else if 4 ≤ d then
        let c := s.pick 2
        if c.1 = 1 then c.2.modMember id d fun g => { g with started := true } else c.2.abortGang id d
      else ((s.reservedOn id d).foldl (fun s h => s.startRegion h) s).modMember id d fun g => { g with started := true }) := by
  have hgate : (decide (s.now.toNat < l.tickT) || !g.acked || g.started || l.status.isSome) = false := by
    rw [decide_eq_false (Nat.not_lt.2 ht), ha, hsd, hst]
    rfl
  refine congrArg Host.Outcome.next ?_
  simp only [hl, hm, hgate, Bool.false_eq_true, if_false]

/-- A die without go at T sends abort to every member, once (R365). -/
theorem abortGang_ends {s : State} {id : Nat} {l : Launch} (d : Nat) (hl : Tbl.get? id s.launches = some l) (hf : l.foreign = false) :
    let u := s.abortGang id d
    u.mem = s.mem ∧ u.regions = s.regions ∧ u.nodes = s.nodes ∧ Tbl.get? id u.launches = some { l with gang := l.gang.map fun m =>
      { m with acked := m.acked && m.die != d, abort := m.abort || !s.aborting id } } := by
  have hget := modMember_get d (fun g => { g with acked := false }) hl
  have htell : (s.modMember id d fun g => { g with acked := false }).tellGang 1 id d = s.modMember id d fun g => { g with acked := false } := by
    simp only [State.tellGang, hget, Option.any_some, hf, Bool.false_eq_true, if_false]
  have hab : (s.modMember id d fun g => { g with acked := false }).aborting id = s.aborting id := by
    have hsame (m : GangMember) : (if m.die = d then { m with acked := false } else m).abort = m.abort := by split <;> rfl
    simp only [State.aborting, hget, hl, Option.any_some, List.any_map, Function.comp_def, hsame]
  have hmap (b : Bool) (f : GangMember → GangMember) (hb : ∀ m, f m = { m with abort := m.abort || b }) :
      (l.gang.map fun m => if m.die = d then { m with acked := false } else m).map f =
        l.gang.map fun m => { m with acked := m.acked && m.die != d, abort := m.abort || b } := by
    rw [List.map_map]
    refine List.map_congr_left fun m _ => ?_
    rw [Function.comp, hb]
    by_cases hd : m.die = d
    · rw [if_pos hd, bne_eq_false_iff_eq.2 hd, Bool.and_false]
    · rw [if_neg hd, bne_iff_ne.2 hd, Bool.and_true]
  rw [State.abortGang, htell]
  dsimp only
  rw [hab]
  cases ha : s.aborting id with
  | true =>
    have hsame := hmap false (fun m => m) fun m => by rw [Bool.or_false]
    exact ⟨rfl, rfl, rfl, hget.trans (congrArg (fun x => some { l with gang := x }) ((List.map_id' _).symm.trans hsame))⟩
  | false =>
    have hsent := hmap true (fun m => { m with abort := true }) fun m => by rw [Bool.or_true]
    refine ⟨rfl, rfl, rfl, (Tbl.get?_modify_self _ _ _).trans ?_⟩
    rw [hget]
    exact congrArg (fun x => some { l with gang := x }) hsent

/-- A member's part is over (R365). -/
def memberAborted (s : State) (id d : Nat) : State :=
  let s := (s.stopOn id d).modMember id d fun _ => ⟨d, false, false, false, true, false⟩
  if s.aborting id then s else s.setStatus id 4 2

theorem gangAbort_eq {s : State} {id d : Nat} {l : Launch} (hl : Tbl.get? id s.launches = some l) (hm : l.member d ≠ none) :
    exec (.gangAbort id d) s = .next (memberAborted s id d) := by
  refine congrArg Host.Outcome.next ?_
  simp only [hl, Option.isSome_iff_ne_none.2 hm, if_true]
  rfl

/-- The regions of a member that receives abort stop, and with the last member's the packet is aborted (R365). -/
theorem abortedAt_ends {s : State} {id : Nat} {l : Launch} (d : Nat) (hl : Tbl.get? id s.launches = some l) :
    let gang : List GangMember := l.gang.map fun m => if m.die = d then ⟨d, false, false, false, true, false⟩ else m
    let hs := (s.regions.filter fun p => p.2.launch = id && p.2.die = d && !p.2.isTask).map (·.1)
    (∀ h, (memberAborted s id d).reg h = if h ∈ hs then none else s.reg h) ∧
    Tbl.get? id (memberAborted s id d).launches = some { l with
      gang := gang, status := if gang.any fun m => m.abort then l.status else l.status.or (some (4, 2)) } := by
  intro gang hs
  obtain ⟨hlaunch, hreg⟩ := State.endRegions_units hs s
  have hget : Tbl.get? id ((s.stopOn id d).modMember id d fun _ => ⟨d, false, false, false, true, false⟩).launches =
      some { l with gang := gang } := modMember_get d _ ((congrArg (Tbl.get? id) hlaunch).trans hl)
  have hab : ((s.stopOn id d).modMember id d fun _ => ⟨d, false, false, false, true, false⟩).aborting id = gang.any fun m => m.abort := by
    simp only [State.aborting, hget, Option.any_some]
  rw [memberAborted, hab]
  split
  · exact ⟨hreg, hget⟩
  · refine ⟨hreg, (Tbl.get?_modify_self _ _ _).trans ?_⟩
    rw [hget, Option.map_some]
    cases l.status <;> rfl

/-- Settles O55: the phases of a gang change its launch's members, and the regions that end with a release or an abort. -/
theorem gangEvents : Obligations.GangEvents := by
  intro id d l g
  dsimp only
  refine ⟨?_, ?_, ?_, ?_, ?_, ⟨?_, ?_⟩, ?_⟩
  · rintro s s1 hs ⟨hl, hm, hst⟩ hr hd hres
    refine congrArg Host.Outcome.next ?_
    simp only [hl, hm, hst, hr, Option.isSome_none, Bool.or_self, Bool.false_eq_true, if_false, if_neg (Nat.not_le.2 hd), hres]
  · rintro s ⟨⟨hl, hf, hst, hg, ht, hgo, hsd⟩, hall⟩
    rw [(gangAckDeadline_eq hl hf hst hg ht hgo hsd).1 hall, posts_eq fun m => .gangGo id m.die]
  · rintro s ⟨⟨hl, hf, hst, hg, ht, hgo, hsd⟩, hna, hres⟩
    obtain ⟨-, hno⟩ := gangAckDeadline_eq hl hf hst hg ht hgo hsd
    obtain ⟨hlast, hmore⟩ := hno hna
    obtain ⟨hmem, hnow, hget⟩ := releases_none id l (l.gang.map (·.die)) s l.gang hl fun d hd => by
      obtain ⟨m, hm, rfl⟩ := List.mem_map.1 hd
      exact hres m hm
    rw [List.foldl_map] at hmem hnow hget
    generalize l.gang.foldl (fun s g => s.release id g.die) s = u at hlast hmore hmem hnow hget
    have hheld (y : Launch) (hy : y.gang = l.gang.map (releasedOf (l.gang.map (·.die)))) : ∀ m ∈ y.gang, m.reserved = false ∧ m.acked = false :=
      fun m hm => releasedOf_members (hy ▸ hm)
    rcases Nat.lt_or_ge l.attempt 7 with h7 | h7
    · have ht6 (h6 : l.assist.getLsbD 6 = false) : (u.startTick l.assist (20000 * 2 ^ (l.attempt + 1))).1 = s.now.toNat + 20000 * 2 ^ (l.attempt + 1) := by
        simp only [State.startTick, h6, Bool.false_eq_true, if_false, hnow]
      obtain ⟨hTm, hTl⟩ := startTick_keeps u l.assist (20000 * 2 ^ (l.attempt + 1))
      refine ⟨_, hmore h7, hTm.trans hmem, { l with
        gang := l.gang.map (releasedOf (l.gang.map (·.die))), attempt := l.attempt + 1
        tickT := (u.startTick l.assist (20000 * 2 ^ (l.attempt + 1))).1 }, (Tbl.get?_modify_self _ _ _).trans (by rw [hTl, hget]; rfl), hheld _ rfl,
        fun h => absurd h (Nat.not_le.2 h7), fun _ => ⟨hst, rfl, ht6⟩⟩
    · refine ⟨_, hlast h7, hmem, _, setStatus_get hget hst, hheld _ rfl, fun _ => rfl, fun h => absurd h (Nat.not_lt.2 h7)⟩
  · rintro s hl
    refine ⟨_, rfl, (modMember_get d _ hl).trans ?_, rfl, rfl⟩
    refine congrArg (fun x => some { l with gang := x }) (List.map_congr_left fun m _ => ?_)
    by_cases hm : m.die = d <;> by_cases ha : m.acked = true <;> simp only [hm, ha, if_true, if_false, and_self, and_false, false_and,
      Bool.false_eq_true]
  · rintro s -
    obtain ⟨hreg, hnone, hget⟩ := release_units s id d
    obtain ⟨hfr, hfm, hfl⟩ := forgetGang_keeps (s.release id d) id
    refine ⟨_, rfl, fun h => ?_, fun h => ?_, fun hl => ?_⟩
    · rw [State.reg, hfr]
      exact hreg h
    · rw [hfm, hnone h]
      rfl
    · exact hfl _ (hget l hl)
  · rintro s ⟨⟨⟨hl, hm, hst⟩, ht, ha, hsd⟩, hgo, hd⟩
    rw [gangStartTick_due hl hm hst ht ha hsd]
    simp only [hgo, Bool.not_true, Bool.false_eq_true, if_false, if_neg (Nat.not_le.2 hd)]
  · rintro s ⟨⟨⟨hl, hm, hst⟩, ht, ha, hsd⟩, hgo, hf⟩
    rw [gangStartTick_due hl hm hst ht ha hsd]
    simp only [hgo, Bool.not_false, if_true]
    exact ⟨_, rfl, abortGang_ends d hl hf⟩
  · rintro s ⟨hl, hm⟩
    exact ⟨_, gangAbort_eq hl hm, abortedAt_ends d hl⟩

end Sys2Proof.Proofs
end

section
/-! SUPPORT. A cut's completion changes no byte of memory (R387, R389), and the judgement of two reports (R379). -/

namespace Sys2Proof.Machine

theorem State.foldl_mem {α : Type} {f : State → α → State} (h : ∀ (s : State) (x : α), (f s x).mem = s.mem) (l : List α) (s : State) :
    (l.foldl f s).mem = s.mem := by
  induction l generalizing s with
  | nil => rfl
  | cons x l ih => exact (ih _).trans (h s x)

theorem State.beginCut_mem (s : State) (h : Nat) (b : Option Nat) : (s.beginCut h b).mem = s.mem := rfl
theorem State.addsDue_mem (s : State) (h : Nat) (v : Saved) : (s.addsDue h v).mem = s.mem := rfl
theorem State.sendReport_mem (s : State) (t : Nat) : (s.sendReport t).mem = s.mem := rfl

theorem State.pass_mem (s : State) (t : Nat) : (s.pass t).mem = s.mem := by
  unfold State.pass
  split <;> rfl

theorem State.confirmCut_mem (s : State) (h : Nat) : (s.confirmCut h).mem = s.mem := by
  unfold State.confirmCut
  split
  · rfl
  · split
    · rfl
    · dsimp only
      split
      · exact State.foldl_mem State.pass_mem _ _
      · exact State.foldl_mem State.pass_mem _ _

theorem State.cutComplete_mem (s : State) (h : Nat) : (s.cutComplete h).mem = s.mem := by
  have hsent (l : List Nat) : (l.foldl (fun s t => s.sendReport t) s).mem = s.mem := State.foldl_mem State.sendReport_mem l s
  unfold State.cutComplete
  split
  · rfl
  · split
    · rfl
    · split
      · rfl
      · split
        · exact s.confirmCut_mem h
        · dsimp only
          split
          · exact (State.confirmCut_mem _ _).trans (hsent _)
          · exact hsent _

@[simp] theorem State.insOf_modRegion (s : State) (h t : Nat) (f : Region → Region) : (s.modRegion h f).insOf t = s.insOf t := rfl

/-- What an element's save leaves of it and of its region's cut (R387). -/
def State.savedIn (s : State) (t : Nat) (v : Saved) : State :=
  let u := (s.modRegion (s.regionOf t) fun r => { r with saving := r.saving.map fun v => s.saveElem t v }).modNode t
    fun n => { n with atMarker := false, ready := none }
  { u with mts := u.mts.modify t fun m => { m with interval := v.num } }

/-- A tile without outputs sends on none. -/
theorem State.sendAll_none {s : State} {t : Nat} {k : Token} (h : s.outsOf t = []) : s.sendAll t k = s := by
  rw [State.sendAll, h, List.foldl_nil]

/-- A change of a region that is there. -/
theorem State.modRegion_regions {s : State} {h : Nat} {r : Region} (f : Region → Region) (hr : s.reg h = some r) :
    (s.modRegion h f).regions = s.regions.set h (f r) := by
  have hr' : Tbl.get? h s.regions = some r := hr
  simp only [State.modRegion, Tbl.modify, hr']

theorem reportBy_head {a : Report} {l : List Report} {t : Nat} (h : a.tile = t) : reportBy (a :: l) t = some a := by
  simp only [reportBy, List.find?, h, decide_true]

theorem reportBy_tail {a : Report} {l : List Report} {t : Nat} (h : a.tile ≠ t) : reportBy (a :: l) t = reportBy l t := by
  simp only [reportBy, List.find?, h, decide_false]

theorem agree_missing (a : Option Report) : agree a none = false := by cases a <;> rfl
theorem agree_same (a : Report) : agree (some a) (some a) = true := by simp only [agree, decide_true, Bool.and_self]

/-- Two members whose reports agree are alike. -/
theorem alike_both {a b : Report} {t u : Nat} (ha : a.tile = t) (hb : b.tile = u) (hne : t ≠ u) (hs : a.sig = b.sig) (hc : a.cnt = b.cnt)
    (hq : a.seqNo = b.seqNo) : alike [a, b] [t, u] t = [t, u] := by
  have hra : reportBy [a, b] t = some a := reportBy_head ha
  have hrb : reportBy [a, b] u = some b := (reportBy_tail (ha ▸ hne)).trans (reportBy_head hb)
  have hab : agree (some a) (some b) = true := by simp only [agree, hs, hc, hq, decide_true, Bool.and_self]
  simp only [alike, List.filter, hra, hrb, agree_same, hab]

/-- A report whose twin is missing is alike to no other. -/
theorem alike_alone {a : Report} {t u x : Nat} (ha : a.tile = t) (hne : t ≠ u) (hx : x ∈ [t, u]) : (alike [a] [t, u] x).length ≤ 1 := by
  have hra : reportBy [a] t = some a := reportBy_head ha
  have hru : reportBy [a] u = none := (reportBy_tail (ha ▸ hne)).trans rfl
  rcases List.mem_pair.1 hx with rfl | rfl
  · simp only [alike, List.filter, hra, hru, agree_same, agree_missing, List.length_singleton, le_refl]
  · simp only [alike, List.filter, hru, agree_missing, show agree none (reportBy [a] t) = false from rfl, List.length_nil, Nat.zero_le]

end Sys2Proof.Machine
end
section
/-! SETTLING O56. -/

namespace Sys2Proof.Proofs

open Sys2Proof Sys2Proof.Machine Sys2Proof.Claims

/-- An element without edges saves its state alone (R387). -/
theorem elementSave_alone {s : State} {t : Nat} {r : Region} {v : Saved} (hr : s.reg (s.regionOf t) = some r) (hst : s.staleMarker t = none)
    (hm : s.maySave t = true) (hv : r.saving = some v) (hi : s.insOf t = []) (ho : s.outsOf t = []) :
    ∃ u, exec (.elementSave t) s = .next u ∧ u.mem = s.mem ∧ ∃ s1 : State,
      s1.regions = s.regions.set (s.regionOf t) { r with saving := some (s.saveElem t v) } ∧ u = s1.cutComplete (s.regionOf t) := by
  have hsv : (s.reg (s.regionOf t)).bind (·.saving) = some v := by rw [hr]; exact hv
  have hx : exec (.elementSave t) s = .next (((s.savedIn t v).sendAll t (markerToken v.num)).cutComplete (s.regionOf t)) := by
    refine congrArg Host.Outcome.next ?_
    simp only [hst, hm, hsv, State.insOf_modRegion, hi, Bool.not_true, Bool.false_eq_true, if_false, List.filter_nil, List.map_nil,
      List.eraseDups_nil, List.foldl_nil]
    rfl
  rw [State.sendAll_none (s := s.savedIn t v) ho] at hx
  have hreg := State.modRegion_regions (fun r => { r with saving := r.saving.map fun v => s.saveElem t v }) hr
  simp only [hv, Option.map_some] at hreg
  exact ⟨_, hx, State.cutComplete_mem _ _, s.savedIn t v, hreg, rfl⟩

/-- Settles O56: regions switch, save, are gated, ask for a queue or stand in a trap, and their reports are compared. -/
theorem regionEvents : Obligations.RegionEvents := by
  refine ⟨?_, ?_, ?_, ?_, ?_, ?_⟩
  · intro s t r h hr
    refine ⟨fun hm => congrArg Host.Outcome.next ?_, ?_⟩
    · have hr' : s.reg (s.regionOf t) = some r := hr
      simp only [hm, Bool.not_true, Bool.false_eq_true, if_false, hr']
      rfl
    · rintro v hst hm hv hi ho _ rfl
      exact elementSave_alone hr hst hm hv hi ho
  · rintro h r x s ⟨hr, hroll, hg, h64, hf, hc⟩
    refine congrArg Host.Outcome.next ?_
    simp only [hr, hroll, hg, decide_eq_false (Nat.not_lt.2 h64), Bool.or_self, hf, if_neg hc, Bool.false_eq_true, if_false]
    rfl
  · rintro h r s ⟨hr, hsil, hsp, ha⟩
    refine congrArg Host.Outcome.next ?_
    simp only [hr, hsil, hsp, ha, Bool.not_true, Option.isSome_none, Bool.or_self, Bool.false_eq_true, if_false, if_true]
  · rintro h r s ⟨hr, hsil, hsp⟩
    have hat : s.deadlockAt h = some (s.silentTile h r) := by
      simp only [State.deadlockAt, hr, hsil, Option.isSome_iff_ne_none.2 hsp, Bool.true_or, Bool.and_self, if_true]
    refine congrArg Host.Outcome.next ?_
    simp only [hr, hat]
  · intro s d g t u a b both s1
    refine ⟨?_, ?_⟩
    · rintro ⟨hl, hj, ha, hb, hne, haway, hq⟩ hs hc hn hq1
      have hrep : s.allReported [a, b] = true := by
        simp only [State.allReported, ha, haway, hq, hj, List.isEmpty_nil, decide_true, Bool.and_self, List.all_cons,
          List.all_nil, reportBy_head ha, (reportBy_tail (ha ▸ hne)).trans (reportBy_head hb), Option.isSome_some]
      have halike := alike_both ha hb hne hs hc hn
      have hx : exec (.assizeCompare d g) s = .next (s.judge d g) := by
        refine congrArg Host.Outcome.next ?_
        simp only [hl, hrep, if_true]
      have haway1 : s1.awayOf t = [] := haway
      have hbest : [t, u].find? (fun x => decide ([t, u].length + ([] : List Nat).length + 0 < 2 * (alike [a, b] [t, u] x).length)) = some t :=
        List.find?_cons_of_pos (by rw [halike]; exact decide_eq_true (by simp))
      have hout : [t, u].filter (fun x => !([t, u].contains x)) = [] := by simp
      rw [hx]
      refine congrArg Host.Outcome.next ?_
      simp only [State.judge, hl, ha, hj, show (s.modDie d fun x => { x with reports := x.reports.erase g }) = s1 from rfl, haway1, hq1,
        hbest, halike, hout, List.isEmpty_nil, decide_true, Bool.and_self, if_true, List.foldl_cons, List.foldl_nil]
    · intro hl ha hj hne hlate
      have hx : exec (.assizeReportTimeout d g) s = .next (s.judge d g) := by
        refine congrArg Host.Outcome.next ?_
        simp only [hl, State.reportLate, decide_eq_true hlate, if_true]
      rw [hx]
      refine congrArg Host.Outcome.next ?_
      have hbest (n : Nat) : [t, u].find? (fun x => decide ([t, u].length + n < 2 * (alike [a] [t, u] x).length)) = none := by
        refine List.find?_eq_none.2 fun x hx => ?_
        have := alike_alone ha hne hx
        simp only [List.length_cons, List.length_nil, decide_eq_true_eq]
        omega
      simp only [State.judge, hl, ha, hj, Nat.add_assoc, hbest]
      rfl
  · rintro t l s ⟨hd, hl⟩
    refine congrArg Host.Outcome.next ?_
    simp only [hd, hl, Bool.not_true, Bool.false_eq_true, if_false]

end Sys2Proof.Proofs
end

section
/-! SUPPORT. What a resumption, a gate and a granted queue leave of the regions, nodes and edges (R385, R386, R392). -/

namespace Sys2Proof.Machine

/-- A region that changes. -/
theorem State.reg_modRegion {s : State} {h : Nat} {r : Region} (f : Region → Region) (hr : s.reg h = some r) :
    (s.modRegion h f).reg h = some (f r) :=
  (Tbl.get?_modify_self _ _ _).trans (congrArg (Option.map f) hr)

theorem State.event_reg (s : State) (d ty k : Nat) (c : BitVec 12) (x y : Word) (h : Nat) : (s.event d ty c k x y).reg h = s.reg h := by
  unfold State.event
  dsimp only
  split <;> rfl

theorem State.event_edges (s : State) (d ty k : Nat) (c : BitVec 12) (x y : Word) : (s.event d ty c k x y).edges = s.edges := by
  unfold State.event
  dsimp only
  split <;> rfl

theorem State.event_mem (s : State) (d ty k : Nat) (c : BitVec 12) (x y : Word) : (s.event d ty c k x y).mem = s.mem := by
  unfold State.event
  dsimp only
  split <;> rfl

/-- A node that takes its request up again changes no die. -/
theorem State.thawWalk_node_die (s : State) (t d : Nat) : (s.thawWalk (.node t)).die d = s.die d := rfl

/-- The nodes of a region whose clock is gated, or runs again (R385). -/
theorem State.setGate_node {s : State} {h t : Nat} {n : Node} (on : Bool) (hn : s.node? t = some n) :
    (s.setGate h on).node? t = some (if n.region = h then { n with gated := on } else n) :=
  (Tbl.get?_mapAll s.nodes (fun _ n => if n.region = h then { n with gated := on } else n) t).trans (congrArg (Option.map _) hn)

/-- A region that goes on in place (R386). -/
theorem State.resume_reg {s : State} {h : Nat} {g : Region} (r : FaultRec) (hr : s.reg h = some g) :
    (s.resume h r).reg h = some { g with gated := false, frozen := none, still := 0, quiet := 0 } :=
  (Tbl.get?_modify_self _ _ _).trans (congrArg (Option.map _) hr)

theorem State.resume_node {s : State} {h t : Nat} {n : Node} (r : FaultRec) (hn : s.node? t = some n) :
    (s.resume h r).node? t = some (if n.region = h then (n.thaw r).1 else n) :=
  (Tbl.get?_mapAll s.nodes (fun _ n => if n.region = h then (n.thaw r).1 else n) t).trans (congrArg (Option.map _) hn)

/-- A granted queue stands behind the chosen buffer (R392). -/
theorem State.giveSpill_ends {s : State} {h : Nat} {g : Region} {e : Nat × Edge} (pool : Bool) (a : Nat) (hr : s.reg h = some g)
    (hf : firstBuffer g (s.fullEdges h) = some e) (he : Tbl.get? e.1 s.edges = some e.2) :
    let u := s.giveSpill h pool a
    u.mem = s.mem ∧ Tbl.get? e.1 u.edges = some { e.2 with spilling := true, credits := e.2.credits + 4096 } ∧
    u.reg h = some { g with spillEdge := some e.1, spillAsked := false, spillPool := pool, quiet := 0, spillAt := a } := by
  have hu : s.giveSpill h pool a = (((s.modEdge e.1 fun x => { x with spilling := true, credits := x.credits + 4096 }).modRegion h fun r =>
      { r with spillEdge := some e.1 }).modRegion h fun r =>
        { r with spillAsked := false, spillPool := pool, spillAt := a, quiet := 0 }).event g.die 0x0D g.ctx 0 0 0 := by
    simp only [State.giveSpill, hr, hf]
  intro u
  rw [show u = _ from hu, State.event_mem, State.event_edges, State.event_reg]
  exact ⟨rfl, (Tbl.get?_modify_self _ _ _).trans (congrArg (Option.map _) he),
    State.reg_modRegion _ (State.reg_modRegion (s := s.modEdge e.1 fun x => { x with spilling := true, credits := x.credits + 4096 })
      (fun r => { r with spillEdge := some e.1 }) hr)⟩

end Sys2Proof.Machine
end
section
/-! SETTLING O57. -/

namespace Sys2Proof.Proofs

open Sys2Proof Sys2Proof.Machine Sys2Proof.Claims

/-- Settles O57: pending faults end or abort, and regions go on, return, end, are granted a queue, saved and restored. -/
theorem hostToolEvents : Obligations.HostToolEvents := by
  intro d x hd
  dsimp only
  refine ⟨?_, ?_, ?_, ?_, ?_, ?_⟩
  · rintro t n p s ⟨hp, hw, hun, hn, hst⟩
    refine ⟨(s.modDie d fun y => { y with
      pend := y.pend.filter fun p => !(p.ctx = x.extractLsb' 40 12 && p.page = x.toNat % 2 ^ 40), unrec := []
      thawed := y.thawed ++ [Requester.node t].filter fun r => !y.thawed.contains r }).thawWalk (.node t), ?_, ?_, ?_, rfl⟩
    · refine congrArg Host.Outcome.next ?_
      simp only [State.tfqRetry, hp, hw, hun, List.append_nil, List.foldl_cons, List.foldl_nil]
    · have hkept (f : Die → Die) : (s.modDie d f).node? t = some n := hn
      refine (State.node?_modNode _ _ _ _).trans ?_
      rw [if_pos rfl, hkept, Option.map_some, if_pos hst]
    · rw [State.thawWalk_node_die, State.die_modDie _ _ hd]
  · rintro t p s ⟨hp, hw, he⟩
    refine congrArg Host.Outcome.next ?_
    simp only [hp, hw, List.foldl_cons, List.foldl_nil, State.requestAborted, State.walkAborted]
    exact if_pos he
  · intro g r
    have hfz (s : State) (hr : s.reg (ctlHandle x) = some g) (hb : ∃ b, g.frozen = some ⟨r, b⟩) : s.frozenAt (ctlHandle x) = some r := by
      obtain ⟨b, hb⟩ := hb
      simp only [State.frozenAt, hr, Option.bind_some, hb, Option.map_some]
    refine ⟨?_, ?_, ?_⟩
    · rintro s ⟨⟨he, h0, hr, hb⟩, hres⟩
      refine ⟨s.resume (ctlHandle x) r, ?_, rfl, State.resume_reg r hr, fun t n hn => State.resume_node r hn⟩
      refine congrArg Host.Outcome.next ?_
      simp only [he, hfz s hr hb, hres, h0, Bool.false_eq_true, if_false, if_true]
    · rintro s ⟨⟨he, h0, hr, hb⟩, hc, hm⟩
      refine congrArg Host.Outcome.next ?_
      simp only [he, hfz s hr hb, hc, hm, Bool.false_eq_true, if_false, Bool.not_true]
      rfl
    · rintro s ⟨he, h0, hr, hb⟩
      refine congrArg Host.Outcome.next ?_
      simp only [he, hfz s hr hb, h0, Bool.false_eq_true, if_false]
  · intro g
    have hask (s : State) (hr : s.reg (ctlHandle x) = some g) (ha : g.spillAsked = true) (hd : g.die = d) : s.asksSpill d (ctlHandle x) = true := by
      simp only [State.asksSpill, hr, Option.any_some, ha, hd, decide_true, Bool.and_self]
    refine ⟨?_, ?_, ?_⟩
    · rintro e s ⟨⟨hr, ha, hgd⟩, hf, he⟩
      refine ⟨s.giveSpill (ctlHandle x) false (field x.toNat 53 20 * 2 ^ 20), ?_, State.giveSpill_ends _ _ hr hf he⟩
      refine congrArg Host.Outcome.next ?_
      simp only [hask s hr ha hgd, if_true]
    · rintro s ⟨hr, ha, hgd⟩
      refine congrArg Host.Outcome.next ?_
      simp only [hr, hask s hr ha hgd, Bool.not_true, Bool.false_eq_true, if_false]
    · rintro s ⟨hr, hl, hev⟩
      refine ⟨(s.setGate (ctlHandle x) true).modRegion (ctlHandle x) fun r => { r with evicting := some (d, s.preAddr d) }, ?_, rfl, ?_,
        fun t n hn => State.setGate_node true hn⟩
      · refine congrArg Host.Outcome.next ?_
        have hr' : s.reg (x.toNat % 65536) = some g := hr
        simp only [hr', hl, hev, Bool.not_true, Option.isSome_none, Bool.or_self, Bool.false_eq_true, if_false]
        rfl
      · exact (Tbl.get?_modify_self _ _ _).trans (congrArg (Option.map _) ((Tbl.get?_modify_self _ _ _).trans (congrArg (Option.map _) hr)))
  · rintro s ha
    refine congrArg Host.Outcome.next ?_
    simp only [ha]
  · intro k a
    constructor
    · rintro s ⟨ha, hm⟩
      have hm' : s.mayRestore a (x.toNat % 65536) (field x.toNat 25 21) (field x.toNat 20 16) = true := hm
      refine congrArg Host.Outcome.next ?_
      simp only [ha, hm', if_true]
      rfl
    · rintro s ⟨ha, hm⟩
      have hm' : s.mayRestore a (x.toNat % 65536) (field x.toNat 25 21) (field x.toNat 20 16) = false := hm
      refine congrArg Host.Outcome.next ?_
      simp only [ha, hm', Bool.false_eq_true, if_false]

end Sys2Proof.Proofs
end

section
/-! SUPPORT. Registers that read back, and what the actions behind them leave (R73 to R75, R89, R449 to R455). -/

namespace Sys2Proof.Machine

/-- A register reads back as it was written. -/
@[simp] theorem State.mmioAt_setMmio_self (s : State) (d o : Nat) (x : Word) : (s.setMmio d o x).mmioAt d o = x := by
  unfold State.mmioAt State.setMmio Tbl.getD
  dsimp only
  split
  · next h => rw [Tbl.get?_erase_self, h]; rfl
  · rw [Tbl.get?_set_self]; rfl

/-- A plain write of a register that is not one for the module reads back in its kept bits (R6). -/
theorem State.mmioAt_mmioKeep (s : State) {d o : Nat} (x : Word) (ho : onlyDie0 o = false) (hm : regMask o ≠ 0) :
    (s.mmioKeep d o x).mmioAt (regDie d o) o = x &&& BitVec.ofNat 64 (regMask o) := by
  rw [State.mmioKeep, ho, Bool.false_and, Bool.false_or, if_neg (by simpa using hm), State.mmioAt_setMmio_self]

/-- A plain write leaves everything but registers. -/
theorem State.mmioKeep_same (s : State) (d o : Nat) (x : Word) :
    (s.mmioKeep d o x).mem = s.mem ∧ (s.mmioKeep d o x).nodes = s.nodes ∧ (s.mmioKeep d o x).dies = s.dies := by
  unfold State.mmioKeep
  split <;> exact ⟨rfl, rfl, rfl⟩

/-- Where the rights-table base of an access target stands, and which bits of it are kept (R75, R449). -/
theorem accBase_reg {t : Nat} (h : okAcc t = true) (d : Nat) :
    onlyDie0 (accOff t + 128) = false ∧ regMask (accOff t + 128) = bits 53 17 ∧ regDie d (accOff t + 128) = d := by
  have ht : t < 576 := by
    simp only [okAcc, Bool.or_eq_true, decide_eq_true_eq, Bool.and_eq_true] at h
    omega
  have h1 : onlyDie0 (accOff t + 128) = false := by
    rw [onlyDie0, accOff, Bool.or_eq_false_iff, decide_eq_false_iff_not, decide_eq_false_iff_not]
    omega
  have h2 : isShared (accOff t + 128) = false := by
    rw [isShared, accOff, Bool.or_eq_false_iff, Bool.and_eq_false_iff, decide_eq_false_iff_not, decide_eq_false_iff_not,
      decide_eq_false_iff_not]
    omega
  refine ⟨h1, ?_, by rw [regDie, h2]; rfl⟩
  have hq : (accOff t + 128 - 0x40000) / 256 = t := by simp only [accOff]; omega
  have hr : (accOff t + 128 - 0x40000) % 256 = 128 := by simp only [accOff]; omega
  rw [regMask, if_neg (by simp only [accOff]; omega), if_neg (by simp only [accOff]; omega), if_neg (by simp only [accOff]; omega),
    if_pos (by simp only [accOff]; omega), hq, hr, if_pos h]
  rfl

/-- The context root of a context, and which bits of it are kept (R82). -/
theorem trRoot_reg (c : BitVec 12) : regMask (ctxOff c 0) = bits 63 63 + bits 53 20 ∧ regDie 0 (ctxOff c 0) = 0 := by
  have hc : c.toNat < 4096 := c.isLt
  have hs : isShared (ctxOff c 0) = true := by
    rw [isShared, ctxOff, Bool.or_eq_true, Bool.and_eq_true, decide_eq_true_eq, decide_eq_true_eq, decide_eq_true_eq]
    omega
  have hq : (ctxOff c 0 - 0x100000) / 0x8000 = 0 := by simp only [ctxOff]; omega
  refine ⟨?_, by rw [regDie, hs]; rfl⟩
  rw [regMask, if_neg (by simp only [ctxOff]; omega), if_neg (by simp only [ctxOff]; omega), if_neg (by simp only [ctxOff]; omega),
    if_neg (by simp only [ctxOff]; omega), if_pos (by simp only [ctxOff]; simp; omega), hq]
  rfl

/-- What becomes of a target's copies (R74): a line that stays in its slice is pinned for code alone. -/
theorem copiesGone_pinned {l : Tbl RdcLine} {f : Nat → Bool} {p : Nat × RdcLine} (hp : p ∈ copiesGone l f) (hf : f p.1 = true) :
    p.2.valid = 0 ∧ p.2.code.isSome = true := by
  obtain ⟨q, hq, rfl⟩ := List.mem_map.1 hp
  obtain ⟨-, hk⟩ := List.mem_filter.1 hq
  have hf' : f q.1 = true := hf
  simp only [hf', Bool.not_true, Bool.false_or] at hk
  simp only [hf', if_true]
  exact ⟨trivial, hk⟩

theorem vget_map {α β : Type} {n i : Nat} (v : Vector α n) (f : α → β) {x : α} {y : β} (h : i < n) : vget (v.map f) i y = f (vget v i x) := by
  simp [vget, h]

/-- The tiles' part of a purge writes dirty words back and drops lines (R74). -/
theorem State.purge_kept (s : State) (f : Nat → Bool) : s.Kept (s.purge f) :=
  (State.Kept.refl s).foldl _ _ fun _ _ k => (k.foldl _ _ fun _ _ j => j.l1Evict).setCache

theorem State.purge_rdc (s : State) (f : Nat → Bool) {d : Nat} (h : d < 4) :
    ∃ l, ((s.purge f).die d).rdc = copiesGone l fun k => f (k * 128) := by
  unfold State.purge
  dsimp only
  exact ⟨_, congrArg Die.rdc (vget_map (x := Die.reset) _ _ h)⟩

theorem State.rightsNote_rights (s : State) (d t e : Nat) : ((s.rightsNote d t).die e).rights = (s.die e).rights :=
  State.proj_modDie (·.rights) s d e _ fun _ => rfl

theorem State.rightsNotes_rights (l : List Nat) (s : State) (d e : Nat) :
    ((l.foldl (fun s t => s.rightsNote d t) s).die e).rights = (s.die e).rights := by
  induction l generalizing s with
  | nil => rfl
  | cons t l ih => exact (ih _).trans (s.rightsNote_rights d t e)

/-- Discarding the cached rights of a target leaves every register. -/
theorem State.rightsGone_mmioAt (s : State) (d t e o : Nat) : ((s.rightsDrop d t).rightsNote d t).mmioAt e o = s.mmioAt e o := rfl

theorem State.rightsGone_same (s : State) (d t : Nat) :
    ((s.rightsDrop d t).rightsNote d t).mem = s.mem ∧ ((s.rightsDrop d t).rightsNote d t).nodes = s.nodes := ⟨rfl, rfl⟩

/-- Memory and the nodes are as before. -/
def State.SameMem (s t : State) : Prop := t.mem = s.mem ∧ t.nodes = s.nodes

theorem State.SameMem.foldl {α : Type} {f : State → α → State} (h : ∀ (s : State) (x : α), s.SameMem (f s x)) (l : List α) (s : State) :
    s.SameMem (l.foldl f s) := by
  induction l generalizing s with
  | nil => exact ⟨rfl, rfl⟩
  | cons x l ih =>
    obtain ⟨hm, hn⟩ := h s x
    obtain ⟨im, in_⟩ := ih (f s x)
    exact ⟨im.trans hm, in_.trans hn⟩

/-- The base of an access target reads back, the target is switched where it is not 0, and what was cached goes (R74, R75). -/
theorem State.setBase_ends (s : State) {d t : Nat} (x : Word) (hd : d < 4) (ht : okAcc t = true) :
    s.SameMem (s.setBase d t x) ∧ (s.setBase d t x).mmioAt d (accOff t + 128) = x &&& BitVec.ofNat 64 (bits 53 17) ∧
    (x &&& BitVec.ofNat 64 (bits 53 17) ≠ 0 → t ∈ ((s.setBase d t x).die d).switched) ∧
    ∀ p ∈ ((s.setBase d t x).die d).rights, p.1 / 32768 ≠ t := by
  obtain ⟨ho, hm, hr⟩ := accBase_reg ht d
  obtain ⟨hmem, hnodes, -⟩ := s.mmioKeep_same d (accOff t + 128) x
  have hb : (s.mmioKeep d (accOff t + 128) x).mmioAt d (accOff t + 128) = x &&& BitVec.ofNat 64 (bits 53 17) := by
    have := s.mmioAt_mmioKeep (d := d) x ho (by rw [hm]; decide)
    rwa [hr, hm] at this
  generalize hv : ((s.mmioKeep d (accOff t + 128) x).rightsDrop d t).rightsNote d t = v
  have hvb : v.mmioAt d (accOff t + 128) = x &&& BitVec.ofNat 64 (bits 53 17) := by rw [← hv, State.rightsGone_mmioAt, hb]
  have hvm : s.SameMem v := by
    obtain ⟨gm, gn⟩ := (s.mmioKeep d (accOff t + 128) x).rightsGone_same d t
    rw [← hv]
    exact ⟨gm.trans hmem, gn.trans hnodes⟩
  have hvr : ∀ p ∈ (v.die d).rights, p.1 / 32768 ≠ t := by
    rw [← hv, State.rightsNote_rights, State.rightsDrop, State.die_modDie _ _ hd]
    exact fun p hp => of_decide_eq_true (List.mem_filter.1 hp).2
  rw [State.setBase, hv]
  rw [hvb]
  split
  · next h0 => exact ⟨hvm, hvb, fun h => absurd h0 h, hvr⟩
  · refine ⟨hvm, hvb, fun _ => ?_, ?_⟩
    · rw [State.die_modDie _ _ hd]
      dsimp only
      split
      · next hc => exact List.contains_iff_mem.1 hc
      · exact List.mem_append_right _ List.mem_cons_self
    · rw [State.die_modDie _ _ hd]
      exact hvr

/-- The base of one target is not another's. -/
theorem State.setBase_mmioAt_ne (s : State) {d t u : Nat} (x : Word) (ht : okAcc t = true) (hne : u ≠ t) :
    (s.setBase d t x).mmioAt d (accOff u + 128) = s.mmioAt d (accOff u + 128) := by
  obtain ⟨-, -, hr⟩ := accBase_reg ht d
  have hk : (s.mmioKeep d (accOff t + 128) x).mmioAt d (accOff u + 128) = s.mmioAt d (accOff u + 128) := by
    rw [State.mmioKeep, hr]
    split
    · rfl
    · exact s.mmioAt_setMmio_ne _ (by simp only [accOff]; omega)
  rw [← (s.mmioKeep d (accOff t + 128) x).rightsGone_mmioAt d t] at hk
  unfold State.setBase
  generalize ((s.mmioKeep d (accOff t + 128) x).rightsDrop d t).rightsNote d t = v at hk ⊢
  dsimp only
  split <;> exact hk

/-- The last of several writes to bases. -/
theorem State.setBases_mmioAt (s : State) {d : Nat} (x : Word) (hd : d < 4) (l : List Nat) (hl : ∀ t ∈ l, okAcc t = true) {u : Nat}
    (hu : u ∈ l ∨ s.mmioAt d (accOff u + 128) = x &&& BitVec.ofNat 64 (bits 53 17)) :
    (l.foldl (fun s t => s.setBase d t x) s).mmioAt d (accOff u + 128) = x &&& BitVec.ofNat 64 (bits 53 17) := by
  induction l generalizing s with
  | nil => exact hu.resolve_left List.not_mem_nil
  | cons t l ih =>
    refine ih (s.setBase d t x) (fun v hv => hl v (List.mem_cons_of_mem _ hv)) ?_
    have ht := hl t List.mem_cons_self
    by_cases hut : u = t
    · subst hut
      obtain ⟨-, hb, -⟩ := s.setBase_ends x hd ht
      exact .inr hb
    · rcases hu with hu | hu
      · exact .inl ((List.mem_cons.1 hu).resolve_left hut)
      · exact .inr ((s.setBase_mmioAt_ne x ht hut).trans hu)

/-- An invalidation that starts drops its entries and the walks of its context (R89). -/
theorem State.tlbStart_ends (s : State) {d : Nat} (y : Word) (hd : d < 4) :
    (s.tlbStart d y).mem = s.mem ∧ ((s.tlbStart d y).die d).tlbBusy = true ∧
    ((s.tlbStart d y).die d).tlb = (s.die d).tlb.filter (fun e => !tlbMatch y e.ctx e.va e.size) ∧
    ∀ w ∈ ((s.tlbStart d y).die d).walk, w.ctx ≠ y.extractLsb' 40 12 := by
  obtain ⟨hmem, -, hdies⟩ := s.mmioKeep_same d 0x10010 y
  have hdie : (s.mmioKeep d 0x10010 y).die d = s.die d := congrArg (fun v => vget v d Die.reset) hdies
  have hdrop : ((s.mmioKeep d 0x10010 y).tlbDrop d y).die d = { s.die d with
      tlb := (s.die d).tlb.filter fun e => !tlbMatch y e.ctx e.va e.size
      walk := (s.die d).walk.filter fun w => w.ctx ≠ y.extractLsb' 40 12
      tiles := (s.die d).tiles.mapAll fun _ c => { c with tlb := c.tlb.filter fun e => !tlbMatch y e.ctx e.va e.size } } := by
    rw [State.tlbDrop, State.die_modDie _ _ hd, hdie]
  generalize hv : (s.mmioKeep d 0x10010 y).tlbDrop d y = v at hdrop
  have hvm : v.mem = s.mem := by rw [← hv]; exact hmem
  have hn (l : List Nat) : (l.foldl (fun s t => s.modNode t fun n => { n with implicitReq := true }) v).mem = v.mem ∧
      (l.foldl (fun s t => s.modNode t fun n => { n with implicitReq := true }) v).dies = v.dies := by
    induction l using List.reverseRecOn with
    | nil => exact ⟨rfl, rfl⟩
    | append_singleton l t ih => rw [List.foldl_append]; exact ih
  obtain ⟨hfm, hfd⟩ := hn (v.tlbWindows d y).1
  have hfdie := congrArg (fun u => vget u d Die.reset) hfd
  rw [State.tlbStart, hv]
  dsimp only
  refine ⟨hfm.trans hvm, ?_, ?_, ?_⟩
  · rw [State.die_modDie _ _ hd]
  · rw [State.die_modDie _ _ hd]
    exact (congrArg Die.tlb hfdie).trans (congrArg Die.tlb hdrop)
  · rw [State.die_modDie _ _ hd]
    intro w hw
    have hw' : w ∈ (v.die d).walk := (congrArg Die.walk hfdie) ▸ hw
    rw [hdrop] at hw'
    exact of_decide_eq_true (List.mem_filter.1 hw').2

end Sys2Proof.Machine
end
section
/-! SETTLING O58. -/

namespace Sys2Proof.Proofs

open Sys2Proof Sys2Proof.Machine Sys2Proof.Claims

/-- A purge changes neither memory nor a node, and of the lines it names only code's pins stay (R74). -/
theorem purge_drops (s : State) (f : Nat → Bool) : (s.purge f).mem = s.mem ∧ (s.purge f).nodes = s.nodes ∧
    ∀ k, k < 4 → ∀ p ∈ ((s.purge f).die k).rdc, f (p.1 * 128) = true → p.2.valid = 0 ∧ p.2.code.isSome = true := by
  have hkept := s.purge_kept f
  refine ⟨hkept.mem, hkept.nodes, fun k hk p hp hf => ?_⟩
  obtain ⟨l, hl⟩ := s.purge_rdc f hk
  exact copiesGone_pinned (hl ▸ hp) hf

/-- An invalidation waits while one is under way and starts otherwise (R89). -/
theorem tlbWrite_ends (s : State) {d : Nat} (y : Word) (hd : d < 4) :
    ((s.die d).tlbBusy = true → (s.tlbWrite d y).mem = s.mem ∧ (s.tlbWrite d y).nodes = s.nodes ∧
      ((s.tlbWrite d y).die d).tlbHeld = (s.die d).tlbHeld ++ [y]) ∧
    ((s.die d).tlbBusy = false → s.tlbWrite d y = s.tlbStart d y) := by
  unfold State.tlbWrite
  constructor
  · intro h
    rw [if_pos h]
    refine ⟨rfl, rfl, ?_⟩
    rw [State.die_modDie _ _ hd]
  · intro h
    rw [if_neg (by rw [h]; decide)]

/-- An aligned write of 8 bytes that its target permits reaches its register (R69, R450). -/
theorem regWrite_permitted {s s1 : State} {die pa k o : Nat} {m : Master} (x : Word) (hh : s.home die pa = .mmio k o)
    (hp : s.permit die m pa 2 = (true, s1)) (ho : o % 8 = 0) : s.regWrite die m pa 8 x = (.ok (), s1.mmioWrite k o x) := by
  simp only [State.regWrite, hh, hp, ho, Bool.not_true, ne_eq, not_true, decide_false, Bool.or_self, Bool.false_eq_true, if_false]

/-- The base of every target of a die (R75). -/
theorem atabBaseWrite_ends {d : Nat} {x : Word} (hd : d < 4) :
    Ends (.atabBaseWrite d x) (fun _ => True) (fun s u => (u.mem = s.mem ∧ u.nodes = s.nodes) ∧
      ∀ t ∈ targets, u.mmioAt d (accOff t + 128) = x &&& BitVec.ofNat 64 (bits 53 17)) := by
  rintro s -
  have ht : ∀ t ∈ targets, okAcc t = true := fun t h => (List.mem_filter.1 h).2
  obtain ⟨hm, hn, -⟩ := s.mmioKeep_same d 0x10000 x
  have hall (l : List Nat) (v : State) (hl : ∀ t ∈ l, okAcc t = true) : v.SameMem (l.foldl (fun s t => s.setBase d t x) v) := by
    induction l generalizing v with
    | nil => exact ⟨rfl, rfl⟩
    | cons t l ih =>
      obtain ⟨⟨bm, bn⟩, -⟩ := v.setBase_ends x hd (hl t List.mem_cons_self)
      obtain ⟨im, in_⟩ := ih (v.setBase d t x) fun u hu => hl u (List.mem_cons_of_mem _ hu)
      exact ⟨im.trans bm, in_.trans bn⟩
  obtain ⟨am, an⟩ := hall targets (s.mmioKeep d 0x10000 x) ht
  exact ⟨_, rfl, ⟨am.trans hm, an.trans hn⟩, fun t h => State.setBases_mmioAt _ x hd targets ht (.inl h)⟩

/-- Settles O58: what each write of a register with an action does. -/
theorem registerWriteEvents : Obligations.RegisterWriteEvents := by
  intro d x hd
  dsimp only
  refine ⟨?_, ?_, ?_, ?_, ?_, ?_, ?_, ?_, ?_, ?_, ?_, ?_, ?_, ?_, ?_, ?_, ?_⟩
  · rintro t s -
    obtain ⟨hm, hn, hr⟩ := purge_drops s fun a => s.checksAddr d t a
    exact ⟨_, rfl, ⟨hm, hn⟩, hr⟩
  · rintro s -
    obtain ⟨hm, hn, hr⟩ := purge_drops s fun a => targets.any fun t => s.checksAddr d t a
    exact ⟨_, rfl, ⟨hm, hn⟩, hr⟩
  · rintro t s -
    refine ⟨_, rfl, s.rightsGone_same d t, ?_⟩
    rw [State.rightsNote_rights, State.rightsDrop, State.die_modDie _ _ hd]
  · rintro s -
    obtain ⟨hm, hn⟩ := State.SameMem.foldl (fun (s : State) t => (⟨rfl, rfl⟩ : s.SameMem (s.rightsNote d t))) targets
      (s.modDie d fun x => { x with rights := [] })
    refine ⟨_, rfl, ⟨hm, hn⟩, ?_⟩
    rw [State.rightsNotes_rights, State.die_modDie _ _ hd]
  · rintro t s ht
    obtain ⟨hs, hb, hsw, hr⟩ := s.setBase_ends x hd ht
    exact ⟨_, congrArg Host.Outcome.next (if_pos ht), hs, hb, hsw, hr⟩
  · exact atabBaseWrite_ends hd
  · constructor
    · intro s h
      exact ⟨_, congrArg Host.Outcome.next (if_neg (by rw [h]; decide)), State.mmioAt_setMmio_self s 0 0x10 _, rfl, rfl⟩
    · exact fun s h => congrArg Host.Outcome.next (if_pos h)
  · rintro c s -
    obtain ⟨hmask, hdie⟩ := trRoot_reg c
    obtain ⟨hm, hn, -⟩ := s.mmioKeep_same 0 (ctxOff c 0) x
    refine ⟨_, rfl, ⟨hm, hn⟩, ?_⟩
    have ho : onlyDie0 (ctxOff c 0) = false := by
      have hc : c.toNat < 4096 := c.isLt
      rw [onlyDie0, ctxOff, Bool.or_eq_false_iff, decide_eq_false_iff_not, decide_eq_false_iff_not]
      omega
    have := s.mmioAt_mmioKeep (d := 0) x ho (by rw [hmask]; decide)
    rwa [hdie, hmask] at this
  · have inv (e : Instr) (y : Word) (he : ∀ s : State, exec e s = .next (s.tlbWrite d y)) :
        Ends e (fun s => (s.die d).tlbBusy = true) (fun s u =>
          (u.mem = s.mem ∧ u.nodes = s.nodes) ∧ (u.die d).tlbHeld = (s.die d).tlbHeld ++ [y]) ∧
        Ends e (fun s => (s.die d).tlbBusy = false) (fun s u => u.mem = s.mem ∧ (u.die d).tlbBusy = true ∧
          (u.die d).tlb = (s.die d).tlb.filter (fun e => !tlbMatch y e.ctx e.va e.size) ∧
          ∀ w ∈ (u.die d).walk, w.ctx ≠ y.extractLsb' 40 12) := by
      constructor
      · intro s h
        obtain ⟨hm, hn, hh⟩ := (tlbWrite_ends s y hd).1 h
        exact ⟨_, he s, ⟨hm, hn⟩, hh⟩
      · intro s h
        exact ⟨_, he s, (tlbWrite_ends s y hd).2 h ▸ s.tlbStart_ends y hd⟩
    exact ⟨inv (.tlbInvAll d x) _ fun _ => rfl, inv (.tlbInvPage d x) _ fun _ => rfl⟩
  · rintro r - s ⟨hf, hp⟩
    obtain ⟨-, -, hdies⟩ := s.mmioKeep_same d (0x10000 + (ringRegs r).1) x
    have hdie : (s.mmioKeep d (0x10000 + (ringRegs r).1) x).die d = s.die d := congrArg (fun v => vget v d Die.reset) hdies
    refine congrArg Host.Outcome.next ?_
    rw [State.drainRing, hdie, hf, hp]
    exact ite_self _
  · rintro s -
    refine ⟨_, rfl, ⟨rfl, rfl⟩, ?_, ?_⟩ <;> rw [State.die_modDie _ _ hd]
  · rintro s -
    exact ⟨_, rfl, State.mmioAt_setMmio_self s 0 0x30 _, rfl, rfl⟩
  · constructor
    · exact fun s h => congrArg Host.Outcome.next (if_pos h)
    · rintro s ⟨hl, hx⟩
      refine ⟨s.setMmio 0 0x30 ((s.mmioAt 0 0x30 &&& 0xF0) ||| (x &&& 8) ||| (x &&& 3)), ?_, State.mmioAt_setMmio_self _ _ _ _, rfl, rfl⟩
      refine congrArg Host.Outcome.next ?_
      simp only [hl, hx, Bool.false_eq_true, if_false]
  · rintro s -
    exact ⟨_, rfl, State.mmioAt_setMmio_self s 0 0x08 _, rfl, rfl⟩
  · rintro s -
    refine ⟨_, rfl, ?_, rfl, rfl⟩
    rw [State.mmioAt_setMmio_self]
    refine congrArg (BitVec.ofNat 64) ?_
    generalize x.toNat % 65536 = w
    show max 1000 (min 4000 w) = _
    split_ifs <;> omega
  · intro c s h
    exact ⟨_, congrArg Host.Outcome.next (if_pos h), ⟨rfl, rfl⟩, rfl⟩
  · intro m off k o s s1 hh hp ho
    exact congrArg (fun r : Except AccErr Unit × State => Host.Outcome.next r.2) (regWrite_permitted x hh hp ho)

end Sys2Proof.Proofs
end

section
/-! SUPPORT. What reaches the module from outside (R54 to R65, R450, R457), and what a reset leaves (R447, R448). -/

namespace Sys2Proof.Machine

/-- A read from outside whose homes give the bytes is answered with them (R69, R450). -/
theorem State.outsideRead_ok {s s1 : State} {d pa n : Nat} {m : Master} {b : List Byte} (hbad : s.mmioBad d pa n = false)
    (hr : s.homeReadAll d m false (pieces pa n (n / 128 + 2)) = (.ok b, s1)) :
    s.outsideRead d m pa n = s1.hand (.answer (Sys2Proof.ofBytes b) n) := by
  simp only [State.outsideRead, hbad, hr, Bool.false_eq_true, if_false]

/-- BAR2 reaches local addresses as they stand (R55). -/
theorem barAddr_two {off : Nat} (h : off < 0x1E8000000000) : barAddr 2 off = some off := by
  have h45 : off < 2 ^ 45 := by omega
  simp only [barAddr, h45, if_true, OfNat.ofNat_ne_zero, if_false]

/-- A request that names no message on its way to its node leaves the agenda as it is (R384). -/
theorem State.ldaOut_none {s : State} {t : Nat} (h : ∀ i ∈ s.agenda, isValueTo t i = false) : s.ldaOut t = (none, s) := by
  have hnil : ((List.range s.agenda.length).filter fun k => (s.agenda[k]?).any (isValueTo t)) = [] := by
    refine List.filter_eq_nil_iff.2 fun k _ => ?_
    cases hk : s.agenda[k]? with
    | none => exact Bool.false_ne_true
    | some i =>
      rw [Option.any_some, h i (List.mem_of_getElem? hk)]
      exact Bool.false_ne_true
  rw [State.ldaOut, hnil]
  rfl

/-- One aligned access of 8 bytes is what an MMIO target takes (R450). -/
theorem State.mmioBad_word (s : State) (d : Nat) {pa : Nat} (h : pa % 8 = 0) : s.mmioBad d pa 8 = false := by
  simp only [State.mmioBad, h, ne_eq, not_true, decide_false, Bool.or_self, Bool.false_and]

/-- A module's addresses are aligned as their offsets are (R51). -/
theorem State.global_aligned (s : State) {a : Nat} (h : a % 8 = 0) : s.global a % 8 = 0 := by
  unfold State.global
  omega

/-- Registers of die 0 that are written one after another, none of them a given one. -/
theorem State.setMmios_mmioAt {α : Type} (o : Nat) (f : α → Nat) (x : Word) (l : List α) (hl : ∀ a ∈ l, f a ≠ o) (s : State) :
    (l.foldl (fun r a => r.setMmio 0 (f a) x) s).mmioAt 0 o = s.mmioAt 0 o := by
  induction l generalizing s with
  | nil => rfl
  | cons a l ih =>
    refine (ih (fun b hb => hl b (List.mem_cons_of_mem _ hb)) _).trans (s.mmioAt_setMmio_ne _ ?_)
    simpa using (hl a List.mem_cons_self).symm

/-- Everything of a state but its registers. -/
def State.SameButMmio (s t : State) : Prop := { t with mmio := [] } = { s with mmio := [] }

theorem State.setMmios_same {α : Type} (f : α → Nat) (x : Word) (l : List α) (s : State) :
    s.SameButMmio (l.foldl (fun r a => r.setMmio 0 (f a) x) s) := by
  induction l generalizing s with
  | nil => exact rfl
  | cons a l ih => exact (ih (s.setMmio 0 (f a) x)).trans rfl

/-- The state that a reset leaves before the registers of the second tier and of `mod.health` are written (R447, R448). -/
theorem State.rebooted_from (s : State) : ∃ r : State, (r.nodes = [] ∧ r.mts = [] ∧ r.regions = [] ∧ r.launches = [] ∧ r.edges = [] ∧
      r.agenda = [] ∧ r.clocksStopped = false ∧ r.mem = s.mem.filter fun c => keptMem c.1) ∧
    s.rebooted = (((List.range 8).foldl (fun r p => r.setMmio 0 (0x38 + 8 * p) 0)
      (r.setMmio 0 0x08 (healthAfter (s.mmioAt 0 0x08)))).setMmio 0 0x78 (BitVec.ofNat 64 (t2Top []))).bringBegin :=
  ⟨_, ⟨rfl, rfl, rfl, rfl, rfl, rfl, rfl, rfl⟩, rfl⟩

/-- The first step of bring-up writes no register. -/
theorem State.bringBegin_mmioAt (s : State) (d o : Nat) : s.bringBegin.mmioAt d o = s.mmioAt d o := rfl

/-- What a reset leaves (R447, R448, R454). -/
theorem State.rebooted_ends (s : State) : s.rebooted.nodes = [] ∧ s.rebooted.mts = [] ∧ s.rebooted.regions = [] ∧
    s.rebooted.launches = [] ∧ s.rebooted.edges = [] ∧ s.rebooted.agenda = [] ∧ s.rebooted.clocksStopped = false ∧
    s.rebooted.bringUp.isSome = true ∧ s.rebooted.mmioAt 0 0x08 = healthAfter (s.mmioAt 0 0x08) ∧
    s.rebooted.mem = s.mem.filter fun c => keptMem c.1 := by
  obtain ⟨r, ⟨hn, ht, hr, hl, he, ha, hc, hm⟩, heq⟩ := s.rebooted_from
  rw [heq]
  have hs := State.setMmios_same (fun p => 0x38 + 8 * p) 0 (List.range 8) (r.setMmio 0 0x08 (healthAfter (s.mmioAt 0 0x08)))
  have h8 := State.setMmios_mmioAt 0x08 (fun p => 0x38 + 8 * p) 0 (List.range 8) (fun p _ => by omega)
    (r.setMmio 0 0x08 (healthAfter (s.mmioAt 0 0x08)))
  rw [State.mmioAt_setMmio_self] at h8
  generalize (List.range 8).foldl (fun r p => r.setMmio 0 (0x38 + 8 * p) 0) (r.setMmio 0 0x08 (healthAfter (s.mmioAt 0 0x08))) = v
    at hs h8 ⊢
  have h78 : ((v.setMmio 0 0x78 (BitVec.ofNat 64 (t2Top []))).bringBegin).mmioAt 0 0x08 = v.mmioAt 0 0x08 :=
    (State.bringBegin_mmioAt _ _ _).trans <| v.mmioAt_setMmio_ne (d := 0) (e := 0) (o := 0x78) (k := 0x08) _ (by decide)
  exact ⟨(congrArg State.nodes hs).trans hn, (congrArg State.mts hs).trans ht, (congrArg State.regions hs).trans hr,
    (congrArg State.launches hs).trans hl, (congrArg State.edges hs).trans he, (congrArg State.agenda hs).trans ha,
    (congrArg State.clocksStopped hs).trans hc, rfl, h78.trans h8, (congrArg State.mem hs).trans hm⟩

end Sys2Proof.Machine
end
section
/-! SETTLING O59. -/

namespace Sys2Proof.Proofs

open Sys2Proof Sys2Proof.Machine Sys2Proof.Claims

/-- A read through BAR2 (R55, R59). -/
theorem hostBarRead {s s1 : State} {link off n : Nat} {c : Option (BitVec 12)} {b : List Byte} (hup : s.hostUp link = true)
    (hbad : s.mmioBad (proxyDie link) (s.global off) n = false) (hoff : off < 0x1E8000000000)
    (hr : s.homeReadAll (proxyDie link) (hostMaster c) false (pieces (s.global off) n (n / 128 + 2)) = (.ok b, s1)) :
    execHostBarRequest link 2 off c (.read n) s = .next (s1.hand (.answer (Sys2Proof.ofBytes b) n)) := by
  have hle : decide (0x1E8000000000 ≤ off) = false := decide_eq_false (Nat.not_le.2 hoff)
  have hout := State.outsideRead_ok hbad hr
  simp only [execHostBarRequest, hup, barAddr_two hoff, hostAsks, hle, Bool.not_true, Bool.and_false, Bool.false_eq_true, if_false,
    OfNat.ofNat_ne_zero, decide_false, Bool.false_and, State.outside, hout]

/-- A read through CXL.mem makes the host a sharer of the lines (R55, R59). -/
theorem hostCxlRead {s s1 : State} {link off n : Nat} {c : Option (BitVec 12)} {b : List Byte} (hup : s.hostUp link = true)
    (hbad : s.mmioBad (proxyDie link) (s.global off) n = false) (hcxl : s.hostIsCxl link = true)
    (hoff : off < 0x8000000000 ∨ (0x1F8000000000 ≤ off ∧ off < 0x1F8100000000))
    (hr : s.homeReadAll (proxyDie link) (hostMaster c) false (pieces (s.global off) n (n / 128 + 2)) = (.ok b, s1)) :
    execHostCxlMemRequest link off c (.read n) s = .next ((pieces off n (n / 128 + 2)).foldl (fun u p => u.hostShares (p.1 / 128))
      (s1.hand (.answer (Sys2Proof.ofBytes b) n))) := by
  have hin : (!decide (off < 0x8000000000) && !(decide (0x1F8000000000 ≤ off) && decide (off < 0x1F8100000000))) = false := by
    rcases hoff with h | ⟨h1, h2⟩
    · rw [decide_eq_true h, Bool.not_true, Bool.false_and]
    · rw [decide_eq_true h1, decide_eq_true h2, Bool.and_self, Bool.not_true, Bool.and_false]
  have hlast : (s1.hand (.answer (Sys2Proof.ofBytes b) n)).out.getLast? ≠ some .refusedAnswer := by
    intro h
    rw [State.hand, List.getLast?_append, List.getLast?_singleton, Option.some_or] at h
    cases h
  simp only [execHostCxlMemRequest, hup, hcxl, hin, Bool.not_true, Bool.or_self, Bool.false_eq_true, if_false,
    State.outsideRead_ok hbad hr, if_pos hlast]

/-- Settles O59: snoops, hosts' reads, peers' flits, a peer that does not answer, the management port, and reset. -/
theorem outsideEvents : Obligations.OutsideEvents := by
  dsimp only [Obligations.OutsideEvents]
  refine ⟨?_, ?_, ?_, ?_, ?_, ?_, ?_⟩
  · intro line
    refine ⟨?_, ?_, ?_⟩
    · intro s h
      refine ⟨_, congrArg Host.Outcome.next (if_pos h), ⟨rfl, rfl⟩, ?_, rfl⟩
      exact (congrArg (Option.getD · Mesi.i) (Tbl.get?_set_self s.hostLines line Mesi.s))
    · exact fun s h => congrArg Host.Outcome.next (if_pos h)
    · rintro u s ⟨h, rfl, hw⟩
      refine congrArg Host.Outcome.next ?_
      have hw' : ((((s.dropLine (s.global (128 * line) / 128)).setHostLine line .m).snoopAnswer line).hostWords (s.global (128 * line))
        16).watched (s.global (128 * line)) = false := hw
      simp only [h, hw', Bool.not_true, Bool.false_eq_true, if_false]
      rfl
  · intro s s1 link off n c b hup hbad hr
    exact ⟨fun hoff => hostBarRead hup hbad hoff hr, fun hcxl hoff => hostCxlRead hup hbad hcxl hoff hr⟩
  · intro port k m pa op
    refine ⟨fun s _ => rfl, ?_, ?_⟩
    · intro s h
      refine congrArg Host.Outcome.next ?_
      simp only [h.symm, ne_eq, not_false_eq_true, decide_true, Bool.not_true, Bool.or_true, Bool.true_or, if_true]
      rfl
    · rintro s ⟨hk, hup⟩
      refine congrArg Host.Outcome.next ?_
      simp only [hk, hup, ne_eq, not_true, decide_false, Bool.not_true, Bool.or_self, Bool.false_eq_true, if_false]
      by_cases hpa : pa < 2 ^ 60
      · rw [if_pos hpa, if_neg (Nat.not_le.2 hpa)]
      · rw [if_neg hpa, if_pos (Nat.not_lt.1 hpa)]
  · rintro t pa n s ⟨hn, hlate, hdom, hag⟩
    refine ⟨s.modNode t fun n => if n.late.isSome then n else
      { n with late := some (n.record s.now .linkTimeout 1 (BitVec.ofNat 64 pa) 0 0, none) }, ?_, rfl, ?_⟩
    · refine congrArg Host.Outcome.next ?_
      simp only [hdom, State.ldaOut_none hag, Bool.false_eq_true, if_false]
    · refine (State.node?_modNode _ _ _ _).trans ?_
      rw [if_pos rfl, hn, Option.map_some, hlate]
      rfl
  · intro s s1 off
    constructor
    · intro b ho hr
      refine congrArg Host.Outcome.next (State.outsideRead_ok (s.mmioBad_word _ (s.global_aligned ?_)) hr)
      omega
    · intro x hr
      refine congrArg Host.Outcome.next ?_
      have hr' : s.regWrite (off / 2 ^ 36 % 4) mgmtMaster (s.mmioAddr off) 8 x = (.ok (), s1) := hr
      rw [hr']
  · exact fun b s _ => rfl
  · have fresh (e : Instr) (he : ∀ s : State, exec e s = .next s.rebooted) : Ends e (fun _ => True) (fun s u => u.nodes = [] ∧ u.mts = [] ∧
        u.regions = [] ∧ u.launches = [] ∧ u.edges = [] ∧ u.agenda = [] ∧ u.clocksStopped = false ∧ u.bringUp.isSome = true ∧
        u.mmioAt 0 0x08 = s.mmioAt 0 0x08 &&& BitVec.ofNat 64 (2 ^ 40) ∧ u.mem = s.mem.filter fun c => keptMem c.1) :=
      fun s _ => ⟨_, he s, s.rebooted_ends⟩
    exact ⟨fresh .reset fun _ => rfl, fresh .modReset fun _ => rfl⟩

end Sys2Proof.Proofs
end

section
/-! SUPPORT. Failures, clocks and alarms: what an event, an eviction, a ceiling and a fatal event leave (R108, R369, R400, R401, R455). -/

namespace Sys2Proof.Machine

theorem State.mmioAt_of_mmio {s t : State} (h : t.mmio = s.mmio) (d o : Nat) : t.mmioAt d o = s.mmioAt d o := by
  rw [State.mmioAt, h]
  rfl

/-- Where an address has its home does not hang on `mod.health` (R51 to R53). -/
theorem State.home_health (s : State) (x : Word) (d pa : Nat) : (s.setMmio 0 0x08 x).home d pa = s.home d pa := by
  have hm (o : Nat) (ho : o ≠ 0x08) : (s.setMmio 0 0x08 x).mmioAt 0 o = s.mmioAt 0 o := s.mmioAt_setMmio_ne x (by simpa using ho)
  have hdom : (s.setMmio 0 0x08 x).dom = s.dom := congrArg (·.toNat % 512) (hm 0x80 (by decide))
  have hstack (a : Nat) : (s.setMmio 0 0x08 x).stackOf a = s.stackOf a := by
    rw [State.stackOf, State.stackOf, State.banked, State.banked, hm 0x10 (by decide)]
  have hport (a : Nat) : (s.setMmio 0 0x08 x).portAbsent a = s.portAbsent a := by
    rw [State.portAbsent, State.portAbsent, hm _ (by omega)]
  rw [State.home, State.home, hdom, State.homeOf, State.homeOf, hm 0x78 (by decide), hstack, hport]

/-! ### Events -/

theorem State.event_mmio (s : State) (d ty k : Nat) (c : BitVec 12) (x y : Word) : (s.event d ty c k x y).mmio = s.mmio := by
  unfold State.event
  dsimp only
  split <;> rfl

theorem State.event_debugFails (s : State) (d ty k : Nat) (c : BitVec 12) (x y : Word) :
    (s.event d ty c k x y).debugFails = s.debugFails := by
  unfold State.event
  dsimp only
  split <;> rfl

theorem State.event_clock (s : State) (d ty k : Nat) (c : BitVec 12) (x y : Word) :
    (s.event d ty c k x y).locked = s.locked ∧ (s.event d ty c k x y).now = s.now := by
  unfold State.event
  dsimp only
  split <;> exact ⟨rfl, rfl⟩

/-- What does not read a die's ring is the same after an event (R399). -/
theorem State.event_proj {α : Type} (π : Die → α) (h : ∀ (x : Die) (l : Tbl EventRec) (n : Nat), π { x with events := l, evCount := n } = π x)
    (s : State) (d ty k : Nat) (c : BitVec 12) (x y : Word) (e : Nat) : π ((s.event d ty c k x y).die e) = π (s.die e) := by
  unfold State.event
  dsimp only
  split
  · rfl
  · exact State.proj_modDie π s d e (fun z => { z with events := _, evCount := _ }) fun z => h z _ _

/-- One die's part of a fatal event (R400). -/
def State.fatalAt (s : State) (d : Nat) : State := (s.event d 0x10 0 0 0 0).modDie d fun x => { x with evFrozen := true }

theorem State.fatal_eq (s : State) : s.fatal = (List.range 4).foldl State.fatalAt s := rfl

/-- A fatal event on every die leaves memory and the registers. -/
theorem State.fatal_same (s : State) : s.fatal.mmio = s.mmio ∧ s.fatal.mem = s.mem := by
  rw [State.fatal_eq]
  generalize List.range 4 = l
  induction l generalizing s with
  | nil => exact ⟨rfl, rfl⟩
  | cons d l ih =>
    obtain ⟨im, ie⟩ := ih (s.fatalAt d)
    exact ⟨im.trans (State.event_mmio _ _ _ _ _ _ _), ie.trans (State.event_mem _ _ _ _ _ _ _)⟩

/-- What reads neither a die's ring nor whether it is frozen is the same after a fatal event (R400). -/
theorem State.fatal_proj {α : Type} (π : Die → α) (h : ∀ (x : Die) (l : Tbl EventRec) (n : Nat), π { x with events := l, evCount := n } = π x)
    (hf : ∀ x : Die, π { x with evFrozen := true } = π x) (s : State) (e : Nat) : π (s.fatal.die e) = π (s.die e) := by
  rw [State.fatal_eq]
  generalize List.range 4 = l
  induction l generalizing s with
  | nil => rfl
  | cons d l ih => exact (ih (s.fatalAt d)).trans ((State.proj_modDie π _ _ _ _ hf).trans (State.event_proj π h _ _ _ _ _ _ _ _))

theorem State.fatalAt_frozen (s : State) {d : Nat} (hd : d < 4) : ((s.fatalAt d).die d).evFrozen = true := by
  rw [State.fatalAt, State.die_modDie _ _ hd]

/-- A frozen recorder stays frozen (R400). -/
theorem State.fatalAt_keeps (s : State) (e : Nat) {d : Nat} (hd : d < 4) (h : (s.die d).evFrozen = true) :
    ((s.fatalAt e).die d).evFrozen = true := by
  by_cases he : e = d
  · exact he ▸ State.fatalAt_frozen s (he ▸ hd)
  · rw [State.fatalAt, State.die_modDie_ne _ _ he]
    exact (State.event_proj (·.evFrozen) (fun _ _ _ => rfl) _ _ _ _ _ _ _ _).trans h

/-- A fatal event freezes every recorder (R400). -/
theorem State.fatal_frozen (s : State) {d : Nat} (hd : d < 4) : (s.fatal.die d).evFrozen = true := by
  have hall (l : List Nat) (s : State) (h : d ∈ l ∨ (s.die d).evFrozen = true) : ((l.foldl State.fatalAt s).die d).evFrozen = true := by
    induction l generalizing s with
    | nil => exact h.resolve_left List.not_mem_nil
    | cons e l ih =>
      refine ih (s.fatalAt e) ?_
      rcases h with h | h
      · rcases List.mem_cons.1 h with rfl | h
        · exact .inr (s.fatalAt_frozen hd)
        · exact .inl h
      · exact .inr (s.fatalAt_keeps e hd h)
  exact hall _ s (.inl (List.mem_range.2 hd))

/-- An alarm with act = 0 sets its source and writes an event (R401). -/
theorem State.alarm_logged (s : State) {bit : Nat} (hb : 4 ≤ bit) (h : (s.mmioAt 0 0x30).toNat % 4 = 0) :
    (s.alarm bit).mmioAt 0 0x30 = s.mmioAt 0 0x30 ||| BitVec.ofNat 64 (2 ^ bit) ∧ (s.alarm bit).mem = s.mem ∧
    (s.alarm bit).debugFails = s.debugFails := by
  have hx : (s.mmioAt 0 0x30 ||| BitVec.ofNat 64 (2 ^ bit)).toNat % 4 = 0 := by
    have hp : 2 ^ bit % 2 ^ 64 % 2 ^ 2 = 0 := by
      rw [Nat.mod_mod_of_dvd _ (pow_dvd_pow 2 (by decide))]
      exact Nat.mod_eq_zero_of_dvd (pow_dvd_pow 2 (by omega))
    rw [BitVec.toNat_or, BitVec.toNat_ofNat, show 4 = 2 ^ 2 from rfl, Nat.or_mod_two_pow, hp, Nat.or_zero]
    exact h
  unfold State.alarm
  dsimp only
  generalize hv : (s.setMmio 0 0x30 (s.mmioAt 0 0x30 ||| BitVec.ofNat 64 (2 ^ bit))).pick 4 = v
  have hm : (v.2.event v.1 0x0E 0 0 0 0).mmioAt 0 0x30 = s.mmioAt 0 0x30 ||| BitVec.ofNat 64 (2 ^ bit) := by
    rw [State.mmioAt, State.event_mmio, ← hv]
    exact State.mmioAt_setMmio_self _ _ _ _
  have hact : (v.2.event v.1 0x0E 0 0 0 0).alarmAct = v.2.event v.1 0x0E 0 0 0 0 := by
    rw [State.alarmAct, hm]
    exact if_pos hx
  rw [hact]
  refine ⟨hm, (State.event_mem _ _ _ _ _ _ _).trans (by rw [← hv]; rfl), (State.event_debugFails _ _ _ _ _ _ _).trans (by rw [← hv]; rfl)⟩

/-- Is a line's home a slice of a die (R126)? -/
def State.homedOn (s : State) (d a : Nat) : Bool := match s.home 0 a with
  | .slice h _ => h = d
  | _ => false

theorem State.homedOn_slice (s : State) {d a sl : Nat} (h : s.home 0 a = .slice d sl) : s.homedOn d a = true := by
  simp only [State.homedOn, h, decide_true]

/-! ### Evictions -/

theorem Tbl.mem_erase {α : Type} {k : Nat} {t : Tbl α} {p : Nat × α} (h : p ∈ Tbl.erase k t) : p ∈ t ∧ p.1 ≠ k := by
  induction t with
  | nil => cases h
  | cons q t ih =>
    obtain ⟨j, x⟩ := q
    rw [Tbl.erase] at h
    split at h
    · obtain ⟨hm, hk⟩ := ih h
      exact ⟨List.mem_cons_of_mem _ hm, hk⟩
    · next hj =>
      rcases List.mem_cons.1 h with rfl | h
      · exact ⟨List.mem_cons_self, hj⟩
      · obtain ⟨hm, hk⟩ := ih h
        exact ⟨List.mem_cons_of_mem _ hm, hk⟩

theorem Tbl.mem_insert {α : Type} {k : Nat} {x : α} {t : Tbl α} {p : Nat × α} (h : p ∈ Tbl.insert k x t) : p = (k, x) ∨ p ∈ t := by
  induction t with
  | nil => exact .inl (List.mem_singleton.1 h)
  | cons q t ih =>
    obtain ⟨j, y⟩ := q
    rw [Tbl.insert] at h
    split at h
    · exact List.mem_cons.1 h
    · rcases List.mem_cons.1 h with rfl | h
      · exact .inr List.mem_cons_self
      · exact (ih h).imp_right (List.mem_cons_of_mem _)

/-- A changed entry stands under the key that it had. -/
theorem Tbl.mem_modify {α : Type} {k : Nat} {f : α → α} {t : Tbl α} {p : Nat × α} (h : p ∈ Tbl.modify t k f) : ∃ x, (p.1, x) ∈ t := by
  unfold Tbl.modify at h
  split at h
  · exact ⟨p.2, h⟩
  · next x hx =>
    rcases Tbl.mem_insert h with rfl | h
    · exact ⟨x, Tbl.mem_of_get? hx⟩
    · exact ⟨p.2, (Tbl.mem_erase h).1⟩

/-- From one state to another the registers are the same, and the L2 of a die holds no line that it did not hold. -/
def State.L2Within (d : Nat) (s t : State) : Prop := t.mmio = s.mmio ∧ ∀ p ∈ (t.die d).l2, ∃ x, (p.1, x) ∈ (s.die d).l2

theorem State.L2Within.refl (d : Nat) (s : State) : s.L2Within d s := ⟨rfl, fun p h => ⟨p.2, h⟩⟩

theorem State.L2Within.trans {d : Nat} {s t u : State} (h : s.L2Within d t) (k : t.L2Within d u) : s.L2Within d u := by
  obtain ⟨hm, hl⟩ := h
  obtain ⟨km, kl⟩ := k
  refine ⟨km.trans hm, fun p hp => ?_⟩
  obtain ⟨x, hx⟩ := kl p hp
  exact hl (p.1, x) hx

/-- A change of a die whose L2 keeps its lines. -/
theorem State.L2Within.modDie (d : Nat) (s : State) (e : Nat) {f : Die → Die} (h : ∀ x, (f x).l2 = x.l2) : s.L2Within d (s.modDie e f) := by
  refine ⟨rfl, fun p hp => ⟨p.2, ?_⟩⟩
  rwa [State.proj_modDie (·.l2) s e d f h] at hp

theorem State.L2Within.l2Dirty (d : Nat) (s : State) (e ln : Nat) : s.L2Within d (s.l2Dirty e ln) := by
  refine ⟨rfl, fun p hp => ?_⟩
  by_cases he : e = d
  · subst he
    by_cases hlt : e < 4
    · rw [State.l2Dirty, State.die_modDie _ _ hlt] at hp
      exact Tbl.mem_modify hp
    · rw [State.die_eq_reset _ hlt] at hp
      exact ⟨p.2, by rwa [State.die_eq_reset _ hlt]⟩
  · rw [State.l2Dirty, State.die_modDie_ne _ _ he] at hp
    exact ⟨p.2, hp⟩

theorem State.L2Within.modHolder (d : Nat) (s : State) (e p ln : Nat) (f : L1Line → L1Line) : s.L2Within d (s.modHolder e p ln f) := by
  unfold State.modHolder
  split
  · exact .refl d s
  · exact .modDie d s _ fun _ => rfl

theorem State.L2Within.foldl {α : Type} {d : Nat} {f : State → α → State} (h : ∀ (s : State) (x : α), s.L2Within d (f s x)) (l : List α)
    (s : State) : s.L2Within d (l.foldl f s) := by
  induction l generalizing s with
  | nil => exact .refl d s
  | cons x l ih => exact (h s x).trans (ih (f s x))

theorem State.L2Within.dirInval (d : Nat) (s : State) (e ln : Nat) (keep : Option Nat) (w : Word32) :
    s.L2Within d (s.dirInval e ln keep w) := by
  have hhost : s.L2Within d (s.recallHost ln) := by
    unfold State.recallHost
    split
    · exact ⟨rfl, fun p h => ⟨p.2, h⟩⟩
    · exact .refl d s
  refine hhost.trans ?_
  unfold State.dirInval
  generalize s.recallHost ln = s
  dsimp only
  refine .trans ?_ ((State.L2Within.foldl (fun s p => ?_) _ _).trans (.modDie d _ _ fun _ => rfl))
  · split
    · exact .l2Dirty d s e ln
    · exact .refl d s
  · split
    · exact .refl d s
    · exact .modHolder d s _ _ _ _

/-- An eviction takes a line out of the L2 and brings none in (R108). -/
theorem State.l2Evict_ends (s : State) {d : Nat} (ln : Nat) (hd : d < 4) :
    s.L2Within d (s.l2Evict d ln) ∧ ∀ p ∈ ((s.l2Evict d ln).die d).l2, p.1 ≠ ln := by
  have hi := State.L2Within.dirInval d s d ln none (BitVec.allOnes 32)
  have hin : ∀ p ∈ ((s.l2Evict d ln).die d).l2, p ∈ ((s.dirInval d ln none (BitVec.allOnes 32)).die d).l2 ∧ p.1 ≠ ln := by
    intro p hp
    rw [State.l2Evict, State.die_modDie _ _ hd] at hp
    exact Tbl.mem_erase hp
  exact ⟨hi.trans ⟨rfl, fun p hp => ⟨p.2, (hin p hp).1⟩⟩, fun p hp => (hin p hp).2⟩

/-- Evicting several lines leaves none of them (R61, R108). -/
theorem State.l2Evicts_ends {d : Nat} (hd : d < 4) (l : List Nat) (s : State) :
    s.L2Within d (l.foldl (fun s ln => s.l2Evict d ln) s) ∧
    ∀ p ∈ ((l.foldl (fun s ln => s.l2Evict d ln) s).die d).l2, p.1 ∉ l := by
  induction l generalizing s with
  | nil => exact ⟨.refl d s, fun _ _ => List.not_mem_nil⟩
  | cons ln l ih =>
    obtain ⟨hw, hne⟩ := s.l2Evict_ends ln hd
    obtain ⟨iw, ine⟩ := ih (s.l2Evict d ln)
    refine ⟨hw.trans iw, fun p hp hin => ?_⟩
    rcases List.mem_cons.1 hin with h | h
    · obtain ⟨-, il⟩ := iw
      obtain ⟨x, hx⟩ := il p hp
      exact hne _ hx h
    · exact ine p hp h

/-! ### Patches -/

/-- A patch's entry after a ceiling has changed: an entry like a patch at rest is not kept (R369). -/
def Die.ceilingOn (x : Die) (f : Nat → Nat) (l : Tbl Patch) (p : Nat) : Tbl Patch :=
  let y := x.patch p
  if 0 < y.pinned then l
  else
    let z := { y with below := f y.below }
    if z = ⟨0, [], 0, 0⟩ then l.erase p else l.set p z

theorem Die.ceilingOn_self (x : Die) (f : Nat → Nat) (l : Tbl Patch) {p : Nat} (h : (x.patch p).pinned = 0) :
    (x.ceilingOn f l p).getD p ⟨0, [], 0, 0⟩ = { x.patch p with below := f (x.patch p).below } := by
  unfold Die.ceilingOn Tbl.getD
  dsimp only
  rw [h, if_neg (Nat.lt_irrefl 0)]
  split
  · next hz => rw [Tbl.get?_erase_self, Option.getD_none, ← hz]
  · rw [Tbl.get?_set_self, Option.getD_some]

theorem Die.ceilingOn_ne (x : Die) (f : Nat → Nat) (l : Tbl Patch) {p q : Nat} (h : q ≠ p) :
    (x.ceilingOn f l p).getD q ⟨0, [], 0, 0⟩ = l.getD q ⟨0, [], 0, 0⟩ := by
  unfold Die.ceilingOn Tbl.getD
  dsimp only
  split_ifs
  · rfl
  · rw [Tbl.get?_erase_ne _ h]
  · rw [Tbl.get?_set_ne _ _ h]

/-- Of the patches that are changed one after another, each elastic one stands at its changed ceiling. -/
theorem Die.ceilings_get (x : Die) (f : Nat → Nat) {p : Nat} (h : (x.patch p).pinned = 0) (l : List Nat) (t : Tbl Patch)
    (hp : p ∈ l ∨ t.getD p ⟨0, [], 0, 0⟩ = { x.patch p with below := f (x.patch p).below }) :
    (l.foldl (x.ceilingOn f) t).getD p ⟨0, [], 0, 0⟩ = { x.patch p with below := f (x.patch p).below } := by
  induction l generalizing t with
  | nil => exact hp.resolve_left List.not_mem_nil
  | cons q l ih =>
    refine ih (x.ceilingOn f t q) ?_
    by_cases hq : p = q
    · exact .inr (hq ▸ x.ceilingOn_self f t (hq ▸ h))
    · rcases hp with hp | hp
      · exact .inl ((List.mem_cons.1 hp).resolve_left hq)
      · exact .inr ((x.ceilingOn_ne f t hq).trans hp)

/-- Every elastic patch of the module takes its changed ceiling (R455). -/
theorem State.ceilings_patch (s : State) (f : Nat → Nat) {d p : Nat} (hd : d < 4) (hp : p < 64) (h : ((s.die d).patch p).pinned = 0) :
    ((s.ceilings f).die d).patch p = { (s.die d).patch p with below := f ((s.die d).patch p).below } := by
  have hdie : (s.ceilings f).die d = { s.die d with patches := diePatches.foldl ((s.die d).ceilingOn f) (s.die d).patches } :=
    vget_map _ _ hd
  rw [hdie]
  exact (s.die d).ceilings_get f h _ _ (.inl (List.mem_range.2 hp))

/-- A trip sets its bit, stops the clocks and freezes the recorders; the rest stays (R456). -/
theorem State.trip_ends (s : State) :
    s.trip.mmioAt 0 0x08 = s.mmioAt 0 0x08 ||| BitVec.ofNat 64 (2 ^ 40) ∧ (∀ o, o ≠ 0x08 → s.trip.mmioAt 0 o = s.mmioAt 0 o) ∧
    s.trip.mem = s.mem ∧ s.trip.clocksStopped = true ∧ (∀ d, d < 4 → (s.trip.die d).evFrozen = true) ∧
    ∀ d p, (s.trip.die d).patch p = (s.die d).patch p := by
  generalize hw : s.setMmio 0 0x08 (s.mmioAt 0 0x08 ||| BitVec.ofNat 64 (2 ^ 40)) = w
  have hw8 : w.mmioAt 0 0x08 = s.mmioAt 0 0x08 ||| BitVec.ofNat 64 (2 ^ 40) := by
    rw [← hw, State.mmioAt_setMmio_self]
  have hwo : ∀ o, o ≠ 0x08 → w.mmioAt 0 o = s.mmioAt 0 o := by
    intro o ho
    rw [← hw]
    exact s.mmioAt_setMmio_ne _ (by simpa using ho)
  have hwm : w.mem = s.mem := by
    rw [← hw]
    rfl
  have hwd : w.dies = s.dies := by
    rw [← hw]
    rfl
  have htrip : s.trip = { w.fatal with clocksStopped := true } := by
    rw [State.trip, hw]
  obtain ⟨hm, he⟩ := w.fatal_same
  have hf := fun d (hd : d < 4) => w.fatal_frozen hd
  have hp := fun d p => w.fatal_proj (·.patch p) (fun _ _ _ => rfl) (fun _ => rfl) d
  generalize w.fatal = v at htrip hm he hf hp
  have ho (o : Nat) : s.trip.mmioAt 0 o = w.mmioAt 0 o := by
    rw [htrip]
    exact State.mmioAt_of_mmio hm 0 o
  refine ⟨(ho _).trans hw8, fun o h => (ho o).trans (hwo o h), ?_, ?_, ?_, ?_⟩ <;> rw [htrip]
  · exact he.trans hwm
  · exact hf
  · exact fun d p => (hp d p).trans (congrArg (fun l => (vget l d Die.reset).patch p) hwd)

end Sys2Proof.Machine
end
section
/-! SETTLING O60. -/

namespace Sys2Proof.Proofs

open Sys2Proof Sys2Proof.Machine Sys2Proof.Claims

/-- The line's words, as the poison that an error leaves (R80). -/
theorem mem_poisoned (l : List Nat) (k w : Nat) :
    w ∈ l ++ ((List.range 16).map (k / 128 * 16 + ·)).filter (fun p => !l.contains p) ↔ w ∈ l ∨ w / 16 = k / 128 := by
  rw [List.mem_append, List.mem_filter, List.mem_map]
  constructor
  · rintro (h | ⟨⟨i, hi, rfl⟩, -⟩)
    · exact .inl h
    · exact .inr (by have := List.mem_range.1 hi; omega)
  · intro h
    by_cases hw : w ∈ l
    · exact .inl hw
    · have hk := h.resolve_left hw
      refine .inr ⟨⟨w % 16, List.mem_range.2 (by omega), by omega⟩, ?_⟩
      simpa using hw

/-- A failed second-tier port (R61). -/
theorem t2PortFailure_ends {p : Nat} (hp : p < 8) : Ends (.t2PortFailure p) (fun _ => True) (fun s u =>
    (u.mmioAt 0 0x08 = s.mmioAt 0 0x08 ||| BitVec.ofNat 64 (2 ^ (32 + p) + 2 ^ 4) ∧ u.mem = s.mem) ∧
    ∀ q ∈ (u.die (p / 2)).l2, 128 * q.1 < 0x8000000000 ∨ 0x1E8000000000 ≤ 128 * q.1 ∨ portOf (128 * q.1) ≠ p) := by
  rintro s -
  have hd : p / 2 < 4 := by omega
  generalize hl : ((s.die (p / 2)).l2.filter fun q => onPort p q.1).map (·.1) = l
  obtain ⟨⟨hmm, hin⟩, hout⟩ := State.l2Evicts_ends hd l s
  have hmem := ((State.Kept.refl s).foldl (fun s ln => s.l2Evict (p / 2) ln) l fun _ _ k => k.l2Evict).mem
  generalize hv : l.foldl (fun s ln => s.l2Evict (p / 2) ln) s = v at hmm hin hout hmem
  have h8 : v.mmioAt 0 0x08 = s.mmioAt 0 0x08 := State.mmioAt_of_mmio hmm 0 8
  refine ⟨v.setMmio 0 0x08 (v.mmioAt 0 0x08 ||| BitVec.ofNat 64 (2 ^ (32 + p) + 2 ^ 4)), ?_, ⟨?_, hmem⟩, ?_⟩
  · refine congrArg Host.Outcome.next ((if_pos hp).trans ?_)
    rw [hl, hv]
  · rw [State.mmioAt_setMmio_self, h8]
  · intro q hq
    have hq' : q ∈ (v.die (p / 2)).l2 := hq
    obtain ⟨x, hx⟩ := hin q hq'
    have hno : ¬ onPort p q.1 = true := fun h => hout q hq' (hl ▸ List.mem_map.2 ⟨_, List.mem_filter.2 ⟨hx, h⟩, rfl⟩)
    by_contra hcon
    obtain ⟨h1, h2⟩ := not_or.1 hcon
    obtain ⟨h2, h3⟩ := not_or.1 h2
    refine hno ?_
    rw [onPort, decide_eq_true (Nat.not_lt.1 h1), decide_eq_true (Nat.not_le.1 h2), decide_eq_true (not_not.1 h3)]
    rfl

/-- A lengthened cycle (R369). -/
theorem droopStretch_ends (d p e : Nat) : Ends (.droopStretch d p e)
    (fun s => d < 4 ∧ 1 ≤ e ∧ e ≤ 4 ∧ ((s.die d).patch p).pinned = 0 ∧ ((s.die d).patch p).stretched = false ∧
      ((s.die d).patch p).used + e ≤ 2048)
    (fun s u => (u.die d).patch p = { (s.die d).patch p with
        recent := (0, e) :: ((s.die d).patch p).recent, count := ((s.die d).patch p).count + 1 } ∧
      (u.die d).stretches = (s.die d).stretches + (if e < 3 then 1 else 0) ∧ u.mem = s.mem) := by
  rintro s ⟨hd, h1, h4, hpin, hst, hused⟩
  have hgo : (decide (e = 0) || decide (4 < e) || decide (0 < ((s.die d).patch p).pinned) || ((s.die d).patch p).stretched
      || decide (2048 < ((s.die d).patch p).used + e)) = false := by
    rw [hst, hpin, decide_eq_false (by omega), decide_eq_false (by omega), decide_eq_false (by omega), decide_eq_false (by omega)]
    rfl
  generalize hx : ({ (s.die d).patch p with recent := (0, e) :: ((s.die d).patch p).recent, count := ((s.die d).patch p).count + 1 } : Patch) = x
  generalize hv : (s.modDie d fun y => { y with patches := y.patches.set p x, stretches := y.stretches + b2n (decide (e < 3)) }) = v
  have hdie : v.die d = { s.die d with patches := (s.die d).patches.set p x, stretches := (s.die d).stretches + b2n (decide (e < 3)) } := by
    rw [← hv, State.die_modDie _ _ hd]
  have hp : (v.die d).patch p = x := by
    rw [hdie, Die.patch, Tbl.getD, Tbl.get?_set_self, Option.getD_some]
  have hs : (v.die d).stretches = (s.die d).stretches + (if e < 3 then 1 else 0) := by
    rw [hdie]
    refine congrArg ((s.die d).stretches + ·) ?_
    by_cases h3 : e < 3
    · rw [decide_eq_true h3, if_pos h3]
      rfl
    · rw [decide_eq_false h3, if_neg h3]
      rfl
  have hm : v.mem = s.mem := by
    rw [← hv]
    rfl
  refine ⟨if 3 ≤ e then v.event d 0x09 0 0 0 0 else v, ?_, ?_⟩
  · refine congrArg Host.Outcome.next ?_
    simp only [hgo, Bool.false_eq_true, if_false, hx, hv]
  · split
    · exact ⟨(State.event_proj (·.patch p) (fun _ _ _ => rfl) _ _ _ _ _ _ _ _).trans (hp.trans hx.symm),
        (State.event_proj (·.stretches) (fun _ _ _ => rfl) _ _ _ _ _ _ _ _).trans hs, (State.event_mem _ _ _ _ _ _ _).trans hm⟩
    · exact ⟨hp.trans hx.symm, hs, hm⟩

/-- Power over its limit, or heat over 100 °C (R455, R456). -/
theorem powerCeilingAdjust_ends (watts celsius : Nat) :
    Ends (.powerCeilingAdjust watts celsius) (fun s => (s.mmioAt 0 0x18).toNat < watts ∨ 100 < celsius)
    (fun s u => u.mmioAt 0 0x20 = BitVec.ofNat 64 (watts % 65536) ∧ u.mmioAt 0 0x28 = BitVec.ofNat 64 (celsius % 256) ∧ u.mem = s.mem ∧
      (110 ≤ celsius → u.clocksStopped = true) ∧ ∀ d p, d < 4 → p < 64 → ((s.die d).patch p).pinned = 0 →
        ((u.die d).patch p).below = Nat.min 7 (((s.die d).patch p).below + 1)) := by
  intro s h
  have habove : (decide ((s.mmioAt 0 0x18).toNat < watts) || decide (100 < celsius)) = true := by
    rcases h with h | h
    · rw [decide_eq_true h, Bool.true_or]
    · rw [decide_eq_true h, Bool.or_true]
  generalize hw : (s.setMmio 0 0x20 (BitVec.ofNat 64 (watts % 65536))).setMmio 0 0x28 (BitVec.ofNat 64 (celsius % 256)) = w
  have hw20 : w.mmioAt 0 0x20 = BitVec.ofNat 64 (watts % 65536) := by
    rw [← hw, State.mmioAt_setMmio_ne _ _ (by decide), State.mmioAt_setMmio_self]
  have hw28 : w.mmioAt 0 0x28 = BitVec.ofNat 64 (celsius % 256) := by
    rw [← hw, State.mmioAt_setMmio_self]
  have hwm : w.mem = s.mem := by
    rw [← hw]
    rfl
  have hwd (d : Nat) : w.die d = s.die d := by
    rw [← hw]
    rfl
  generalize hc : w.ceilings (fun b => Nat.min floorSteps (b + 1)) = c
  have hcp : ∀ d p, d < 4 → p < 64 → ((s.die d).patch p).pinned = 0 →
      ((c.die d).patch p).below = Nat.min 7 (((s.die d).patch p).below + 1) := by
    intro d p hd hp hpin
    rw [← hc, w.ceilings_patch _ hd hp (by rw [hwd]; exact hpin), hwd]
    rfl
  have hcm : c.mmio = w.mmio ∧ c.mem = w.mem := by
    rw [← hc]
    exact ⟨rfl, rfl⟩
  obtain ⟨hcmm, hcmem⟩ := hcm
  have hc20 : c.mmioAt 0 0x20 = BitVec.ofNat 64 (watts % 65536) := (State.mmioAt_of_mmio hcmm _ _).trans hw20
  have hc28 : c.mmioAt 0 0x28 = BitVec.ofNat 64 (celsius % 256) := (State.mmioAt_of_mmio hcmm _ _).trans hw28
  generalize hbit : (if (c.dies.toList.any fun x => diePatches.any fun p => decide (0 < (x.patch p).below)) = true
    then c.mmioAt 0 0x08 ||| BitVec.ofNat 64 (2 ^ 13) else c.mmioAt 0 0x08 &&& ~~~BitVec.ofNat 64 (2 ^ 13)) = b
  generalize hf : (if (w.allFloor && (c.setMmio 0 0x08 b).allFloor) = true then (c.setMmio 0 0x08 b).floorMs + 1 else 0) = f
  generalize hv : ({ c.setMmio 0 0x08 b with floorMs := f } : State) = v
  have hv20 : v.mmioAt 0 0x20 = BitVec.ofNat 64 (watts % 65536) := by
    rw [← hv]
    exact (c.mmioAt_setMmio_ne b (by decide)).trans hc20
  have hv28 : v.mmioAt 0 0x28 = BitVec.ofNat 64 (celsius % 256) := by
    rw [← hv]
    exact (c.mmioAt_setMmio_ne b (by decide)).trans hc28
  have hvm : v.mem = s.mem := by
    rw [← hv]
    exact hcmem.trans hwm
  have hvd (d : Nat) : v.die d = c.die d := by
    rw [← hv]
    rfl
  refine ⟨if 110 ≤ celsius then v.trip else v, ?_, ?_⟩
  · refine congrArg Host.Outcome.next ?_
    simp only [habove, hw, hc, hbit, hf, hv, if_true]
  · split
    · next ht =>
      obtain ⟨-, hr, hm, hs, -, hp⟩ := v.trip_ends
      exact ⟨(hr _ (by decide)).trans hv20, (hr _ (by decide)).trans hv28, hm.trans hvm, fun _ => hs,
        fun d p hd hpp hpin => by rw [hp, hvd]; exact hcp d p hd hpp hpin⟩
    · next ht =>
      exact ⟨hv20, hv28, hvm, fun h => absurd h ht, fun d p hd hpp hpin => by rw [hvd]; exact hcp d p hd hpp hpin⟩

/-- A failed die without a region's element: the other dies drop their copies of its lines (R126). -/
theorem dieFailure_ends {d : Nat} (hd : d < 4) : Ends (.dieFailure d)
    (fun s => s.dieDead d = false ∧ ∀ p ∈ s.regions, ∀ t ∈ p.2.elems, dieOf t ≠ d)
    (fun s u => (u.mmioAt 0 0x08 = s.mmioAt 0 0x08 ||| BitVec.ofNat 64 (2 ^ d + 2 ^ 4) ∧ u.mem = s.mem) ∧ u.nodes = s.nodes ∧
      ∀ k, k < 4 → ∀ q ∈ (u.die k).rdc, ∀ sl, s.home 0 (q.1 * 128) = .slice d sl → q.2.valid = 0 ∧ q.2.code.isSome = true) := by
  rintro s ⟨hdead, hreg⟩
  generalize hw : s.setMmio 0 0x08 (s.mmioAt 0 0x08 ||| BitVec.ofNat 64 (2 ^ d + 2 ^ 4)) = w
  have hw8 : w.mmioAt 0 0x08 = s.mmioAt 0 0x08 ||| BitVec.ofNat 64 (2 ^ d + 2 ^ 4) := by
    rw [← hw, State.mmioAt_setMmio_self]
  have hws : w.mem = s.mem ∧ w.nodes = s.nodes ∧ w.regions = s.regions := by
    rw [← hw]
    exact ⟨rfl, rfl, rfl⟩
  have hhome (pa : Nat) : w.home 0 pa = s.home 0 pa := by
    rw [← hw]
    exact s.home_health _ 0 pa
  obtain ⟨hm, hn, hr⟩ := hws
  have hnone : (w.regions.filter fun p => p.2.elems.any fun t => dieOf t = d) = [] := by
    refine List.filter_eq_nil_iff.2 fun p hp hany => ?_
    obtain ⟨t, ht, hdt⟩ := List.any_eq_true.1 hany
    exact hreg p (hr ▸ hp) t ht (of_decide_eq_true hdt)
  have hgo : (decide (4 ≤ d) || s.dieDead d) = false := by
    rw [hdead, decide_eq_false (by omega)]
    rfl
  refine ⟨w.copiesDrop (w.homedOn d), ?_, ⟨hw8, hm⟩, hn, fun k hk q hq sl hsl => ?_⟩
  · refine congrArg Host.Outcome.next ?_
    simp only [hgo, hw, Bool.false_eq_true, if_false]
    exact congrArg (fun l => (List.map (·.1) l).foldl (fun s h => s.lostRegion h) (w.copiesDrop (w.homedOn d))) hnone
  · have hrdc : ((w.copiesDrop (w.homedOn d)).die k).rdc = copiesGone (w.die k).rdc fun l => w.homedOn d (l * 128) :=
      congrArg Die.rdc (vget_map (x := Die.reset) _ _ hk)
    rw [hrdc] at hq
    exact copiesGone_pinned hq (w.homedOn_slice ((hhome _).trans hsl))

/-- Settles O60: ports and dies that fail, the chain tick, errors, clocks, power, and the alarm. -/
theorem failureEvents : Obligations.FailureEvents := by
  dsimp only [Obligations.FailureEvents]
  refine ⟨fun p hp => t2PortFailure_ends hp, ?_, ?_, ?_, ?_, ?_, droopStretch_ends, powerCeilingAdjust_ends, ?_,
    fun d hd => dieFailure_ends hd, ?_⟩
  · rintro p hp s -
    exact ⟨_, congrArg Host.Outcome.next (if_pos hp), State.mmioAt_setMmio_self s 0 0x08 _, rfl⟩
  · rintro l hl s -
    exact ⟨_, congrArg Host.Outcome.next (if_pos hl), State.mmioAt_setMmio_self s 0 0x08 _, rfl⟩
  · intro x
    refine ⟨?_, ?_, ?_⟩
    · rintro s ⟨hl, h0⟩
      refine congrArg Host.Outcome.next ?_
      simp only [hl, h0, Bool.not_false, decide_true, Bool.true_and, decide_eq_true_eq]
    · intro s hl
      refine congrArg Host.Outcome.next ?_
      simp only [hl, Bool.not_true, Bool.false_and, Bool.false_eq_true, if_false]
    · rintro s ⟨hl, h0⟩
      have hne : decide (s.sinceSync = 0) = false := decide_eq_false (Nat.pos_iff_ne_zero.1 h0)
      refine congrArg Host.Outcome.next ?_
      simp only [hne, Bool.and_false, Bool.false_and, Bool.false_eq_true, if_false]
  · rintro s ⟨hl, h10⟩
    generalize hv : ({ s with locked := false } : State).pick 4 = v
    have hvs : v.2.locked = false ∧ v.2.now = s.now ∧ v.2.mem = s.mem := by
      rw [← hv]
      exact ⟨rfl, rfl, rfl⟩
    obtain ⟨hk, hnow, hm⟩ := hvs
    obtain ⟨ek, enow⟩ := v.2.event_clock v.1 0x0A 0 0 0 0
    refine ⟨v.2.event v.1 0x0A 0 0 0 0, ?_, ek.trans hk, enow.trans hnow, (State.event_mem _ _ _ _ _ _ _).trans hm⟩
    refine congrArg Host.Outcome.next ?_
    simp only [hl, decide_eq_true h10, Bool.and_self, if_true, hv]
  · rintro k s -
    exact ⟨_, rfl, rfl, fun w => mem_poisoned s.poison k w⟩
  · rintro s -
    obtain ⟨h8, -, hm, hc, hf, -⟩ := s.trip_ends
    exact ⟨s.trip, rfl, ⟨h8, hm⟩, hc, hf⟩
  · have alarmed (e : Instr) (bit : Nat) (hb : 4 ≤ bit) (he : ∀ s : State, exec e s = .next (s.alarm bit)) :
        Ends e (fun s => (s.mmioAt 0 0x30).toNat % 4 = 0)
          (fun s u => u.mmioAt 0 0x30 = s.mmioAt 0 0x30 ||| BitVec.ofNat 64 (2 ^ bit) ∧ u.mem = s.mem) := by
      intro s h
      obtain ⟨ha, hm, -⟩ := s.alarm_logged hb h
      exact ⟨_, he s, ha, hm⟩
    refine ⟨alarmed (.securityAlarm .tamper) 7 (by decide) fun _ => rfl, alarmed (.securityAlarm .glitch) 6 (by decide) fun _ => rfl,
      alarmed (.securityAlarm .privRefusal) 5 (by decide) fun _ => rfl, ?_, ?_, fun _ _ => rfl⟩
    · rintro s ⟨h2, ha⟩
      obtain ⟨hset, hm, hfails⟩ := State.alarm_logged { s with debugFails := 0 } (bit := 4) (le_refl 4) ha
      exact ⟨_, congrArg Host.Outcome.next (if_pos h2), hset, hfails, hm⟩
    · intro s h
      exact congrArg Host.Outcome.next (if_neg (Nat.not_le.2 h))

end Sys2Proof.Proofs
end
